-- ==== Sys2Proof/Word.lean ====
section
/-! DEFINITION. The word types of the Grenlas architecture and the one table type that State uses. -/

namespace Sys2Proof

/-- An 8-bit byte, the unit of every address space (R21). -/
abbrev Byte := BitVec 8
/-- A 32-bit word: an instruction word, one lane of a vector register. -/
abbrev Word := BitVec 32
/-- A 64-bit double word: a scalar register, a status register. -/
abbrev DWord := BitVec 64
/-- A virtual or physical address while it is a register's content: 52 bits (R21). -/
abbrev Addr := BitVec 52
/-- A hand: one bit for each rank 0 to 1,023 (R135). -/
abbrev Hand := BitVec 1024
/-- A buffer record (R25). -/
abbrev Rec := BitVec 256

/-- A sparse table: key and value pairs with strictly rising keys and no value equal to the
default, so that equal tables are equal lists. -/
abbrev Table (α : Type) := List (Nat × α)

end Sys2Proof
end

