-- ==== Sys2Proof/Config.lean ====
section
/-! DEFINITION. What an implementation fixes and what the spec leaves open: free values (opaque,
no body) and the figures of the Malano G4. -/

namespace Sys2Proof.Config

/-- Free value: which of several enabled moves comes next, by step number (R152-R156, R180: log entry 1). -/
opaque pick : Nat → Nat
/-- Free value: how many cycles a die's clock advances at a step, by step number and die (log entry 1). -/
opaque clockAdvance : Nat → Nat → Nat
/-- Free value: a yes-or-no choice, by step number and use within the step (log entry 1). -/
opaque coin : Nat → Nat → Bool
/-- Free value: a number, by step number and use within the step (log entry 1). -/
opaque choose : Nat → Nat → Nat
/-- Free value: a candidate for a special function's result (R243: log entry 6); arguments are the
SUB of FSPEC, whether the type is .f64, and the operand's bits. -/
opaque special : Nat → Bool → Nat → Nat
/-- Free value: a byte the spec does not state, by step number and use within the step (log entry 7). -/
opaque freeByte : Nat → Nat → Byte
/-- Free value: a double word the spec does not state, by step number and use within the step (log entry 7). -/
opaque freeDWord : Nat → Nat → DWord

/-- The planes of a picture, row-major. -/
structure Av1Planes where
  luma : List Nat
  cb : List Nat
  cr : List Nat
  deriving DecidableEq, Repr, Inhabited

/-- What the AV1 standard makes of a frame of a stream, at operating point 0: the facts that R304 and R306 judge it by (log
entry 8). -/
structure Av1Frame where
  /-- it is shown, itself or by showing an existing frame -/
  shown : Bool
  /-- the frames before it, by their places in the list, that it predicts from or shows -/
  refs : List Nat
  /-- the size its header gives; none when the header is unreadable -/
  size : Option (Nat × Nat)
  profile : Nat
  /-- 10 times the major level plus the minor one -/
  level : Nat
  depth : Nat
  mono : Bool
  /-- chroma subsampled both ways -/
  sub420 : Bool
  /-- it needs a tool outside those of R304 -/
  tool : Bool
  /-- its headers or its tile data break the standard -/
  broken : Bool
  /-- the OBUs end before its last tile -/
  cut : Bool
  /-- how many of the OBUs there are up to and including its last one -/
  obus : Nat
  /-- its samples without and with film grain -/
  plain : Av1Planes
  grain : Av1Planes
  deriving DecidableEq, Repr, Inhabited

/-- Free value: whether bytes that begin like a sequence header OBU are one (R304: log entry 8). -/
opaque seqHeader : List Byte → Bool
/-- Free value: the frames that OBUs describe, each given by its type, its extension byte and its payload, from a sequence header
on, in the order of the stream (R304: log entry 8). -/
opaque av1 : List (Nat × Option Byte × List Byte) → List Av1Frame

/-- Free value: SHAKE256 with an output of the given number of bytes (FIPS 202: log entry 9). -/
opaque shake256 : List Byte → Nat → List Byte
/-- Free value: whether an image's SLH-DSA signature is good (FIPS 205: log entry 9). -/
opaque imageSigned : List Byte → Bool
/-- Free value: an image's version (log entry 9). -/
opaque imageVersion : List Byte → Nat
/-- Free value: the message that answers an SPDM request, given the measurements and the public key, and whether a signature
follows it (SPDM 1.3: log entry 9). -/
opaque spdmBody : List Byte → List Byte → List Byte → List Byte
opaque spdmSigned : List Byte → Bool
/-- Free values: the public identity key, of 64 bytes, and the signature of a message under it, of 29,792 bytes, as numbers (FIPS
205, R386: log entry 9). The key that signs is held in the controller alone. -/
opaque identityKey : Nat
opaque identitySign : List Byte → Nat
/-- Free values: the boot ROM, and the fabric and memory-training configuration, which are measured (R386: log entry 9). -/
opaque bootRom : List Byte
opaque fabricConfig : List Byte

/-- Free values: what a byte of configuration space reads as, and which of its bits the host can write (R377: log entry 79). -/
opaque cfgByte : Nat → Byte
opaque cfgMask : Nat → Byte

/-- The fault gang's launch fields, which are part of the firmware image (R43: log entry 10). -/
structure Firmware where
  code : Addr
  entry : Addr
  argp : Addr
  argsz : Nat
  traph : Addr
  tlw : Nat
  tlbase : Addr
  /-- bytes the controller writes before READY -/
  image : List (Nat × Byte)
  deriving DecidableEq, Repr, Inhabited

/-- Free value: the fault gang for a die that a firmware image holds (R43, R387: log entry 10). -/
opaque firmware : List Byte → Nat → Firmware

/-- Free value: the region entries of the system context's descriptor, which the controller writes at bring-up (R43, R381:
log entry 62). -/
opaque sysRegion : Nat → DWord

/-- Free value: the addresses of the page-frame list descriptors that the zero engines serve, of a firmware image (R44, R45: log
entry 10). -/
opaque freeLists : List Byte → List Nat

/-! Figures of the Malano G4 (R1, R128, R178). -/

def dies : Nat := 8
def coresPerDie : Nat := 32
def slotsPerCore : Nat := 64
def slotsPerQuadrant : Nat := 16
def slotRegsPerQuadrant : Nat := 1024
def osLinesPerCore : Nat := 8192
def accsPerCore : Nat := 16
def tilesPerCore : Nat := 64
def workgroupsPerCore : Nat := 32
def stackBytes : Nat := 0xC00000000
def hbmTop : Nat := 0x6000000000
def farBase : Nat := 0x10000000000
def farTop : Nat := 0x20000000000
def hostBase : Nat := 0x8000000000000
def mailboxEntries : Nat := 16
def faultQueueSize : Nat := 4096
def decodersPerDie : Nat := 4
def deviceLaunchQueueSize : Nat := 4096
def mchunk : DWord := 0x0000002020100404

end Sys2Proof.Config
end

