-- ==== Sys2Proof/Syntax.lean ====
section
/-! DEFINITION. The instructions and events of the Malano G4 as data: one constructor of Instr per row of
spec/opcode_table.json. -/

namespace Sys2Proof

/-- The switch marker SW and the safe point SP of word 0 (R180, R191, R193). -/
structure Marks where
  sp : Bool
  sw : Bool
  deriving DecidableEq, Repr, Inhabited

/-- The fields of an extended form that every extended instruction shares (R183): the container without
L, MAJ and SUB. `e` is field E / IX; `lit` the 64-bit literal. -/
structure Ext where
  m : Marks
  hint : BitVec 3
  ty : BitVec 5
  c : BitVec 8
  b : BitVec 8
  a : BitVec 8
  d : BitVec 8
  imm : BitVec 8
  mod : BitVec 4
  sat : Bool
  rnd : BitVec 3
  g2 : BitVec 4
  g1 : BitVec 4
  e : BitVec 8
  lit : Option DWord
  deriving DecidableEq, Repr, Inhabited

/-- Condition codes of R196. -/
inductive Cond where
  | eq | ne | lt | le | gt | ge | nan | num
  deriving DecidableEq, Repr, Inhabited

/-- Operations of `KOP` (R229). -/
inductive KOp where
  | and | or | xor | andn | not | mov
  deriving DecidableEq, Repr, Inhabited

/-- Modes of `SHFL` (R198, R230). -/
inductive ShflMode where
  | idx | up | down | xor
  deriving DecidableEq, Repr, Inhabited

/-- Operations of `LRED` and `LSCAN` (R198, R231). -/
inductive RedOp where
  | add | min | max | and | or | xor | fadd | fmin | fmax
  deriving DecidableEq, Repr, Inhabited

/-- Operations of `ATOM` and `SRED` (R198, R252). -/
inductive AtomOp where
  | add | min | max | and | or | xor | exch | cas | fadd
  deriving DecidableEq, Repr, Inhabited

/-- Where an uncorrectable error strikes (R68). -/
inductive EccSite where
  /-- a clean cache line: discarded and read again -/
  | cleanLine (line : Nat)
  /-- a dirty cache line or a line of HBM, the far tier or host memory -/
  | memLine (line : Nat)
  /-- an operand-store or stash line of a gang -/
  | osLine (gang line : Nat)
  deriving DecidableEq, Repr, Inhabited

/-- A packet that arrives at an Ethernet port, as far as R382 looks at it: IPv6 carrying UDP. -/
structure Packet where
  /-- where it goes -/
  dest : BitVec 128
  udp : BitVec 16
  checksumOk : Bool
  extHeader : Bool
  payload : List Byte
  /-- where it comes from -/
  src : BitVec 128 := 0#128
  srcUdp : BitVec 16 := 0#16
  deriving DecidableEq, Repr, Inhabited

/-- Network settings made through the Izsil controller (R382): the device's number, its addresses, its UDP port and its MAC
addresses. -/
structure NetConfig where
  dev : BitVec 16
  addrs : List (BitVec 128)
  udp : BitVec 16
  macs : List (BitVec 48)
  deriving DecidableEq, Repr, Inhabited

/-- The instructions (base forms, extended forms, walker words) and the events of the part. -/
inductive Instr where
  -- base forms (R181, R182)
  | nop (m : Marks)
  | bra (m : Marks) (off : BitVec 21)
  | brc (m : Marks) (off : BitVec 17) (inv : Bool) (k : BitVec 3)
  | bhe (m : Marks) (off : BitVec 17) (h : BitVec 4)
  | bhn (m : Marks) (off : BitVec 17) (h : BitVec 4)
  | loop (m : Marks) (off : BitVec 15) (s : BitVec 6)
  | call (m : Marks) (off : BitVec 21)
  | calls (m : Marks) (a : BitVec 6)
  | ret (m : Marks)
  | apply (m : Marks) (off : BitVec 17) (h : BitVec 4) (va : BitVec 8) (nc : BitVec 4) (vb : BitVec 8) (nw : BitVec 4)
  | done (m : Marks)
  | yield (m : Marks)
  | exit (m : Marks)
  | horBase (m : Marks) (d a b : BitVec 4)
  | handBase (m : Marks) (d a b : BitVec 4)
  | handnBase (m : Marks) (d a b : BitVec 4)
  | hxorBase (m : Marks) (d a b : BitVec 4)
  | hnotBase (m : Marks) (d a : BitVec 4)
  | hmovBase (m : Marks) (d a : BitVec 4)
  | hcntBase (m : Marks) (d : BitVec 6) (a : BitVec 4)
  | hfirstBase (m : Marks) (d : BitVec 6) (a : BitVec 4)
  | hmembBase (m : Marks) (d : BitVec 6) (a : BitVec 4) (b : BitVec 6) (lit : Option DWord)
  | hposBase (m : Marks) (d : BitVec 6) (a : BitVec 4) (b : BitVec 6) (lit : Option DWord)
  | iaddBase (m : Marks) (d a b : BitVec 7) (lit : Option DWord)
  | isubBase (m : Marks) (d a b : BitVec 7) (lit : Option DWord)
  | andBase (m : Marks) (d a b : BitVec 7) (lit : Option DWord)
  | orBase (m : Marks) (d a b : BitVec 7) (lit : Option DWord)
  | xorBase (m : Marks) (d a b : BitVec 7) (lit : Option DWord)
  | shlBase (m : Marks) (d a : BitVec 7) (n : BitVec 5) (lit : Option DWord)
  | shrBase (m : Marks) (d a : BitVec 7) (n : BitVec 5) (lit : Option DWord)
  | movBase (m : Marks) (d a : BitVec 7)
  | saddBase (m : Marks) (d a b : BitVec 6) (lit : Option DWord)
  | smovBase (m : Marks) (d a : BitVec 6)
  | faddBase (m : Marks) (d a b : BitVec 7) (lit : Option DWord)
  | fmulBase (m : Marks) (d a b : BitVec 7) (lit : Option DWord)
  -- extended forms (R183)
  | htest (c : Cond) (m : Bool) (x : Ext)
  | htesti (c : Cond) (m : Bool) (x : Ext)
  | hbit (m : Bool) (x : Ext)
  | horExt (x : Ext)
  | handExt (x : Ext)
  | handnExt (x : Ext)
  | hxorExt (x : Ext)
  | hnotExt (x : Ext)
  | hmovExt (x : Ext)
  | hcntExt (x : Ext)
  | hfirstExt (x : Ext)
  | hmembExt (x : Ext)
  | hposExt (x : Ext)
  | hpick (x : Ext)
  | hrange (x : Ext)
  | hfence (x : Ext)
  | iaddExt (x : Ext)
  | isubExt (x : Ext)
  | imul (x : Ext)
  | imulh (x : Ext)
  | imad (x : Ext)
  | imin (x : Ext)
  | imax (x : Ext)
  | iabs (x : Ext)
  | iset (c : Cond) (x : Ext)
  | sel (x : Ext)
  | andExt (x : Ext)
  | orExt (x : Ext)
  | xorExt (x : Ext)
  | lut3 (x : Ext)
  | shlExt (x : Ext)
  | shrExt (x : Ext)
  | sar (x : Ext)
  | fshl (x : Ext)
  | fshr (x : Ext)
  | popc (x : Ext)
  | clz (x : Ext)
  | brev (x : Ext)
  | bfe (x : Ext)
  | bfi (x : Ext)
  | movExt (x : Ext)
  | movi (x : Ext)
  | saddExt (x : Ext)
  | ssub (x : Ext)
  | smul (x : Ext)
  | sand (x : Ext)
  | sor (x : Ext)
  | sxor (x : Ext)
  | sshl (x : Ext)
  | sshr (x : Ext)
  | smin (x : Ext)
  | smax (x : Ext)
  | smovExt (x : Ext)
  | smovi (x : Ext)
  | scmp (c : Cond) (x : Ext)
  | kop (o : KOp) (x : Ext)
  | shfl (o : ShflMode) (x : Ext)
  | lred (o : RedOp) (x : Ext)
  | lscan (excl : Bool) (o : RedOp) (x : Ext)
  | vbcast (x : Ext)
  | vlane (x : Ext)
  | topki (k : BitVec 2) (x : Ext)
  | faddExt (x : Ext)
  | fsub (x : Ext)
  | fmulExt (x : Ext)
  | ffma (x : Ext)
  | fmin (x : Ext)
  | fmax (x : Ext)
  | fset (c : Cond) (x : Ext)
  | fclass (x : Ext)
  | frnd (x : Ext)
  | fdiv (x : Ext)
  | fsqrt (x : Ext)
  | frcp (x : Ext)
  | frsq (x : Ext)
  | fexp2 (x : Ext)
  | flog2 (x : Ext)
  | fsin (x : Ext)
  | fcos (x : Ext)
  | ftanh (x : Ext)
  | cvt (src : BitVec 5) (x : Ext)
  | bfpq (x : Ext)
  | bfpx (x : Ext)
  | fmtw (x : Ext)
  | ld (x : Ext)
  | st (x : Ext)
  | lds (x : Ext)
  | sts (x : Ext)
  | atom (o : AtomOp) (x : Ext)
  | sred (o : AtomOp) (x : Ext)
  | pref (x : Ext)
  | ldo (x : Ext)
  | sto (x : Ext)
  | ldc (x : Ext)
  | stp (x : Ext)
  | smap (x : Ext)
  | sflush (x : Ext)
  | sinv (x : Ext)
  | bld (x : Ext)
  | bset (x : Ext)
  | hld (x : Ext)
  | hst (x : Ext)
  | fence (order : BitVec 2) (scope : BitVec 3) (x : Ext)
  | waitc (x : Ext)
  | sbinit (x : Ext)
  | sbexp (x : Ext)
  | sbarv (x : Ext)
  | sbwait (x : Ext)
  | barHand (x : Ext)
  | barGang (x : Ext)
  | tdef (x : Ext)
  | trel (x : Ext)
  | tstat (x : Ext)
  | mma (x : Ext)
  | mzero (x : Ext)
  | mload (x : Ext)
  | mdrain (x : Ext)
  | cpy (x : Ext)
  | cpo (x : Ext)
  | gath (x : Ext)
  | qpost (x : Ext)
  | qpop (x : Ext)
  | launch (x : Ext)
  | cmpl (x : Ext)
  | rtsend (x : Ext)
  | rtflush (x : Ext)
  | rtrecv (x : Ext)
  | rtrel (x : Ext)
  | spill (x : Ext)
  | fill (x : Ext)
  | tokw (x : Ext)
  | vdec (x : Ext)
  | vdstat (x : Ext)
  | auct (x : Ext)
  | aust (x : Ext)
  | fork (x : Ext)
  | grwd (x : Ext)
  | gbar (x : Ext)
  | gcancel (x : Ext)
  | gstat (x : Ext)
  | walk (x : Ext)
  | mfs (x : Ext)
  | mts (x : Ext)
  | trap (x : Ext)
  | bkpt (x : Ext)
  | dmbx (x : Ext)
  | eret (x : Ext)
  | fpop (x : Ext)
  | fres (x : Ext)
  | tlbi (x : Ext)
  | biasf (x : Ext)
  | ctxs (x : Ext)
  | ctxl (x : Ext)
  -- format walker words (R331, R332)
  | wend
  | wldi (yd : BitVec 4) (imm : BitVec 14)
  | wadd (yd ya yb : BitVec 4) (imm : BitVec 14)
  | wsub (yd ya yb : BitVec 4)
  | wand (yd ya yb : BitVec 4)
  | wshr (yd ya : BitVec 4) (n : BitVec 5)
  | wcmp (ya yb : BitVec 4)
  | wbr (t : BitVec 8)
  | wbz (ya : BitVec 4) (t : BitVec 8)
  | wblt (t : BitVec 8)
  | wld (yd ya : BitVec 4) (src : BitVec 4)
  | wbmn (yd ya yb : BitVec 4) (src : BitVec 3)
  | wrun (yd yb ya : BitVec 4) (src : BitVec 3)
  | wemit (ya yb : BitVec 4)
  | wrow (ya : BitVec 4)
  | wpush (ya : BitVec 4)
  | wpop (yd : BitVec 4)
  | wsync
  -- events of the part: no encoding (spec/95)
  | packFormation (gang apply : Nat)
  | applyJoin (gang apply : Nat)
  | handWriteCommit (die core : Nat)
  | stageBarrierCredit (cmd : Nat)
  | matrixCommandPerform (cmd : Nat)
  | copyCommandStart (cmd : Nat)
  | enginePortionComplete (cmd : Nat)
  | commandRetire (cmd : Nat)
  | completionPostHeld (n : Nat)
  | sendListAppend (cmd : Nat)
  | frameFormation (asid route : Nat)
  | tokenIdle (cmd : Nat)
  | decodeStart (cmd : Nat)
  | decodeFrame (cmd : Nat)
  | auctionStart (cmd : Nat)
  | auctionRound (cmd : Nat)
  | auctionSave (cmd : Nat)
  | auctionRestore (cmd : Nat)
  | groupRewardPerform (n : Nat)
  | groupCancelPerform (n : Nat)
  | cancelRedirect (gang agent : Nat)
  | groupDeadline (grp : Nat)
  | groupAgeWrite (grp : Nat)
  | groupAgePause (grp : Nat)
  | walkStart (cmd : Nat)
  | walkerStepLimit (cmd : Nat)
  | walkStop (cmd : Nat)
  | loadDataReturn (gang agent n : Nat)
  | pageTableWalk (gang : Nat) (va : Addr)
  | missRetry (gang agent n : Nat)
  | writePerformAtHome (die n : Nat)
  | memorySideAtomic (n : Nat)
  | stashRemoteRequest (gang line : Nat) (write : Bool)
  | directoryEvict (line : Nat)
  | dupCollapse (die n : Nat)
  | dupCollapseAck (page die : Nat)
  | biasFlipComplete (frame : Nat)
  | hostCxlMemAccess (addr len : Nat) (bytes : Option (List Byte))
  | eccUncorrectable (loc : EccSite)
  | eccCorrected (code : Nat)
  | frameRelease (desc : Nat)
  | launchUnitVisit
  | gangHandout (grid : Nat)
  | stealMessage (grid die : Nat)
  | gangPlace (die : Nat)
  | engineCommandAccept (die core : Nat)
  | longWaitThreshold (gang : Nat)
  | gangSave (gang : Nat)
  | watchedCondition (gang : Nat)
  | rendezvousTimeout (gang n : Nat)
  | gangComplete (gang : Nat)
  | gangKill (gang : Nat)
  | preemptRequest (w : DWord)
  | preemptTimeout (gang : Nat)
  | resumeRequest (w : DWord)
  | dataFrame (port : Nat) (frame : List Byte)
  | ackFrame (port : Nat) (frame : List Byte)
  | returnFrame (port : Nat) (frame : List Byte)
  | resendTimeout (port peer : Nat)
  | ethernetPacketReceive (port : Nat) (packet : Packet)
  | recoveryGo (w : DWord)
  | launchQueueControl (q : Nat) (w : DWord)
  | launchDoorbell (q : Nat) (w : DWord)
  | hostQueuePost (w : DWord)
  | routeSync (w : DWord)
  | contextSync (w : DWord)
  | tableBaseWrite (off : Nat) (w : DWord)
  | registerWrite (off : Nat) (w : DWord)
  | powerOn
  | moduleReset
  | firmwareUpdate (addr len : Nat)
  | spdmRequest (req : List Byte)
  | fencedCoreMapUpdate (map : List Nat)
  | izsilConfigSet (cfg : NetConfig)
  | powerLimit
  | thermalThrottle (die : Nat)
  | thermalStop (code : Nat)
  | powerLoss (midWrite : Bool)
  | hostWriteToHostMemory (addr : Nat) (bytes : List Byte)
  deriving DecidableEq, Repr

end Sys2Proof
end

