-- ==== Sys2Proof/Machine/State.lean ====
section
/-! DEFINITION. The state of the machine as plain data: everything the spec names, what the model adds to it (the
current agent, the free-value counter, identity counters, the list of outside inputs), the faults and refusals, and the
state right after reset. -/

namespace Sys2Proof.Machine

/-! ### Agents -/

/-- A register write that has issued and not yet landed (R191). -/
inductive RegWrite where
  | v (reg lane : Nat) (val : Word)
  | s (n : Nat) (val : DWord)
  | k (n : Nat) (val : Bool)
  | i (n : Nat) (val : BitVec 8)
  | b (n : Nat) (val : Rec)
  deriving DecidableEq, Repr, Inhabited

/-- How the bytes a load read become register contents (R250). -/
inductive LoadFmt where
  /-- zero- or sign-extended from w bytes into v (w ≤ 4) or a w pair (w = 8) or a quad (w = 16) -/
  | lane (reg lane : Nat) (w : Nat) (signed : Bool)
  /-- into s, zero- or sign-extended -/
  | scalar (n : Nat) (w : Nat) (signed : Bool)
  /-- 32 bytes into a buffer register -/
  | buf (n : Nat)
  /-- 128 bytes into a hand register (R261) -/
  | hand (h : Nat)
  deriving DecidableEq, Repr, Inhabited

/-- A single-copy atomic read, of at most 8 bytes (R77): where it reads them, their homes, and the bytes once it has
taken its value. -/
structure LoadPart where
  addrs : List Nat
  home : List Nat
  got : Option (List Byte) := none
  deriving DecidableEq, Repr, Inhabited

/-- What a load reads for one lane or record: its parts in order, and where their bytes go. -/
structure LoadReq where
  parts : List LoadPart
  fmt : LoadFmt
  /-- the bytes are operand-store bytes of the grant -/
  os : Bool
  /-- HINT (R64) -/
  hint : Nat := 0
  deriving DecidableEq, Repr, Inhabited

/-- One outstanding result of an agent (R191): an identity, the writes of one instruction, its reads, and how many of
its line requests are rejected (R65). -/
structure Out where
  n : Nat := 0
  writes : List RegWrite
  reads : List LoadReq := []
  /-- the atomic whose old values it waits for, and the keys of the registers it will write -/
  atom : Option Nat := none
  keys : List Nat := []
  /-- the hand register that a pending `HLD` writes when its data returns -/
  hand : Option Nat := none
  rejected : Nat := 0
  deriving DecidableEq, Repr, Inhabited

/-- What a release orders before later writes (R83, R97): a waiting write, or an access that has not taken effect, by its
number, with the release's scope (0 wg to 4 sys) and the place of the agent that released. -/
structure Need where
  w : Nat
  scope : Nat
  die : Nat
  core : Nat
  gang : Nat
  wg : Nat
  deriving DecidableEq, Repr, Inhabited

/-- A value taken ahead of the load that may use it (R80): whether of the operand store, the bytes' addresses, the bytes. -/
structure Ahead where
  os : Bool
  addrs : List Nat
  bytes : List Byte
  deriving DecidableEq, Repr, Inhabited

/-- A trap: cause, lane, DETAIL where the spec numbers the checks (otherwise free: log entry 14). -/
structure TrapInfo where
  cause : Nat
  lane : Nat := 0
  detail : Option Nat := none
  deriving DecidableEq, Repr, Inhabited

/-- A trap, as data: the cause with lane and detail, the step of R199, CODE, LEN and the address tepc receives. -/
structure Trap where
  info : TrapInfo
  step : Nat
  code : Nat
  len : Nat
  tepc : Addr
  deriving DecidableEq, Repr, Inhabited

/-- A spill token (R302): idle, busy, or idle and holding a trap (R390: cause). -/
inductive Token where
  | idle
  | busy
  | trap (cause : Nat)
  deriving DecidableEq, Repr, Inhabited

/-- What an agent is doing (R154, R355). -/
inductive AgentSt where
  | runnable
  /-- at a long wait (R159), with the die's clock beyond which it exceeds the threshold -/
  | waiting (due : Nat)
  /-- a donor of an apply -/
  | donor (apply : Nat)
  /-- at a page fault, holding that token (R40) -/
  | parked (token : Nat)
  | ended
  deriving DecidableEq, Repr, Inhabited

/-- The sibling a warp is bound to (R321): group address (physical and virtual), index, and the `QPOP` that bound it. -/
structure Binding where
  group : Nat
  sibling : Nat
  qpop : Addr
  deriving DecidableEq, Repr, Inhabited

/-- A warp or a pack with its registers. v is keyed by 64 * register + lane; s, b by number. -/
structure Agent where
  id : Nat
  isPack : Bool
  wg : Nat
  /-- warp index; for a pack that of the donor whose place it holds (R138) -/
  place : Nat
  depth : Nat
  /-- the apply a pack belongs to -/
  apply : Option Nat
  /-- sr.pk: lanes of a pack, G of a warp (R15) -/
  pk : Nat
  /-- the rank of each lane below pk -/
  members : List Nat
  pc : Addr
  st : AgentSt
  /-- stopped at a safe point for a save (R160) -/
  stopped : Bool
  v : Table Word
  s : Table DWord
  /-- k0 to k7; k0 is always true -/
  k : BitVec 8
  i : BitVec 32
  b : Table Rec
  fflags : BitVec 5
  trap : DWord
  tepc : DWord
  tinfo : DWord
  /-- return stack: count and the top entries, top first (R202) -/
  rcnt : Nat
  rcache : List DWord
  tokens : List Token
  outs : List Out
  bind : Option Binding
  /-- a cancel has notified the warp (R323) -/
  notice : Bool
  /-- the next instruction issues once without breakpoint and watch checks (R360) -/
  skipDbg : Bool
  /-- posts already made by the `FORK` at pc (R320), or parts already done by another stalled instruction -/
  prog : Nat
  /-- the waiting writes of other agents it has observed (R96), and the releases it has read but not acquired (R84) -/
  obs : List Nat := []
  heard : List Need := []
  /-- what its later writes wait for since its last releases: waiting writes, and accesses not yet performed (R83) -/
  before : List Need := []
  after : List Need := []
  /-- the scope of an acquiring `ATOM` whose fence is still to come (R83, R252) -/
  acq : Option Nat := none
  /-- the die's clock since which it has been ready, how many issue cycles of its quadrant it has stood ready through, and
  the clock and the address of its last issue (R154, R155) -/
  ready : Option Nat := none
  stood : Nat := 0
  issued : Option (Nat × Addr) := none
  /-- what an `MMA` or `MLOAD` that waits for its tiles has read and voted on: the word and the rows (R277, R274) -/
  voted : Option (Word × List Nat) := none
  /-- the stage barrier whose phase it waits for at an `SBWAIT` (R159) -/
  sbw : Option Nat := none
  /-- values it has taken ahead of loads to come (R80) -/
  ahead : List Ahead := []
  /-- its store through a window has set off a collapse (R72, R104) -/
  dupWait : Bool := false
  /-- a trap it takes once its results have returned, and whether it is a debug event (R350, R361) -/
  pend : Option (Trap × Bool) := none
  /-- the die's clock before which it is not ready, after a `YIELD` (R204) -/
  idle : Nat := 0
  deriving DecidableEq, Repr, Inhabited

/-! ### Gangs -/

/-- A role entry of a launch block (R131). -/
structure RoleEnt where
  role : Nat
  grp : Nat
  g : Nat
  vregs : Nat
  osl : Nat
  entry : Nat
  warps : Nat
  deriving DecidableEq, Repr, Inhabited

/-- The fields of a launch block (R130). -/
structure Block where
  ngang : Nat
  nwg : Nat
  preempt : Bool
  prio : Nat
  persist : Bool
  spread : Bool
  tlw : Nat
  ntile : Nat
  nacc : Nat
  code : Addr
  map : Addr
  argp : Addr
  argsz : Nat
  cmpla : Addr
  traph : Addr
  tlbase : Addr
  qbind : Nat
  roles : List RoleEnt
  deriving DecidableEq, Repr, Inhabited

/-- A workgroup: its role, width, warps, vector budget and hands h0 to h15 (h1 is the reader's, not stored). -/
structure Wg where
  role : Nat
  g : Nat
  warps : Nat
  vregs : Nat
  hands : List Hand
  deriving DecidableEq, Repr, Inhabited

/-- Which rendezvous an instance is (R207, R266). -/
inductive RdvKind where
  | apply
  | bar
  | barGang
  deriving DecidableEq, Repr, Inhabited

/-- An open rendezvous or barrier instance. -/
structure Rdv where
  n : Nat
  kind : RdvKind
  wg : Nat
  /-- the enclosing apply -/
  inside : Option Nat
  addr : Addr
  hand : Nat
  /-- with h1, the party whose own instance this is -/
  self : Option Nat
  arrived : List Nat
  /-- the apply's ranges and block: carry-in first and count, write-back first and count, entry -/
  va : Nat
  nc : Nat
  vb : Nat
  nw : Nat
  block : Addr
  /-- the die's clock beyond which an apply's instance is discarded (R208) -/
  due : Nat
  deriving DecidableEq, Repr, Inhabited

/-- An apply whose rendezvous has completed (R136, R209). -/
structure ApplyRec where
  n : Nat
  wg : Nat
  inside : Option Nat
  depth : Nat
  donors : List Nat
  members : List Nat
  packs : List Nat
  /-- packs have formed -/
  formed : Bool
  va : Nat
  nc : Nat
  vb : Nat
  nw : Nat
  block : Addr
  /-- where the donors resume -/
  ret : Addr
  /-- fflags of the ended packs, and the write-backs they leave: rank, write-back index, value -/
  flags : BitVec 5
  back : List (Nat × Nat × Word)
  /-- the waiting writes that its donors, and later its ended packs, pass on (R84) -/
  obs : List Nat := []
  deriving DecidableEq, Repr, Inhabited

/-- A write to the operand store that waits: an identity, its agent and bytes, the accesses and waiting writes that a
release orders before it (R83), and the instruction it is a part of, where that covers whole lines (R68). -/
structure OsWrite where
  n : Nat
  agent : Nat
  bytes : List (Nat × Byte)
  after : List Need := []
  need : List Need := []
  grp : Nat := 0
  deriving DecidableEq, Repr, Inhabited

/-- A window line that is not INVALID (R55): operand-store line of the grant, physical line, DIRTY or CLEAN, and the line
it was filled from (R71). -/
structure WLine where
  line : Nat
  pa : Nat
  dirty : Bool
  rd : Nat := pa
  deriving DecidableEq, Repr, Inhabited

/-- A stash window entry (R53). -/
structure StashEnt where
  v : Bool
  gva : Addr
  lines : Nat
  base : Nat
  deriving DecidableEq, Repr, Inhabited

/-- Why a gang is to stop and be saved (R160, R352, R361). -/
inductive StopCause where
  | longWait
  | pageFault
  | preempt
  /-- `CTXS` of an agent: the frame, who asked (gang, agent) and the predicate it gets -/
  | ctxs (frame : Nat) (gang agent k : Nat)
  /-- a debug event of an agent, by its identity -/
  | halt (agent cause : Nat)
  deriving DecidableEq, Repr, Inhabited

/-- A pending stop: its cause, the clock beyond which a pre-emption has failed (R352), whether a watched condition has
come true, the pool frame it has taken, and the clock since which it waits for one (R161). -/
structure Stop where
  cause : StopCause
  due : Nat
  hit : Bool
  frame : Option Nat := none
  since : Option Nat := none
  deriving DecidableEq, Repr, Inhabited

/-- A gang and all it holds on its core. -/
structure Gang where
  uid : Nat
  grid : Nat
  /-- sr.gang -/
  idx : Nat
  asid : Nat
  blk : Block
  die : Nat
  core : Nat
  /-- gang index on the core (R342) -/
  slot : Nat
  /-- core slots, one per slot of the gang, in order of workgroup and warp (R127) -/
  slots : List Nat
  /-- first operand-store line of the grant, and its lines -/
  osFirst : Nat
  osLines : Nat
  /-- core accumulator and tile-entry numbers granted, ascending (R128) -/
  accNos : List Nat
  tileNos : List Nat
  agents : List Agent
  wgs : List Wg
  /-- sr.raf0-15; `ident` when the regions are those of the system context, one to one (R43) -/
  raf : List DWord
  ident : Bool
  /-- regions whose entry an `MTS` of the gang has written since its placement -/
  rafOwn : List Nat
  /-- operand-store bytes, full lines, poisoned lines, all by grant address -/
  os : Table Byte
  /-- operand-store writes that have issued and not performed (R80) -/
  osq : List OsWrite
  /-- the releases behind bytes of the operand store that still order waiting writes (R84) -/
  osTags : List (Nat × List Need) := []
  full : List Nat
  /-- the waiting writes released through a full line or a stage barrier: by its line; by 2^20 + twice its address + the
  phase; and by 2^22 + its address for arrivals carried over (R84) -/
  rels : List (Nat × List Nat) := []
  osPoison : List Nat
  stash : List StashEnt
  /-- window lines that are not INVALID (R55) -/
  wlines : List WLine
  tiles : Table DWord
  /-- tiles whose fill has completed since TDEF (R61) -/
  filled : List Nat
  /-- accumulator words, keyed by 4096 * m + word -/
  accs : Table Word
  rdvs : List Rdv
  applies : List ApplyRec
  dbg : DWord
  wp : List DWord
  /-- SELF: the frame it was last loaded from by `CTXL` (R354) -/
  self : Option Nat
  stop : Option Stop
  /-- killed: nothing of it runs any more, and the kill of R357 follows -/
  dying : Bool
  deriving DecidableEq, Repr, Inhabited

/-! ### Hand writes, stores, translations -/

/-- A hand write that has issued and not committed (R89, R90). -/
structure HandWrite where
  die : Nat
  core : Nat
  gang : Nat
  wg : Nat
  agent : Nat
  /-- slot and warp index, for writes of one cycle -/
  slot : Nat
  place : Nat
  reg : Nat
  mask : Hand
  val : Hand
  issued : Nat
  deriving DecidableEq, Repr, Inhabited

/-- A read-duplicated page (R71): home physical base, size, and the PTE's address. -/
structure DupPage where
  base : Nat
  size : Nat
  pte : Nat
  deriving DecidableEq, Repr, Inhabited

/-- The window line a store goes through (R55): gang, operand-store line, the global address the line stands for. -/
structure WinRef where
  gang : Nat
  line : Nat
  gva : Nat
  deriving DecidableEq, Repr, Inhabited

/-- A write waiting in its die's outbound store queue (R94). -/
structure PendWrite where
  n : Nat
  die : Nat
  core : Nat
  gang : Nat
  agent : Nat
  /-- bytes with their physical addresses -/
  bytes : List (Nat × Byte)
  /-- the cores of the die that see it already -/
  seen : List Nat
  /-- the page whose collapse it waits for (R72) -/
  dup : Option DupPage
  /-- the write of an atomic in an L1, next in coherence order after what it read (R78, R102) -/
  excl : Bool
  /-- a write that became a collapse's: no agent reads it before it performs (R104) -/
  held : Bool := dup.isSome
  /-- the waiting writes and the accesses of its agent that a release orders before it (R83, R97) -/
  need : List Need := []
  after : List Need := []
  /-- the instruction it is a part of, where that covers its whole line (R68) -/
  grp : Nat := 0
  win : Option WinRef := none
  /-- HINT (R64) -/
  hint : Nat := 0
  deriving DecidableEq, Repr, Inhabited

/-- A lane of an atomic: physical address, operands C and E, first destination register, lane. -/
structure AtomLane where
  pa : Nat
  c : Nat
  e : Nat
  reg : Nat
  lane : Nat
  deriving DecidableEq, Repr, Inhabited

/-- An `ATOM` that has issued and not performed (R101): at the memory side, or in its core's L1. -/
structure PendAtom where
  n : Nat
  die : Nat
  core : Nat
  gang : Nat
  agent : Nat
  op : AtomOp
  ty : Nat
  w : Nat
  memSide : Bool
  lanes : List AtomLane
  dups : List DupPage
  /-- a write of a collapse: it performs at the home (R104) -/
  held : Bool := !dups.isEmpty
  need : List Need := []
  after : List Need := []
  /-- HINT (R64) -/
  hint : Nat := 0
  deriving DecidableEq, Repr, Inhabited

/-- A cached translation (R39). -/
structure TlbEnt where
  die : Nat
  /-- none: the die's shared TLB -/
  core : Option Nat
  asid : Nat
  va : Nat
  bits : Nat
  pa : Nat
  w : Bool
  x : Bool
  dup : Option DupPage
  deriving DecidableEq, Repr, Inhabited

/-- A directory entry (R63): the line, MOESI state (0 invalid, 1 shared, 2 exclusive, 3 owned, 4 modified), owner
cluster, sharer clusters. -/
structure DirEnt where
  line : Nat
  moesi : Nat
  owner : Nat
  sharers : BitVec 64
  deriving DecidableEq, Repr, Inhabited

/-- A collapse of a read-duplicated page (R72): the dies that have acknowledged. -/
structure Collapse where
  page : DupPage
  acked : List Nat
  deriving DecidableEq, Repr, Inhabited

/-- A 4 KiB frame in a bias flip (R74): to host bias or not, and who waits: a `BIASF` agent (gang, agent) or the host. -/
structure Flip where
  frame : Nat
  toHost : Bool
  asker : Option (Nat × Nat)
  deriving DecidableEq, Repr, Inhabited

/-- A fault record's four words (R42). -/
structure FaultRec where
  w0 : DWord
  w1 : DWord
  w2 : DWord
  w3 : DWord
  deriving DecidableEq, Repr, Inhabited

/-! ### Engine commands -/

/-- Counter classes (R112); `tok` is the spill engine, which no counter counts. -/
inductive CmdClass where
  | cp | mx | rd | rt | au | fw | vd | tok
  deriving DecidableEq, Repr, Inhabited

/-- A move that an engine has still to make (R110): n bits into a destination byte at bit `db`, of memory or of the operand
store, from bit `sb` of a byte of the other; with `val` they have been read already, or are a constant. -/
structure Move where
  toMem : Bool
  dst : Nat
  db : Nat
  n : Nat
  src : Nat
  sb : Nat
  val : Option Nat
  deriving DecidableEq, Repr, Inhabited

/-- A portion of a command's work (R117): the moves into one destination line, the operand-store line whose bit they
set, the bytes to credit, and whether all 128 bytes of the line are written (R68). -/
structure Portion where
  line : Option Nat
  moves : List Move
  credit : Nat
  whole : Bool
  /-- the first byte of the memory line that a copy to memory writes, and whether it has begun to write it -/
  mem : Option Nat
  begun : Bool
  /-- the writes to memory it has issued, until they have performed (R112) -/
  ids : List Nat := []
  deriving DecidableEq, Repr, Inhabited

/-- The kinds of copy (R281). -/
inductive CopyOp where
  | cpy | cpo | gath
  deriving DecidableEq, Repr, Inhabited

/-- A contribution of an `SRED` (R70). -/
structure RedItem where
  op : AtomOp
  ty : Nat
  pa : Nat
  val : Nat
  va : Nat := 0
  deriving DecidableEq, Repr, Inhabited

/-- An entry of a send list (R292, R294). -/
structure RouteEnt where
  row : Nat
  w2 : Word
  w3 : Word
  deriving DecidableEq, Repr, Inhabited

/-- The auction's working state (R313). Row status is none, or holding a column with a bid. -/
inductive RowSt where
  | unassigned
  | holding (j : Nat) (bid : Word)
  | nofeas
  | ceil
  deriving DecidableEq, Repr, Inhabited

structure AuctSt where
  eps : Word
  rounds : Nat
  phases : Nat
  caps : List Nat
  prices : List Word
  rows : List RowSt
  /-- CODE and REASON of R315: 0 while the command runs -/
  code : Nat
  reason : Nat
  deriving DecidableEq, Repr, Inhabited

/-- The walker's state (R330, R334). -/
structure WalkSt where
  prog : List Word
  fmt : List DWord
  y : List Word
  row : Word
  eq : Bool
  lt : Bool
  stack : List Word
  staged : Table Byte
  next : Nat
  steps : Nat
  /-- line number and bytes of each array's read buffer -/
  bufs : List (Nat × Nat × List Byte)
  /-- the line that is being fetched: its array, its address, and the granules read so far (R110) -/
  fetched : Option (Nat × Nat × List (Nat × List Byte)) := none
  /-- the bit that a `WBMN` under way has come to (R334) -/
  scan : Option Nat := none
  stat : Nat
  /-- the walk has ended, with this REASON (0 DONE) at this index -/
  ended : Option (Nat × Nat)
  /-- the staged tile is on its way to the operand store -/
  written : Bool
  deriving DecidableEq, Repr, Inhabited

/-- The decoder's state (R303-R307). -/
structure DecSt where
  src : Nat
  srcLen : Nat
  maxf : Nat
  grain : Bool
  stat : Nat
  outMax : Nat
  nfr : Nat
  offs : Nat
  consumed : Nat
  /-- a frame whose status entry is still to be written, with that entry -/
  pending : Option Nat
  /-- END of R307 -/
  ended : Nat
  deriving DecidableEq, Repr, Inhabited

/-- What a command does. Records are named by the virtual addresses of their 8-byte words (none: NONE or OUT). -/
inductive CmdBody where
  /-- a copy: the tile or the raw address, its record; for a `GATH` the lanes' rows (none: zeros) and the swizzle -/
  | copy (op : CopyOp) (tile : Option Nat) (raw : Nat) (desc : Option (List Nat)) (rows : List (Nat × Option Nat)) (swz : Nat)
  | mzero (f64 : Bool) (m : Nat)
  | mma (m ta tb : Nat) (ty : Nat) (word : Word) (rows : List Nat)
  | mload (m t : Nat) (word : Word)
  /-- with AMAX, the bytes of the amax word and the largest magnitude found -/
  | mdrain (t m : Nat) (word : Word) (amax : Option (List Nat × Nat))
  | sred (items : List RedItem)
  | rtsend (entries : List RouteEnt)
  /-- whether it has taken its entries -/
  | rtflush (taken : Bool)
  | auct (regs : List DWord) (st : Option AuctSt)
  | walk (tile : Nat) (desc : Option (List Nat)) (st : Option WalkSt)
  | vdec (bf16 : Bool) (dst : Nat) (desc : Option (List Nat)) (st : Option DecSt)
  /-- token; each lane's thread-local address (none: not accessed) and value -/
  | spill (tok : Nat) (words : List (Nat × Option Nat × Word))
  | fill (reg tok : Nat) (words : List (Nat × Option Nat))
  /-- a fill that has read its words and still writes them -/
  | fillv (reg tok : Nat) (vals : List (Nat × Word))
  deriving DecidableEq, Repr, Inhabited

/-- Whose engine access a page fault holds (R41, R132, R141, R143, R294, R295, R321, R379). -/
inductive Holder where
  | cmd (id : Nat)
  | launch (q : Nat)
  | map (grid : Nat)
  | agent (gang agent : Nat)
  | post (n : Nat)
  | host
  | list (asid route : Nat)
  | ring (x : Nat)
  | msg (n : Nat)
  | exit (gang : Nat)
  deriving DecidableEq, Repr, Inhabited

/-- An engine access held by a page fault: its token, the address, and whether `FRES` gave it PROT (R41, R390). -/
structure Hold where
  holder : Holder
  token : Nat
  asid : Nat
  va : Nat
  denied : Bool
  deriving DecidableEq, Repr, Inhabited

/-- How far a command is. -/
inductive CmdPhase where
  /-- issued, in the core's or the engine's queue -/
  | queued
  | running
  /-- everything it does is done; it waits to retire in order -/
  | complete
  /-- an auction saved with its gang (R316), or a walk or decode stopped with it (R353) -/
  | saved
  deriving DecidableEq, Repr, Inhabited

/-- An engine command that has not retired. -/
structure Cmd where
  id : Nat
  cls : CmdClass
  gang : Nat
  asid : Nat
  die : Nat
  core : Nat
  /-- the counter it counts in: workgroup and place (R114) -/
  wg : Nat
  place : Nat
  /-- the issuing agent -/
  agent : Nat
  pc : Addr
  /-- when the core accepted it (R156), by an order number; and the stage barrier it names -/
  accepted : Option Nat
  bar : Option Nat
  body : CmdBody
  /-- the bytes that its issuer has written since the issue, by their homes, as they stood just before (R119) -/
  old : List (Nat × Byte) := []
  phase : CmdPhase
  /-- portions still to complete, and credits still to make -/
  portions : List Portion
  credits : List Nat
  /-- for the tile it fills or drains, it is complete (R61) -/
  tileDone : Bool
  /-- bytes left unwritten or a failure: the fill is no completed fill (R61) -/
  failed : Bool
  flags : BitVec 5
  /-- HINT (R64) -/
  hint : Nat := 0
  /-- the clock since which its warp was ready at the offer, and the clock of the offer (R156) -/
  since : Nat := 0
  offer : Nat := 0
  /-- the agent whose counter holds it, which gets its flags (R114, R173) -/
  home : Nat := agent
  /-- what a matrix command has read of its tiles ahead of the rest (R278) -/
  early : Option (Table Byte) := none
  /-- what its issuer did before it: waiting writes, and accesses not yet performed (R109) -/
  need : List Need := []
  after : List Need := []
  /-- what it has read so far, before it can go on: address, bytes, and their number (R33) -/
  got : List (Nat × Nat × Nat) := []
  /-- the writes to memory that it has still to make, in stages: address and bytes of each granule (R110) -/
  todo : List (List (Nat × List Byte)) := []
  deriving DecidableEq, Repr, Inhabited

/-! ### Queues, groups, routing -/

/-- A `QPOP` waiting on a queue of a context: 0-255 user queues, 256 + h shard h (R158). -/
structure Waiter where
  asid : Nat
  queue : Nat
  gang : Nat
  agent : Nat
  deriving DecidableEq, Repr, Inhabited

/-- A post that a completion record's decrement makes (R143, R291), until it is made: the physical bytes of the record,
its QSEL and QENT, the shard of the poster's own cluster (R140), and, once found out, a copy of the entry and the queue it
goes to: 0-255 user, 256 + h shard h, 1000 the device launch queue. -/
structure HeldPost where
  n : Nat
  asid : Nat
  record : List Nat
  shard : Nat
  qsel : Nat
  qent : Nat
  entry : Option (List Byte)
  target : Option Nat := none
  deriving DecidableEq, Repr, Inhabited

/-- A reward or a cancel on its way to its group unit (R322, R323). -/
structure GrpMsg where
  n : Nat
  asid : Nat
  /-- physical address of the record -/
  pa : Nat
  gva : Nat
  sibling : Nat
  /-- the reward; none for a cancel -/
  reward : Option Word
  gang : Nat
  agent : Nat
  /-- what its agent did before it: waiting writes, and accesses not yet performed (R109) -/
  need : List Need := []
  after : List Need := []
  deriving DecidableEq, Repr, Inhabited

/-- The home die's counter of an open group (R324). -/
structure GrpAge where
  pa : Nat
  asid : Nat
  home : Nat
  deadline : Nat
  age : Nat
  paused : Bool
  /-- the home die's clock when the age was last brought up to date, and at the last write of AGE -/
  changed : Nat
  wrote : Nat
  /-- its clock since which a change of residency is not reported yet -/
  since : Option Nat := none
  deriving DecidableEq, Repr, Inhabited

/-- Where a packet goes: address, UDP port and traffic class (R383). -/
structure NetDest where
  addr : BitVec 128
  udp : BitVec 16
  tc : BitVec 8
  deriving DecidableEq, Repr, Inhabited

/-- A packet that the device sends on a port (R382): source and destination MAC, IPv6 and UDP fields, and the payload. The
destination's MAC is the network's (log entry 78). -/
structure OutPacket where
  port : Nat
  mac : BitVec 48
  src : BitVec 128
  dst : BitVec 128
  tc : BitVec 8
  hop : Nat
  srcUdp : BitVec 16
  dstUdp : BitVec 16
  checksum : Nat
  payload : List Byte
  deriving DecidableEq, Repr, Inhabited

/-- A counter of a list descriptor that still has to advance (R294): context, route, the counter's offset, by how much; and
the entry that its value gives a place in the kitty ring. -/
structure ListWork where
  asid : Nat
  route : Nat
  off : Nat
  n : Nat
  ent : Option Nat
  deriving DecidableEq, Repr, Inhabited

/-- Rows that are being written into a ring before they are accepted (R110, R298): the ring, whose they are, and the granules
written, by their virtual addresses. -/
structure Filling where
  ring : Nat
  key : Nat
  done : List (Nat × List Byte)
  deriving DecidableEq, Repr, Inhabited

/-- One direction pair of a link: a port and a peer (R297). -/
structure Link where
  port : Nat
  peer : Nat
  txSeq : Nat
  rxSeq : Nat
  /-- unacknowledged frames, oldest first: SEQ, where they go, their bytes -/
  unacked : List (Nat × NetDest × List Byte)
  advanced : Nat
  resends : Nat
  down : Bool
  /-- the last ACK frame sent -/
  ack : List Byte
  /-- rings that returned rows to the peer with no FREE > 0 reported since -/
  owed : List Nat
  /-- where the peer's last packet came from -/
  dest : NetDest := default
  deriving DecidableEq, Repr, Inhabited

/-- An entry that has left its own place: the list it was appended to, the route it is bound for, the flush it belongs to,
an order number; in the kitty of its list, or to go into the next frame formed on the list of its route, or in a frame. -/
structure Parked where
  n : Nat
  asid : Nat
  home : Nat
  bound : Nat
  ent : RouteEnt
  flush : Option Nat
  kitty : Bool
  /-- where it is stored, or to be stored: in the kitty ring of its list, or in the ring of the list of its route (R294) -/
  slot : Option (Bool × Nat) := none
  stored : Bool := false
  deriving DecidableEq, Repr, Inhabited

/-- A frame formed and not yet known to be accepted: the entries it carries, for the sender (R299). -/
structure Sent where
  dev : Nat
  port : Nat
  seq : Nat
  queue : Nat
  ents : List Parked
  deriving DecidableEq, Repr, Inhabited

/-- An entry in its own list's ring: context, route, append number, an order number, the warp that owns it (gang,
workgroup, place), and the `RTFLUSH` that has taken it. -/
structure Appended where
  n : Nat
  asid : Nat
  route : Nat
  k : Nat
  gang : Nat
  wg : Nat
  place : Nat
  flush : Option Nat
  deriving DecidableEq, Repr, Inhabited

/-- What the engine keeps of a row accepted into a ring and not yet popped: queue, slot, sending device, TAG and LEN. -/
structure RingRow where
  queue : Nat
  slot : Nat
  src : Nat
  tag : Word
  deriving DecidableEq, Repr, Inhabited

/-! ### Launching -/

/-- A grid whose gangs are not all placed (R149-R151). -/
structure Grid where
  n : Nat
  asid : Nat
  blk : Block
  /-- PLACE: next gang to hand out -/
  next : Nat
  /-- SPREAD: per die the unstarted chunks, the victim pointer, and how many victims in a row gave nothing -/
  chunks : List (List Nat)
  victim : List Nat
  dry : List Nat
  /-- placement has ended early (R149) -/
  ended : Bool
  /-- chunks that a distributor has got from another one, with the order number at which they reached it (R152) -/
  came : List (Nat × Nat) := []
  deriving DecidableEq, Repr, Inhabited

/-- A gang waiting at a distributor (R152). -/
structure WaitGang where
  die : Nat
  grid : Nat
  idx : Nat
  /-- a returning gang: its frame -/
  frame : Option Nat
  prio : Nat
  order : Nat
  passed : Nat
  deriving DecidableEq, Repr, Inhabited

/-- Why a saved gang is out, and whether it may come back. -/
inductive OutCause where
  | longWait | pageFault | preempt | ctxs | halt
  deriving DecidableEq, Repr, Inhabited

/-- What the device wrote into a context frame (R354, R355): the gang as it stood, and the bytes a program may not
change. -/
structure Saved where
  frame : Nat
  gang : Gang
  cause : OutCause
  /-- from a pool frame of that die -/
  pool : Option Nat
  /-- handed to a distributor already -/
  returning : Bool
  /-- bytes 0x000-0x007 and 0x040-0xFFF of the header, and the identity fields of the agent records, as the save wrote them
  (R355) -/
  hdr : List Byte
  deriving DecidableEq, Repr, Inhabited

/-! ### Host side -/

/-- A host launch queue's registers (R378). -/
structure LaunchQ where
  base : Addr
  en : Bool
  err : Bool
  asid : BitVec 16
  lsz : BitVec 5
  tail : Word
  head : Word
  deriving DecidableEq, Repr, Inhabited

/-- BAR0 (R378). -/
structure Bar0 where
  ready : Bool
  recov : Bool
  dev : BitVec 16
  rlen : Word
  lq : List LaunchQ
  preAsid : BitVec 16
  busy : Bool
  uqaddr : Addr
  done : Bool
  full : Bool
  uq : BitVec 9
  uqAsid : BitVec 16
  sbusy : Bool
  rtbase : Addr
  eqtbase : Addr
  ctxtbase : Addr
  cbusy : Bool
  deriving DecidableEq, Repr, Inhabited

/-- An entry of the Izsil event log (R385). -/
structure LogEnt where
  seq : Nat
  ms : Nat
  source : Nat
  code : Nat
  severity : Nat
  data : List DWord
  hash : List Byte
  deriving DecidableEq, Repr, Inhabited

/-- The Izsil controller (R384-R388). -/
structure Izsil where
  log : List LogEnt
  logSeq : Nat
  logHash : List Byte
  ms : Nat
  image : List Byte
  imageOk : Bool
  version : Nat
  rollback : Nat
  /-- the fenced-core map in flash -/
  fenced : List Nat
  net : NetConfig
  /-- the corrected soft errors counted -/
  soft : Nat
  /-- the last SPDM answer -/
  answer : List Byte
  deriving DecidableEq, Repr, Inhabited

/-- An MSI-X vector (R377): its address and data as the host has set them, whether it is masked, whether it is pending. -/
structure MsiVec where
  addr : DWord
  data : Word
  masked : Bool
  pending : Bool
  deriving DecidableEq, Repr, Inhabited

/-- An HDM decoder (R377): the host address range that stands for a tier, where it is on. -/
structure HdmDec where
  on : Bool
  base : Nat
  size : Nat
  deriving DecidableEq, Repr, Inhabited

/-- The host link (R377): the bytes its last read has returned, the configuration space as written, the MSI-X vectors, and the
HDM decoders of HBM and of the far tier. -/
structure HostLink where
  answer : List Byte
  cfg : Table Byte
  msix : List MsiVec
  hdm : List HdmDec
  deriving DecidableEq, Repr, Inhabited

/-- Power phases (R387, R389). -/
inductive Phase where
  | booting
  | ready
  | recovery
  | stopped
  deriving DecidableEq, Repr, Inhabited

/-- Per-die registers and queues. -/
structure Die where
  clk : Nat
  /-- arithmetic clock lowered (R384) -/
  slow : Bool
  swapthr : DWord
  rdvto : DWord
  pretime : DWord
  faultQ : List FaultRec
  /-- `faultGang` killed: the die services no fault (R43) -/
  noService : Bool
  deriving DecidableEq, Repr, Inhabited

/-- A core's debug mailbox (R341). -/
structure Mailbox where
  die : Nat
  core : Nat
  entries : List DWord
  overflow : Bool
  deriving DecidableEq, Repr, Inhabited

/-- An event from outside the part: the host's link, the network, the sensors and the management controller. -/
inductive Input where
  /-- an 8-byte write to BAR0 (R378) -/
  | write (off : Nat) (w : DWord)
  /-- an access to BAR0 of any size: a read, or a write of bytes (R378) -/
  | bar0 (off len : Nat) (bytes : Option (List Byte))
  /-- a CXL.mem access of the host, by device address: a read, or a write of bytes -/
  | cxlMem (addr len : Nat) (bytes : Option (List Byte))
  /-- the same by host address, before the HDM decoders (R377) -/
  | hostMem (addr len : Nat) (bytes : Option (List Byte))
  /-- a CXL.io access to configuration space; the setting of an MSI-X vector and of an HDM decoder (R377) -/
  | cfgSpace (off len : Nat) (bytes : Option (List Byte))
  | msix (n : Nat) (addr : DWord) (data : Word) (masked : Bool)
  | hdm (tier : Nat) (dec : HdmDec)
  /-- a store of the host to its own memory -/
  | hostStore (addr : Nat) (bytes : List Byte)
  | packet (port : Nat) (p : Packet)
  /-- an exchange frame that has passed the checks of R382 -/
  | frame (port : Nat) (bytes : List Byte)
  | eccUncorrectable (loc : EccSite)
  | eccCorrected (code : Nat)
  | moduleReset
  | firmwareUpdate (addr len : Nat)
  | spdm (req : List Byte)
  | fencedMap (map : List Nat)
  | config (cfg : NetConfig)
  | powerLimit
  | throttle (die : Nat)
  | thermalStop (code : Nat)
  | powerLoss (midWrite : Bool)
  deriving DecidableEq, Repr, Inhabited

/-- An issue of an instruction: where, in which cycle, and of which slot and address (R127, R155). -/
structure Issue where
  die : Nat
  core : Nat
  quad : Nat
  clk : Nat
  slot : Nat
  pc : Addr
  deriving DecidableEq, Repr, Inhabited

/-- Who the current step's instruction belongs to: the model's own field. -/
inductive Cur where
  | none
  | agent (gang agent : Nat)
  | walker (cmd : Nat)
  deriving DecidableEq, Repr, Inhabited

/-- The state of the machine. -/
structure State where
  phase : Phase
  cur : Cur
  /-- how many free values have been used: the model's own field (log entry 1) -/
  tick : Nat
  /-- the next unused identity number -/
  fresh : Nat
  /-- outside events to come, oldest first: the model's own field -/
  inputs : List Input
  dies : List Die
  ioClk : List Nat
  gangs : List Gang
  saved : List Saved
  cmds : List Cmd
  holds : List Hold
  handQ : List HandWrite
  mem : Table Byte
  memPoison : List Nat
  hostBias : List Nat
  flips : List Flip
  outq : List PendWrite
  atoms : List PendAtom
  tlb : List TlbEnt
  dir : List DirEnt
  /-- lines in each L1, with the core's number in the device, the first to be evicted first (R62, R64) -/
  l1 : List (Nat × Nat)
  /-- lines in the L2 slices, the first to be evicted first, and whether kept with priority (R62, R64) -/
  l2 : List (Nat × Bool)
  /-- the releases behind the performed bytes of memory that still order waiting writes (R84) -/
  tags : List (Nat × List Need)
  /-- what `.sc` fences have left for the ones after them in their order (R98) -/
  scs : List Need
  /-- the instructions issued in the current cycles, and the cores that have accepted a command: die, core and cycle (R155,
  R156) -/
  issues : List Issue
  accepts : List (Nat × Nat × Nat)
  collapses : List Collapse
  mail : List Mailbox
  routeV : List Nat
  fenced : List Nat
  waiters : List Waiter
  heldPosts : List HeldPost
  grpMsgs : List GrpMsg
  groups : List GrpAge
  links : List Link
  sent : List Sent
  /-- packets given to the ports, oldest first (R382) -/
  wire : List OutPacket
  listWork : List ListWork
  filling : List Filling
  parked : List Parked
  appended : List Appended
  /-- the granules read so far of rows of a frame that is being formed: the entry's order number, the granule, its bytes,
  none of them where the read has failed (R110, R123) -/
  forming : List (Nat × Nat × List Byte)
  ringRows : List RingRow
  /-- ring slots freed ahead of the free point -/
  freed : List (Nat × Nat)
  /-- rows ever accepted into each ring (R295) -/
  ringNext : List (Nat × Nat)
  /-- the kitty served last for each ring -/
  served : List (Nat × Nat)
  dlq : List (Nat × Nat)
  /-- the words read so far of the block that stands at the head of a launch queue (R132) -/
  reading : List (Nat × List Nat)
  lastVisit : Nat
  grids : List Grid
  waitGangs : List WaitGang
  /-- contexts in which nothing more is placed (R350) -/
  deadCtx : List Nat
  /-- addresses of the list descriptors whose release rings the zero engines serve (R45) -/
  freeLists : List Nat
  bar0 : Bar0
  host : HostLink
  izsil : Izsil
  deriving DecidableEq, Repr, Inhabited

/-- Why a step stops with no next state. -/
inductive Fault where
  /-- an instruction of an agent is given to exec with no current agent: raised by every instruction meaning; no step
  does so. Safe. -/
  | noAgent
  /-- a walker word is given to exec with no current walk: raised by the walker meanings; no step does so. Safe. -/
  | noWalk
  deriving DecidableEq, Repr, Inhabited

/-- Why an instruction has no meaning. -/
inductive Refusal where
  /-- raised by an arm of exec whose instruction has no meaning yet. Safe. -/
  | notModelled (mnemonic : String)
  deriving DecidableEq, Repr, Inhabited

/-! ### Reset -/

/-- A launch queue after reset (R378). -/
def LaunchQ.reset : LaunchQ := ⟨0#52, false, false, 0#16, 0#5, 0#32, 0#32⟩

/-- BAR0 after reset (R378): every field 0 but DONE. -/
def Bar0.reset : Bar0 where
  ready := false
  recov := false
  dev := 0#16
  rlen := 0#32
  lq := List.replicate 16 LaunchQ.reset
  preAsid := 0#16
  busy := false
  uqaddr := 0#52
  done := true
  full := false
  uq := 0#9
  uqAsid := 0#16
  sbusy := false
  rtbase := 0#52
  eqtbase := 0#52
  ctxtbase := 0#52
  cbusy := false

/-- A die after reset (R3, R340). -/
def Die.reset : Die := ⟨0, false, 65536#64, 1000000#64, 100000#64, [], false⟩

/-- The host link after reset: every vector masked, every decoder off (log entry 79). -/
def HostLink.reset : HostLink where
  answer := []
  cfg := []
  msix := List.replicate 64 ⟨0#64, 0#32, true, false⟩
  hdm := List.replicate 2 ⟨false, 0, 0⟩

/-- The controller after reset; flash contents by log entry 4. -/
def Izsil.reset : Izsil where
  log := []
  logSeq := 0
  logHash := List.replicate 32 0#8
  ms := 0
  image := []
  imageOk := true
  version := 0
  rollback := 0
  fenced := []
  net := ⟨0#16, [], 0#16, []⟩
  soft := 0
  answer := []

/-- The machine right after reset: nothing is up, BAR0 and the die registers hold their reset values, and no gang
exists; the next step is the bring-up of R389. -/
def State.reset : State where
  phase := .booting
  cur := .none
  tick := 0
  fresh := 1
  inputs := []
  dies := List.replicate 8 Die.reset
  ioClk := [0, 0]
  gangs := []
  saved := []
  cmds := []
  holds := []
  handQ := []
  mem := []
  memPoison := []
  hostBias := []
  flips := []
  outq := []
  atoms := []
  tlb := []
  dir := []
  l1 := []
  l2 := []
  tags := []
  scs := []
  issues := []
  accepts := []
  collapses := []
  mail := []
  routeV := []
  fenced := []
  waiters := []
  heldPosts := []
  grpMsgs := []
  groups := []
  links := []
  sent := []
  wire := []
  listWork := []
  filling := []
  parked := []
  appended := []
  forming := []
  ringRows := []
  freed := []
  ringNext := []
  served := []
  dlq := []
  reading := []
  lastVisit := 16
  grids := []
  waitGangs := []
  deadCtx := []
  freeLists := []
  bar0 := Bar0.reset
  host := HostLink.reset
  izsil := Izsil.reset

end Sys2Proof.Machine
end

