-- ==== Sys2Proof/Machine/Bits.lean ====
section
/-! DEFINITION. Sparse tables in canonical form, little-endian bytes, bit fields and sign extension. -/

namespace Sys2Proof

/-- The value at a key: d where nothing is listed. -/
def Table.look {α : Type} (d : α) : Table α → Nat → α
  | [], _ => d
  | (k', v) :: r, k => if k = k' then v else Table.look d r k

/-- The table with a value at a key, in canonical form. -/
def Table.put {α : Type} [DecidableEq α] (d : α) : Table α → Nat → α → Table α
  | [], k, v => if v = d then [] else [(k, v)]
  | (k', v') :: r, k, v =>
    if k < k' then (if v = d then (k', v') :: r else (k, v) :: (k', v') :: r)
    else if k = k' then (if v = d then r else (k, v) :: r)
    else (k', v') :: Table.put d r k v

/-- Strictly rising keys from a bound, and no value equal to the default. -/
def Table.wfFrom {α : Type} [DecidableEq α] (d : α) : Nat → Table α → Bool
  | _, [] => true
  | lo, (k, v) :: r => decide (lo ≤ k) && decide (v ≠ d) && Table.wfFrom d (k + 1) r

/-- The canonical form. -/
def Table.wf {α : Type} [DecidableEq α] (d : α) (t : Table α) : Bool := Table.wfFrom d 0 t

/-- Several writes in order: a later one wins. -/
def Table.putAll {α : Type} [DecidableEq α] (d : α) (t : Table α) : List (Nat × α) → Table α
  | [] => t
  | (k, v) :: r => Table.putAll d (Table.put d t k v) r

/-- The entries whose key passes a test. -/
def Table.keep {α : Type} (t : Table α) (p : Nat → Bool) : Table α := t.filter fun e => p e.1

namespace Machine

/-- Bits [lo + n - 1 : lo] of a number. -/
def fld (w lo n : Nat) : Nat := w / 2 ^ lo % 2 ^ n

/-- One bit of a number. -/
def bitN (w i : Nat) : Bool := w / 2 ^ i % 2 == 1

/-- The number of little-endian bytes (R5). -/
def ofBytes : List Byte → Nat
  | [] => 0
  | b :: r => b.toNat + 256 * ofBytes r

/-- n little-endian bytes of a number. -/
def toBytes (n w : Nat) : List Byte := (List.range n).map fun j => BitVec.ofNat 8 (w / 256 ^ j)

/-- A number of `bits` bits read as two's complement. -/
def sInt (bits w : Nat) : Int := if w < 2 ^ (bits - 1) then (w : Int) else (w : Int) - (2 ^ bits : Nat)

/-- The low `bits` bits of an integer. -/
def wrapI (bits : Nat) (x : Int) : Nat := (x % (2 ^ bits : Nat)).toNat

/-- An integer clamped into a range. -/
def clampI (lo hi x : Int) : Int := if x < lo then lo else if hi < x then hi else x

/-- Sign extension of an 8-bit immediate. -/
def simm8 (b : Byte) : Int := b.toInt

/-- Ceiling division. -/
def cdiv (a b : Nat) : Nat := (a + b - 1) / b

/-- A number aligned down. -/
def alignDown (a n : Nat) : Nat := a - a % n

/-- The 128-byte line of an address. -/
def lineOf (a : Nat) : Nat := a / 128

/-- Insertion of a number into a rising list without repeats. -/
def insNat (n : Nat) : List Nat → List Nat
  | [] => [n]
  | m :: r => if n < m then n :: m :: r else if n = m then m :: r else m :: insNat n r

/-- A rising list without repeats of the numbers of a list. -/
def sortNat (l : List Nat) : List Nat := l.foldl (fun acc n => insNat n acc) []

/-- Removal of a number. -/
def delNat (n : Nat) (l : List Nat) : List Nat := l.filter fun m => m != n

/-- The list with an element replaced. -/
def setAt {α : Type} (l : List α) (n : Nat) (v : α) : List α := l.set n v

/-- The first k elements in order of the list that pass, with their positions. -/
def enumFrom {α : Type} : Nat → List α → List (Nat × α)
  | _, [] => []
  | n, a :: r => (n, a) :: enumFrom (n + 1) r

/-- Update of the elements that pass a test. -/
def updWhere {α : Type} (p : α → Bool) (f : α → α) (l : List α) : List α := l.map fun a => if p a then f a else a

/-- The ranks in a hand, ascending (R135). -/
def handRanks (h : Hand) : List Nat := (List.range 1024).filter fun r => h.getLsbD r

/-- The hand of a list of ranks. -/
def handOf (rs : List Nat) : Hand := rs.foldl (fun h r => h ||| (1#1024 <<< r)) 0#1024

/-- The number of ranks in a hand below n. -/
def handCount (h : Hand) (n : Nat) : Nat := ((List.range n).filter fun r => h.getLsbD r).length

/-- The union of the places where a list of options has values, none if one is none. -/
def allSome {α : Type} : List (Option α) → Option (List α)
  | [] => some []
  | none :: _ => none
  | some a :: r => (allSome r).map (a :: ·)

/-- Reversal of the low n bits. -/
def revBits (n w : Nat) : Nat := ((List.range n).map fun i => if bitN w i then 2 ^ (n - 1 - i) else 0).sum

/-- The number of 1 bits among the low n. -/
def popBits (n w : Nat) : Nat := ((List.range n).filter fun i => bitN w i).length

/-- Zero bits above the highest 1 bit, of n. -/
def clzBits (n w : Nat) : Nat := if w = 0 then n else n - 1 - Nat.log2 w

end Machine

end Sys2Proof
end

