-- ==== Sys2Proof/Machine/Flags.lean ====
section
/-! DEFINITION. The sticky flags (R171), the formats (R163, R164), and the one rounding every result goes through, with
the flags it sets (R169, R170). -/

namespace Sys2Proof.Machine

/-- Flag words: bits 4 to 0 are NV, DZ, OF, UF, NX (R171). -/
abbrev FFlags := BitVec 5
def NV : FFlags := 16#5
def DZ : FFlags := 8#5
def OF : FFlags := 4#5
def UF : FFlags := 2#5
def NX : FFlags := 1#5
def noFlag : FFlags := 0#5

/-- A floating-point format (R163): exponent and fraction widths; `e4m3` has no infinity. -/
structure Fmt where
  eb : Nat
  fb : Nat
  noInf : Bool
  /-- every NaN is quiet (R164) -/
  quiet : Bool
  deriving DecidableEq, Repr

def Fmt.f64 : Fmt := ⟨11, 52, false, false⟩
def Fmt.f32 : Fmt := ⟨8, 23, false, false⟩
def Fmt.f16 : Fmt := ⟨5, 10, false, false⟩
def Fmt.bf16 : Fmt := ⟨8, 7, false, false⟩
def Fmt.e4m3 : Fmt := ⟨4, 3, true, true⟩
def Fmt.e5m2 : Fmt := ⟨5, 2, false, true⟩

/-- The format of a TYPE code, the element format of packed ones. -/
def fmtOf (ty : Nat) : Fmt :=
  match ty with
  | 8 => .f16
  | 9 => .bf16
  | 11 => .f64
  | 12 => .e4m3
  | 13 => .e5m2
  | 18 => .f16
  | 19 => .bf16
  | _ => .f32

def Fmt.bias (f : Fmt) : Int := (2 ^ (f.eb - 1) : Nat) - 1
def Fmt.width (f : Fmt) : Nat := 1 + f.eb + f.fb
/-- Exponent of the least significant bit of a subnormal. -/
def Fmt.qmin (f : Fmt) : Int := 1 - f.bias - f.fb
/-- The magnitude bits of the largest finite value. -/
def Fmt.maxMag (f : Fmt) : Nat := if f.noInf then 2 ^ (f.eb + f.fb) - 2 else (2 ^ f.eb - 1) * 2 ^ f.fb - 1
/-- The magnitude bits of infinity, where there is one. -/
def Fmt.infMag (f : Fmt) : Nat := (2 ^ f.eb - 1) * 2 ^ f.fb
/-- The canonical NaN (R163). -/
def Fmt.nan (f : Fmt) : Nat := if f.noInf then 2 ^ (f.eb + f.fb) - 1 else f.infMag + 2 ^ (f.fb - 1)
def Fmt.signed (f : Fmt) (neg : Bool) (mag : Nat) : Nat := if neg then 2 ^ (f.eb + f.fb) + mag else mag

/-- The value of an encoding: NaN (signalling or not), infinity, or (-1)^neg * m * 2^e exactly. -/
inductive FVal where
  | nan (sig : Bool)
  | inf (neg : Bool)
  | fin (neg : Bool) (m : Nat) (e : Int)
  deriving DecidableEq, Repr

/-- R164: the value of the low bits of a register in a format. -/
def Fmt.read (f : Fmt) (bits : Nat) : FVal :=
  let b := bits % 2 ^ f.width
  let neg := bitN b (f.eb + f.fb)
  let ex := fld b f.fb f.eb
  let fr := fld b 0 f.fb
  if f.noInf && ex == 2 ^ f.eb - 1 && fr == 2 ^ f.fb - 1 then .nan false
  else if !f.noInf && ex == 2 ^ f.eb - 1 then
    (if fr == 0 then .inf neg else .nan (!f.quiet && !bitN fr (f.fb - 1)))
  else if ex == 0 then .fin neg fr f.qmin
  else .fin neg (2 ^ f.fb + fr) (f.qmin + ex - 1)

/-- R169: whether a magnitude with a remainder rounds up; `half` compares the remainder with one half. -/
def roundUp (mode : Nat) (neg odd : Bool) (half : Ordering) (exact : Bool) : Bool :=
  match mode with
  | 0 => match half with
    | .gt => true
    | .eq => odd
    | .lt => false
  | 1 => false
  | 2 => !exact && !neg
  | _ => !exact && neg

/-- m * 2^e rounded to a multiple of 2^q: the multiple, and whether it is exact. -/
def roundTo (mode : Nat) (neg : Bool) (m : Nat) (e q : Int) : Nat × Bool :=
  if q ≤ e then (m * 2 ^ (e - q).toNat, true)
  else
    let sh := (q - e).toNat
    let t := m / 2 ^ sh
    let r := m % 2 ^ sh
    let exact := r == 0
    let half := compare (2 * r) (2 ^ sh)
    (if roundUp mode neg (t % 2 == 1) half exact then t + 1 else t, exact)

/-- The result of an infinity in the format: the canonical NaN for E4M3 (R170). -/
def Fmt.infBits (f : Fmt) (neg : Bool) : Nat := if f.noInf then f.nan else f.signed neg f.infMag

/-- R170: what a finite value beyond the largest finite value becomes. -/
def Fmt.overflow (f : Fmt) (mode : Nat) (sat neg : Bool) : Nat :=
  let toInf := match mode with
    | 0 => true
    | 1 => false
    | 2 => !neg
    | _ => neg
  if toInf && !sat then f.infBits neg else f.signed neg f.maxMag

/-- The bits of a magnitude m * 2^q with q at or above the format's least exponent. -/
def Fmt.pack (f : Fmt) (m : Nat) (q : Int) : Nat :=
  if m < 2 ^ f.fb then m else (q - f.qmin + 1).toNat * 2 ^ f.fb + (m - 2 ^ f.fb)

/-- R169, R170: a nonzero exact value rounded once into a format: the bits and the flags. -/
def Fmt.round (f : Fmt) (mode : Nat) (sat neg : Bool) (m : Nat) (e : Int) : Nat × FFlags :=
  if m = 0 then (f.signed neg 0, noFlag)
  else
    let top : Int := (Nat.log2 m : Int) + e
    let q := max (top - f.fb) f.qmin
    let (t, exact) := roundTo mode neg m e q
    let mag := f.pack t q
    if mag > f.maxMag then (f.overflow mode sat neg, OF ||| NX)
    else
      let (u, _) := roundTo mode neg m e (top - f.fb)
      -- tininess after rounding: with an unbounded exponent the rounded value is below the smallest normal
      let tiny := decide ((Nat.log2 u : Int) + (top - f.fb) < f.qmin + f.fb)
      (f.signed neg mag, if exact then noFlag else if tiny then UF ||| NX else NX)

/-- R169: the sign of an exact sum that cancels to zero, by rounding mode. -/
def zeroSign (mode : Nat) : Bool := mode == 3

end Sys2Proof.Machine
end

