-- ==== Sys2Proof/Machine/Float.lean ====
section
/-! DEFINITION. Floating-point operations on bits (R237-R245): each computes exactly and rounds once. -/

namespace Sys2Proof.Machine

/-- Bits of a result with the flags it sets. -/
abbrev FRes := Nat × FFlags

/-- Sum of two exact values. -/
def addExact (n1 : Bool) (m1 : Nat) (e1 : Int) (n2 : Bool) (m2 : Nat) (e2 : Int) : Int × Int :=
  let e := min e1 e2
  let a : Int := (m1 * 2 ^ (e1 - e).toNat : Nat)
  let b : Int := (m2 * 2 ^ (e2 - e).toNat : Nat)
  ((if n1 then -a else a) + (if n2 then -b else b), e)

def isSig : FVal → Bool
  | .nan s => s
  | _ => false

def finiteV : FVal → Bool
  | .fin .. => true
  | _ => false
def isNaN : FVal → Bool
  | .nan _ => true
  | _ => false

def FVal.neg : FVal → FVal
  | .nan s => .nan s
  | .inf n => .inf (!n)
  | .fin n m e => .fin (!n) m e

/-- The canonical NaN, with NV when an operand signals (R165, R170). -/
def nanRes (f : Fmt) (invalid : Bool) : FRes := (f.nan, if invalid then NV else noFlag)

/-- R237: A + B. -/
def faddV (f : Fmt) (mode : Nat) (a b : FVal) : FRes :=
  match a, b with
  | .nan s, y => nanRes f (s || isSig y)
  | x, .nan s => nanRes f (s || isSig x)
  | .inf n1, .inf n2 => if n1 == n2 then (f.infBits n1, noFlag) else nanRes f true
  | .inf n, _ => (f.infBits n, noFlag)
  | _, .inf n => (f.infBits n, noFlag)
  | .fin n1 m1 e1, .fin n2 m2 e2 =>
    if m1 = 0 && m2 = 0 then (f.signed (if n1 == n2 then n1 else zeroSign mode) 0, noFlag)
    else
      let (v, e) := addExact n1 m1 e1 n2 m2 e2
      if v = 0 then (f.signed (zeroSign mode) 0, noFlag)
      else f.round mode false (decide (v < 0)) v.natAbs e

/-- R237: A × B. -/
def fmulV (f : Fmt) (mode : Nat) (a b : FVal) : FRes :=
  match a, b with
  | .nan s, y => nanRes f (s || isSig y)
  | x, .nan s => nanRes f (s || isSig x)
  | .inf n1, .inf n2 => (f.infBits (n1 != n2), noFlag)
  | .inf n1, .fin n2 m _ => if m = 0 then nanRes f true else (f.infBits (n1 != n2), noFlag)
  | .fin n1 m _, .inf n2 => if m = 0 then nanRes f true else (f.infBits (n1 != n2), noFlag)
  | .fin n1 m1 e1, .fin n2 m2 e2 => f.round mode false (n1 != n2) (m1 * m2) (e1 + e2)

/-- 0 × ∞ in either order (R237). -/
def zeroTimesInf (a b : FVal) : Bool :=
  match a, b with
  | .inf _, .fin _ m _ => m == 0
  | .fin _ m _, .inf _ => m == 0
  | _, _ => false

/-- The exact product; only for operands that are no NaN and not 0 × ∞. -/
def mulExact (a b : FVal) : FVal :=
  match a, b with
  | .inf n1, .inf n2 => .inf (n1 != n2)
  | .inf n1, .fin n2 _ _ => .inf (n1 != n2)
  | .fin n1 _ _, .inf n2 => .inf (n1 != n2)
  | .fin n1 m1 e1, .fin n2 m2 e2 => .fin (n1 != n2) (m1 * m2) (e1 + e2)
  | .nan s, _ => .nan s
  | _, .nan s => .nan s

/-- R237: A × B + C, rounded once. -/
def ffmaV (f : Fmt) (mode : Nat) (a b c : FVal) : FRes :=
  if zeroTimesInf a b then nanRes f true
  else if isNaN a || isNaN b || isNaN c then nanRes f (isSig a || isSig b || isSig c)
  else faddV f mode (mulExact a b) c

/-- R238: A / B. -/
def fdivV (f : Fmt) (mode : Nat) (a b : FVal) : FRes :=
  match a, b with
  | .nan s, y => nanRes f (s || isSig y)
  | x, .nan s => nanRes f (s || isSig x)
  | .inf _, .inf _ => nanRes f true
  | .inf n1, .fin n2 _ _ => (f.infBits (n1 != n2), noFlag)
  | .fin n1 _ _, .inf n2 => (f.signed (n1 != n2) 0, noFlag)
  | .fin n1 m1 e1, .fin n2 m2 e2 =>
    if m2 = 0 then (if m1 = 0 then nanRes f true else (f.infBits (n1 != n2), DZ))
    else if m1 = 0 then (f.signed (n1 != n2) 0, noFlag)
    else
      -- enough quotient bits for one rounding, with a sticky bit below them
      let k := 2 * f.fb + 8 + Nat.log2 m2
      let q := m1 * 2 ^ k / m2
      let sticky := if m1 * 2 ^ k % m2 = 0 then 0 else 1
      f.round mode false (n1 != n2) (2 * q + sticky) (e1 - e2 - k - 1)

/-- R238: √A. -/
def fsqrtV (f : Fmt) (mode : Nat) (a : FVal) : FRes :=
  match a with
  | .nan s => nanRes f s
  | .inf n => if n then nanRes f true else (f.infBits false, noFlag)
  | .fin n m e =>
    if m = 0 then (f.signed n 0, noFlag)
    else if n then nanRes f true
    else
      let k : Int := 2 * f.fb + 8
      -- an even exponent
      let e' : Int := if (e - 2 * k) % 2 = 0 then e - 2 * k else e - 2 * k - 1
      let w := m * 2 ^ (e - e').toNat
      let r := Nat.sqrt w
      let sticky := if r * r = w then 0 else 1
      f.round mode false false (2 * r + sticky) (e' / 2 - 1)

/-- Comparison of two values that are no NaN: −0 equals +0. -/
def cmpV (a b : FVal) : Ordering :=
  match a, b with
  | .inf n1, .inf n2 => if n1 == n2 then .eq else if n1 then .lt else .gt
  | .inf n, _ => if n then .lt else .gt
  | _, .inf n => if n then .gt else .lt
  | .fin n1 m1 e1, .fin n2 m2 e2 => compare (addExact n1 m1 e1 (!n2) m2 e2).1 0
  | _, _ => .eq

def isNeg : FVal → Bool
  | .nan _ => false
  | .inf n => n
  | .fin n _ _ => n

/-- R239: minimumNumber (or maximumNumber) of two operands given with their bits. -/
def fminmax (f : Fmt) (isMax : Bool) (xa xb : Nat) : FRes :=
  let a := f.read xa
  let b := f.read xb
  let fl := if isSig a || isSig b then NV else noFlag
  if isNaN a && isNaN b then (f.nan, fl)
  else if isNaN a then (xb, fl)
  else if isNaN b then (xa, fl)
  else
    -- −0 below +0
    let lt := match cmpV a b with
      | .lt => true
      | .gt => false
      | .eq => isNeg a && !isNeg b
    (if isMax then (if lt then xb else xa) else (if lt then xa else xb), fl)

/-- R196, R240: a condition on two values, with the flags of the comparison. -/
def fcondV (c : Cond) (a b : FVal) : Bool × FFlags :=
  let nan := isNaN a || isNaN b
  let ordered := match c with
    | .lt => true
    | .le => true
    | .gt => true
    | .ge => true
    | _ => false
  let fl := if isSig a || isSig b || (nan && ordered) then NV else noFlag
  let o := cmpV a b
  let r := match c with
    | .nan => nan
    | .num => !nan
    | .ne => nan || o != .eq
    | .eq => !nan && o == .eq
    | .lt => !nan && o == .lt
    | .le => !nan && o != .gt
    | .gt => !nan && o == .gt
    | .ge => !nan && o != .lt
  (r, fl)

/-- R241: the class word. -/
def fclassV (f : Fmt) (bits : Nat) : Nat :=
  match f.read bits with
  | .nan s => if s then 2 ^ 8 else 2 ^ 9
  | .inf n => if n then 1 else 2 ^ 7
  | .fin n m _ =>
    if m = 0 then (if n then 2 ^ 3 else 2 ^ 4)
    else if fld bits f.fb f.eb = 0 then (if n then 2 ^ 2 else 2 ^ 5)
    else (if n then 2 else 2 ^ 6)

/-- A value rounded to an integer: the magnitude and whether it is exact. -/
def toIntegral (mode : Nat) (neg : Bool) (m : Nat) (e : Int) : Nat × Bool := roundTo mode neg m e 0

/-- R242: roundToIntegralExact. -/
def frndV (f : Fmt) (mode : Nat) (bits : Nat) : FRes :=
  match f.read bits with
  | .nan s => nanRes f s
  | .inf n => (f.infBits n, noFlag)
  | .fin n m e =>
    let (t, exact) := toIntegral mode n m e
    ((f.round 0 false n t 0).1, if exact then noFlag else NX)

/-- R245: a float value into a float format. -/
def cvtFF (f : Fmt) (mode : Nat) (sat : Bool) (a : FVal) : FRes :=
  match a with
  | .nan s => nanRes f s
  | .inf n => if sat then (f.signed n f.maxMag, noFlag)
    else if f.noInf then (f.nan, NV) else (f.infBits n, noFlag)
  | .fin n m e => f.round mode sat n m e

/-- R245: an integer into a float format. -/
def cvtIF (f : Fmt) (mode : Nat) (sat : Bool) (x : Int) : FRes := f.round mode sat (decide (x < 0)) x.natAbs 0

/-- The range of an integer type (R162). -/
def intRange (ty : Nat) : Int × Int :=
  let bits := 8 * 2 ^ (ty / 2)
  if ty % 2 = 1 then (-(2 ^ (bits - 1) : Nat), (2 ^ (bits - 1) : Nat) - 1) else (0, (2 ^ bits : Nat) - 1)

/-- R245: a float value into an integer type: the integer and the flags. -/
def cvtFI (ty : Nat) (mode : Nat) (a : FVal) : Int × FFlags :=
  let (lo, hi) := intRange ty
  match a with
  | .nan _ => (0, NV)
  | .inf n => (if n then lo else hi, NV)
  | .fin n m e =>
    let (t, exact) := toIntegral mode n m e
    let v : Int := if n then -(t : Int) else (t : Int)
    if v < lo || hi < v then (clampI lo hi v, NV) else (v, if exact then noFlag else NX)

/-- R168: a block of values, in the source format's encodings, quantised to m-bit mantissas: E, the mantissas, the flags.
An infinity that saturation makes finite is clamped and raises no flag (R170). A block with a NaN and, saturation off, an
infinity counts as caused by the infinity too, which R168 leaves open: NV is set (log entry 68). -/
def bfpQuant (f : Fmt) (m mode : Nat) (sat : Bool) (xs : List FVal) : Nat × List Int × FFlags :=
  let anyNaN := xs.any isNaN
  let anyInf := xs.any fun x => match x with
    | .inf _ => true
    | _ => false
  let maxFin := match f.read f.maxMag with
    | .fin _ mm e => (mm, e)
    | _ => (0, 0)
  if anyNaN || (anyInf && !sat) then (0xFF, xs.map fun _ => 0, if (anyInf && !sat) || xs.any isSig then NV else noFlag)
  else
    -- infinities count as the largest finite value
    let fin := xs.map fun x => match x with
      | .fin n mm e => (n, mm, e)
      | .inf n => (n, maxFin.1, maxFin.2)
      | .nan _ => (false, 0, 0)
    let tops := (fin.filter fun v => v.2.1 != 0).map fun v => (Nat.log2 v.2.1 : Int) + v.2.2
    match tops with
    | [] => (0, xs.map fun _ => 0, noFlag)
    | t0 :: ts =>
      let t := ts.foldl max t0 + 127
      if t > 254 && !sat then (0xFF, xs.map fun _ => 0, OF)
      else
        let ex : Int := min (max t 0) 254
        let q : Int := ex - 127 - (m - 2 : Int)
        let lim : Int := (2 ^ (m - 1) : Nat)
        let rs := xs.map fun x => match x with
          | .fin n mm e =>
            let (r, exact) := roundTo mode n mm e q
            ((if n then -(r : Int) else (r : Int)), exact)
          | .inf n => (if n then -lim else lim - 1, true)
          | .nan _ => (0, true)
        let ovf := rs.any fun r => r.1 > lim - 1 || r.1 < -lim
        let inexact := rs.any fun r => !r.2
        let fl := (if ovf && !sat then OF else noFlag) ||| (if inexact then NX else noFlag) |||
          (if t < 0 && inexact then UF else noFlag)
        (ex.toNat, rs.map fun r => clampI (-lim) (lim - 1) r.1, fl)

/-- R167: the value of an m-bit mantissa under an exponent. -/
def bfpVal (m ex mant : Nat) : FVal :=
  if ex = 0xFF then .nan false
  else
    let v := sInt m (mant % 2 ^ m)
    .fin (decide (v < 0)) v.natAbs ((ex : Int) - 127 - (m - 2 : Int))

end Sys2Proof.Machine
end

