-- ==== Sys2Proof/WellFormed.lean ====
section
/-! DEFINITION. When an instruction's fields are ones its encoding admits: the checks of R199 step 2, from one
table of field rules per extended instruction. -/

namespace Sys2Proof

/-- What an operand field of an extended form stands for (R184). -/
inductive Slot where
  /-- not used: reserved, reads 0 -/
  | no
  /-- one vector register -/
  | v
  /-- a pair of vector registers, even -/
  | w
  /-- a run of that many vector registers -/
  | list (n : Nat)
  /-- four vector registers, a multiple of 4 -/
  | quad
  | s
  /-- s0-s63, or i0-i3 as 64-67 -/
  | si
  | k
  /-- k1-k7 -/
  | kd
  | h
  /-- h2-h15 -/
  | hd
  | b
  | t
  | m
  /-- the first of an FP64 pair of accumulators -/
  | mp
  | z
  /-- read as the instruction states -/
  | raw
  /-- field E read as IX (R185) -/
  | ix
  deriving DecidableEq, Repr

/-- Which roles run an instruction beside ALL (R129). -/
inductive RoleSet where
  | any | vec | copy | mat
  deriving DecidableEq, Repr

/-- How IMM8 is read. -/
inductive ImmRule where
  | zero
  | any
  | upTo (n : Nat)
  | range (lo hi : Nat)
  deriving DecidableEq, Repr

/-- What a literal replaces, and how many of its low bits are used (R186). -/
inductive LitRule where
  | no
  | b (bits : Nat)
  | imm (bits : Nat)
  deriving DecidableEq, Repr

/-- The field rules of one extended instruction. -/
structure FieldSpec where
  role : RoleSet := .any
  d : Slot := .no
  a : Slot := .no
  b : Slot := .no
  c : Slot := .no
  e : Slot := .ix
  tys : List Nat := [0]
  hint : Bool := false
  rnd : Bool := false
  sat : Bool := false
  mod : Bool := false
  imm : ImmRule := .zero
  lit : LitRule := .no
  /-- further rules of the instruction's own on its fields -/
  own : Bool := true
  deriving DecidableEq, Repr

/-- A type whose operand is a w pair (R166, R217, R235). -/
def w64 (ty : BitVec 5) : Bool := [6, 7, 11, 16, 17].contains ty.toNat
/-- The class of an operand of the instruction's type. -/
def xt (x : Ext) : Slot := if w64 x.ty then .w else .v
/-- The width, in bits, a literal of the instruction's type uses (R186). -/
def wt (x : Ext) : Nat := if w64 x.ty then 64 else 32

def i4 : List Nat := [4, 5, 6, 7]
def b2 : List Nat := [15, 16]
def fp5 : List Nat := [10, 11, 17, 18, 19]
/-- R250: every type but `.bfp`. -/
def memTys : List Nat := [0, 1, 2, 3, 4, 5, 6, 7, 8, 9, 10, 11, 12, 13, 15, 16, 17, 18, 19]

/-- Conditions an integer comparison takes (R196). -/
def Cond.intOk : Cond → Bool
  | .nan => false
  | .num => false
  | _ => true
/-- `.not` and `.mov` have no kB (R229). -/
def KOp.unary : KOp → Bool
  | .not => true
  | .mov => true
  | _ => false
/-- The types an operation of `LRED` and `LSCAN` accepts (R231). -/
def RedOp.tys : RedOp → List Nat
  | .add => i4
  | .min => i4
  | .max => i4
  | .and => b2
  | .or => b2
  | .xor => b2
  | .fadd => [10, 11]
  | .fmin => [10, 11]
  | .fmax => [10, 11]
/-- The types an operation of `ATOM` accepts (R252). -/
def AtomOp.tys : AtomOp → List Nat
  | .add => i4
  | .min => i4
  | .max => i4
  | .fadd => [10, 11]
  | _ => b2
/-- The operations `SRED` takes (R254). -/
def AtomOp.reduces : AtomOp → Bool
  | .exch => false
  | .cas => false
  | _ => true
/-- R222: the must-be-zero bits of the count of a funnel shift. -/
def funnelOk (x : Ext) : Bool :=
  if x.imm.getLsbD 7 then (x.imm.toNat / 32) % 4 == 0 && x.c == 0#8 else x.imm == 0#8
/-- R252: scope 0-4 and IMM8[7:5] zero. -/
def atomImmOk (imm : BitVec 8) : Bool := imm.toNat < 32 && imm.toNat % 8 ≤ 4
/-- R249: the address register of an operand-store access is a v or an s register. -/
def osAddr (x : Ext) : Slot := if x.c == 1#8 then .s else .v
/-- Whether IX is enabled and names an operand: 0 D, 1 A, 2 B, 3 C (R185). -/
def Ext.ixOf (x : Ext) (n : Nat) : Bool := x.e.getLsbD 7 && x.e.toNat / 8 % 4 == n
/-- R275, R277: the accumulator of an instruction, or the pair of an FP64 one. -/
def mt (x : Ext) : Slot := if x.ty == 11#5 then .mp else .m
/-- R281: the barrier field; with IMM8[6] there is no barrier and C is 0. -/
def barField (x : Ext) : Slot := if x.imm.getLsbD 6 then .no else .s
/-- R244: destination types by source type. -/
def cvtDest (src : BitVec 5) : List Nat :=
  if src.toNat < 14 then List.range 14
  else if src == 17#5 then [18, 19]
  else if src == 18#5 || src == 19#5 then [17, 18, 19]
  else []
def intTy (n : Nat) : Bool := n < 8
/-- R245: where RND and SAT must be 0. -/
def cvtOwn (src : BitVec 5) (x : Ext) : Bool :=
  (!(intTy src.toNat && intTy x.ty.toNat) || x.rnd == 0#3) &&
  (!(!intTy src.toNat && intTy x.ty.toNat) || !x.sat)
/-- R248: a format code 0-6 with a mantissa width exactly for BFP; C[7:2] zero. -/
def fmtByteOk (v : BitVec 8) : Bool :=
  v.toNat < 128 && v.toNat % 16 ≤ 6 &&
    (if v.toNat % 16 == 6 then 1 ≤ v.toNat / 16 else v.toNat / 16 == 0)
def fmtwOk (x : Ext) : Bool := fmtByteOk x.a && fmtByteOk x.b && x.c.toNat ≤ 3
/-- Codes of status registers that R340 lists. -/
def srListed (a : BitVec 8) : Bool :=
  a.toNat ≤ 19 || (32 ≤ a.toNat && a.toNat ≤ 38) || (40 ≤ a.toNat && a.toNat ≤ 43) ||
    (48 ≤ a.toNat && a.toNat ≤ 63)
/-- Codes of privileged status registers (R340). -/
def srPriv (a : BitVec 8) : Bool :=
  (32 ≤ a.toNat && a.toNat ≤ 34) || a.toNat == 38 || (40 ≤ a.toNat && a.toNat ≤ 43) ||
    (48 ≤ a.toNat && a.toNat ≤ 63)
/-- Codes of status registers that `MTS` writes (R340). -/
def srWritable (a : BitVec 8) : Bool := a.toNat == 17 || srPriv a

/-- The container fields of an extended instruction. -/
def Instr.ext? : Instr → Option Ext
  | .htest _ _ x => some x
  | .htesti _ _ x => some x
  | .hbit _ x => some x
  | .horExt x => some x
  | .handExt x => some x
  | .handnExt x => some x
  | .hxorExt x => some x
  | .hnotExt x => some x
  | .hmovExt x => some x
  | .hcntExt x => some x
  | .hfirstExt x => some x
  | .hmembExt x => some x
  | .hposExt x => some x
  | .hpick x => some x
  | .hrange x => some x
  | .hfence x => some x
  | .iaddExt x => some x
  | .isubExt x => some x
  | .imul x => some x
  | .imulh x => some x
  | .imad x => some x
  | .imin x => some x
  | .imax x => some x
  | .iabs x => some x
  | .iset _ x => some x
  | .sel x => some x
  | .andExt x => some x
  | .orExt x => some x
  | .xorExt x => some x
  | .lut3 x => some x
  | .shlExt x => some x
  | .shrExt x => some x
  | .sar x => some x
  | .fshl x => some x
  | .fshr x => some x
  | .popc x => some x
  | .clz x => some x
  | .brev x => some x
  | .bfe x => some x
  | .bfi x => some x
  | .movExt x => some x
  | .movi x => some x
  | .saddExt x => some x
  | .ssub x => some x
  | .smul x => some x
  | .sand x => some x
  | .sor x => some x
  | .sxor x => some x
  | .sshl x => some x
  | .sshr x => some x
  | .smin x => some x
  | .smax x => some x
  | .smovExt x => some x
  | .smovi x => some x
  | .scmp _ x => some x
  | .kop _ x => some x
  | .shfl _ x => some x
  | .lred _ x => some x
  | .lscan _ _ x => some x
  | .vbcast x => some x
  | .vlane x => some x
  | .topki _ x => some x
  | .faddExt x => some x
  | .fsub x => some x
  | .fmulExt x => some x
  | .ffma x => some x
  | .fmin x => some x
  | .fmax x => some x
  | .fset _ x => some x
  | .fclass x => some x
  | .frnd x => some x
  | .fdiv x => some x
  | .fsqrt x => some x
  | .frcp x => some x
  | .frsq x => some x
  | .fexp2 x => some x
  | .flog2 x => some x
  | .fsin x => some x
  | .fcos x => some x
  | .ftanh x => some x
  | .cvt _ x => some x
  | .bfpq x => some x
  | .bfpx x => some x
  | .fmtw x => some x
  | .ld x => some x
  | .st x => some x
  | .lds x => some x
  | .sts x => some x
  | .atom _ x => some x
  | .sred _ x => some x
  | .pref x => some x
  | .ldo x => some x
  | .sto x => some x
  | .ldc x => some x
  | .stp x => some x
  | .smap x => some x
  | .sflush x => some x
  | .sinv x => some x
  | .bld x => some x
  | .bset x => some x
  | .hld x => some x
  | .hst x => some x
  | .fence _ _ x => some x
  | .waitc x => some x
  | .sbinit x => some x
  | .sbexp x => some x
  | .sbarv x => some x
  | .sbwait x => some x
  | .barHand x => some x
  | .barGang x => some x
  | .tdef x => some x
  | .trel x => some x
  | .tstat x => some x
  | .mma x => some x
  | .mzero x => some x
  | .mload x => some x
  | .mdrain x => some x
  | .cpy x => some x
  | .cpo x => some x
  | .gath x => some x
  | .qpost x => some x
  | .qpop x => some x
  | .launch x => some x
  | .cmpl x => some x
  | .rtsend x => some x
  | .rtflush x => some x
  | .rtrecv x => some x
  | .rtrel x => some x
  | .spill x => some x
  | .fill x => some x
  | .tokw x => some x
  | .vdec x => some x
  | .vdstat x => some x
  | .auct x => some x
  | .aust x => some x
  | .fork x => some x
  | .grwd x => some x
  | .gbar x => some x
  | .gcancel x => some x
  | .gstat x => some x
  | .walk x => some x
  | .mfs x => some x
  | .mts x => some x
  | .trap x => some x
  | .bkpt x => some x
  | .dmbx x => some x
  | .eret x => some x
  | .fpop x => some x
  | .fres x => some x
  | .tlbi x => some x
  | .biasf x => some x
  | .ctxs x => some x
  | .ctxl x => some x
  | .nop .. => none
  | .bra .. => none
  | .brc .. => none
  | .bhe .. => none
  | .bhn .. => none
  | .loop .. => none
  | .call .. => none
  | .calls .. => none
  | .ret .. => none
  | .apply .. => none
  | .done .. => none
  | .yield .. => none
  | .exit .. => none
  | .horBase .. => none
  | .handBase .. => none
  | .handnBase .. => none
  | .hxorBase .. => none
  | .hnotBase .. => none
  | .hmovBase .. => none
  | .hcntBase .. => none
  | .hfirstBase .. => none
  | .hmembBase .. => none
  | .hposBase .. => none
  | .iaddBase .. => none
  | .isubBase .. => none
  | .andBase .. => none
  | .orBase .. => none
  | .xorBase .. => none
  | .shlBase .. => none
  | .shrBase .. => none
  | .movBase .. => none
  | .saddBase .. => none
  | .smovBase .. => none
  | .faddBase .. => none
  | .fmulBase .. => none
  | .wend .. => none
  | .wldi .. => none
  | .wadd .. => none
  | .wsub .. => none
  | .wand .. => none
  | .wshr .. => none
  | .wcmp .. => none
  | .wbr .. => none
  | .wbz .. => none
  | .wblt .. => none
  | .wld .. => none
  | .wbmn .. => none
  | .wrun .. => none
  | .wemit .. => none
  | .wrow .. => none
  | .wpush .. => none
  | .wpop .. => none
  | .wsync .. => none
  | .packFormation .. => none
  | .applyJoin .. => none
  | .handWriteCommit .. => none
  | .stageBarrierCredit .. => none
  | .matrixCommandPerform .. => none
  | .copyCommandStart .. => none
  | .enginePortionComplete .. => none
  | .commandRetire .. => none
  | .completionPostHeld .. => none
  | .sendListAppend .. => none
  | .frameFormation .. => none
  | .tokenIdle .. => none
  | .decodeStart .. => none
  | .decodeFrame .. => none
  | .auctionStart .. => none
  | .auctionRound .. => none
  | .auctionSave .. => none
  | .auctionRestore .. => none
  | .groupRewardPerform .. => none
  | .groupCancelPerform .. => none
  | .cancelRedirect .. => none
  | .groupDeadline .. => none
  | .groupAgeWrite .. => none
  | .groupAgePause .. => none
  | .walkStart .. => none
  | .walkerStepLimit .. => none
  | .walkStop .. => none
  | .loadDataReturn .. => none
  | .pageTableWalk .. => none
  | .missRetry .. => none
  | .writePerformAtHome .. => none
  | .memorySideAtomic .. => none
  | .stashRemoteRequest .. => none
  | .directoryEvict .. => none
  | .dupCollapse .. => none
  | .dupCollapseAck .. => none
  | .biasFlipComplete .. => none
  | .hostCxlMemAccess .. => none
  | .eccUncorrectable .. => none
  | .eccCorrected .. => none
  | .frameRelease .. => none
  | .launchUnitVisit .. => none
  | .gangHandout .. => none
  | .stealMessage .. => none
  | .gangPlace .. => none
  | .engineCommandAccept .. => none
  | .longWaitThreshold .. => none
  | .gangSave .. => none
  | .watchedCondition .. => none
  | .rendezvousTimeout .. => none
  | .gangComplete .. => none
  | .gangKill .. => none
  | .preemptRequest .. => none
  | .preemptTimeout .. => none
  | .resumeRequest .. => none
  | .dataFrame .. => none
  | .ackFrame .. => none
  | .returnFrame .. => none
  | .resendTimeout .. => none
  | .ethernetPacketReceive .. => none
  | .recoveryGo .. => none
  | .launchQueueControl .. => none
  | .launchDoorbell .. => none
  | .hostQueuePost .. => none
  | .routeSync .. => none
  | .contextSync .. => none
  | .tableBaseWrite .. => none
  | .registerWrite .. => none
  | .powerOn .. => none
  | .moduleReset .. => none
  | .firmwareUpdate .. => none
  | .spdmRequest .. => none
  | .fencedCoreMapUpdate .. => none
  | .izsilConfigSet .. => none
  | .powerLimit .. => none
  | .thermalThrottle .. => none
  | .thermalStop .. => none
  | .powerLoss .. => none
  | .hostWriteToHostMemory .. => none

/-- The field rules of each extended instruction; none for the others. The spec leaves open what a literal of `FSHL` and `FSHR`
replaces where IMM8 holds the count, and the widths of the literals of `GRWD`, `SBINIT` and `SBWAIT` (R186): here B, 64, 32 and 32
bits (log entry 77). -/
def Instr.fields : Instr → Option FieldSpec
  | .htest c _ x => some { d := .hd, a := .hd, b := .h, c := xt x, e := xt x, tys := [4,5,6,7,10,11], own := x.d ≠ x.a && (c.intOk || 10 ≤ x.ty.toNat) }
  | .htesti c _ x => some { d := .hd, a := .hd, b := .h, c := xt x, tys := i4, imm := .any, lit := .imm (wt x), own := x.d ≠ x.a && c.intOk }
  | .hbit _ x => some { d := .hd, a := .hd, b := .h, c := xt x, tys := b2, imm := .upTo (wt x - 1), lit := .imm 8, own := x.d ≠ x.a }
  | .horExt _ => some { d := .hd, a := .h, b := .h }
  | .handExt _ => some { d := .hd, a := .h, b := .h }
  | .handnExt _ => some { d := .hd, a := .h, b := .h }
  | .hxorExt _ => some { d := .hd, a := .h, b := .h }
  | .hnotExt _ => some { d := .hd, a := .h }
  | .hmovExt _ => some { d := .hd, a := .h }
  | .hcntExt _ => some { d := .s, a := .h }
  | .hfirstExt _ => some { d := .s, a := .h }
  | .hmembExt _ => some { d := .s, a := .h, b := .s, lit := .b 64 }
  | .hposExt _ => some { d := .s, a := .h, b := .s, lit := .b 64 }
  | .hpick _ => some { d := .hd, a := .h, b := .s, c := .s, lit := .b 64 }
  | .hrange _ => some { d := .hd, a := .s, b := .s, lit := .b 64 }
  | .hfence _ => some { }
  | .iaddExt x => some { role := .vec, d := xt x, a := xt x, b := xt x, tys := i4, sat := true, lit := .b (wt x) }
  | .isubExt x => some { role := .vec, d := xt x, a := xt x, b := xt x, tys := i4, sat := true, lit := .b (wt x) }
  | .imul x => some { role := .vec, d := xt x, a := xt x, b := xt x, tys := i4, sat := true, lit := .b (wt x) }
  | .imulh x => some { role := .vec, d := xt x, a := xt x, b := xt x, tys := i4, lit := .b (wt x) }
  | .imad x => some { role := .vec, d := xt x, a := xt x, b := xt x, c := xt x, tys := i4, sat := true, lit := .b (wt x) }
  | .imin x => some { role := .vec, d := xt x, a := xt x, b := xt x, tys := i4, lit := .b (wt x) }
  | .imax x => some { role := .vec, d := xt x, a := xt x, b := xt x, tys := i4, lit := .b (wt x) }
  | .iabs x => some { role := .vec, d := xt x, a := xt x, tys := [5,7], sat := true }
  | .iset c x => some { role := .vec, d := .v, a := xt x, b := xt x, tys := i4, lit := .b (wt x), own := c.intOk }
  | .sel x => some { role := .vec, d := xt x, a := xt x, b := xt x, c := .v, tys := b2, lit := .b (wt x) }
  | .andExt x => some { role := .vec, d := xt x, a := xt x, b := xt x, tys := b2, lit := .b (wt x) }
  | .orExt x => some { role := .vec, d := xt x, a := xt x, b := xt x, tys := b2, lit := .b (wt x) }
  | .xorExt x => some { role := .vec, d := xt x, a := xt x, b := xt x, tys := b2, lit := .b (wt x) }
  | .lut3 x => some { role := .vec, d := xt x, a := xt x, b := xt x, c := xt x, tys := b2, imm := .any, lit := .imm 8 }
  | .shlExt x => some { role := .vec, d := xt x, a := xt x, b := .v, tys := i4, lit := .b 32 }
  | .shrExt x => some { role := .vec, d := xt x, a := xt x, b := .v, tys := [4,6], lit := .b 32 }
  | .sar x => some { role := .vec, d := xt x, a := xt x, b := .v, tys := [5,7], lit := .b 32 }
  | .fshl x => some { role := .vec, d := .v, a := .v, b := .v, c := if x.imm.getLsbD 7 then .no else .v, tys := [15], imm := .any, lit := .b 32, own := funnelOk x }
  | .fshr x => some { role := .vec, d := .v, a := .v, b := .v, c := if x.imm.getLsbD 7 then .no else .v, tys := [15], imm := .any, lit := .b 32, own := funnelOk x }
  | .popc x => some { role := .vec, d := .v, a := xt x, tys := b2 }
  | .clz x => some { role := .vec, d := .v, a := xt x, tys := b2 }
  | .brev x => some { role := .vec, d := xt x, a := xt x, tys := b2 }
  | .bfe _ => some { role := .vec, d := .v, a := .v, b := .v, tys := [4,5], lit := .b 32 }
  | .bfi _ => some { role := .vec, d := .v, a := .v, b := .v, c := .v, tys := [15], lit := .b 32 }
  | .movExt x => some { role := .vec, d := xt x, a := xt x, tys := b2 }
  | .movi x => some { role := .vec, d := xt x, tys := b2, imm := .any, lit := .imm (wt x) }
  | .saddExt x => some { d := .s, a := .s, b := .s, tys := [6,7,16], sat := true, lit := .b 64, own := !(x.sat && x.ty == 16#5) }
  | .ssub x => some { d := .s, a := .s, b := .s, tys := [6,7,16], sat := true, lit := .b 64, own := !(x.sat && x.ty == 16#5) }
  | .smul x => some { d := .s, a := .s, b := .s, tys := [6,7,16], sat := true, lit := .b 64, own := !(x.sat && x.ty == 16#5) }
  | .sand _ => some { d := .s, a := .s, b := .s, tys := [6,7,16], lit := .b 64 }
  | .sor _ => some { d := .s, a := .s, b := .s, tys := [6,7,16], lit := .b 64 }
  | .sxor _ => some { d := .s, a := .s, b := .s, tys := [6,7,16], lit := .b 64 }
  | .sshl _ => some { d := .s, a := .s, b := .s, tys := [6,7,16], lit := .b 64 }
  | .sshr _ => some { d := .s, a := .s, b := .s, tys := [6,7,16], lit := .b 64 }
  | .smin _ => some { d := .s, a := .s, b := .s, tys := [6,7], lit := .b 64 }
  | .smax _ => some { d := .s, a := .s, b := .s, tys := [6,7], lit := .b 64 }
  | .smovExt _ => some { d := .si, a := .si }
  | .smovi _ => some { d := .si, imm := .any, lit := .imm 64 }
  | .scmp c _ => some { d := .kd, a := .s, b := .s, tys := [6,7], lit := .b 64, own := c.intOk }
  | .kop o _ => some { d := .kd, a := .k, b := if o.unary then .no else .k }
  | .shfl _ x => some { role := .vec, d := xt x, a := xt x, b := .v, tys := b2, lit := .b 32 }
  | .lred o x => some { role := .vec, d := xt x, a := xt x, tys := o.tys, rnd := o == .fadd }
  | .lscan _ o x => some { role := .vec, d := xt x, a := xt x, tys := o.tys, rnd := o == .fadd }
  | .vbcast x => some { role := .vec, d := xt x, a := if x.imm == 1#8 then .s else xt x, b := if x.imm == 1#8 then .no else .s, tys := b2, imm := .upTo 1, lit := if x.imm == 1#8 then .no else .b 64 }
  | .vlane x => some { role := .vec, d := .s, a := xt x, b := .s, tys := b2, lit := .b 64 }
  | .topki k x => some { role := .vec, d := .list (2 * 2 ^ k.toNat), a := .v, b := .v, tys := [4,5,10], lit := .b 32, own := x.d.toNat + 2 * 2 ^ k.toNat ≤ 256 }
  | .faddExt x => some { role := .vec, d := xt x, a := xt x, b := xt x, tys := fp5, rnd := true, mod := true, lit := .b (wt x) }
  | .fsub x => some { role := .vec, d := xt x, a := xt x, b := xt x, tys := fp5, rnd := true, mod := true, lit := .b (wt x) }
  | .fmulExt x => some { role := .vec, d := xt x, a := xt x, b := xt x, tys := fp5, rnd := true, mod := true, lit := .b (wt x) }
  | .ffma x => some { role := .vec, d := xt x, a := xt x, b := xt x, c := xt x, tys := fp5, rnd := true, mod := true, imm := .upTo 3, lit := .b (wt x) }
  | .fmin x => some { role := .vec, d := xt x, a := xt x, b := xt x, tys := fp5, mod := true, lit := .b (wt x) }
  | .fmax x => some { role := .vec, d := xt x, a := xt x, b := xt x, tys := fp5, mod := true, lit := .b (wt x) }
  | .fset _ x => some { role := .vec, d := .v, a := xt x, b := xt x, tys := [10,11], mod := true, lit := .b (wt x) }
  | .fclass x => some { role := .vec, d := .v, a := xt x, tys := [8,9,10,11,12,13] }
  | .frnd x => some { role := .vec, d := xt x, a := xt x, tys := [10,11], rnd := true }
  | .fdiv x => some { role := .vec, d := xt x, a := xt x, b := xt x, tys := [10,11], rnd := true, lit := .b (wt x) }
  | .fsqrt x => some { role := .vec, d := xt x, a := xt x, tys := [10,11], rnd := true }
  | .frcp x => some { role := .vec, d := xt x, a := xt x, tys := [10,11] }
  | .frsq x => some { role := .vec, d := xt x, a := xt x, tys := [10,11] }
  | .fexp2 x => some { role := .vec, d := xt x, a := xt x, tys := [10] }
  | .flog2 x => some { role := .vec, d := xt x, a := xt x, tys := [10] }
  | .fsin x => some { role := .vec, d := xt x, a := xt x, tys := [10] }
  | .fcos x => some { role := .vec, d := xt x, a := xt x, tys := [10] }
  | .ftanh x => some { role := .vec, d := xt x, a := xt x, tys := [10] }
  | .cvt src x => some { role := .vec, d := xt x, a := if w64 src then .w else .v, tys := cvtDest src, rnd := true, sat := true, own := cvtOwn src x }
  | .bfpq x => some { role := .vec, d := .v, a := .v, b := .v, tys := [10], rnd := true, sat := true, imm := .range 2 8, own := x.ixOf 0 || x.ixOf 1 || x.d ≠ x.a }
  | .bfpx _ => some { role := .vec, d := .v, a := .v, b := .v, tys := [10], rnd := true, sat := true, imm := .range 2 8 }
  | .fmtw x => some { role := .vec, d := .v, a := .raw, b := .raw, c := .raw, rnd := true, sat := true, imm := .upTo 1, own := fmtwOk x }
  | .ld x => some { d := xt x, a := .b, b := .v, tys := memTys, hint := true, imm := .any, lit := .imm 32 }
  | .st x => some { d := xt x, a := .b, b := .v, tys := memTys, hint := true, imm := .any, lit := .imm 32 }
  | .lds _ => some { d := .s, a := .b, b := .s, tys := memTys, hint := true, imm := .any, lit := .imm 32 }
  | .sts _ => some { d := .s, a := .b, b := .s, tys := memTys, hint := true, imm := .any, lit := .imm 32 }
  | .atom o x => some { d := xt x, a := .b, b := .v, c := xt x, e := if o == .cas then xt x else .ix, tys := o.tys, hint := true, imm := .any, lit := .b 32, own := atomImmOk x.imm }
  | .sred o x => some { a := .b, b := .v, c := xt x, tys := o.tys, hint := true, lit := .b 32, own := o.reduces }
  | .pref _ => some { a := .b, b := .v, tys := memTys, hint := true, imm := .any, lit := .imm 32 }
  | .ldo x => some { d := xt x, a := osAddr x, c := .raw, tys := memTys, imm := .any, lit := .imm 32, own := x.c.toNat ≤ 1 }
  | .sto x => some { d := xt x, a := osAddr x, c := .raw, tys := memTys, imm := .any, lit := .imm 32, own := x.c.toNat ≤ 1 }
  | .ldc x => some { d := xt x, a := osAddr x, b := .kd, c := .raw, tys := memTys, imm := .any, lit := .imm 32, own := x.c.toNat ≤ 1 }
  | .stp x => some { d := xt x, a := osAddr x, b := .kd, c := .raw, tys := memTys, imm := .any, lit := .imm 32, own := x.c.toNat ≤ 1 }
  | .smap _ => some { a := .s, b := .s, c := .s, imm := .upTo 3, lit := .imm 8 }
  | .sflush _ => some { imm := .upTo 3, lit := .imm 8 }
  | .sinv _ => some { imm := .upTo 3, lit := .imm 8 }
  | .bld _ => some { d := .b, a := .b, b := .s, imm := .any, lit := .imm 32 }
  | .bset _ => some { d := .b, a := .b, b := .s, imm := .upTo 7, lit := .b 64 }
  | .hld _ => some { d := .hd, a := .b, b := .s, imm := .any, lit := .imm 32 }
  | .hst _ => some { d := .h, a := .b, b := .s, imm := .any, lit := .imm 32 }
  | .fence _ scope _ => some { own := scope.toNat ≤ 4 }
  | .waitc x => some { d := .raw, imm := .upTo 63, lit := .imm 8, own := x.d.toNat ≤ 6 }
  | .sbinit _ => some { a := .s, b := .s, imm := .any, lit := .imm 32 }
  | .sbexp _ => some { a := .s, b := .s, imm := .any, lit := .imm 32 }
  | .sbarv _ => some { a := .s }
  | .sbwait _ => some { a := .s, b := .s, imm := .any, lit := .imm 32 }
  | .barHand _ => some { a := .h }
  | .barGang _ => some { }
  | .tdef x => some { d := .t, a := .s, b := .raw, c := .raw, e := .raw, tys := List.range 32, imm := .any, lit := .imm 32, own := x.e.toNat < 32 }
  | .trel _ => some { d := .t }
  | .tstat _ => some { d := .s, a := .t }
  | .mma x => some { role := .mat, d := mt x, a := .t, b := .t, c := .v, e := .h, tys := [8,9,10,11,12,13,14] }
  | .mzero x => some { role := .mat, d := mt x, tys := [0,11] }
  | .mload _ => some { role := .mat, d := .m, a := .t, b := .v, lit := .b 32 }
  | .mdrain _ => some { role := .mat, d := .t, a := .m, b := .v, c := .b, e := .s, imm := .any, lit := .imm 32 }
  | .cpy x => some { role := .copy, d := if x.imm.getLsbD 7 then .t else .s, a := .b, b := .s, c := barField x, hint := true, imm := .any }
  | .cpo x => some { role := .copy, d := if x.imm.getLsbD 7 then .t else .s, a := .b, b := .s, c := barField x, hint := true, imm := .any }
  | .gath x => some { role := .copy, d := .t, a := .b, b := .v, c := barField x, hint := true, imm := .upTo 127 }
  | .qpost _ => some { d := .s, a := .b, b := .s, c := .kd, imm := .any, lit := .imm 32 }
  | .qpop _ => some { }
  | .launch _ => some { a := .s, c := .kd }
  | .cmpl _ => some { d := .s, a := .b, b := .s, imm := .any, lit := .imm 32 }
  | .rtsend _ => some { role := .copy, d := .quad }
  | .rtflush _ => some { role := .copy }
  | .rtrecv _ => some { d := .quad, a := .s, c := .s, imm := .upTo 1 }
  | .rtrel _ => some { a := .s, b := .s }
  | .spill _ => some { d := .v, a := .z }
  | .fill _ => some { d := .v, a := .z }
  | .tokw _ => some { a := .z }
  | .vdec _ => some { role := .copy, d := .s, a := .b, b := .s, c := .s, tys := [0,9], imm := .any, lit := .imm 32 }
  | .vdstat _ => some { d := .s, a := .b, b := .s, imm := .any, lit := .imm 32 }
  | .auct x => some { role := .mat, a := .s, own := 1 ≤ x.a.toNat && x.a.toNat ≤ 57 }
  | .aust _ => some { d := .s, a := .b, b := .s, imm := .any, lit := .imm 32 }
  | .fork _ => some { d := .s, a := .s, b := .s, c := .s }
  | .grwd _ => some { d := .s, a := .s, b := .s, lit := .b 64 }
  | .gbar _ => some { d := .s, a := .s }
  | .gcancel _ => some { d := .s, a := .s }
  | .gstat _ => some { d := .s, a := .s, imm := .upTo 15 }
  | .walk x => some { role := .copy, d := .t, a := .b, b := .s, c := barField x, imm := .upTo 127 }
  | .mfs x => some { d := if x.a.toNat ≤ 1 then .v else .s, a := .raw, own := srListed x.a }
  | .mts x => some { d := .raw, a := .s, own := srWritable x.d }
  | .trap _ => some { imm := .any }
  | .bkpt _ => some { }
  | .dmbx _ => some { a := .s }
  | .eret _ => some { imm := .upTo 1 }
  | .fpop x => some { d := .s, c := .kd, imm := .upTo 1, own := x.d.toNat ≤ 60 }
  | .fres _ => some { a := .s, b := .s }
  | .tlbi _ => some { a := .s, b := .s, c := .s, imm := .upTo 2 }
  | .biasf _ => some { a := .s, imm := .upTo 1 }
  | .ctxs _ => some { a := .s, b := .s, c := .kd }
  | .ctxl _ => some { a := .s, c := .kd }
  | .nop .. => none
  | .bra .. => none
  | .brc .. => none
  | .bhe .. => none
  | .bhn .. => none
  | .loop .. => none
  | .call .. => none
  | .calls .. => none
  | .ret .. => none
  | .apply .. => none
  | .done .. => none
  | .yield .. => none
  | .exit .. => none
  | .horBase .. => none
  | .handBase .. => none
  | .handnBase .. => none
  | .hxorBase .. => none
  | .hnotBase .. => none
  | .hmovBase .. => none
  | .hcntBase .. => none
  | .hfirstBase .. => none
  | .hmembBase .. => none
  | .hposBase .. => none
  | .iaddBase .. => none
  | .isubBase .. => none
  | .andBase .. => none
  | .orBase .. => none
  | .xorBase .. => none
  | .shlBase .. => none
  | .shrBase .. => none
  | .movBase .. => none
  | .saddBase .. => none
  | .smovBase .. => none
  | .faddBase .. => none
  | .fmulBase .. => none
  | .wend .. => none
  | .wldi .. => none
  | .wadd .. => none
  | .wsub .. => none
  | .wand .. => none
  | .wshr .. => none
  | .wcmp .. => none
  | .wbr .. => none
  | .wbz .. => none
  | .wblt .. => none
  | .wld .. => none
  | .wbmn .. => none
  | .wrun .. => none
  | .wemit .. => none
  | .wrow .. => none
  | .wpush .. => none
  | .wpop .. => none
  | .wsync .. => none
  | .packFormation .. => none
  | .applyJoin .. => none
  | .handWriteCommit .. => none
  | .stageBarrierCredit .. => none
  | .matrixCommandPerform .. => none
  | .copyCommandStart .. => none
  | .enginePortionComplete .. => none
  | .commandRetire .. => none
  | .completionPostHeld .. => none
  | .sendListAppend .. => none
  | .frameFormation .. => none
  | .tokenIdle .. => none
  | .decodeStart .. => none
  | .decodeFrame .. => none
  | .auctionStart .. => none
  | .auctionRound .. => none
  | .auctionSave .. => none
  | .auctionRestore .. => none
  | .groupRewardPerform .. => none
  | .groupCancelPerform .. => none
  | .cancelRedirect .. => none
  | .groupDeadline .. => none
  | .groupAgeWrite .. => none
  | .groupAgePause .. => none
  | .walkStart .. => none
  | .walkerStepLimit .. => none
  | .walkStop .. => none
  | .loadDataReturn .. => none
  | .pageTableWalk .. => none
  | .missRetry .. => none
  | .writePerformAtHome .. => none
  | .memorySideAtomic .. => none
  | .stashRemoteRequest .. => none
  | .directoryEvict .. => none
  | .dupCollapse .. => none
  | .dupCollapseAck .. => none
  | .biasFlipComplete .. => none
  | .hostCxlMemAccess .. => none
  | .eccUncorrectable .. => none
  | .eccCorrected .. => none
  | .frameRelease .. => none
  | .launchUnitVisit .. => none
  | .gangHandout .. => none
  | .stealMessage .. => none
  | .gangPlace .. => none
  | .engineCommandAccept .. => none
  | .longWaitThreshold .. => none
  | .gangSave .. => none
  | .watchedCondition .. => none
  | .rendezvousTimeout .. => none
  | .gangComplete .. => none
  | .gangKill .. => none
  | .preemptRequest .. => none
  | .preemptTimeout .. => none
  | .resumeRequest .. => none
  | .dataFrame .. => none
  | .ackFrame .. => none
  | .returnFrame .. => none
  | .resendTimeout .. => none
  | .ethernetPacketReceive .. => none
  | .recoveryGo .. => none
  | .launchQueueControl .. => none
  | .launchDoorbell .. => none
  | .hostQueuePost .. => none
  | .routeSync .. => none
  | .contextSync .. => none
  | .tableBaseWrite .. => none
  | .registerWrite .. => none
  | .powerOn .. => none
  | .moduleReset .. => none
  | .firmwareUpdate .. => none
  | .spdmRequest .. => none
  | .fencedCoreMapUpdate .. => none
  | .izsilConfigSet .. => none
  | .powerLimit .. => none
  | .thermalThrottle .. => none
  | .thermalStop .. => none
  | .powerLoss .. => none
  | .hostWriteToHostMemory .. => none

/-- R186: the bits of a literal above those used are all 0 or all equal to the top bit used. -/
def litOk (bits : Nat) (l : DWord) : Bool :=
  bits ≥ 64 || l.toNat / 2 ^ bits == 0 ||
    (l.toNat / 2 ^ bits == 2 ^ (64 - bits) - 1 && l.getLsbD (bits - 1))

/-- The value an operand field may hold (R184). -/
def Slot.ok (c : Slot) (f : BitVec 8) : Bool :=
  match c with
  | .no => f == 0#8
  | .v => true
  | .w => f.toNat % 2 == 0
  | .list _ => true
  | .quad => f.toNat % 4 == 0
  | .s => f.toNat < 64
  | .si => f.toNat < 68
  | .k => f.toNat < 8
  | .kd => 1 ≤ f.toNat && f.toNat < 8
  | .h => f.toNat < 16
  | .hd => 2 ≤ f.toNat && f.toNat < 16
  | .b => f.toNat < 16
  | .t => f.toNat < 64
  | .m => f.toNat < 16
  | .mp => f.toNat < 16
  | .z => f.toNat < 16
  | .raw => true
  | .ix => true

/-- Whether an operand of this class can be indirect (R185). -/
def Slot.vector : Slot → Bool
  | .v => true
  | .w => true
  | .list _ => true
  | .quad => true
  | _ => false

/-- The class of the operand that an enabled IX names: 0 D, 1 A, 2 B, 3 C. -/
def FieldSpec.operand (f : FieldSpec) (n : Nat) : Slot :=
  match n with
  | 0 => f.d
  | 1 => f.a
  | 2 => f.b
  | _ => f.c

/-- R185: the indirect control. One that names operand B where a literal replaces B is accepted, and says nothing then (log entry
77). -/
def ixOk (f : FieldSpec) (x : Ext) : Bool :=
  if x.e.getLsbD 7 then x.e.toNat % 8 == 0 && (f.operand (x.e.toNat / 8 % 4)).vector
  else x.e == 0#8

/-- The value IMM8 or the literal in its place gives, as far as range rules read it. -/
def immByte (f : FieldSpec) (x : Ext) : Nat :=
  match f.lit, x.lit with
  | .imm _, some l => l.toNat % 256
  | _, _ => x.imm.toNat

def ImmRule.ok (r : ImmRule) (n : Nat) : Bool :=
  match r with
  | .zero => n == 0
  | .any => true
  | .upTo m => n ≤ m
  | .range lo hi => lo ≤ n && n ≤ hi

/-- R186: the literal is one the instruction takes, replaces a field that is 0, and has legal high bits. -/
def litRuleOk (f : FieldSpec) (x : Ext) : Bool :=
  match x.lit, f.lit with
  | none, _ => true
  | some _, .no => false
  | some l, .b n => x.b == 0#8 && litOk n l
  | some l, .imm n => x.imm == 0#8 && litOk n l

/-- Whether a literal stands for operand B: not where it replaces the immediate (R186). -/
def FieldSpec.litB (f : FieldSpec) (x : Ext) : Bool := match x.lit, f.lit with
  | some _, .b _ => true
  | _, _ => false

/-- Every check of R199 step 2 on an extended form. -/
def checkExt (f : FieldSpec) (x : Ext) : Bool :=
  f.tys.contains x.ty.toNat &&
  (if f.hint then x.hint.toNat ≤ 4 else x.hint == 0#3) &&
  (if f.rnd then x.rnd.toNat ≤ 3 else x.rnd == 0#3) &&
  (f.sat || !x.sat) && (f.mod || x.mod == 0#4) &&
  f.imm.ok (immByte f x) && litRuleOk f x &&
  f.d.ok x.d && f.a.ok x.a && (f.b.ok x.b || (f.litB x && x.b == 0#8)) && f.c.ok x.c &&
  (if f.e == .ix then ixOk f x else f.e.ok x.e) &&
  f.own

/-- R182, R186: a literal of a base form replaces operand B or imm7, whose field is then 0. -/
def baseLitOk (bits : Nat) (field : Nat) : Option DWord → Bool
  | none => true
  | some l => field == 0 && litOk bits l

/-- The instruction is one its encoding admits. Walker words and events have no rule of this kind but
R333's "`WRUN` with yd = yb", which is a fault when the word runs. -/
def Instr.wellFormed (i : Instr) : Bool :=
  match i with
  | .loop _ _ s => s != 0#6
  | .apply _ _ _ va nc vb nw => nc.toNat ≤ 8 && nw.toNat ≤ 8 && (nc != 0#4 || va == 0#8) && (nw != 0#4 || vb == 0#8)
  | .wrun yd yb _ _ => yd != yb
  | .horBase _ d _ _ => 2 ≤ d.toNat
  | .handBase _ d _ _ => 2 ≤ d.toNat
  | .handnBase _ d _ _ => 2 ≤ d.toNat
  | .hxorBase _ d _ _ => 2 ≤ d.toNat
  | .hnotBase _ d _ => 2 ≤ d.toNat
  | .hmovBase _ d _ => 2 ≤ d.toNat
  | .hmembBase _ _ _ b l => baseLitOk 64 b.toNat l
  | .hposBase _ _ _ b l => baseLitOk 64 b.toNat l
  | .iaddBase _ _ _ b l => baseLitOk 32 b.toNat l
  | .isubBase _ _ _ b l => baseLitOk 32 b.toNat l
  | .andBase _ _ _ b l => baseLitOk 32 b.toNat l
  | .orBase _ _ _ b l => baseLitOk 32 b.toNat l
  | .xorBase _ _ _ b l => baseLitOk 32 b.toNat l
  | .faddBase _ _ _ b l => baseLitOk 32 b.toNat l
  | .fmulBase _ _ _ b l => baseLitOk 32 b.toNat l
  | .shlBase _ _ _ n l => baseLitOk 32 n.toNat l
  | .shrBase _ _ _ n l => baseLitOk 32 n.toNat l
  | .saddBase _ _ _ b l => baseLitOk 64 b.toNat l && (l.isSome || b != 0#6)
  | i =>
    match i.fields with
    | none => true
    | some f =>
      match i.ext? with
      | none => true
      | some x => checkExt f x

end Sys2Proof
end

