-- ==== Sys2Proof/Decode.lean ====
section
/-! DEFINITION. The decoder, total on any bytes and rejecting by name, and the encoder, written from the encoding
tables of R180-R199 and, for the walker, R331-R333. -/

namespace Sys2Proof

/-- Why a word sequence is not an instruction (R199 steps 1 and 2). -/
inductive BadKind where
  /-- fewer bytes than the instruction's length -/
  | truncated
  | illop
  | illenc
  deriving DecidableEq, Repr, Inhabited

/-- What the machine needs of words that are no instruction. -/
structure Bad where
  kind : BadKind
  /-- the words name a PRIV instruction other than `ERET`, or `MTS` to a privileged register: ILLOP outside
  the system context comes before ILLENC (R199) -/
  priv : Bool
  words : Nat
  m : Marks
  /-- the major opcode is that of `APPLY`, which numbers its checks (R206) -/
  apply : Bool := false
  deriving DecidableEq, Repr, Inhabited

/-- R180: the words of an instruction, from L. -/
def lengthOf (w : Word) : Nat :=
  match w.toNat % 4 with
  | 0 => 1
  | 1 => 3
  | 2 => 3
  | _ => 5

/-- Little-endian bytes of a word (R5). -/
def wordBytes (w : Word) : List Byte :=
  [w.extractLsb' 0 8, w.extractLsb' 8 8, w.extractLsb' 16 8, w.extractLsb' 24 8]

/-- The word of four little-endian bytes. -/
def wordOf (b0 b1 b2 b3 : Byte) : Word := b3 ++ b2 ++ b1 ++ b0

def Cond.code : Cond → BitVec 7
  | .eq => 0#7
  | .ne => 1#7
  | .lt => 2#7
  | .le => 3#7
  | .gt => 4#7
  | .ge => 5#7
  | .nan => 6#7
  | .num => 7#7

def Cond.ofCode : Nat → Option Cond
  | 0 => some .eq
  | 1 => some .ne
  | 2 => some .lt
  | 3 => some .le
  | 4 => some .gt
  | 5 => some .ge
  | 6 => some .nan
  | 7 => some .num
  | _ => none

def KOp.code : KOp → BitVec 8
  | .and => 0#8
  | .or => 1#8
  | .xor => 2#8
  | .andn => 3#8
  | .not => 4#8
  | .mov => 5#8

def KOp.ofCode : Nat → Option KOp
  | 0 => some .and
  | 1 => some .or
  | 2 => some .xor
  | 3 => some .andn
  | 4 => some .not
  | 5 => some .mov
  | _ => none

def ShflMode.code : ShflMode → BitVec 8
  | .idx => 0#8
  | .up => 1#8
  | .down => 2#8
  | .xor => 3#8

def ShflMode.ofCode : Nat → Option ShflMode
  | 0 => some .idx
  | 1 => some .up
  | 2 => some .down
  | 3 => some .xor
  | _ => none

def RedOp.code : RedOp → BitVec 4
  | .add => 0#4
  | .min => 1#4
  | .max => 2#4
  | .and => 3#4
  | .or => 4#4
  | .xor => 5#4
  | .fadd => 6#4
  | .fmin => 7#4
  | .fmax => 8#4

def RedOp.ofCode : Nat → Option RedOp
  | 0 => some .add
  | 1 => some .min
  | 2 => some .max
  | 3 => some .and
  | 4 => some .or
  | 5 => some .xor
  | 6 => some .fadd
  | 7 => some .fmin
  | 8 => some .fmax
  | _ => none

def AtomOp.code : AtomOp → BitVec 8
  | .add => 0#8
  | .min => 1#8
  | .max => 2#8
  | .and => 3#8
  | .or => 4#8
  | .xor => 5#8
  | .exch => 6#8
  | .cas => 7#8
  | .fadd => 8#8

def AtomOp.ofCode : Nat → Option AtomOp
  | 0 => some .add
  | 1 => some .min
  | 2 => some .max
  | 3 => some .and
  | 4 => some .or
  | 5 => some .xor
  | 6 => some .exch
  | 7 => some .cas
  | 8 => some .fadd
  | _ => none

/-- R197, R198: the extended instruction of a major and a sub-opcode; none where MAJ is not an extended major
or SUB is not assigned (ILLOP). -/
def Instr.ofExt (maj sub : Nat) (x : Ext) : Option Instr :=
  match maj with
  | 0x10 => (Cond.ofCode (sub % 128)).map fun c => .htest c (128 ≤ sub) x
  | 0x11 => (Cond.ofCode (sub % 128)).map fun c => .htesti c (128 ≤ sub) x
  | 0x12 => if sub % 128 == 0 then some (.hbit (128 ≤ sub) x) else none
  | 0x13 =>
    match sub with
    | 0 => some (.horExt x)
    | 1 => some (.handExt x)
    | 2 => some (.handnExt x)
    | 3 => some (.hxorExt x)
    | 4 => some (.hnotExt x)
    | 5 => some (.hmovExt x)
    | _ => none
  | 0x14 =>
    match sub with
    | 0 => some (.hcntExt x)
    | 1 => some (.hfirstExt x)
    | 2 => some (.hmembExt x)
    | 3 => some (.hposExt x)
    | _ => none
  | 0x15 =>
    match sub with
    | 0 => some (.hpick x)
    | 1 => some (.hrange x)
    | _ => none
  | 0x16 =>
    match sub with
    | 0 => some (.hfence x)
    | _ => none
  | 0x20 =>
    match sub with
    | 0 => some (.iaddExt x)
    | _ => none
  | 0x21 =>
    match sub with
    | 0 => some (.isubExt x)
    | _ => none
  | 0x22 =>
    match sub with
    | 0 => some (.imul x)
    | _ => none
  | 0x23 =>
    match sub with
    | 0 => some (.imulh x)
    | _ => none
  | 0x24 =>
    match sub with
    | 0 => some (.imad x)
    | _ => none
  | 0x25 =>
    match sub with
    | 0 => some (.imin x)
    | _ => none
  | 0x26 =>
    match sub with
    | 0 => some (.imax x)
    | _ => none
  | 0x27 =>
    match sub with
    | 0 => some (.iabs x)
    | _ => none
  | 0x28 => (Cond.ofCode sub).map fun c => .iset c x
  | 0x29 =>
    match sub with
    | 0 => some (.sel x)
    | _ => none
  | 0x2A =>
    match sub with
    | 0 => some (.andExt x)
    | _ => none
  | 0x2B =>
    match sub with
    | 0 => some (.orExt x)
    | _ => none
  | 0x2C =>
    match sub with
    | 0 => some (.xorExt x)
    | _ => none
  | 0x2D =>
    match sub with
    | 0 => some (.lut3 x)
    | _ => none
  | 0x2E =>
    match sub with
    | 0 => some (.shlExt x)
    | _ => none
  | 0x2F =>
    match sub with
    | 0 => some (.shrExt x)
    | _ => none
  | 0x30 =>
    match sub with
    | 0 => some (.sar x)
    | _ => none
  | 0x31 =>
    match sub with
    | 0 => some (.fshl x)
    | _ => none
  | 0x32 =>
    match sub with
    | 0 => some (.fshr x)
    | _ => none
  | 0x33 =>
    match sub with
    | 0 => some (.popc x)
    | 1 => some (.clz x)
    | 2 => some (.brev x)
    | _ => none
  | 0x34 =>
    match sub with
    | 0 => some (.bfe x)
    | _ => none
  | 0x35 =>
    match sub with
    | 0 => some (.bfi x)
    | _ => none
  | 0x36 =>
    match sub with
    | 0 => some (.movExt x)
    | _ => none
  | 0x37 =>
    match sub with
    | 0 => some (.movi x)
    | _ => none
  | 0x38 =>
    match sub with
    | 0 => some (.saddExt x)
    | 1 => some (.ssub x)
    | 2 => some (.smul x)
    | 3 => some (.sand x)
    | 4 => some (.sor x)
    | 5 => some (.sxor x)
    | 6 => some (.sshl x)
    | 7 => some (.sshr x)
    | 8 => some (.smin x)
    | 9 => some (.smax x)
    | 10 => some (.smovExt x)
    | 11 => some (.smovi x)
    | _ => none
  | 0x39 => (Cond.ofCode sub).map fun c => .scmp c x
  | 0x3A => (KOp.ofCode sub).map fun o => .kop o x
  | 0x50 => (ShflMode.ofCode sub).map fun o => .shfl o x
  | 0x51 => (RedOp.ofCode sub).map fun o => .lred o x
  | 0x52 => (RedOp.ofCode (sub % 128)).map fun o => .lscan (128 ≤ sub) o x
  | 0x53 =>
    match sub with
    | 0 => some (.vbcast x)
    | _ => none
  | 0x54 =>
    match sub with
    | 0 => some (.vlane x)
    | _ => none
  | 0x55 => if sub < 4 then some (.topki (BitVec.ofNat 2 sub) x) else none
  | 0x40 =>
    match sub with
    | 0 => some (.faddExt x)
    | _ => none
  | 0x41 =>
    match sub with
    | 0 => some (.fsub x)
    | _ => none
  | 0x42 =>
    match sub with
    | 0 => some (.fmulExt x)
    | _ => none
  | 0x43 =>
    match sub with
    | 0 => some (.ffma x)
    | _ => none
  | 0x44 =>
    match sub with
    | 0 => some (.fmin x)
    | _ => none
  | 0x45 =>
    match sub with
    | 0 => some (.fmax x)
    | _ => none
  | 0x46 => (Cond.ofCode sub).map fun c => .fset c x
  | 0x47 =>
    match sub with
    | 0 => some (.fclass x)
    | _ => none
  | 0x48 =>
    match sub with
    | 0 => some (.frnd x)
    | _ => none
  | 0x49 =>
    match sub with
    | 0 => some (.fdiv x)
    | _ => none
  | 0x4A =>
    match sub with
    | 0 => some (.fsqrt x)
    | _ => none
  | 0x4B =>
    match sub with
    | 0 => some (.frcp x)
    | 1 => some (.frsq x)
    | 2 => some (.fexp2 x)
    | 3 => some (.flog2 x)
    | 4 => some (.fsin x)
    | 5 => some (.fcos x)
    | 6 => some (.ftanh x)
    | _ => none
  | 0x4C => if sub < 32 then some (.cvt (BitVec.ofNat 5 sub) x) else none
  | 0x4D =>
    match sub with
    | 0 => some (.bfpq x)
    | _ => none
  | 0x4E =>
    match sub with
    | 0 => some (.bfpx x)
    | _ => none
  | 0x4F =>
    match sub with
    | 0 => some (.fmtw x)
    | _ => none
  | 0x58 =>
    match sub with
    | 0 => some (.ld x)
    | _ => none
  | 0x59 =>
    match sub with
    | 0 => some (.st x)
    | _ => none
  | 0x5A =>
    match sub with
    | 0 => some (.lds x)
    | _ => none
  | 0x5B =>
    match sub with
    | 0 => some (.sts x)
    | _ => none
  | 0x5C => (AtomOp.ofCode sub).map fun o => .atom o x
  | 0x5D => (AtomOp.ofCode sub).bind fun o => if o.reduces then some (.sred o x) else none
  | 0x5E =>
    match sub with
    | 0 => some (.pref x)
    | _ => none
  | 0x5F =>
    match sub with
    | 0 => some (.ldo x)
    | _ => none
  | 0x60 =>
    match sub with
    | 0 => some (.sto x)
    | _ => none
  | 0x61 =>
    match sub with
    | 0 => some (.ldc x)
    | _ => none
  | 0x62 =>
    match sub with
    | 0 => some (.stp x)
    | _ => none
  | 0x63 =>
    match sub with
    | 0 => some (.smap x)
    | 1 => some (.sflush x)
    | 2 => some (.sinv x)
    | _ => none
  | 0x64 =>
    match sub with
    | 0 => some (.bld x)
    | 1 => some (.bset x)
    | _ => none
  | 0x65 =>
    match sub with
    | 0 => some (.hld x)
    | 1 => some (.hst x)
    | _ => none
  | 0x66 => if sub < 32 then some (.fence (BitVec.ofNat 2 (sub / 8)) (BitVec.ofNat 3 (sub % 8)) x) else none
  | 0x67 =>
    match sub with
    | 0 => some (.waitc x)
    | _ => none
  | 0x68 =>
    match sub with
    | 0 => some (.sbinit x)
    | 1 => some (.sbexp x)
    | 2 => some (.sbarv x)
    | 3 => some (.sbwait x)
    | _ => none
  | 0x69 =>
    match sub with
    | 0 => some (.barHand x)
    | 1 => some (.barGang x)
    | _ => none
  | 0x6A =>
    match sub with
    | 0 => some (.tdef x)
    | 1 => some (.trel x)
    | 2 => some (.tstat x)
    | _ => none
  | 0x6B =>
    match sub with
    | 0 => some (.mma x)
    | _ => none
  | 0x6C =>
    match sub with
    | 0 => some (.mzero x)
    | 1 => some (.mload x)
    | 2 => some (.mdrain x)
    | _ => none
  | 0x6D =>
    match sub with
    | 0 => some (.cpy x)
    | 1 => some (.cpo x)
    | 2 => some (.gath x)
    | _ => none
  | 0x6E =>
    match sub with
    | 0 => some (.qpost x)
    | 1 => some (.qpop x)
    | 2 => some (.launch x)
    | 3 => some (.cmpl x)
    | _ => none
  | 0x6F =>
    match sub with
    | 0 => some (.rtsend x)
    | 1 => some (.rtflush x)
    | 2 => some (.rtrecv x)
    | 3 => some (.rtrel x)
    | _ => none
  | 0x70 =>
    match sub with
    | 0 => some (.spill x)
    | 1 => some (.fill x)
    | 2 => some (.tokw x)
    | _ => none
  | 0x71 =>
    match sub with
    | 0 => some (.vdec x)
    | 1 => some (.vdstat x)
    | _ => none
  | 0x72 =>
    match sub with
    | 0 => some (.auct x)
    | 1 => some (.aust x)
    | _ => none
  | 0x73 =>
    match sub with
    | 0 => some (.fork x)
    | 1 => some (.grwd x)
    | 2 => some (.gbar x)
    | 3 => some (.gcancel x)
    | 4 => some (.gstat x)
    | _ => none
  | 0x74 =>
    match sub with
    | 0 => some (.walk x)
    | _ => none
  | 0x7C =>
    match sub with
    | 0 => some (.mfs x)
    | _ => none
  | 0x7D =>
    match sub with
    | 0 => some (.mts x)
    | _ => none
  | 0x7E =>
    match sub with
    | 0 => some (.trap x)
    | 1 => some (.bkpt x)
    | 2 => some (.dmbx x)
    | _ => none
  | 0x7F =>
    match sub with
    | 0 => some (.eret x)
    | 1 => some (.fpop x)
    | 2 => some (.fres x)
    | 3 => some (.tlbi x)
    | 4 => some (.biasf x)
    | 5 => some (.ctxs x)
    | 6 => some (.ctxl x)
    | _ => none
  | _ => none

/-- MAJ and SUB of an extended instruction (R195-R198). -/
def Instr.key : Instr → BitVec 7 × BitVec 8
  | .htest c m _ => (0x10#7, (BitVec.ofBool m ++ c.code))
  | .htesti c m _ => (0x11#7, (BitVec.ofBool m ++ c.code))
  | .hbit m _ => (0x12#7, (BitVec.ofBool m ++ 0#7))
  | .horExt _ => (0x13#7, 0#8)
  | .handExt _ => (0x13#7, 1#8)
  | .handnExt _ => (0x13#7, 2#8)
  | .hxorExt _ => (0x13#7, 3#8)
  | .hnotExt _ => (0x13#7, 4#8)
  | .hmovExt _ => (0x13#7, 5#8)
  | .hcntExt _ => (0x14#7, 0#8)
  | .hfirstExt _ => (0x14#7, 1#8)
  | .hmembExt _ => (0x14#7, 2#8)
  | .hposExt _ => (0x14#7, 3#8)
  | .hpick _ => (0x15#7, 0#8)
  | .hrange _ => (0x15#7, 1#8)
  | .hfence _ => (0x16#7, 0#8)
  | .iaddExt _ => (0x20#7, 0#8)
  | .isubExt _ => (0x21#7, 0#8)
  | .imul _ => (0x22#7, 0#8)
  | .imulh _ => (0x23#7, 0#8)
  | .imad _ => (0x24#7, 0#8)
  | .imin _ => (0x25#7, 0#8)
  | .imax _ => (0x26#7, 0#8)
  | .iabs _ => (0x27#7, 0#8)
  | .iset c _ => (0x28#7, (0#1 ++ c.code))
  | .sel _ => (0x29#7, 0#8)
  | .andExt _ => (0x2A#7, 0#8)
  | .orExt _ => (0x2B#7, 0#8)
  | .xorExt _ => (0x2C#7, 0#8)
  | .lut3 _ => (0x2D#7, 0#8)
  | .shlExt _ => (0x2E#7, 0#8)
  | .shrExt _ => (0x2F#7, 0#8)
  | .sar _ => (0x30#7, 0#8)
  | .fshl _ => (0x31#7, 0#8)
  | .fshr _ => (0x32#7, 0#8)
  | .popc _ => (0x33#7, 0#8)
  | .clz _ => (0x33#7, 1#8)
  | .brev _ => (0x33#7, 2#8)
  | .bfe _ => (0x34#7, 0#8)
  | .bfi _ => (0x35#7, 0#8)
  | .movExt _ => (0x36#7, 0#8)
  | .movi _ => (0x37#7, 0#8)
  | .saddExt _ => (0x38#7, 0#8)
  | .ssub _ => (0x38#7, 1#8)
  | .smul _ => (0x38#7, 2#8)
  | .sand _ => (0x38#7, 3#8)
  | .sor _ => (0x38#7, 4#8)
  | .sxor _ => (0x38#7, 5#8)
  | .sshl _ => (0x38#7, 6#8)
  | .sshr _ => (0x38#7, 7#8)
  | .smin _ => (0x38#7, 8#8)
  | .smax _ => (0x38#7, 9#8)
  | .smovExt _ => (0x38#7, 10#8)
  | .smovi _ => (0x38#7, 11#8)
  | .scmp c _ => (0x39#7, (0#1 ++ c.code))
  | .kop o _ => (0x3A#7, o.code)
  | .shfl o _ => (0x50#7, o.code)
  | .lred o _ => (0x51#7, (0#4 ++ o.code))
  | .lscan excl o _ => (0x52#7, (BitVec.ofBool excl ++ 0#3 ++ o.code))
  | .vbcast _ => (0x53#7, 0#8)
  | .vlane _ => (0x54#7, 0#8)
  | .topki k _ => (0x55#7, (0#6 ++ k))
  | .faddExt _ => (0x40#7, 0#8)
  | .fsub _ => (0x41#7, 0#8)
  | .fmulExt _ => (0x42#7, 0#8)
  | .ffma _ => (0x43#7, 0#8)
  | .fmin _ => (0x44#7, 0#8)
  | .fmax _ => (0x45#7, 0#8)
  | .fset c _ => (0x46#7, (0#1 ++ c.code))
  | .fclass _ => (0x47#7, 0#8)
  | .frnd _ => (0x48#7, 0#8)
  | .fdiv _ => (0x49#7, 0#8)
  | .fsqrt _ => (0x4A#7, 0#8)
  | .frcp _ => (0x4B#7, 0#8)
  | .frsq _ => (0x4B#7, 1#8)
  | .fexp2 _ => (0x4B#7, 2#8)
  | .flog2 _ => (0x4B#7, 3#8)
  | .fsin _ => (0x4B#7, 4#8)
  | .fcos _ => (0x4B#7, 5#8)
  | .ftanh _ => (0x4B#7, 6#8)
  | .cvt src _ => (0x4C#7, (0#3 ++ src))
  | .bfpq _ => (0x4D#7, 0#8)
  | .bfpx _ => (0x4E#7, 0#8)
  | .fmtw _ => (0x4F#7, 0#8)
  | .ld _ => (0x58#7, 0#8)
  | .st _ => (0x59#7, 0#8)
  | .lds _ => (0x5A#7, 0#8)
  | .sts _ => (0x5B#7, 0#8)
  | .atom o _ => (0x5C#7, o.code)
  | .sred o _ => (0x5D#7, o.code)
  | .pref _ => (0x5E#7, 0#8)
  | .ldo _ => (0x5F#7, 0#8)
  | .sto _ => (0x60#7, 0#8)
  | .ldc _ => (0x61#7, 0#8)
  | .stp _ => (0x62#7, 0#8)
  | .smap _ => (0x63#7, 0#8)
  | .sflush _ => (0x63#7, 1#8)
  | .sinv _ => (0x63#7, 2#8)
  | .bld _ => (0x64#7, 0#8)
  | .bset _ => (0x64#7, 1#8)
  | .hld _ => (0x65#7, 0#8)
  | .hst _ => (0x65#7, 1#8)
  | .fence order scope _ => (0x66#7, (0#3 ++ order ++ scope))
  | .waitc _ => (0x67#7, 0#8)
  | .sbinit _ => (0x68#7, 0#8)
  | .sbexp _ => (0x68#7, 1#8)
  | .sbarv _ => (0x68#7, 2#8)
  | .sbwait _ => (0x68#7, 3#8)
  | .barHand _ => (0x69#7, 0#8)
  | .barGang _ => (0x69#7, 1#8)
  | .tdef _ => (0x6A#7, 0#8)
  | .trel _ => (0x6A#7, 1#8)
  | .tstat _ => (0x6A#7, 2#8)
  | .mma _ => (0x6B#7, 0#8)
  | .mzero _ => (0x6C#7, 0#8)
  | .mload _ => (0x6C#7, 1#8)
  | .mdrain _ => (0x6C#7, 2#8)
  | .cpy _ => (0x6D#7, 0#8)
  | .cpo _ => (0x6D#7, 1#8)
  | .gath _ => (0x6D#7, 2#8)
  | .qpost _ => (0x6E#7, 0#8)
  | .qpop _ => (0x6E#7, 1#8)
  | .launch _ => (0x6E#7, 2#8)
  | .cmpl _ => (0x6E#7, 3#8)
  | .rtsend _ => (0x6F#7, 0#8)
  | .rtflush _ => (0x6F#7, 1#8)
  | .rtrecv _ => (0x6F#7, 2#8)
  | .rtrel _ => (0x6F#7, 3#8)
  | .spill _ => (0x70#7, 0#8)
  | .fill _ => (0x70#7, 1#8)
  | .tokw _ => (0x70#7, 2#8)
  | .vdec _ => (0x71#7, 0#8)
  | .vdstat _ => (0x71#7, 1#8)
  | .auct _ => (0x72#7, 0#8)
  | .aust _ => (0x72#7, 1#8)
  | .fork _ => (0x73#7, 0#8)
  | .grwd _ => (0x73#7, 1#8)
  | .gbar _ => (0x73#7, 2#8)
  | .gcancel _ => (0x73#7, 3#8)
  | .gstat _ => (0x73#7, 4#8)
  | .walk _ => (0x74#7, 0#8)
  | .mfs _ => (0x7C#7, 0#8)
  | .mts _ => (0x7D#7, 0#8)
  | .trap _ => (0x7E#7, 0#8)
  | .bkpt _ => (0x7E#7, 1#8)
  | .dmbx _ => (0x7E#7, 2#8)
  | .eret _ => (0x7F#7, 0#8)
  | .fpop _ => (0x7F#7, 1#8)
  | .fres _ => (0x7F#7, 2#8)
  | .tlbi _ => (0x7F#7, 3#8)
  | .biasf _ => (0x7F#7, 4#8)
  | .ctxs _ => (0x7F#7, 5#8)
  | .ctxl _ => (0x7F#7, 6#8)
  | .nop .. => (0x7B#7, 0#8)
  | .bra .. => (0x7B#7, 0#8)
  | .brc .. => (0x7B#7, 0#8)
  | .bhe .. => (0x7B#7, 0#8)
  | .bhn .. => (0x7B#7, 0#8)
  | .loop .. => (0x7B#7, 0#8)
  | .call .. => (0x7B#7, 0#8)
  | .calls .. => (0x7B#7, 0#8)
  | .ret .. => (0x7B#7, 0#8)
  | .apply .. => (0x7B#7, 0#8)
  | .done .. => (0x7B#7, 0#8)
  | .yield .. => (0x7B#7, 0#8)
  | .exit .. => (0x7B#7, 0#8)
  | .horBase .. => (0x7B#7, 0#8)
  | .handBase .. => (0x7B#7, 0#8)
  | .handnBase .. => (0x7B#7, 0#8)
  | .hxorBase .. => (0x7B#7, 0#8)
  | .hnotBase .. => (0x7B#7, 0#8)
  | .hmovBase .. => (0x7B#7, 0#8)
  | .hcntBase .. => (0x7B#7, 0#8)
  | .hfirstBase .. => (0x7B#7, 0#8)
  | .hmembBase .. => (0x7B#7, 0#8)
  | .hposBase .. => (0x7B#7, 0#8)
  | .iaddBase .. => (0x7B#7, 0#8)
  | .isubBase .. => (0x7B#7, 0#8)
  | .andBase .. => (0x7B#7, 0#8)
  | .orBase .. => (0x7B#7, 0#8)
  | .xorBase .. => (0x7B#7, 0#8)
  | .shlBase .. => (0x7B#7, 0#8)
  | .shrBase .. => (0x7B#7, 0#8)
  | .movBase .. => (0x7B#7, 0#8)
  | .saddBase .. => (0x7B#7, 0#8)
  | .smovBase .. => (0x7B#7, 0#8)
  | .faddBase .. => (0x7B#7, 0#8)
  | .fmulBase .. => (0x7B#7, 0#8)
  | .wend .. => (0x7B#7, 0#8)
  | .wldi .. => (0x7B#7, 0#8)
  | .wadd .. => (0x7B#7, 0#8)
  | .wsub .. => (0x7B#7, 0#8)
  | .wand .. => (0x7B#7, 0#8)
  | .wshr .. => (0x7B#7, 0#8)
  | .wcmp .. => (0x7B#7, 0#8)
  | .wbr .. => (0x7B#7, 0#8)
  | .wbz .. => (0x7B#7, 0#8)
  | .wblt .. => (0x7B#7, 0#8)
  | .wld .. => (0x7B#7, 0#8)
  | .wbmn .. => (0x7B#7, 0#8)
  | .wrun .. => (0x7B#7, 0#8)
  | .wemit .. => (0x7B#7, 0#8)
  | .wrow .. => (0x7B#7, 0#8)
  | .wpush .. => (0x7B#7, 0#8)
  | .wpop .. => (0x7B#7, 0#8)
  | .wsync .. => (0x7B#7, 0#8)
  | .packFormation .. => (0x7B#7, 0#8)
  | .applyJoin .. => (0x7B#7, 0#8)
  | .handWriteCommit .. => (0x7B#7, 0#8)
  | .stageBarrierCredit .. => (0x7B#7, 0#8)
  | .matrixCommandPerform .. => (0x7B#7, 0#8)
  | .copyCommandStart .. => (0x7B#7, 0#8)
  | .enginePortionComplete .. => (0x7B#7, 0#8)
  | .commandRetire .. => (0x7B#7, 0#8)
  | .completionPostHeld .. => (0x7B#7, 0#8)
  | .sendListAppend .. => (0x7B#7, 0#8)
  | .frameFormation .. => (0x7B#7, 0#8)
  | .tokenIdle .. => (0x7B#7, 0#8)
  | .decodeStart .. => (0x7B#7, 0#8)
  | .decodeFrame .. => (0x7B#7, 0#8)
  | .auctionStart .. => (0x7B#7, 0#8)
  | .auctionRound .. => (0x7B#7, 0#8)
  | .auctionSave .. => (0x7B#7, 0#8)
  | .auctionRestore .. => (0x7B#7, 0#8)
  | .groupRewardPerform .. => (0x7B#7, 0#8)
  | .groupCancelPerform .. => (0x7B#7, 0#8)
  | .cancelRedirect .. => (0x7B#7, 0#8)
  | .groupDeadline .. => (0x7B#7, 0#8)
  | .groupAgeWrite .. => (0x7B#7, 0#8)
  | .groupAgePause .. => (0x7B#7, 0#8)
  | .walkStart .. => (0x7B#7, 0#8)
  | .walkerStepLimit .. => (0x7B#7, 0#8)
  | .walkStop .. => (0x7B#7, 0#8)
  | .loadDataReturn .. => (0x7B#7, 0#8)
  | .pageTableWalk .. => (0x7B#7, 0#8)
  | .missRetry .. => (0x7B#7, 0#8)
  | .writePerformAtHome .. => (0x7B#7, 0#8)
  | .memorySideAtomic .. => (0x7B#7, 0#8)
  | .stashRemoteRequest .. => (0x7B#7, 0#8)
  | .directoryEvict .. => (0x7B#7, 0#8)
  | .dupCollapse .. => (0x7B#7, 0#8)
  | .dupCollapseAck .. => (0x7B#7, 0#8)
  | .biasFlipComplete .. => (0x7B#7, 0#8)
  | .hostCxlMemAccess .. => (0x7B#7, 0#8)
  | .eccUncorrectable .. => (0x7B#7, 0#8)
  | .eccCorrected .. => (0x7B#7, 0#8)
  | .frameRelease .. => (0x7B#7, 0#8)
  | .launchUnitVisit .. => (0x7B#7, 0#8)
  | .gangHandout .. => (0x7B#7, 0#8)
  | .stealMessage .. => (0x7B#7, 0#8)
  | .gangPlace .. => (0x7B#7, 0#8)
  | .engineCommandAccept .. => (0x7B#7, 0#8)
  | .longWaitThreshold .. => (0x7B#7, 0#8)
  | .gangSave .. => (0x7B#7, 0#8)
  | .watchedCondition .. => (0x7B#7, 0#8)
  | .rendezvousTimeout .. => (0x7B#7, 0#8)
  | .gangComplete .. => (0x7B#7, 0#8)
  | .gangKill .. => (0x7B#7, 0#8)
  | .preemptRequest .. => (0x7B#7, 0#8)
  | .preemptTimeout .. => (0x7B#7, 0#8)
  | .resumeRequest .. => (0x7B#7, 0#8)
  | .dataFrame .. => (0x7B#7, 0#8)
  | .ackFrame .. => (0x7B#7, 0#8)
  | .returnFrame .. => (0x7B#7, 0#8)
  | .resendTimeout .. => (0x7B#7, 0#8)
  | .ethernetPacketReceive .. => (0x7B#7, 0#8)
  | .recoveryGo .. => (0x7B#7, 0#8)
  | .launchQueueControl .. => (0x7B#7, 0#8)
  | .launchDoorbell .. => (0x7B#7, 0#8)
  | .hostQueuePost .. => (0x7B#7, 0#8)
  | .routeSync .. => (0x7B#7, 0#8)
  | .contextSync .. => (0x7B#7, 0#8)
  | .tableBaseWrite .. => (0x7B#7, 0#8)
  | .registerWrite .. => (0x7B#7, 0#8)
  | .powerOn .. => (0x7B#7, 0#8)
  | .moduleReset .. => (0x7B#7, 0#8)
  | .firmwareUpdate .. => (0x7B#7, 0#8)
  | .spdmRequest .. => (0x7B#7, 0#8)
  | .fencedCoreMapUpdate .. => (0x7B#7, 0#8)
  | .izsilConfigSet .. => (0x7B#7, 0#8)
  | .powerLimit .. => (0x7B#7, 0#8)
  | .thermalThrottle .. => (0x7B#7, 0#8)
  | .thermalStop .. => (0x7B#7, 0#8)
  | .powerLoss .. => (0x7B#7, 0#8)
  | .hostWriteToHostMemory .. => (0x7B#7, 0#8)

/-- R183: the words of an extended form. -/
def encodeExt (maj : BitVec 7) (sub : BitVec 8) (x : Ext) : List Word :=
  let l : BitVec 2 := if x.lit.isSome then 3#2 else 1#2
  let w0 : Word := 0#5 ++ x.hint ++ x.ty ++ sub ++ maj ++ BitVec.ofBool x.m.sp ++ BitVec.ofBool x.m.sw ++ l
  let w1 : Word := x.c ++ x.b ++ x.a ++ x.d
  let w2 : Word := x.imm ++ x.mod ++ BitVec.ofBool x.sat ++ x.rnd ++ x.g2 ++ x.g1 ++ x.e
  match x.lit with
  | none => [w0, w1, w2]
  | some v => [w0, w1, w2, v.extractLsb' 0 32, v.extractLsb' 32 32]

/-- The words of a base form from its bits [31:11], and of its literal. -/
def encodeBase (m : Marks) (maj : BitVec 7) (hi : BitVec 21) (lit : Option DWord) : List Word :=
  match lit with
  | none => [hi ++ maj ++ BitVec.ofBool m.sp ++ BitVec.ofBool m.sw ++ 0#2]
  | some v =>
    [hi ++ maj ++ BitVec.ofBool m.sp ++ BitVec.ofBool m.sw ++ 2#2, v.extractLsb' 0 32, v.extractLsb' 32 32]

/-- R181: the literal of `APPLY`. -/
def applyLit (va : BitVec 8) (nc : BitVec 4) (vb : BitVec 8) (nw : BitVec 4) : DWord :=
  0#40 ++ nw ++ vb ++ nc ++ va

/-- R331: a walker word. -/
def encodeWalk (imm : BitVec 14) (yb ya yd : BitVec 4) (op : BitVec 6) : List Word := [imm ++ yb ++ ya ++ yd ++ op]

/-- The words of an instruction; none for an event, which has no encoding. -/
def Instr.encode (i : Instr) : List Word :=
  match i with
  | .nop m => encodeBase m 0#7 0#21 none
  | .bra m off => encodeBase m 1#7 off none
  | .brc m off inv k => encodeBase m 2#7 (off ++ BitVec.ofBool inv ++ k) none
  | .bhe m off h => encodeBase m 3#7 (off ++ h) none
  | .bhn m off h => encodeBase m 4#7 (off ++ h) none
  | .loop m off s => encodeBase m 5#7 (off ++ s) none
  | .call m off => encodeBase m 6#7 off none
  | .calls m a => encodeBase m 7#7 (0#7 ++ (0#1 ++ a) ++ 0#7) none
  | .ret m => encodeBase m 8#7 0#21 none
  | .apply m off h va nc vb nw => encodeBase m 9#7 (off ++ h) (some (applyLit va nc vb nw))
  | .done m => encodeBase m 10#7 0#21 none
  | .yield m => encodeBase m 11#7 0#21 none
  | .exit m => encodeBase m 12#7 0#21 none
  | .horBase m d a b => encodeBase m 0x13#7 (0#6 ++ 0#3 ++ b ++ a ++ d) none
  | .handBase m d a b => encodeBase m 0x13#7 (0#6 ++ 1#3 ++ b ++ a ++ d) none
  | .handnBase m d a b => encodeBase m 0x13#7 (0#6 ++ 2#3 ++ b ++ a ++ d) none
  | .hxorBase m d a b => encodeBase m 0x13#7 (0#6 ++ 3#3 ++ b ++ a ++ d) none
  | .hnotBase m d a => encodeBase m 0x13#7 (0#6 ++ 4#3 ++ 0#4 ++ a ++ d) none
  | .hmovBase m d a => encodeBase m 0x13#7 (0#6 ++ 5#3 ++ 0#4 ++ a ++ d) none
  | .hcntBase m d a => encodeBase m 0x14#7 (0#2 ++ 0#2 ++ 0#7 ++ a ++ d) none
  | .hfirstBase m d a => encodeBase m 0x14#7 (0#2 ++ 1#2 ++ 0#7 ++ a ++ d) none
  | .hmembBase m d a b lit => encodeBase m 0x14#7 (0#2 ++ 2#2 ++ (0#1 ++ b) ++ a ++ d) lit
  | .hposBase m d a b lit => encodeBase m 0x14#7 (0#2 ++ 3#2 ++ (0#1 ++ b) ++ a ++ d) lit
  | .iaddBase m d a b lit => encodeBase m 0x20#7 (b ++ a ++ d) lit
  | .isubBase m d a b lit => encodeBase m 0x21#7 (b ++ a ++ d) lit
  | .andBase m d a b lit => encodeBase m 0x2A#7 (b ++ a ++ d) lit
  | .orBase m d a b lit => encodeBase m 0x2B#7 (b ++ a ++ d) lit
  | .xorBase m d a b lit => encodeBase m 0x2C#7 (b ++ a ++ d) lit
  | .shlBase m d a n lit => encodeBase m 0x2E#7 ((0#2 ++ n) ++ a ++ d) lit
  | .shrBase m d a n lit => encodeBase m 0x2F#7 ((0#2 ++ n) ++ a ++ d) lit
  | .movBase m d a => encodeBase m 0x36#7 (0#7 ++ a ++ d) none
  | .saddBase m d a b lit => encodeBase m 0x38#7 ((0#1 ++ b) ++ (0#1 ++ a) ++ (0#1 ++ d)) lit
  | .smovBase m d a => encodeBase m 0x38#7 (0#7 ++ (0#1 ++ a) ++ (0#1 ++ d)) none
  | .faddBase m d a b lit => encodeBase m 0x40#7 (b ++ a ++ d) lit
  | .fmulBase m d a b lit => encodeBase m 0x42#7 (b ++ a ++ d) lit
  | .wend => encodeWalk 0#14 0#4 0#4 0#4 0x00#6
  | .wldi yd imm => encodeWalk imm 0#4 0#4 yd 0x01#6
  | .wadd yd ya yb imm => encodeWalk imm yb ya yd 0x02#6
  | .wsub yd ya yb => encodeWalk 0#14 yb ya yd 0x03#6
  | .wand yd ya yb => encodeWalk 0#14 yb ya yd 0x04#6
  | .wshr yd ya n => encodeWalk (0#9 ++ n) 0#4 ya yd 0x05#6
  | .wcmp ya yb => encodeWalk 0#14 yb ya 0#4 0x06#6
  | .wbr t => encodeWalk (0#6 ++ t) 0#4 0#4 0#4 0x07#6
  | .wbz ya t => encodeWalk (0#6 ++ t) 0#4 ya 0#4 0x08#6
  | .wblt t => encodeWalk (0#6 ++ t) 0#4 0#4 0#4 0x09#6
  | .wld yd ya src => encodeWalk (0#10 ++ src) 0#4 ya yd 0x0A#6
  | .wbmn yd ya yb src => encodeWalk (0#11 ++ src) yb ya yd 0x0B#6
  | .wrun yd yb ya src => encodeWalk (0#11 ++ src) yb ya yd 0x0C#6
  | .wemit ya yb => encodeWalk 0#14 yb ya 0#4 0x0D#6
  | .wrow ya => encodeWalk 0#14 0#4 ya 0#4 0x0E#6
  | .wpush ya => encodeWalk 0#14 0#4 ya 0#4 0x0F#6
  | .wpop yd => encodeWalk 0#14 0#4 0#4 yd 0x10#6
  | .wsync => encodeWalk 0#14 0#4 0#4 0#4 0x11#6
  | .packFormation .. => []
  | .applyJoin .. => []
  | .handWriteCommit .. => []
  | .stageBarrierCredit .. => []
  | .matrixCommandPerform .. => []
  | .copyCommandStart .. => []
  | .enginePortionComplete .. => []
  | .commandRetire .. => []
  | .completionPostHeld .. => []
  | .sendListAppend .. => []
  | .frameFormation .. => []
  | .tokenIdle .. => []
  | .decodeStart .. => []
  | .decodeFrame .. => []
  | .auctionStart .. => []
  | .auctionRound .. => []
  | .auctionSave .. => []
  | .auctionRestore .. => []
  | .groupRewardPerform .. => []
  | .groupCancelPerform .. => []
  | .cancelRedirect .. => []
  | .groupDeadline .. => []
  | .groupAgeWrite .. => []
  | .groupAgePause .. => []
  | .walkStart .. => []
  | .walkerStepLimit .. => []
  | .walkStop .. => []
  | .loadDataReturn .. => []
  | .pageTableWalk .. => []
  | .missRetry .. => []
  | .writePerformAtHome .. => []
  | .memorySideAtomic .. => []
  | .stashRemoteRequest .. => []
  | .directoryEvict .. => []
  | .dupCollapse .. => []
  | .dupCollapseAck .. => []
  | .biasFlipComplete .. => []
  | .hostCxlMemAccess .. => []
  | .eccUncorrectable .. => []
  | .eccCorrected .. => []
  | .frameRelease .. => []
  | .launchUnitVisit .. => []
  | .gangHandout .. => []
  | .stealMessage .. => []
  | .gangPlace .. => []
  | .engineCommandAccept .. => []
  | .longWaitThreshold .. => []
  | .gangSave .. => []
  | .watchedCondition .. => []
  | .rendezvousTimeout .. => []
  | .gangComplete .. => []
  | .gangKill .. => []
  | .preemptRequest .. => []
  | .preemptTimeout .. => []
  | .resumeRequest .. => []
  | .dataFrame .. => []
  | .ackFrame .. => []
  | .returnFrame .. => []
  | .resendTimeout .. => []
  | .ethernetPacketReceive .. => []
  | .recoveryGo .. => []
  | .launchQueueControl .. => []
  | .launchDoorbell .. => []
  | .hostQueuePost .. => []
  | .routeSync .. => []
  | .contextSync .. => []
  | .tableBaseWrite .. => []
  | .registerWrite .. => []
  | .powerOn .. => []
  | .moduleReset .. => []
  | .firmwareUpdate .. => []
  | .spdmRequest .. => []
  | .fencedCoreMapUpdate .. => []
  | .izsilConfigSet .. => []
  | .powerLimit .. => []
  | .thermalThrottle .. => []
  | .thermalStop .. => []
  | .powerLoss .. => []
  | .hostWriteToHostMemory .. => []
  | i =>
    match i.ext? with
    | some x => encodeExt i.key.1 i.key.2 x
    | none => []

/-- R181, R182: the base form of word 0, with its literal; none for a major without base forms or an unassigned
SUB (ILLOP). -/
def Instr.ofBase (w : Word) (lit : Option DWord) : Option Instr :=
  let m : Marks := ⟨w.getLsbD 3, w.getLsbD 2⟩
  match (w.extractLsb' 4 7).toNat with
  | 0x00 => some (.nop m)
  | 0x01 => some (.bra m (w.extractLsb' 11 21))
  | 0x02 => some (.brc m (w.extractLsb' 15 17) (w.getLsbD 14) (w.extractLsb' 11 3))
  | 0x03 => some (.bhe m (w.extractLsb' 15 17) (w.extractLsb' 11 4))
  | 0x04 => some (.bhn m (w.extractLsb' 15 17) (w.extractLsb' 11 4))
  | 0x05 => some (.loop m (w.extractLsb' 17 15) (w.extractLsb' 11 6))
  | 0x06 => some (.call m (w.extractLsb' 11 21))
  | 0x07 => some (.calls m (w.extractLsb' 18 6))
  | 0x08 => some (.ret m)
  | 0x09 => lit.map fun l => .apply m (w.extractLsb' 15 17) (w.extractLsb' 11 4) (l.extractLsb' 0 8) (l.extractLsb' 8 4)
      (l.extractLsb' 12 8) (l.extractLsb' 20 4)
  | 0x0A => some (.done m)
  | 0x0B => some (.yield m)
  | 0x0C => some (.exit m)
  | 0x13 =>
    match (w.extractLsb' 23 3).toNat with
    | 0 => some (.horBase m (w.extractLsb' 11 4) (w.extractLsb' 15 4) (w.extractLsb' 19 4))
    | 1 => some (.handBase m (w.extractLsb' 11 4) (w.extractLsb' 15 4) (w.extractLsb' 19 4))
    | 2 => some (.handnBase m (w.extractLsb' 11 4) (w.extractLsb' 15 4) (w.extractLsb' 19 4))
    | 3 => some (.hxorBase m (w.extractLsb' 11 4) (w.extractLsb' 15 4) (w.extractLsb' 19 4))
    | 4 => some (.hnotBase m (w.extractLsb' 11 4) (w.extractLsb' 15 4))
    | 5 => some (.hmovBase m (w.extractLsb' 11 4) (w.extractLsb' 15 4))
    | _ => none
  | 0x14 =>
    match (w.extractLsb' 28 2).toNat with
    | 0 => some (.hcntBase m (w.extractLsb' 11 6) (w.extractLsb' 17 4))
    | 1 => some (.hfirstBase m (w.extractLsb' 11 6) (w.extractLsb' 17 4))
    | 2 => some (.hmembBase m (w.extractLsb' 11 6) (w.extractLsb' 17 4) (w.extractLsb' 21 6) lit)
    | _ => some (.hposBase m (w.extractLsb' 11 6) (w.extractLsb' 17 4) (w.extractLsb' 21 6) lit)
  | 0x20 => some (.iaddBase m (w.extractLsb' 11 7) (w.extractLsb' 18 7) (w.extractLsb' 25 7) lit)
  | 0x21 => some (.isubBase m (w.extractLsb' 11 7) (w.extractLsb' 18 7) (w.extractLsb' 25 7) lit)
  | 0x2A => some (.andBase m (w.extractLsb' 11 7) (w.extractLsb' 18 7) (w.extractLsb' 25 7) lit)
  | 0x2B => some (.orBase m (w.extractLsb' 11 7) (w.extractLsb' 18 7) (w.extractLsb' 25 7) lit)
  | 0x2C => some (.xorBase m (w.extractLsb' 11 7) (w.extractLsb' 18 7) (w.extractLsb' 25 7) lit)
  | 0x40 => some (.faddBase m (w.extractLsb' 11 7) (w.extractLsb' 18 7) (w.extractLsb' 25 7) lit)
  | 0x42 => some (.fmulBase m (w.extractLsb' 11 7) (w.extractLsb' 18 7) (w.extractLsb' 25 7) lit)
  | 0x2E => some (.shlBase m (w.extractLsb' 11 7) (w.extractLsb' 18 7) (w.extractLsb' 25 5) lit)
  | 0x2F => some (.shrBase m (w.extractLsb' 11 7) (w.extractLsb' 18 7) (w.extractLsb' 25 5) lit)
  | 0x36 => some (.movBase m (w.extractLsb' 11 7) (w.extractLsb' 18 7))
  | 0x38 =>
    if lit.isNone && w.extractLsb' 25 7 == 0#7 then some (.smovBase m (w.extractLsb' 11 6) (w.extractLsb' 18 6))
    else some (.saddBase m (w.extractLsb' 11 6) (w.extractLsb' 18 6) (w.extractLsb' 25 6) lit)
  | _ => none

/-- R183: the container of an extended form. -/
def extOf (w0 w1 w2 : Word) (lit : Option DWord) : Ext where
  m := ⟨w0.getLsbD 3, w0.getLsbD 2⟩
  hint := w0.extractLsb' 24 3
  ty := w0.extractLsb' 19 5
  c := w1.extractLsb' 24 8
  b := w1.extractLsb' 16 8
  a := w1.extractLsb' 8 8
  d := w1.extractLsb' 0 8
  imm := w2.extractLsb' 24 8
  mod := w2.extractLsb' 20 4
  sat := w2.getLsbD 19
  rnd := w2.extractLsb' 16 3
  g2 := w2.extractLsb' 12 4
  g1 := w2.extractLsb' 8 4
  e := w2.extractLsb' 0 8
  lit := lit

def isControl (maj : Nat) : Bool := maj ≤ 0x0C

/-- The instruction that the words name by L, MAJ and SUB alone (R199 step 1); none where they name none. -/
def nameWords (ws : List Word) : Option Instr :=
  match ws with
  | [w0] => if w0.toNat % 4 == 0 then Instr.ofBase w0 none else none
  | [w0, w1, w2] =>
    if w0.toNat % 4 == 2 then Instr.ofBase w0 (some (w2 ++ w1))
    else if isControl (w0.extractLsb' 4 7).toNat then none
    else Instr.ofExt (w0.extractLsb' 4 7).toNat (w0.extractLsb' 11 8).toNat (extOf w0 w1 w2 none)
  | [w0, w1, w2, w3, w4] =>
    if isControl (w0.extractLsb' 4 7).toNat then none
    else Instr.ofExt (w0.extractLsb' 4 7).toNat (w0.extractLsb' 11 8).toNat (extOf w0 w1 w2 (some (w4 ++ w3)))
  | _ => none

/-- R199 step 1: a PRIV instruction other than `ERET`, or `MTS` to a privileged status register. -/
def Instr.privileged : Instr → Bool
  | .fpop _ => true
  | .fres _ => true
  | .tlbi _ => true
  | .biasf _ => true
  | .ctxs _ => true
  | .ctxl _ => true
  | .mts x => srPriv x.d
  | _ => false

/-- The decoder on the words of one instruction: R199 steps 1 and 2. Every reserved bit is checked by encoding
what was read and comparing. -/
def decodeWords (ws : List Word) : Except Bad Instr :=
  let m : Marks := match ws with
    | w :: _ => ⟨w.getLsbD 3, w.getLsbD 2⟩
    | [] => ⟨false, false⟩
  let apply := match ws with
    | w :: _ => w.extractLsb' 4 7 == 0x09#7
    | [] => false
  match nameWords ws with
  | none => .error { kind := .illop, priv := false, words := ws.length, m := m, apply := apply }
  | some i =>
    if i.encode = ws && i.wellFormed then .ok i
    else .error { kind := .illenc, priv := i.privileged, words := ws.length, m := m, apply := apply }

/-- The first n little-endian words of a list of bytes, and the bytes after them. -/
def takeWords : Nat → List Byte → Option (List Word × List Byte)
  | 0, bs => some ([], bs)
  | n + 1, b0 :: b1 :: b2 :: b3 :: bs =>
    match takeWords n bs with
    | some (ws, r) => some (wordOf b0 b1 b2 b3 :: ws, r)
    | none => none
  | _ + 1, _ => none

/-- The decoder on any bytes: the instruction and the bytes after it, or why there is none. -/
def decode (bs : List Byte) : Except Bad (Instr × List Byte) :=
  match bs with
  | b0 :: b1 :: b2 :: b3 :: _ =>
    let n := lengthOf (wordOf b0 b1 b2 b3)
    match takeWords n bs with
    | none => .error { kind := .truncated, priv := false, words := n, m := ⟨false, false⟩ }
    | some (ws, r) =>
      match decodeWords ws with
      | .ok i => .ok (i, r)
      | .error e => .error e
  | _ => .error { kind := .truncated, priv := false, words := 1, m := ⟨false, false⟩ }

/-- R331, R332: the walker instruction of an opcode; none for an unassigned one. -/
def Instr.ofWalk (w : Word) : Option Instr :=
  let yd := w.extractLsb' 6 4
  let ya := w.extractLsb' 10 4
  let yb := w.extractLsb' 14 4
  match (w.extractLsb' 0 6).toNat with
  | 0x00 => some .wend
  | 0x01 => some (.wldi yd (w.extractLsb' 18 14))
  | 0x02 => some (.wadd yd ya yb (w.extractLsb' 18 14))
  | 0x03 => some (.wsub yd ya yb)
  | 0x04 => some (.wand yd ya yb)
  | 0x05 => some (.wshr yd ya (w.extractLsb' 18 5))
  | 0x06 => some (.wcmp ya yb)
  | 0x07 => some (.wbr (w.extractLsb' 18 8))
  | 0x08 => some (.wbz ya (w.extractLsb' 18 8))
  | 0x09 => some (.wblt (w.extractLsb' 18 8))
  | 0x0A => some (.wld yd ya (w.extractLsb' 18 4))
  | 0x0B => some (.wbmn yd ya yb (w.extractLsb' 18 3))
  | 0x0C => some (.wrun yd yb ya (w.extractLsb' 18 3))
  | 0x0D => some (.wemit ya yb)
  | 0x0E => some (.wrow ya)
  | 0x0F => some (.wpush ya)
  | 0x10 => some (.wpop yd)
  | 0x11 => some .wsync
  | _ => none

/-- The walker's decoder: the instruction, or the REASON of the walker fault (R333: 1 and 2). -/
def decodeWalk (w : Word) : Except Nat Instr :=
  match Instr.ofWalk w with
  | none => .error 1
  | some i => if i.encode = [w] && i.wellFormed then .ok i else .error 2

/-- The bytes of the little-endian number w, n of them. -/
def natBytes : Nat → Nat → List Byte
  | 0, _ => []
  | n + 1, w => BitVec.ofNat 8 w :: natBytes n (w / 256)

/-- The instruction the decoder reads from bits numbered as the opcode table numbers them; words that no core
instruction answers to are read as the walker reads them. -/
def decodeTableWord (nbits w : Nat) : Option Instr :=
  match decode (natBytes 20 (w % 2 ^ nbits)) with
  | .ok (i, _) => some i
  | .error _ =>
    match decodeWalk (BitVec.ofNat 32 (w % 2 ^ nbits)) with
    | .ok i => some i
    | .error _ => none

end Sys2Proof
end

