-- ==== Sys2Proof/Machine/Memory.lean ====
section
/-! DEFINITION. Global memory: the physical map, what an agent's core sees of writes that have not performed, how a
write performs at its home, translation with its outcomes, and the access procedure of buffer records. -/

namespace Sys2Proof.Machine

/-! ### Physical addresses -/

/-- What a byte that nothing has written reads as (R389 step 4; host memory: log entry 2). -/
def memDefault : Byte := 0#8

/-- Every address space of memory is in canonical form. -/
abbrev Memory.wf (m : Table Byte) : Prop := Table.wf memDefault m = true

/-- R23: a reserved physical range. -/
def paReserved (a : Nat) : Bool :=
  (Config.hbmTop ≤ a && a < Config.farBase) || (Config.farTop ≤ a && a < Config.hostBase) || 2 ^ 52 ≤ a
/-- HBM or the far tier. -/
def paDevice (a : Nat) : Bool := a < Config.hbmTop || (Config.farBase ≤ a && a < Config.farTop)
def paFar (a : Nat) : Bool := Config.farBase ≤ a && a < Config.farTop

/-- R62: the home die of a line. -/
def homeDie (a : Nat) : Nat := if a < Config.hbmTop then a / Config.stackBytes else fld a 12 3
/-- R62: the home slice within its die. -/
def homeSlice (a : Nat) : Nat := Nat.xor (fld a 7 4) (fld a 15 4)
/-- The cluster of a core (R63). -/
def clusterOf (die core : Nat) : Nat := 8 * die + core / 4

/-! ### What stands at the home -/

/-- The window line that owns a physical line, if one is DIRTY (R55). -/
def dirtyIn (line : Nat) (g : Gang) : Option (Gang × WLine) :=
  (g.wlines.find? fun w => w.dirty && w.pa == line).map fun w => (g, w)
/-- Of all gangs, those that are saved too. -/
def dirtyAt (s : State) (line : Nat) : Option (Gang × WLine) :=
  match s.gangs.findSome? (dirtyIn line) with
  | some p => some p
  | none => s.saved.findSome? fun v => dirtyIn line v.gang

/-- The byte of a physical address, latest in coherence order of the performed writes (R63, R78). -/
def homeByte (s : State) (a : Nat) : Byte :=
  match dirtyAt s (lineOf a) with
  | some (g, w) => g.os.look 0#8 (w.line * 128 + a % 128)
  | none => s.mem.look memDefault a

/-- n bytes at the home as a number. -/
def homeNat (s : State) (a n : Nat) : Nat := ofBytes ((List.range n).map fun j => homeByte s (a + j))

/-- R68: whether the line of an address is poisoned where its data stands: in its DIRTY window line, or in memory. -/
def poisoned (s : State) (a : Nat) : Bool := match dirtyAt s (lineOf a) with
  | some (g, w) => g.osPoison.contains w.line
  | none => s.memPoison.contains (lineOf a)

/-! ### What a core sees -/

/-- Who makes an access. -/
structure Who where
  die : Nat
  core : Nat
  gang : Nat
  agent : Nat
  asid : Nat
  raf : List DWord
  ident : Bool
  /-- regions of the system context whose entry the gang has changed (R340) -/
  own : List Nat
  wg : Nat := 0
  /-- an engine command: it comes after its issuer's earlier accesses, and is another agent for the later ones (R109, R111) -/
  cmd : Option Nat := none
  deriving DecidableEq, Repr, Inhabited

/-- Whether a region maps physical memory one to one (R43). -/
def Who.flat (w : Who) (va : Nat) : Bool := w.ident && !w.own.contains (va / 2 ^ 48)

/-- A unit that stands in no core has core number 32. -/
def Who.inCore (w : Who) : Bool := w.core < 32

def PendWrite.covers (p : PendWrite) (a : Nat) : Bool := p.bytes.any fun b => b.1 == a
def PendWrite.touches (p : PendWrite) (as : List Nat) : Bool := as.any p.covers
def PendWrite.overlaps (p q : PendWrite) : Bool := p.bytes.any fun b => q.covers b.1
def PendWrite.line (p : PendWrite) : Nat := match p.bytes with
  | [] => 0
  | b :: _ => lineOf b.1

/-- Whether a read still has to take its value. -/
def LoadReq.waits (l : LoadReq) : Bool := l.parts.any fun p => p.got.isNone

/-- Whether an access of a gang, by its identity, has not taken effect yet. -/
def accessOpen (s : State) (gang id : Nat) : Bool :=
  s.atoms.any (fun p => p.n == id) || s.gangs.any fun g => g.uid == gang && (g.osq.any (fun w => w.n == id) ||
    g.agents.any fun a => a.outs.any fun o => o.n == id && o.reads.any LoadReq.waits)

/-- R76: whether an agent lies in a scope as counted from another place. -/
def inScope (scope die core gang wg : Nat) (w : Who) : Bool :=
  match scope with
  | 0 => gang == w.gang && wg == w.wg
  | 1 => die == w.die && core == w.core
  | 2 => die == w.die
  | _ => true

/-- R76: a release reaches an agent, and agrees with its acquire of a scope. -/
def Need.reaches (m : Need) (w : Who) : Bool := inScope m.scope m.die m.core m.gang m.wg w
def Need.agrees (m : Need) (w : Who) (scope : Nat) : Bool :=
  m.reaches w && inScope scope w.die w.core w.gang w.wg { w with die := m.die, core := m.core, gang := m.gang, wg := m.wg }

/-- The waiting write that a release orders first, while it waits. -/
def Need.write? (s : State) (m : Need) : Option PendWrite := s.outq.find? fun q => q.n == m.w

/-! #### What becomes visible together (R82, R83, R94, R95, R97)

A pair (w, c) stands for waiting write w at core c of its die. -/

/-- The earlier waiting writes to a write's bytes, of the same die or of an atomic in an L1 (R94 rule 2, R102). -/
def PendWrite.earlier (s : State) (p : PendWrite) : List PendWrite :=
  (s.outq.takeWhile fun q => q.n != p.n).filter fun q => q.overlaps p && (q.die == p.die || q.excl)

/-- Whether a core is the one whose agent released, and whether the release says nothing there to the agent that looks
(R76). -/
def Need.homeAt (m : Need) (die c : Nat) : Bool := die == m.die && c == m.core
def Need.silent (m : Need) (who : Who) (die c : Nat) : Bool :=
  m.homeAt die c && who.die == die && who.core == c && !m.reaches who

/-- Where what a release orders first has to be visible before a later write is so elsewhere, or at the releasing core
(R95). -/
def Need.cores (m : Need) (home : Bool) : List Nat := if m.scope = 2 && !home then List.range 32 else [m.core]

/-- What has to be visible together with a write at a core: the write at its own core (rule 1), the earlier ones to its bytes
(rule 2), and what releases order before it (R97). -/
def PendWrite.pulls (s : State) (who : Who) (p : PendWrite) (c : Nat) : List (Nat × Nat) :=
  (p.n, p.core) :: (p.earlier s).map (fun q => (q.n, c)) ++ p.need.flatMap fun m =>
    if (m.write? s).isNone || m.silent who p.die c then [] else (m.cores (m.homeAt p.die c)).map fun d => (m.w, d)

/-- Whether a write cannot be visible at a core yet: a collapse holds it (R104), an access before it has not taken effect, or
what a wide release orders first has not performed. -/
def PendWrite.blocked (s : State) (who : Who) (p : PendWrite) (c : Nat) : Bool :=
  p.held || p.after.any (fun m => !m.silent who p.die c && accessOpen s p.gang m.w) ||
    p.need.any (fun m => (m.write? s).isSome && decide (3 ≤ m.scope) && !m.homeAt p.die c) || (p.earlier s).any fun q => q.die != p.die

/-- One round of what pairs pull along, and all of it. -/
def pullRound (s : State) (who : Who) (l : List (Nat × Nat)) : List (Nat × Nat) :=
  (l ++ l.flatMap fun x => match s.outq.find? fun p => p.n == x.1 with
    | some p => p.pulls s who x.2
    | none => []).eraseDups
def pullRounds (s : State) (who : Who) : Nat → List (Nat × Nat) → List (Nat × Nat)
  | 0, l => l
  | fuel + 1, l =>
    let m := pullRound s who l
    if m.length = l.length then l else pullRounds s who fuel m
/-- The pairs that become visible with some pairs. -/
def pulled (s : State) (who : Who) (l : List (Nat × Nat)) : List (Nat × Nat) := match s.outq with
  | [] => []
  | _ => pullRounds s who (33 * s.outq.length + 1) l.eraseDups

/-- Whether pairs can become visible. -/
def canShow (s : State) (who : Who) (l : List (Nat × Nat)) : Bool := l.all fun x =>
  match s.outq.find? fun p => p.n == x.1 with
  | some p => !p.blocked s who x.2
  | none => true

/-- The writes that pass a test and the earlier ones to the same bytes, of the same die or of an atomic in an L1, in queue
order (R94 rule 2, R102); the list is given newest first. -/
def needed (sel : PendWrite → Bool) : List PendWrite → List PendWrite → List PendWrite
  | [], acc => acc
  | p :: r, acc =>
    if sel p || acc.any (fun q => (q.die == p.die || p.excl) && q.overlaps p) then needed sel r (p :: acc) else needed sel r acc

/-- Whether a waiting write can be visible to an agent's core now, with all that comes before it. -/
def showable (s : State) (who : Who) (p : PendWrite) : Bool :=
  p.die == who.die && canShow s who (pulled s who [(p.n, who.core)])

/-- A write of an agent itself; of a command, one that its issuer made before it (R109). -/
def Who.made (w : Who) (p : PendWrite) : Bool := p.agent == w.agent && match w.cmd with
  | none => true
  | some k => decide (p.n < k)

/-- What the releases and reads of an agent have left it (R96). -/
def agentOf (s : State) (who : Who) : Option Agent :=
  (s.gangs.find? fun g => g.uid == who.gang).bind fun g => g.agents.find? fun a => a.id == who.agent
def observedIds (s : State) (who : Who) : List Nat := match agentOf s who with
  | some a => a.obs
  | none => []

/-- R96: the writes that an agent has made or observed and that still wait. -/
def observed (s : State) (who : Who) (p : PendWrite) : Bool := who.made p || (observedIds s who).contains p.n

/-- A waiting write that no read of the agent may pass (R78, R79, R94). -/
def mustSee (s : State) (who : Who) (p : PendWrite) : Bool :=
  observed s who p || (p.die == who.die && p.seen.contains who.core)

/-- Whether a waiting write is to be visible to an agent by itself: where it can be, always once its core has seen it or the
agent has made or observed it, and otherwise by a free choice. -/
def tossed (s : State) (who : Who) (p : PendWrite) : Bool :=
  showable s who p && (mustSee s who p || Config.coin s.tick p.n)

/-- What is visible to an agent, with all that comes before it (R82, R94). -/
def inView (s : State) (who : Who) : List (Nat × Nat) :=
  pulled s who ((s.outq.filter (tossed s who)).map fun p => (p.n, who.core))

/-- R94: whether a waiting write is visible to an agent. -/
def sees (s : State) (who : Who) (p : PendWrite) : Bool := p.die == who.die && (inView s who).contains (p.n, who.core)

/-- Whether a read of bytes can take its value: every write that it may not pass can be visible to it. -/
def readable (s : State) (who : Who) (as : List Nat) : Bool :=
  s.outq.all fun p => !p.touches as || !mustSee s who p || showable s who p

/-- The waiting write that a read of a byte returns. -/
def lastSeen (s : State) (who : Who) (a : Nat) : Option PendWrite := match s.outq with
  | [] => none
  | _ => s.outq.reverse.find? fun p => p.covers a && sees s who p

/-- The byte an agent's core reads (R79, R94). -/
def viewByte (s : State) (who : Who) (a : Nat) : Byte :=
  match lastSeen s who a with
  | some p => ((p.bytes.find? fun b => b.1 == a).map fun b => b.2).getD (homeByte s a)
  | none => homeByte s a

def viewBytes (s : State) (who : Who) (as : List Nat) : List Byte := as.map (viewByte s who)
def viewNat (s : State) (who : Who) (a n : Nat) : Nat := ofBytes (viewBytes s who ((List.range n).map (a + ·)))

/-- R68: whether an instruction that writes all of a line stands behind a byte an agent reads there: none of its writes to the
byte is out of the agent's sight. -/
def healed (s : State) (who : Who) (a : Nat) : Bool :=
  s.outq.any fun p => p.grp != 0 && p.line == lineOf a && s.outq.all fun q => q.grp != p.grp || !q.covers a || sees s who q

/-- R68: whether an agent's read of a byte would consume poison. -/
def viewPoison (s : State) (who : Who) (a : Nat) : Bool := poisoned s a && !healed s who a

/-! ### Caches and directories (R62-R64) -/

/-- Lines of an L1, of 256 KiB, and of an L2 slice, of 3 MiB. -/
def l1Lines : Nat := 2048
def l2SliceLines : Nat := 24576

/-- A cluster shares a line (R63). -/
def DirEnt.share (d : DirEnt) (cl : Nat) : DirEnt :=
  { d with moesi := if d.moesi == 0 then 1 else if d.moesi == 4 then 3 else d.moesi, sharers := d.sharers ||| (1#64 <<< cl) }

/-- The directory entry of a line that a cluster's L1 or window takes to read, or to write. -/
def trackLine (s : State) (cl line : Nat) (own : Bool) : State :=
  let f (d : DirEnt) : DirEnt := if own then { d with moesi := 4, owner := cl, sharers := 1#64 <<< cl } else d.share cl
  { s with dir := if s.dir.any fun d => d.line == line then updWhere (fun d => d.line == line) f s.dir
                  else s.dir ++ [⟨line, if own then 4 else 1, cl, 1#64 <<< cl⟩] }

/-- A line enters its home slice's L2 by its HINT (R64); a full slice gives up its first line that is not kept (log entry
60). -/
def allocL2 (s : State) (line hint : Nat) : State :=
  if hint = 4 || s.l2.any (fun e => e.1 == line) then s
  else
    let here (e : Nat × Bool) : Bool := homeDie (e.1 * 128) == homeDie (line * 128) && homeSlice (e.1 * 128) == homeSlice (line * 128)
    let out := if (s.l2.filter here).length < l2SliceLines then none
      else match s.l2.find? fun e => here e && !e.2 with
        | some e => some e
        | none => s.l2.find? here
    let rest := match out with
      | some e => s.l2.erase e
      | none => s.l2
    { s with l2 := if hint = 1 then (line, false) :: rest else rest ++ [(line, hint == 2)] }

/-- A line enters a core's L1 by its HINT: not at all, first to be evicted, or last (R64); a full L1 gives up its first
line (log entry 60). -/
def allocL1 (s : State) (die core line hint : Nat) : State :=
  let c := core + 32 * die
  if 32 ≤ core || hint = 3 || hint = 4 || s.l1.contains (c, line) then s
  else
    let rest := if (s.l1.filter fun e => e.1 == c).length < l1Lines then s.l1
      else match s.l1.find? fun e => e.1 == c with
        | some e => s.l1.erase e
        | none => s.l1
    { s with l1 := if hint = 1 then (c, line) :: rest else rest ++ [(c, line)] }

/-- A core reads a line: a miss is allocated and tracked as its HINT says. -/
def dirRead (s : State) (die core line hint : Nat) : State :=
  if s.l1.contains (core + 32 * die, line) then s
  else
    let s := allocL2 s line hint
    if 32 ≤ core || hint = 3 || hint = 4 then s else trackLine (allocL1 s die core line hint) (clusterOf die core) line false

/-! ### Visibility -/

/-- The writes of a line that become visible to a core invalidate the core's clean copies of it (R56, R82). -/
def dropClean (s : State) (die core : Nat) (lines : List Nat) : State :=
  let keep (g : Gang) : Gang := { g with wlines := g.wlines.filter fun w => w.dirty || !lines.contains w.pa }
  { s with gangs := updWhere (fun g => g.die == die && g.core == core) keep s.gangs }

/-- Pairs become visible (R94). -/
def showPairs (s : State) (l : List (Nat × Nat)) : State :=
  let saw (p : PendWrite) : PendWrite := { p with seen := l.foldl (fun cs x => if x.1 == p.n then insNat x.2 cs else cs) p.seen }
  l.foldl (fun s x => match s.outq.find? fun p => p.n == x.1 with
    | some p => dropClean s p.die x.2 [p.line]
    | none => s) { s with outq := s.outq.map saw }

/-- Waiting writes become visible at cores of their die, with all that comes before them (R95, R97). -/
def showSel (s : State) (who : Who) (sel : PendWrite → Bool) (cores : List Nat) : State :=
  match s.outq.filter sel with
  | [] => s
  | ps => showPairs s (pulled s who (ps.flatMap fun p => cores.map fun c => (p.n, c)))

/-- Whether they can. -/
def canShowSel (s : State) (who : Who) (sel : PendWrite → Bool) (cores : List Nat) : Bool :=
  canShow s who (pulled s who ((s.outq.filter sel).flatMap fun p => cores.map fun c => (p.n, c)))

/-- The releases behind the value a read of a byte returns (R84). -/
def releasesAt (s : State) (who : Who) (a : Nat) : List Need :=
  match lastSeen s who a with
  | some p => p.need
  | none => ((s.tags.find? fun t => t.1 == a).map fun t => t.2).getD []

/-- An agent's records of what it has observed and heard, for the writes that still wait. -/
def noteAgent (s : State) (who : Who) (ids : List Nat) (ms : List Need) : State :=
  let live := s.outq.map fun p => p.n
  let note (a : Agent) : Agent :=
    { a with
      obs := (a.obs ++ ids).eraseDups.filter live.contains
      heard := (a.heard ++ ms).eraseDups.filter fun m => live.contains m.w }
  let on (g : Gang) : Gang := { g with agents := updWhere (fun a => a.id == who.agent) note g.agents }
  { s with gangs := updWhere (fun g => g.uid == who.gang) on s.gangs }

/-- The waiting writes to bytes that an agent sees. -/
def seenAt (s : State) (who : Who) (as : List Nat) : List Nat :=
  (s.outq.filter fun p => p.touches as && sees s who p).map fun p => p.n

/-- Reads of physical bytes settle which waiting writes the core and the agent have seen (R94, R96). -/
def noteSeen (s : State) (who : Who) (as : List Nat) : State := match s.outq with
  | [] => s
  | _ =>
    let ids := seenAt s who as
    let s1 := showSel s who (fun p => ids.contains p.n) [who.core]
    if who.cmd.isSome then s1 else noteAgent s1 who ids (as.flatMap (releasesAt s who)).eraseDups

/-- What the accesses of an agent's release leave behind: an access that has taken effect stands for the waiting writes it
has made or returned (R83, R96, R97). -/
def Need.become (id : Nat) (ws : List Nat) (after need : List Need) : List Need :=
  need ++ (after.filter fun m => m.w == id).flatMap fun m => ws.map fun w => { m with w := w }
def resolveAfter (s : State) (gang id : Nat) (ws : List Nat) : State :=
  if ws.isEmpty then s
  else
    let b := Need.become id ws
    let on (g : Gang) : Gang :=
      { g with agents := g.agents.map fun a => { a with before := b a.after a.before }
               osq := g.osq.map fun w => { w with need := b w.after w.need } }
    { s with
      outq := updWhere (fun p => p.gang == gang) (fun p => { p with need := b p.after p.need }) s.outq
      atoms := updWhere (fun p => p.gang == gang) (fun p => { p with need := b p.after p.need }) s.atoms
      cmds := updWhere (fun c => c.gang == gang) (fun c => { c with need := b c.after c.need }) s.cmds
      grpMsgs := updWhere (fun m => m.gang == gang) (fun m => { m with need := b m.after m.need }) s.grpMsgs
      gangs := updWhere (fun g => g.uid == gang) on s.gangs }

/-- Reads are made, and take their lines into the caches. -/
def noteRead (s : State) (who : Who) (as : List Nat) (hint : Nat := 0) : State :=
  let s := noteSeen s who as
  (sortNat (as.map lineOf)).foldl (fun s l => dirRead s who.die who.core l hint) s

/-! ### Performing a write -/

/-- A DIRTY window line hands its data to memory, and its poison with it (R55, R68). -/
def supply (s : State) (line : Nat) : State :=
  match dirtyAt s line with
  | none => s
  | some (g, w) =>
    let bytes := (List.range 128).map fun j => (line * 128 + j, g.os.look 0#8 (w.line * 128 + j))
    { s with mem := s.mem.putAll memDefault bytes
             memPoison := if g.osPoison.contains w.line then insNat line s.memPoison else delNat line s.memPoison }

/-- Every window's copy of a line becomes INVALID, but for that of one operand-store line of one gang. -/
def dropWin (s : State) (line : Nat) (keep : Option (Nat × Nat) := none) : State :=
  let goes (g : Gang) (w : WLine) : Bool := w.pa == line && keep != some (g.uid, w.line)
  let drop (g : Gang) : Gang :=
    if g.wlines.any (goes g) then { g with wlines := g.wlines.filter fun w => !goes g w } else g
  { s with gangs := s.gangs.map drop, saved := s.saved.map fun v => { v with gang := drop v.gang } }

/-- A line is obtained exclusively: every copy of it in the device goes, a DIRTY one after handing over its data (R63). -/
def ownLine (s : State) (line : Nat) : State :=
  let s := dropWin (supply s line) line
  { s with l1 := s.l1.filter (fun e => e.2 != line), dir := s.dir.filter fun d => d.line != line }

/-- The same for a window line that holds the data already, CLEAN or DIRTY: it stays, and becomes DIRTY (R55). -/
def ownWindow (s : State) (uid : Nat) (w : WLine) : State :=
  let mine := match dirtyAt s w.pa with
    | some (g, v) => g.uid == uid && v.line == w.line
    | none => false
  let s := dropWin (if mine then s else supply s w.pa) w.pa (some (uid, w.line))
  let own (g : Gang) : Gang := { g with wlines := updWhere (fun v => v.line == w.line) (fun v => { v with dirty := true, rd := v.pa }) g.wlines }
  { s with l1 := s.l1.filter (fun e => e.2 != w.pa), dir := s.dir.filter (fun d => d.line != w.pa)
           gangs := updWhere (fun g => g.uid == uid) own s.gangs }

/-- The releases that stand behind performed bytes from now on, for the writes that still wait. -/
def setTags (s : State) (as : List Nat) (ms : List Need) : State :=
  let live := ms.filter fun m => s.outq.any fun p => p.n == m.w
  if s.tags.isEmpty && live.isEmpty then s
  else
    let rest := s.tags.filter fun t => !as.contains t.1
    { s with tags := if live.isEmpty then rest else rest ++ as.map fun a => (a, live) }

/-- Bytes written at the home in one step. -/
def applyHome (s : State) (bytes : List (Nat × Byte)) : State :=
  let s := (sortNat (bytes.map fun b => lineOf b.1)).foldl ownLine s
  setTags { s with mem := s.mem.putAll memDefault bytes } (bytes.map fun b => b.1) []

/-- The line of a gang's window that holds a physical line. -/
def heldLine (s : State) (uid osLine line : Nat) : Option WLine :=
  (s.gangs.find? fun g => g.uid == uid).bind fun g => g.wlines.find? fun l => l.line == osLine && l.pa == line

/-- A window line is filled with what stands at the home, and owned (R55). -/
def fillOwned (s : State) (uid osLine line : Nat) : State :=
  let bad := poisoned s (line * 128)
  let bytes := (List.range 128).map fun j => (osLine * 128 + j, homeByte s (line * 128 + j))
  let s := ownLine s line
  let put (g : Gang) : Gang :=
    { g with os := g.os.putAll 0#8 bytes
             osPoison := if bad then insNat osLine g.osPoison else delNat osLine g.osPoison
             wlines := (g.wlines.filter fun l => l.line != osLine) ++ [⟨osLine, line, true, line⟩] }
  { s with gangs := updWhere (fun g => g.uid == uid) put s.gangs }

/-- A window line gains ownership: as it stands, or filled where it is INVALID by now (R55). -/
def ownThrough (s : State) (uid osLine line : Nat) : State := match heldLine s uid osLine line with
  | some w => ownWindow s uid w
  | none => fillOwned s uid osLine line

/-- A write through a window (R55). -/
def winPut (s : State) (w : WinRef) (line : Nat) (bytes : List (Nat × Byte)) : State :=
  let s := ownThrough s w.gang w.line line
  let put (g : Gang) : Gang := { g with os := g.os.putAll 0#8 (bytes.map fun b => (w.line * 128 + b.1 % 128, b.2)) }
  setTags { s with gangs := updWhere (fun g => g.uid == w.gang) put s.gangs } (bytes.map fun b => b.1) []

/-- Whether a gang's window still stands for the line a store through it was made to. -/
def WinRef.stands (s : State) (w : WinRef) : Bool :=
  s.gangs.any fun g => g.uid == w.gang && g.stash.any fun e => e.v && e.base ≤ w.line && w.line < e.base + e.lines &&
    e.gva.toNat + (w.line - e.base) * 128 == w.gva

/-- R68: poison goes with the last write to a line of an instruction that writes all of it. -/
def clearGroup (s : State) (p : PendWrite) : State :=
  if p.grp = 0 || s.outq.any (fun q => q.grp == p.grp && q.line == p.line) then s
  else
    let line := p.line
    let clear (g : Gang) : Gang :=
      match g.wlines.find? fun w => w.dirty && w.pa == line with
      | some w => { g with osPoison := delNat w.line g.osPoison }
      | none => g
    { s with memPoison := delNat line s.memPoison, gangs := s.gangs.map clear }

/-- A frame in a bias flip (R74). -/
def frozen (s : State) (a : Nat) : Bool := s.flips.any fun f => f.frame == a / 4096

/-- An agent of no core of a write's die, for what has to be visible before the write is so anywhere else. -/
def PendWrite.nobody (p : PendWrite) : Who :=
  { die := p.die, core := 33, gang := 0, agent := 0, asid := 0, raf := [], ident := false, own := [] }

/-- What releases order before a write's performing: the pairs that have to be visible (R97). -/
def needPairs (s : State) (ms : List Need) : List (Nat × Nat) :=
  ms.flatMap fun m => if (m.write? s).isNone then [] else (m.cores false).map fun d => (m.w, d)
def PendWrite.first (s : State) (p : PendWrite) : List (Nat × Nat) := pulled s p.nobody (needPairs s p.need)

/-- Whether a core's L1 holds a line. -/
def inL1 (s : State) (die core line : Nat) : Bool := s.l1.contains (core + 32 * die, line)

/-- A core owns a line: in its L1 where its HINT allocates it there, or where it stood already (R64). -/
def holdL1 (s : State) (had : Bool) (die core line hint : Nat) : State :=
  let hint := if had then 0 else hint
  let s := allocL1 s die core line hint
  if hint = 3 || hint = 4 then s else trackLine s (clusterOf die core) line true

/-- One waiting write performs (R94): what releases order before it is visible, and the writer's L1, or its window, holds the
line. -/
def performOne (s : State) (p : PendWrite) : State :=
  let ms := p.need.filter fun m => (m.write? s).isSome
  let s := if ms.isEmpty then s else showPairs s (p.first s)
  let drop (t : Nat × List Need) : Option (Nat × List Need) := match t.2.filter fun m => m.w != p.n with
    | [] => none
    | r => some (t.1, r)
  let s := { s with outq := s.outq.filter (fun q => q.n != p.n), tags := s.tags.filterMap drop }
  let s := match p.win with
    | some w =>
      if w.stands s then trackLine (winPut s w p.line p.bytes) (clusterOf p.die p.core) p.line true else applyHome s p.bytes
    | none => holdL1 (allocL2 (applyHome s p.bytes) p.line p.hint) (inL1 s p.die p.core p.line) p.die p.core p.line p.hint
  clearGroup (setTags s (p.bytes.map fun b => b.1) ms) p

/-- Whether a waiting write cannot perform yet: a page in collapse (R72), a frame in a bias flip (R74), or something that
a release orders first (R83, R97). -/
def PendWrite.stuck (s : State) (p : PendWrite) : Bool :=
  p.dup.isSome || p.bytes.any (fun b => frozen s b.1) || p.after.any (fun m => accessOpen s p.gang m.w) ||
    p.need.any (fun m => (m.write? s).isSome && decide (3 ≤ m.scope)) || !canShow s p.nobody (p.first s)

/-- The writes that pass a test perform, after the earlier ones to their bytes; one that cannot stays, with those that
must follow it. -/
def performSel (s : State) (sel : PendWrite → Bool) : State :=
  let go (acc : State × List PendWrite) (p : PendWrite) : State × List PendWrite :=
    match acc.1.outq.find? fun q => q.n == p.n with
    | none => acc
    | some q =>
      if q.stuck acc.1 || acc.2.any (fun r => (r.die == q.die || r.excl) && r.overlaps q) then (acc.1, q :: acc.2)
      else (performOne acc.1 q, acc.2)
  ((needed sel s.outq.reverse []).foldl go (s, [])).1

/-- Whether one of those writes cannot perform yet. -/
def stuckSel (s : State) (sel : PendWrite → Bool) : Bool := (needed sel s.outq.reverse []).any fun p => p.stuck s

/-- Bytes are written at the home by a unit: an L1 atomic's write to them comes first (R78, R102). -/
def unitPut (s : State) (bytes : List (Nat × Byte)) : State :=
  applyHome (performSel s fun p => p.excl && p.touches (bytes.map fun b => b.1)) bytes

/-! ### A write enters its die's queue -/

/-- R94 rule 2: where a new write enters its die's queue: after every write to its bytes that its agent has made or
observed, that its core has seen, that is an L1 atomic's, or that has to be visible before it (rule 4); among later ones that
could be visible to it, anywhere (log entry 13). Writes of a collapse keep their order of arrival (R104). -/
def pushPlace (s : State) (who : Who) (p : PendWrite) : Nat :=
  let own := if p.after.isEmpty then [] else (s.outq.filter (observed s who)).map fun q => (q.n, who.core)
  let deps := (pulled s p.nobody (needPairs s p.need ++ own)).map fun x => x.1
  let must (q : PendWrite) : Bool := q.overlaps p && (q.excl || mustSee s who q || (p.held && q.held) || deps.contains q.n)
  let tail := (s.outq.reverse.takeWhile fun q => !must q).reverse
  let free := (tail.takeWhile fun q => !q.overlaps p || showable s who q).length
  s.outq.length - tail.length + (if tail.any fun q => q.overlaps p then Config.choose s.tick p.n % (free + 1) else tail.length)

def pushWrite (s : State) (who : Who) (p : PendWrite) : State :=
  let k := pushPlace s who p
  { s with outq := s.outq.take k ++ p :: s.outq.drop k }

/-- What the agent's releases make a new access of it wait for (R83). -/
def liveNeeds (s : State) (who : Who) : List Need := match s.outq with
  | [] => []
  | _ => match agentOf s who with
    | some a => a.before.filter fun m => (m.write? s).isSome
    | none => []
def liveAfter (s : State) (who : Who) : List Need := match agentOf s who with
  | some a => a.after.filter fun m => accessOpen s who.gang m.w
  | none => []

/-- How a store is made: its instruction where that covers whole lines, the window it goes through, its HINT. -/
structure StoreInfo where
  dup : Option DupPage := none
  /-- a write of a collapse (R104) -/
  held : Bool := dup.isSome
  grp : Nat := 0
  win : Option WinRef := none
  hint : Nat := 0
  deriving DecidableEq, Repr, Inhabited

/-- A waiting write of each part, of at most 8 bytes (R77). -/
def pushParts (s : State) (who : Who) (i : StoreInfo) (bytes : List (Nat × Byte)) : Nat → State
  | 0 => s
  | fuel + 1 =>
    match bytes with
    | [] => s
    | _ =>
      let p : PendWrite := { n := s.fresh, die := who.die, core := who.core, gang := who.gang, agent := who.agent,
                             bytes := bytes.take 8, seen := [], dup := i.dup, held := i.held, excl := false, need := liveNeeds s who,
                             after := liveAfter s who, grp := i.grp, win := i.win, hint := i.hint }
      pushParts { pushWrite s who p with fresh := s.fresh + 1 } who i (bytes.drop 8) fuel

/-- R68: whole-line writes of one command clear a line's poison. -/
def clearPoison (s : State) (as : List Nat) : State :=
  match s.memPoison with
  | [] => s
  | _ => { s with memPoison := s.memPoison.filter fun l => !((List.range 128).all fun j => as.contains (l * 128 + j)) }

/-- The lines that a list of bytes covers wholly. -/
def wholeLines (as : List Nat) : List Nat :=
  (sortNat (as.map lineOf)).filter fun l => (List.range 128).all fun j => as.contains (l * 128 + j)

/-! ### Translation -/

/-- What an access needs (R38); the KIND of a fault record (R42). -/
inductive AccKind where
  | load | store | atomic | fetch | engRead | engWrite
  deriving DecidableEq, Repr, Inhabited

def AccKind.writes : AccKind → Bool
  | .store => true
  | .atomic => true
  | .engWrite => true
  | _ => false

def AccKind.code : AccKind → Nat
  | .load => 0
  | .store => 1
  | .atomic => 2
  | .fetch => 3
  | .engRead => 4
  | .engWrite => 5

/-- A successful translation: physical page, page bits, rights. -/
structure Trans where
  va : Nat
  pa : Nat
  bits : Nat
  w : Bool
  x : Bool
  dup : Option DupPage
  deriving DecidableEq, Repr, Inhabited

/-- The outcome of a translation (R38). -/
inductive Xlat where
  | ok (t : Trans)
  | page (cause level : Nat)
  | prot
  | poison
  /-- an entry lies in a frame in a bias flip: the access waits (R74) -/
  | wait
  deriving DecidableEq, Repr, Inhabited

def pageBits (ps : Nat) : Nat := match ps with
  | 0 => 12
  | 1 => 16
  | 2 => 21
  | 3 => 25
  | _ => 30

/-- R37, R38: the checks of a PTE. R71 gives copies to pages of a stack only; DUP on a far-tier or host page, of which it says
nothing, makes no read-duplicated page (log entry 76). -/
def checkPte (raf pte pteAddr va p level : Nat) (k : AccKind) : Xlat :=
  let pa := fld pte 12 40 * 4096
  if !bitN pte 0 then .page 0 level
  else if fld pte 3 9 != 0 || fld pte 52 8 != 0 || pa % 2 ^ p != 0 || paReserved pa || bitN pte 62 != paFar pa ||
      (bitN pte 62 && !bitN raf 61) || (bitN pte 61 && !bitN raf 62) then .prot
  else if bitN pte 63 then .poison
  else if k.writes && !bitN pte 1 then .page 1 level
  else if k == .fetch && !bitN pte 2 then .page 2 level
  else .ok ⟨alignDown va (2 ^ p), pa, p, bitN pte 1, bitN pte 2,
    if bitN pte 61 && pa < Config.hbmTop then some ⟨pa, 2 ^ p, pteAddr⟩ else none⟩

/-- R36-R38: the walk from a table; `left` levels lie below this one, whose index has `w` bits. -/
def walkFrom (s : State) (raf va p : Nat) (k : AccKind) : Nat → Nat → Nat → Nat → Xlat
  | left, w, table, level =>
    let ea := table + 8 * fld va (p + 9 * left) w
    if frozen s ea then .wait
    else if poisoned s ea then .poison
    else
      let e := homeNat s ea 8
      match left with
      | 0 => checkPte raf e ea va p level k
      | left + 1 =>
        if !bitN e 0 then .page 0 level
        else if fld e 1 11 != 0 || fld e 52 12 != 0 || paReserved (fld e 12 40 * 4096) then .prot
        else walkFrom s raf va p k left 9 (fld e 12 40 * 4096) (level + 1)

/-- R35-R38: the page-table walk of an address under a region entry. R36 and R38 test next-table addresses and pages for reserved
physical ranges and say nothing of a ROOT in one: it is walked (log entry 76). -/
def walkVa (s : State) (raf va : Nat) (k : AccKind) : Xlat :=
  let ps := fld raf 0 3
  let lv := fld raf 3 2
  let p := pageBits ps
  let root := fld raf 12 40 * 4096
  let w := 48 - p - 9 * lv
  if !bitN raf 63 || fld raf 52 9 != 0 || fld raf 5 7 != 0 || 5 ≤ ps || 48 - p ≤ 9 * lv || 18 < w ||
      root % max 4096 (8 * 2 ^ w) != 0 then .prot
  else walkFrom s raf va p k lv w root 0

/-- A cached translation that covers an address (R39). -/
def tlbHit (s : State) (who : Who) (va : Nat) : Option TlbEnt :=
  s.tlb.find? fun e => e.die == who.die && (e.core == none || e.core == some who.core) && e.asid == who.asid &&
    va / 2 ^ e.bits == e.va / 2 ^ e.bits

/-- What a cached translation gives. -/
def TlbEnt.use (e : TlbEnt) (k : AccKind) (level : Nat) : Xlat :=
  if k.writes && !e.w then .page 1 level
  else if k == .fetch && !e.x then .page 2 level
  else .ok ⟨e.va, e.pa, e.bits, e.w, e.x, e.dup⟩

/-- The translation of an address: one to one in the system context (R43), over host memory too, which R43 does not say
(log entry 62), through a walk otherwise, or, where a TLB holds an entry, either of the two (R39). -/
def xlat (s : State) (who : Who) (k : AccKind) (va : Nat) : Xlat :=
  if who.flat va then
    (if paReserved va then .prot else .ok ⟨alignDown va 4096, alignDown va 4096, 12, true, true, none⟩)
  else
    let raf := (who.raf.getD (va / 2 ^ 48) 0#64).toNat
    let walk := walkVa s raf va k
    match tlbHit s who va with
    | some e => if Config.coin s.tick (va / 4096) then e.use k (fld raf 3 2) else walk
    | none => walk

/-- A successful translation enters the TLBs; a full one gives up its oldest entry, where the spec names none (R39: log
entry 61). -/
def noteTlb (s : State) (who : Who) (ts : List Trans) : State :=
  ts.foldl (fun s t => if who.flat t.va then s else
    let mk (c : Option Nat) : TlbEnt := ⟨who.die, c, who.asid, t.va, t.bits, t.pa, t.w, t.x, t.dup⟩
    let rest := s.tlb.filter fun e => !(e.die == who.die && (e.core == none || e.core == some who.core) &&
      e.asid == who.asid && e.va == t.va)
    let mine := rest.filter fun e => e.die == who.die && e.core == some who.core
    let shared := rest.filter fun e => e.die == who.die && e.core == none
    let others := rest.filter fun e => !(e.die == who.die && (e.core == none || e.core == some who.core))
    { s with tlb := others ++ (mk (some who.core) :: mine).take 64 ++ (mk none :: shared).take 4096 }) s

/-- R71, R72: where an agent of a die reads a byte of a page: the copy in its own stack, and the home once its die has
acknowledged a collapse. -/
def readAddr (s : State) (die : Nat) (t : Trans) (pa : Nat) : Nat :=
  match t.dup with
  | none => pa
  | some d =>
    if s.collapses.any fun c => c.page.base == d.base && c.acked.contains die then pa
    else pa - homeDie d.base * Config.stackBytes + die * Config.stackBytes

/-! ### Buffer records (R25-R29) -/

def recBase (r : Nat) : Nat := fld r 0 52
def recExtent (r : Nat) : Nat := fld r 64 32
def recStride (r : Nat) : Nat := fld r 96 24
def recEsz (r : Nat) : Nat := fld r 120 3
def recSwz (r : Nat) : Nat := fld r 123 4
def recTrap (r : Nat) : Bool := bitN r 127
def recSen (r : Nat) : Bool := bitN r 128
def recSent (r : Nat) : Nat := fld r 192 32

/-- R26: malformed. -/
def recBad (r : Nat) : Bool :=
  fld r 52 12 != 0 || fld r 129 63 != 0 || fld r 224 32 != 0 || 4 ≤ recSwz r || 5 ≤ recEsz r

/-- R29. -/
def swizzle (va swz : Nat) : Nat := if swz = 0 then va else Nat.xor va (fld va 7 swz * 16)

/-- A piece of a lane's access: swizzled virtual address, length, physical address of its home, and where this agent
reads it. -/
structure Piece where
  va : Nat
  len : Nat
  pa : Nat
  rd : Nat
  dup : Option DupPage
  deriving DecidableEq, Repr, Inhabited

/-- The trap causes (R341). -/
def cILLOP : Nat := 1
def cILLENC : Nat := 2
def cROLE : Nat := 3
def cREGBOUND : Nat := 4
def cOOB : Nat := 5
def cMISALIGN : Nat := 6
def cFMTDIV : Nat := 7
def cMMAPK : Nat := 8
def cRET : Nat := 9
def cRDV : Nat := 10
def cMEMPOISON : Nat := 11
def cPROT : Nat := 12
def cBKPT : Nat := 13
def cSTEP : Nat := 14
def cWATCH : Nat := 15
def cTRAP : Nat := 16

/-- The first three stages of R27. -/
inductive Plan where
  | trap (t : TrapInfo)
  /-- each lane with the virtual address and length of its pieces; none for kinds NONE and OUT -/
  | lanes (l : List (Nat × Option (List (Nat × Nat))))
  deriving DecidableEq, Repr, Inhabited

/-- A lane's kind (R27): none NONE, some false OUT, some true IN. -/
def laneKind (r n i : Nat) : Option Bool :=
  if recSen r && i == recSent r then none else some (decide (i + n - 1 < recExtent r))

/-- The number of pieces of an access of w bytes. -/
def pieceCount (r w : Nat) : Nat := let e := 2 ^ recEsz r; if w ≤ e then 1 else w / e

/-- Unswizzled addresses of the pieces of index i. -/
def laneVas (r w i : Nat) : List Nat :=
  (List.range (pieceCount r w)).map fun k => (recBase r + (i + k) * recStride r) % 2 ^ 52

/-- R27 up to the MISALIGN check; `align` is a stricter alignment of the first byte where an instruction asks one. -/
def planAccess (r w align : Nat) (idx : List (Nat × Nat)) : Plan :=
  if recBad r then .trap ⟨cOOB, 0, some 15⟩
  else
    let n := pieceCount r w
    let len := min w (2 ^ recEsz r)
    let kinds := idx.map fun p => (p.1, p.2, laneKind r n p.2)
    match kinds.find? fun p => recTrap r && p.2.2 == some false with
    | some p => .trap ⟨cOOB, p.1, none⟩
    | none =>
      let inn := kinds.filter fun p => p.2.2 == some true
      match inn.find? fun p => (laneVas r w p.2.1).any (fun va => va % len != 0) ||
          (laneVas r w p.2.1).headD 0 % align != 0 with
      | some p => .trap ⟨cMISALIGN, p.1, none⟩
      | none => .lanes (kinds.map fun p => (p.1,
          if p.2.2 == some true then some ((laneVas r w p.2.1).map fun va => (swizzle va (recSwz r), len)) else none))

/-- A faulting page: lowest lane, its lowest address on the page, cause, level (R42). -/
structure FaultPage where
  page : Nat
  lane : Nat
  va : Nat
  cause : Nat
  level : Nat
  deriving DecidableEq, Repr, Inhabited

/-- The outcome of all of R27's stages but the last. -/
inductive Access where
  | trap (t : TrapInfo)
  | page (ps : List FaultPage)
  | ok (l : List (Nat × Option (List Piece))) (ts : List Trans)
  deriving DecidableEq, Repr, Inhabited

/-- The page size of an address for a context. -/
def pageOf (who : Who) (va : Nat) : Nat :=
  if who.flat va then va / 4096
  else
    let b := pageBits (fld (who.raf.getD (va / 2 ^ 48) 0#64).toNat 0 3)
    va / 2 ^ b * 2 ^ b / 4096

/-- Insertion of an address into a rising list of addresses. -/
def insVa (p : Nat × Nat) : List (Nat × Nat) → List (Nat × Nat)
  | [] => [p]
  | q :: r => if p.2 ≤ q.2 then p :: q :: r else q :: insVa p r

/-- The pages touched: each with its lowest lane and that lane's lowest address there, in the order of R40. -/
def touched (who : Who) : List (Nat × List Nat) → List (Nat × Nat) → List (Nat × Nat)
  | [], acc => acc
  | (lane, vas) :: r, acc =>
    let mine := vas.foldl (fun l va => insVa (lane, va) l) []
    let acc := mine.foldl (fun acc p => if acc.any (fun q => pageOf who q.2 == pageOf who p.2) then acc else acc ++ [p]) acc
    touched who r acc

/-- R27, R38, R40: every translation of a list of accesses; no faulting page where one of them has to wait (R74). -/
def translateAll (s : State) (who : Who) (k : AccKind) (l : List (Nat × List Nat)) :
    Except (TrapInfo ⊕ List FaultPage) (List (Nat × Trans)) :=
  let pages := touched who l []
  let rs := pages.map fun p => (p, xlat s who k p.2)
  match rs.find? fun r => r.2 == .prot with
  | some r => .error (.inl ⟨cPROT, r.1.1, none⟩)
  | none =>
    match rs.find? fun r => r.2 == .poison with
    | some r => .error (.inl ⟨cMEMPOISON, r.1.1, none⟩)
    | none =>
      let faults := rs.filterMap fun r => match r.2 with
        | .page c lv => some (⟨pageOf who r.1.2, r.1.1, r.1.2, c, lv⟩ : FaultPage)
        | _ => none
      if rs.any fun r => r.2 == .wait then .error (.inr [])
      else
        match faults with
        | [] => .ok (rs.filterMap fun r => match r.2 with
          | .ok t => some (pageOf who r.1.2, t)
          | _ => none)
        | _ => .error (.inr faults)

/-- A translated piece. -/
def placePiece (s : State) (who : Who) (ts : List (Nat × Trans)) (p : Nat × Nat) : Piece :=
  match ts.find? fun t => t.1 == pageOf who p.1 with
  | some (_, t) =>
    let pa := t.pa + p.1 % 2 ^ t.bits
    ⟨p.1, p.2, pa, readAddr s who.die t pa, t.dup⟩
  | none => ⟨p.1, p.2, p.1, p.1, none⟩

/-- R27: all checks and translations of an access through a record. -/
def access (s : State) (who : Who) (k : AccKind) (r w align : Nat) (idx : List (Nat × Nat)) : Access :=
  match planAccess r w align idx with
  | .trap t => .trap t
  | .lanes l =>
    match translateAll s who k (l.filterMap fun p => p.2.map fun vs => (p.1, vs.map fun v => v.1)) with
    | .error (.inl t) => .trap t
    | .error (.inr ps) => .page ps
    | .ok ts => .ok (l.map fun p => (p.1, p.2.map fun vs => vs.map (placePiece s who ts))) (ts.map fun t => t.2)

/-- The physical bytes of pieces, where this agent reads them. -/
def readBytesOf (ps : List Piece) : List Nat := ps.flatMap fun p => (List.range p.len).map (p.rd + ·)
/-- The physical bytes of pieces at their homes. -/
def homeBytesOf (ps : List Piece) : List Nat := ps.flatMap fun p => (List.range p.len).map (p.pa + ·)

/-- Whether any data in the device is poisoned. -/
def anyPoison (s : State) : Bool :=
  !s.memPoison.isEmpty || s.gangs.any (fun g => !g.osPoison.isEmpty) || s.saved.any fun v => !v.gang.osPoison.isEmpty

/-- R68: the first lane that would consume a poisoned byte. -/
def poisonLane (s : State) (who : Who) (l : List (Nat × Option (List Piece))) : Option Nat :=
  if !anyPoison s then none
  else (l.find? fun p => match p.2 with
    | some ps => ps.any fun q => (List.range q.len).any fun j => viewPoison s who (q.rd + j)
    | none => false).map fun p => p.1

end Sys2Proof.Machine
end

