-- ==== Sys2Proof/Machine/Operands.lean ====
section
/-! DEFINITION. Agents, their registers and hands, the lanes that take part, every operand form, guards, and the
register numbers an extended form names. -/

namespace Sys2Proof

/-- A signed offset: IMM8, or a 32-bit literal (R249). -/
def Ext.offset (x : Ext) : Int :=
  match x.lit with
  | some l => Machine.sInt 32 (l.toNat % 2 ^ 32)
  | none => x.imm.toInt

/-- An unsigned 8-bit immediate, or the low byte of the literal in its place. -/
def Ext.byteImm (x : Ext) : Nat :=
  match x.lit with
  | some l => l.toNat % 256
  | none => x.imm.toNat

/-- The words of an extended form (R180). -/
def Ext.words (x : Ext) : Nat := if x.lit.isSome then 5 else 3

namespace Machine

/-! ### The current agent -/

/-- The agent whose instruction runs, with its gang and workgroup. -/
structure Env where
  g : Gang
  a : Agent
  wg : Wg
  deriving DecidableEq, Repr, Inhabited

def State.gang? (s : State) (uid : Nat) : Option Gang := s.gangs.find? fun g => g.uid == uid
def Gang.agent? (g : Gang) (id : Nat) : Option Agent := g.agents.find? fun a => a.id == id
def State.updGang (s : State) (uid : Nat) (f : Gang → Gang) : State :=
  { s with gangs := updWhere (fun g => g.uid == uid) f s.gangs }
def Gang.updAgent (g : Gang) (id : Nat) (f : Agent → Agent) : Gang :=
  { g with agents := updWhere (fun a => a.id == id) f g.agents }
def State.updAgent (s : State) (uid id : Nat) (f : Agent → Agent) : State := s.updGang uid fun g => g.updAgent id f

def envOf (s : State) (uid id : Nat) : Option Env :=
  match s.gang? uid with
  | none => none
  | some g =>
    match g.agent? id with
    | none => none
    | some a => some ⟨g, a, g.wgs.getD a.wg default⟩

/-- The current agent. -/
def State.env? (s : State) : Option Env :=
  match s.cur with
  | .agent gang agent => envOf s gang agent
  | _ => none

def Env.set (e : Env) (s : State) (f : Agent → Agent) : State := s.updAgent e.g.uid e.a.id f
def Env.setGang (e : Env) (s : State) (f : Gang → Gang) : State := s.updGang e.g.uid f
/-- The agent as it stands in a state. -/
def Env.now (e : Env) (s : State) : Env := (envOf s e.g.uid e.a.id).getD e

def Env.who (e : Env) : Who := ⟨e.g.die, e.g.core, e.g.uid, e.a.id, e.g.asid, e.g.raf, e.g.ident, e.g.rafOwn, e.a.wg, none⟩

def State.die (s : State) (d : Nat) : Die := s.dies.getD d default
def State.updDie (s : State) (d : Nat) (f : Die → Die) : State := { s with dies := s.dies.set d (f (s.die d)) }
def Env.clk (e : Env) (s : State) : Nat := (s.die e.g.die).clk

/-! ### Lanes (R137, R205, R216) -/

def Env.rank (e : Env) (lane : Nat) : Nat := e.a.members.getD lane 0
/-- h0 as committed. -/
def Env.live (e : Env) : Hand := e.wg.hands.getD 0 0#1024
def Env.takesPart (e : Env) (lane : Nat) : Bool := decide (lane < e.a.pk) && e.live.getLsbD (e.rank lane)
/-- The lanes that take part, ascending. -/
def Env.lanes (e : Env) : List Nat := (List.range e.a.pk).filter e.takesPart
/-- The allotment of vector registers. -/
def Env.allot (e : Env) : Nat := e.wg.vregs

/-! ### Registers -/

/-- A vector register of a lane: 0 where the lane does not take part. -/
def Env.rv (e : Env) (reg lane : Nat) : Nat := if e.takesPart lane then (e.a.v.look 0#32 (64 * reg + lane)).toNat else 0
/-- A w pair, or a v register. -/
def Env.src (e : Env) (wide : Bool) (reg lane : Nat) : Nat :=
  if wide then e.rv reg lane + 2 ^ 32 * e.rv (reg + 1) lane else e.rv reg lane
/-- n registers from one, as one number. -/
def Env.srcN (e : Env) (n reg lane : Nat) : Nat := ((List.range n).map fun j => 2 ^ (32 * j) * e.rv (reg + j) lane).sum
/-- A scalar register: s0 reads 0. -/
def Agent.rs (a : Agent) (n : Nat) : DWord := if n = 0 then 0#64 else a.s.look 0#64 n
def Env.rs (e : Env) (n : Nat) : Nat := (e.a.rs n).toNat
/-- A predicate: k0 reads true. -/
def Agent.rk (a : Agent) (n : Nat) : Bool := n == 0 || a.k.getLsbD n
def Env.rk (e : Env) (n : Nat) : Bool := e.a.rk n
/-- An index register. -/
def Agent.ri (a : Agent) (n : Nat) : Nat := fld a.i.toNat (8 * n) 8
def Env.ri (e : Env) (n : Nat) : Nat := e.a.ri n
/-- A buffer register as a number. -/
def Env.rb (e : Env) (n : Nat) : Nat := (e.a.b.look 0#256 n).toNat

/-- A vector register written, as one word or as a pair. -/
def vWrites (wide : Bool) (reg lane val : Nat) : List RegWrite :=
  if wide then [.v reg lane (BitVec.ofNat 32 val), .v (reg + 1) lane (BitVec.ofNat 32 (val / 2 ^ 32))]
  else [.v reg lane (BitVec.ofNat 32 val)]

/-- n registers written from one number. -/
def vWritesN (n reg lane val : Nat) : List RegWrite :=
  (List.range n).map fun j => .v (reg + j) lane (BitVec.ofNat 32 (val / 2 ^ (32 * j)))

/-- A register write lands: s0 discards writes; k0 is never written. -/
def Agent.land (a : Agent) : RegWrite → Agent
  | .v reg lane val => { a with v := a.v.put 0#32 (64 * reg + lane) val }
  | .s n val => if n = 0 then a else { a with s := a.s.put 0#64 n val }
  | .k n val => if n = 0 then a else { a with k := if val then a.k ||| (1#8 <<< n) else a.k &&& ~~~(1#8 <<< n) }
  | .i n val => { a with i := (a.i &&& ~~~(0xFF#32 <<< (8 * n))) ||| ((val.setWidth 32) <<< (8 * n)) }
  | .b n val => { a with b := a.b.put 0#256 n val }

/-- The register a write names, as one number. -/
def RegWrite.key : RegWrite → Nat
  | .v reg lane _ => 64 * reg + lane
  | .s n _ => 100000 + n
  | .k n _ => 200000 + n
  | .i n _ => 300000 + n
  | .b n _ => 400000 + n

/-! ### How loaded bytes become register contents (R250) -/

def extendTo (bits w : Nat) (signed : Bool) (v : Nat) : Nat := if signed then wrapI bits (sInt (8 * w) v) else v

def LoadFmt.writes (f : LoadFmt) (v : Nat) : List RegWrite :=
  match f with
  | .lane reg ln w signed =>
    if w ≤ 4 then [.v reg ln (BitVec.ofNat 32 (extendTo 32 w signed v))] else vWritesN (w / 4) reg ln v
  | .scalar n w signed => [.s n (BitVec.ofNat 64 (extendTo 64 w signed v))]
  | .buf n => [.b n (BitVec.ofNat 256 v)]
  | .hand _ => []

/-- The keys of the registers a result writes, those of its reads and of its atomic among them. -/
def Out.regs (o : Out) : List Nat :=
  o.writes.map RegWrite.key ++ (o.reads.flatMap fun l => (l.fmt.writes 0).map RegWrite.key) ++ o.keys

/-- R250: width of a type's access. -/
def accWidth (ty : Nat) : Nat :=
  if [0, 1, 12, 13].contains ty then 1
  else if [2, 3, 8, 9].contains ty then 2
  else if [6, 7, 11, 16, 17].contains ty then 8
  else 4
/-- R250: types whose loads sign-extend. -/
def accSigned (ty : Nat) : Bool := [1, 3, 5, 7].contains ty

/-! ### Fields of an extended form -/

/-- The register numbers an extended form names, after indirection (R185). -/
structure Regs where
  d : Nat
  a : Nat
  b : Nat
  c : Nat
  deriving DecidableEq, Repr, Inhabited

def Env.reg (e : Env) (f : FieldSpec) (x : Ext) (op : Nat) (field : BitVec 8) : Nat :=
  if f.e == .ix && x.e.getLsbD 7 && x.e.toNat / 8 % 4 == op then e.ri (x.e.toNat / 32 % 4) + field.toNat else field.toNat

def Env.regs (e : Env) (f : FieldSpec) (x : Ext) : Regs := ⟨e.reg f x 0 x.d, e.reg f x 1 x.a, e.reg f x 2 x.b, e.reg f x 3 x.c⟩

/-- R184: whether a register of a class lies within the grant. -/
def Env.slotOk (e : Env) (c : Slot) (n : Nat) : Bool :=
  match c with
  | .v => n < e.allot
  | .w => n % 2 == 0 && n + 1 < e.allot
  | .list k => n + k ≤ e.allot
  | .quad => n % 4 == 0 && n + 3 < e.allot
  | .t => n < e.g.blk.ntile
  | .m => n < e.g.blk.nacc
  | .mp => n % 2 == 0 && n + 1 < e.g.blk.nacc
  | _ => true

/-- R199 step 4. A B that a literal replaces is no register, also where an enabled IX names it, which the spec does not rule out
(log entry 77). -/
def Env.regsOk (e : Env) (f : FieldSpec) (x : Ext) (r : Regs) : Bool :=
  e.slotOk f.d r.d && e.slotOk f.a r.a && (f.litB x || e.slotOk f.b r.b) && e.slotOk f.c r.c &&
    (f.e == .ix || e.slotOk f.e x.e.toNat)

/-- R187: both guards hold. -/
def Env.guard (e : Env) (g : BitVec 4) : Bool := e.rk (g.toNat % 8) != g.getLsbD 3
def Env.guards (e : Env) (x : Ext) : Bool := e.guard x.g1 && e.guard x.g2

/-- Operand B of a vector instruction: the literal, or the register (R186). -/
def Env.srcB (e : Env) (x : Ext) (r : Regs) (wide : Bool) (lane : Nat) : Nat :=
  match x.lit with
  | some l => if wide then l.toNat else l.toNat % 2 ^ 32
  | none => e.src wide r.b lane

/-- Operand B of a scalar instruction. -/
def Env.srcSB (e : Env) (x : Ext) : Nat :=
  match x.lit with
  | some l => l.toNat
  | none => e.rs x.b.toNat

/-- R249: a vector index of a lane, and a scalar index. -/
def Env.vIndex (e : Env) (reg : Nat) (off : Int) (lane : Nat) : Nat := wrapI 32 ((e.rv reg lane : Int) + off)
def Env.sIndex (e : Env) (n : Nat) (off : Int) : Nat := wrapI 64 ((e.rs n : Int) + off)

/-! ### Hands (R89-R93, R135) -/

def HandWrite.applyTo (h : Hand) (w : HandWrite) : Hand := (h &&& ~~~w.mask) ||| (w.val &&& w.mask)

/-- The hand writes of a register that have not committed, in commit order. -/
def pendingHand (s : State) (gang wg reg : Nat) : List HandWrite :=
  s.handQ.filter fun w => w.gang == gang && w.wg == wg && w.reg == reg

/-- How many of a list of pending writes must be seen by an agent: through its own last one. -/
def ownPrefix (agent : Nat) (ws : List HandWrite) : Nat := ws.length - (ws.reverse.takeWhile fun w => w.agent != agent).length

def sliceMask (j : Nat) : Hand := (BitVec.ofNat 1024 (2 ^ 64 - 1)) <<< (64 * j)

/-- The order in which hand writes land: by cycle, and in one cycle the higher slot and then the higher warp index last
(R90). -/
def HandWrite.before (a b : HandWrite) : Bool :=
  a.issued < b.issued || (a.issued == b.issued && (a.slot < b.slot || (a.slot == b.slot && a.place ≤ b.place)))
/-- Insertion into that order, after the equals. -/
def insHand (w : HandWrite) : List HandWrite → List HandWrite
  | [] => [w]
  | v :: r => if v.before w then v :: insHand w r else w :: v :: r
/-- A hand after writes have landed. -/
def landHands (base : Hand) (ws : List HandWrite) : Hand := (ws.foldl (fun l w => insHand w l) []).foldl HandWrite.applyTo base

/-- The points of the commit order in a list of pending writes: the writes of one cycle commit together, those of the current
one when it is over (R90). -/
def handPoints (clk : Nat) (ws : List HandWrite) : List Nat :=
  (List.range (ws.length + 1)).filter fun k => k == 0 || match ws[k - 1]?, ws[k]? with
    | some v, some w => v.issued != w.issued
    | some v, none => decide (v.issued < clk)
    | none, _ => false

/-- R91: a hand read. h1 is the reader's own ranks. -/
def Env.hand (e : Env) (s : State) (h : Nat) : Hand :=
  if h = 1 then handOf e.a.members
  else
    let base := e.wg.hands.getD h 0#1024
    match pendingHand s e.g.uid e.a.wg h with
    | [] => base
    | ws =>
      let lo := ownPrefix e.a.id ws
      let points := (handPoints (e.clk s) ws).filter fun k => lo ≤ k
      if lo = ws.length then landHands base ws
      else (List.range 16).foldl (fun acc j =>
        let p := points.getD (Config.choose s.tick (16 * h + j) % points.length) ws.length
        acc ||| (landHands base (ws.take p) &&& sliceMask j)) 0#1024

/-- R127: the core slot of a place of a workgroup. -/
def Gang.slotOf (g : Gang) (wg place : Nat) : Nat :=
  let base := ((g.wgs.take wg).map fun w => cdiv (w.warps * w.g) 64).sum
  g.slots.getD (base + place * (g.wgs.getD wg default).g / 64) 0

/-- A hand write issues (R89, R90). -/
def Env.pushHand (e : Env) (s : State) (reg : Nat) (mask val : Hand) : State :=
  let slot := e.g.slotOf e.a.wg e.a.place
  { s with handQ := s.handQ ++ [⟨e.g.die, e.g.core, e.g.uid, e.a.wg, e.a.id, slot, e.a.place, reg, mask, val, e.clk s⟩] }

def allOnes : Hand := BitVec.allOnes 1024

/-- Whether an agent's hand writes have all committed (R92). -/
def handsQuiet (s : State) (agent : Nat) : Bool := !s.handQ.any fun w => w.agent == agent

/-! ### Results (R191) -/

def Env.addOut (e : Env) (s : State) (o : Out) : State := e.set s fun a => { a with outs := a.outs ++ [o] }
def Env.addFlags (e : Env) (s : State) (f : BitVec 5) : State := e.set s fun a => { a with fflags := a.fflags ||| f }

end Machine

end Sys2Proof
end

