-- ==== Sys2Proof/Machine/Ops.lean ====
section
/-! DEFINITION. The shared operations: the event log, results that return, atomics that perform, fences, taking a trap
and returning from one, page faults, and the issue of an instruction with the order of its checks (R199). -/

namespace Sys2Proof.Machine

/-! ### The Izsil event log (R385) -/

/-- Event codes of the model (log entry 15). -/
inductive Ev where
  | ecc | engine | frame | launch | post | grid | kill | faultGang | link | power | firmware | boot | context
  deriving DecidableEq, Repr

def Ev.code : Ev → Nat
  | .ecc => 1
  | .engine => 2
  | .frame => 3
  | .launch => 4
  | .post => 5
  | .grid => 6
  | .kill => 7
  | .faultGang => 8
  | .link => 9
  | .power => 10
  | .firmware => 11
  | .boot => 12
  | .context => 13

/-- R385: an entry is appended to the hash chain; the log keeps the last 4096. -/
def Izsil.append (z : Izsil) (ev : Ev) (data : List Nat) : Izsil :=
  let d := ((data.map fun n => BitVec.ofNat 64 n) ++ List.replicate 5 0#64).take 5
  let word := 1 + ev.code * 2 ^ 16
  let body := toBytes 8 z.logSeq ++ toBytes 8 z.ms ++ toBytes 8 word ++ d.flatMap (fun w => toBytes 8 w.toNat)
  let h := Config.shake256 (z.logHash ++ body) 32
  let ent : LogEnt := ⟨z.logSeq, z.ms, 1, ev.code, 0, d, h⟩
  let log := z.log ++ [ent]
  { z with log := log.drop (log.length - 4096), logSeq := z.logSeq + 1, logHash := h }
def logEvent (s : State) (ev : Ev) (data : List Nat) : State := { s with izsil := s.izsil.append ev data }

/-! ### The operand store (R80, R82, R88) -/

/-- Whether a window covers an operand-store byte. -/
def StashEnt.covers (w : StashEnt) (a : Nat) : Bool := w.v && w.base * 128 ≤ a && a < (w.base + w.lines) * 128
/-- R55: the global byte an operand-store byte stands for. -/
def StashEnt.vaOf (w : StashEnt) (a : Nat) : Nat := w.gva.toNat + a - w.base * 128
def Gang.window? (g : Gang) (a : Nat) : Option StashEnt := g.stash.find? fun w => w.covers a

def OsWrite.overlaps (p q : OsWrite) : Bool := p.bytes.any fun b => q.bytes.any fun c => c.1 == b.1
def OsWrite.touches (p : OsWrite) (as : List Nat) : Bool := p.bytes.any fun b => as.contains b.1

/-- An agent of no core, for what has to be visible at a gang's core. -/
def Gang.nobody (g : Gang) : Who :=
  { die := g.die, core := 33, gang := 0, agent := 0, asid := 0, raf := [], ident := false, own := [] }

/-- The waiting writes that pass a test and the earlier ones to the same bytes, in order; the list is given newest
first. -/
def osNeeded (sel : OsWrite → Bool) : List OsWrite → List OsWrite → List OsWrite
  | [], acc => acc
  | p :: r, acc => if sel p || acc.any p.overlaps then osNeeded sel r (p :: acc) else osNeeded sel r acc

/-- R68: the poison of lines that the last write of an instruction that covers them wholly clears. -/
def clearOsGroup (left : List OsWrite) (poison : List Nat) (p : OsWrite) : List Nat :=
  if p.grp = 0 then poison
  else poison.filter fun l => !(p.bytes.any fun b => lineOf b.1 == l) || left.any fun q => q.grp == p.grp && q.bytes.any fun b => lineOf b.1 == l

/-- Waiting writes reach a gang's operand store. -/
def Gang.osPerform (g : Gang) (sel : OsWrite → Bool) : Gang :=
  match g.osq with
  | [] => g
  | _ =>
    let ps := osNeeded sel g.osq.reverse []
    let left := g.osq.filter fun q => !ps.contains q
    { g with os := ps.foldl (fun m p => m.putAll 0#8 p.bytes) g.os, osq := left,
             osPoison := ps.foldl (clearOsGroup left) g.osPoison }

/-- R83: whether what a release orders before an operand-store write has taken effect, or can be shown with it. -/
def OsWrite.opens (s : State) (g : Gang) (p : OsWrite) : Bool :=
  !p.after.any (fun m => accessOpen s g.uid m.w) && canShow s g.nobody (pulled s g.nobody (needPairs s p.need))

/-- The releases that stand behind operand-store bytes from now on (R84). -/
def Gang.setOsTags (g : Gang) (as : List Nat) (ms : List Need) : Gang :=
  if g.osTags.isEmpty && ms.isEmpty then g
  else
    let rest := g.osTags.filter fun t => !as.contains t.1
    { g with osTags := if ms.isEmpty then rest else rest ++ as.map fun a => (a, ms) }

/-- One waiting write lands: what a release orders before it is visible at the core. -/
def osLand (s : State) (g : Gang) (p : OsWrite) : State :=
  let ms := p.need.filter fun m => (m.write? s).isSome
  let s := if ms.isEmpty then s else showPairs s (pulled s g.nobody (needPairs s ms))
  s.updGang g.uid fun g => (g.osPerform fun q => q == p).setOsTags (p.bytes.map fun b => b.1) ms

/-- One pass over waiting writes in order: those that can land do, each after the earlier ones to its bytes. -/
def osPass (g : Gang) (s : State) (ps : List OsWrite) : State :=
  (ps.foldl (fun (acc : State × List OsWrite) p =>
    if p.opens acc.1 g && !acc.2.any p.overlaps then (osLand acc.1 g p, acc.2) else (acc.1, p :: acc.2)) (s, [])).1

/-- Passes until nothing more lands. -/
def osPasses (uid : Nat) (sel : OsWrite → Bool) : Nat → State → State
  | 0, s => s
  | fuel + 1, s =>
    match s.gang? uid with
    | none => s
    | some g =>
      match osNeeded sel g.osq.reverse [] with
      | [] => s
      | ps => osPasses uid sel fuel (osPass g s ps)

/-- Waiting writes that pass a test land, those that can. -/
def osFlush (s : State) (uid : Nat) (sel : OsWrite → Bool) : State :=
  match s.gang? uid with
  | none => s
  | some g => osPasses uid sel g.osq.length s

/-- Whether a waiting write that passes a test is left. -/
def osOwed (s : State) (uid : Nat) (sel : OsWrite → Bool) : Bool := ((s.gang? uid).map fun g => g.osq.any sel).getD false

/-- Before an agent reads or writes operand-store bytes, its own writes to them land; another agent's may. -/
def osNote (s : State) (uid agent : Nat) (as : List Nat) : State :=
  let t := s.tick
  osFlush s uid fun p => p.touches as && (p.agent == agent || Config.coin t (1000 + p.n))

def Gang.osBytes (g : Gang) (as : List Nat) : List Byte := as.map fun a => g.os.look 0#8 a

/-! ### Loads take their value -/

/-- Whether a part reads one of some bytes of global memory, by their homes, or of the operand store. -/
def LoadPart.overlaps (p : LoadPart) (as : List Nat) : Bool := p.home.any as.contains

/-- The byte an agent reads through a window line (R55, R88): a waiting write it sees, else what the line holds, or the home
where the line is INVALID by now. -/
def winByte (s : State) (who : Who) (g : Gang) (a home : Nat) : Byte := match lastSeen s who home with
  | some _ => viewByte s who home
  | none => if g.wlines.any fun w => w.line == lineOf a && w.pa == lineOf home then g.os.look 0#8 a else homeByte s home

/-- The bytes a part reads: of global memory, of the operand store, or through a window. -/
def LoadPart.value (s : State) (who : Who) (os : Bool) (p : LoadPart) : List Byte :=
  let g := (s.gang? who.gang).getD default
  if !os then viewBytes s who p.addrs
  else match p.home with
    | [] => g.osBytes p.addrs
    | hs => (p.addrs.zip hs).map fun b => winByte s who g b.1 b.2

/-- The number a read has taken, part after part. -/
def LoadReq.taken (l : LoadReq) : Nat := ofBytes (l.parts.flatMap fun p => p.got.getD [])

/-- The parts of an agent's results that still wait. -/
def Agent.waitParts (a : Agent) (sel : LoadReq → LoadPart → Bool) : List (LoadReq × LoadPart) :=
  a.outs.flatMap fun o => o.reads.flatMap fun l => (l.parts.filter fun p => p.got.isNone && sel l p).map fun p => (l, p)

/-- Whether a part can take its value: the agent's own operand-store writes to it have landed, or no write that it may not
pass is out of its sight. -/
def Env.partReady (e : Env) (s : State) (l : LoadReq) (p : LoadPart) : Bool :=
  if l.os then !osOwed s e.g.uid (fun w => w.agent == e.a.id && w.touches p.addrs) && readable s e.who p.home && !p.home.any (frozen s)
  else readable s e.who p.addrs && !p.addrs.any (frozen s)

/-- Values that an agent has taken ahead are given up (R80): those of bytes it accesses otherwise, and, at an acquire, all. -/
def Ahead.meets (h : Ahead) (os : Bool) (as : List Nat) : Bool := h.os == os && h.addrs.any as.contains
def forget (s : State) (e : Env) (os : Bool) (as : List Nat) : State := match (e.now s).a.ahead with
  | [] => s
  | _ => e.set s fun a => { a with ahead := a.ahead.filter fun h => !h.meets os as }
def dropAhead (s : State) (e : Env) : State := match (e.now s).a.ahead with
  | [] => s
  | _ => e.set s fun a => { a with ahead := [] }

/-- The releases behind operand-store bytes. -/
def Gang.osReleases (g : Gang) (as : List Nat) : List Need := match g.osTags with
  | [] => []
  | ts => (ts.filter fun t => as.contains t.1).flatMap fun t => t.2

/-- What the reads of a list of waiting parts leave behind: lines in the caches, writes seen and releases heard (R84, R96),
and, for what a release has ordered after them, the writes they return (R97). -/
def noteParts (s : State) (e : Env) (hit : List (LoadReq × LoadPart)) : State :=
  let plain := hit.filter fun h => !h.1.os
  let as := (plain.flatMap fun h => h.2.addrs) ++ (hit.filter fun h => h.1.os).flatMap fun h => h.2.home
  let s1 := plain.foldl (fun t h => (sortNat (h.2.addrs.map lineOf)).foldl (fun t l => dirRead t e.g.die e.g.core l h.1.hint) t)
    (noteSeen s e.who as)
  let ms := (e.now s).g.osReleases ((hit.filter fun h => h.1.os).flatMap fun h => h.2.addrs)
  let s2 := if ms.isEmpty then s1 else noteAgent s1 e.who [] ms
  if s.outq.isEmpty then s2
  else (e.now s).a.outs.foldl (fun t o =>
    let mine := (hit.filter fun h => o.reads.contains h.1).flatMap fun h => if h.1.os then h.2.home else h.2.addrs
    resolveAfter t e.g.uid o.n (seenAt s e.who mine)) s2

/-- An agent's waiting parts that pass a test take their value now, those that can (R79, R83). -/
def settle (s : State) (e : Env) (sel : LoadReq → LoadPart → Bool) : State :=
  match (e.now s).a.waitParts sel with
  | [] => s
  | hit =>
    let os := (hit.filter fun h => h.1.os).flatMap fun h => h.2.addrs
    let s := if os.isEmpty then s else osNote s e.g.uid e.a.id os
    let now := hit.filter fun h => e.partReady s h.1 h.2
    let s1 := if now.isEmpty then s else noteParts s e now
    let s1 := forget (forget s1 e true os) e false ((now.filter fun h => !h.1.os).flatMap fun h => h.2.addrs)
    let take (l : LoadReq) (p : LoadPart) : LoadPart :=
      if p.got.isNone && sel l p && e.partReady s l p then { p with got := some (p.value s e.who l.os) } else p
    e.set s1 fun a => { a with outs := a.outs.map fun o => { o with reads := o.reads.map fun l => { l with parts := l.parts.map (take l) } } }

/-- Whether a part that passes a test still waits. -/
def Env.partOwed (e : Env) (s : State) (sel : LoadReq → LoadPart → Bool) : Bool := !((e.now s).a.waitParts sel).isEmpty

/-! ### Atomics (R69, R101, R252) -/

/-- Whether a command has a record, an extent or a descriptor still to read (R119). -/
def Cmd.readsRecord (c : Cmd) : Bool := c.phase != .complete && match c.body with
  | .copy .. => c.phase == .queued
  | .auct .. => true
  | .walk _ _ st => st.isNone
  | .vdec _ _ _ st => st.isNone
  | _ => false

/-- R119: an agent writes bytes; the commands it has issued before, by their identities, keep them as they stood just before. -/
def fixRecords (s : State) (who : Who) (upto : Nat) (as : List Nat) : State :=
  match s.cmds with
  | [] => s
  | _ =>
    let keep (c : Cmd) : Cmd :=
      { c with old := c.old ++ (as.eraseDups.filter fun a => !c.old.any fun p => p.1 == a).map fun a => (a, viewByte s who a) }
    { s with cmds := updWhere (fun c => c.agent == who.agent && decide (c.id < upto) && c.readsRecord) keep s.cmds }

/-- The new value of an atomic operation on w bytes, and whether it writes. -/
def atomNew (op : AtomOp) (ty w o c e : Nat) : Nat × Bool :=
  let bits := 8 * w
  let sg := accSigned ty
  let lt (x y : Nat) : Bool := if sg then decide (sInt bits x < sInt bits y) else decide (x < y)
  match op with
  | .add => ((o + c) % 2 ^ bits, true)
  | .min => (if lt c o then c else o, true)
  | .max => (if lt o c then c else o, true)
  | .and => (Nat.land o c, true)
  | .or => (Nat.lor o c, true)
  | .xor => (Nat.xor o c, true)
  | .exch => (c, true)
  | .cas => if o = c then (e, true) else (o, false)
  | .fadd => let f := fmtOf ty; ((faddV f 0 (f.read o) (f.read c)).1, true)

def bytesAt (a n : Nat) : List Nat := (List.range n).map (a + ·)

/-- The agent of an atomic, for what it has observed. -/
def PendAtom.who (p : PendAtom) : Who := { die := p.die, core := p.core, gang := p.gang, agent := p.agent, asid := 0, raf := [], ident := false, own := [] }

/-- Whether an atomic performs in its core's L1 (R101); one of a collapse performs at the home (R104). -/
def PendAtom.inL1 (p : PendAtom) : Bool := !(p.memSide || p.held)

/-- The waiting writes that come before an atomic in coherence order (R78, R102): L1 atomics, those the agent may not pass,
and those that have to be visible before the atomic's own; at the memory side, those any core has seen. -/
def PendAtom.behind (s : State) (p : PendAtom) (as : List Nat) (q : PendWrite) : Bool :=
  q.touches as && (q.excl || mustSee s p.who q || (!p.inL1 && !q.seen.isEmpty) ||
    (pulled s p.who (needPairs s p.need)).any fun x => x.1 == q.n)

/-- In an L1, all waiting writes to the bytes up to the last of those. -/
def PendAtom.behindL1 (s : State) (p : PendAtom) (as : List Nat) : List PendWrite :=
  ((s.outq.reverse.dropWhile fun q => !p.behind s as q).reverse).filter fun q => q.touches as

/-- The bytes of an atomic's lanes. -/
def PendAtom.bytes (p : PendAtom) : List Nat := p.lanes.flatMap fun l => bytesAt l.pa p.w

/-- Whether an atomic has to wait: a page in collapse, a frame in a bias flip, a write that comes before it and is not
visible to its core, or at the memory side cannot perform, or what a release orders first (R72, R74, R83, R97). -/
def PendAtom.stuck (s : State) (p : PendAtom) : Bool :=
  !p.dups.isEmpty || p.lanes.any (fun l => frozen s l.pa) || p.after.any (fun m => accessOpen s p.gang m.w) ||
    !canShow s p.who (pulled s p.who (needPairs s p.need)) ||
    if p.inL1 then (p.behindL1 s p.bytes).any fun q => !showable s p.who q
    else stuckSel s (p.behind s p.bytes) || p.need.any fun m => (m.write? s).isSome && decide (3 ≤ m.scope)

/-- The value an L1 atomic finds: the last of the writes before it, or what stands at the home (R78, R102). -/
def foundByte (s : State) (qs : List PendWrite) (a : Nat) : Byte :=
  ((qs.reverse.find? fun q => q.covers a).bind fun q => (q.bytes.find? fun b => b.1 == a).map fun b => b.2).getD (homeByte s a)

/-- The releases behind bytes as an atomic finds them (R84). -/
def chainOf (s : State) (qs : List PendWrite) (as : List Nat) : List Need :=
  (as.flatMap fun a => match qs.reverse.find? fun q => q.covers a with
    | some q => q.need
    | none => ((s.tags.find? fun t => t.1 == a).map fun t => t.2).getD []).eraseDups

/-- A write directly behind some waiting ones, or before all. -/
def insertAfter (q : PendWrite) (qs l : List PendWrite) : List PendWrite :=
  let tail := (l.reverse.takeWhile fun p => !qs.any fun r => r.n == p.n).length
  l.take (l.length - tail) ++ q :: l.drop (l.length - tail)

/-- One lane of an atomic performs: its old value. The line is obtained exclusively, whether or not the operation writes
(R63, R69); a chain of atomics hands on the releases it reads (R84). In an L1 its write then waits directly behind what it
has read (R78), and later writes that a release orders after the atomic wait for it (R83). -/
def performLane (s : State) (p : PendAtom) (l : AtomLane) : State × Nat :=
  let as := bytesAt l.pa p.w
  let s := if p.inL1 then s else performSel s (p.behind s as)
  let qs := if p.inL1 then p.behindL1 s as else []
  let s := match s.outq with
    | [] => s
    | _ => showPairs s (pulled s p.who (needPairs s p.need ++ qs.map fun q => (q.n, p.core)))
  let s := fixRecords s p.who p.n as
  let chain := match s.outq with
    | [] => []
    | _ => chainOf s qs as
  let s := if chain.isEmpty && qs.isEmpty then s else noteAgent s p.who (qs.map fun q => q.n) chain
  let old := ofBytes (as.map (foundByte s qs))
  let (new, wr) := atomNew p.op p.ty p.w old l.c l.e
  let bytes := as.zip (toBytes p.w new)
  let had := inL1 s p.die p.core (lineOf l.pa)
  let s := ownLine s (lineOf l.pa)
  let ms := p.need ++ chain
  let s := if p.inL1 then holdL1 s had p.die p.core (lineOf l.pa) p.hint else s
  let s := if !wr then s
    else if !p.inL1 then setTags (applyHome s bytes) as ms
    else
      let q : PendWrite := { n := s.fresh, die := p.die, core := p.core, gang := p.gang, agent := p.agent, bytes := bytes, seen := [p.core],
                             dup := none, excl := true, need := ms.filter (fun m => (m.write? s).isSome), hint := p.hint }
      resolveAfter { s with outq := insertAfter q qs s.outq, fresh := s.fresh + 1 } p.gang p.n [q.n]
  (s, old)

/-- The register writes of a lane's old value. -/
def PendAtom.result (p : PendAtom) (l : AtomLane) (old : Nat) : List RegWrite :=
  if p.w ≤ 4 then [RegWrite.v l.reg l.lane (BitVec.ofNat 32 old)] else vWritesN (p.w / 4) l.reg l.lane old

/-- The lanes of an atomic perform in ascending order (R28), with the register writes of their old values. -/
def performLanes (p : PendAtom) : List AtomLane → State → List RegWrite → State × List RegWrite
  | [], s, ws => (s, ws)
  | l :: r, s, ws =>
    let (s, old) := performLane s p l
    performLanes p r s (ws ++ p.result l old)

/-- Lanes of an atomic perform: those listed, in ascending order; their old values are ready to return, and with the last
lane the atomic is over. -/
def performSome (s : State) (p : PendAtom) (now later : List AtomLane) : State :=
  let s := { s with atoms := if later.isEmpty then s.atoms.filter fun q => q.n != p.n
                             else updWhere (fun q => q.n == p.n) (fun q => { q with lanes := later }) s.atoms }
  let (s, ws) := performLanes p now s []
  let fill (o : Out) : Out :=
    if o.atom == some p.n then { o with writes := o.writes ++ ws, atom := if later.isEmpty then none else o.atom } else o
  s.updAgent p.gang p.agent fun a => { a with outs := a.outs.map fill }

/-- An atomic performs. -/
def performAtom (s : State) (p : PendAtom) : State := performSome s p p.lanes []

/-- A lane of an atomic performs: any that no lower lane of the instruction precedes on the same bytes (R28, R101). -/
def performOneLane (s : State) (p : PendAtom) : State :=
  let meets (l m : AtomLane) : Bool := decide (l.pa < m.pa + p.w) && decide (m.pa < l.pa + p.w)
  let ready := p.lanes.filter fun l => !p.lanes.any fun m => m.lane < l.lane && meets l m
  match ready with
  | [] => performAtom s p
  | l0 :: _ =>
    let l := ready.getD (Config.choose s.tick 4 % ready.length) l0
    performSome s p [l] (p.lanes.filter fun m => m != l)

/-- An agent's pending atomics perform, those that can. -/
def settleAtoms (s : State) (agent : Nat) (sel : PendAtom → Bool) : State :=
  (s.atoms.filter fun p => p.agent == agent && sel p).foldl
    (fun s p => match s.atoms.find? fun q => q.n == p.n with
      | some q => if q.stuck s then s else performAtom s q
      | none => s) s

def PendAtom.overlaps (p : PendAtom) (as : List Nat) : Bool := p.bytes.any as.contains

/-- Before an access to bytes, by their homes, the agent's own earlier accesses to them take effect (R79). -/
def ownFirst (s : State) (e : Env) (as : List Nat) : State :=
  let s := settle s e fun _ p => p.overlaps as
  forget (settleAtoms s e.a.id fun p => p.overlaps as) e false as

/-- Whether the agent has an earlier access to a byte that still waits and cannot be passed; behind a write or an atomic
that a collapse holds, the whole line waits (R72, R74, R79). -/
def ownBlocked (s : State) (e : Env) (as : List Nat) : Bool :=
  (s.outq.any fun p => p.agent == e.a.id && p.held && as.any fun a => lineOf a == p.line) ||
  (s.atoms.any fun p => p.agent == e.a.id && (if p.held then p.lanes.any (fun l => as.any fun a => lineOf a == lineOf l.pa)
    else p.overlaps as && p.stuck s)) ||
  as.any (frozen s) || ((e.now s).a.waitParts fun _ p => p.overlaps as).any fun h => !e.partReady s h.1 h.2

/-- The same for a read that takes its value at once, where it reads the bytes. -/
def readBlocked (s : State) (e : Env) (home rd : List Nat) : Bool := ownBlocked s e home || !readable s e.who rd

/-! ### Results land -/

/-- Whether an entry of the result list can land: nothing is owed to it, and no earlier entry still writes one of its
registers (R192). -/
def canLand (outs : List Out) (n : Nat) : Bool :=
  match outs[n]? with
  | none => false
  | some o => o.rejected == 0 && o.atom.isNone && !o.reads.any LoadReq.waits && !(outs.take n).any fun q => q.regs.any o.regs.contains

/-- The register writes of a result whose reads have taken their value. -/
def Out.values (o : Out) : List RegWrite := o.writes ++ o.reads.flatMap fun l => l.fmt.writes l.taken

/-- A result lands: its hand write issues (R89), its registers hold their values. -/
def landOut (s : State) (e : Env) (n : Nat) : State :=
  match (e.now s).a.outs[n]? with
  | none => s
  | some o =>
    let s := match o.hand with
      | none => s
      | some h => (e.now s).pushHand s h allOnes (BitVec.ofNat 1024 ((o.reads.head?.map LoadReq.taken).getD 0))
    e.set s fun a => { o.values.foldl Agent.land a with outs := a.outs.eraseIdx n }

/-- Every outstanding result of an agent returns, in order; one that cannot yet stays, with those behind it. -/
def landAll (s : State) (e : Env) : Nat → State
  | 0 => s
  | fuel + 1 =>
    let s := settle (settleAtoms s e.a.id fun _ => true) e fun _ _ => true
    match (e.now s).a.outs with
    | [] => s
    | o :: _ => if o.atom.isSome || o.reads.any LoadReq.waits then s else landAll (landOut s e 0) e fuel

def Env.landAll (e : Env) (s : State) : State := Machine.landAll s e (e.now s).a.outs.length
def Env.quiet (e : Env) (s : State) : Bool := (e.now s).a.outs.isEmpty

/-! ### Fences (R76, R83, R84, R95, R97) -/

/-- The waiting writes an agent has made or observed. -/
def Env.observes (e : Env) (s : State) (p : PendWrite) : Bool := observed s e.who p

/-- R84: an acquire of a scope: the agent has observed the writes of the releases it has read, where the scopes agree. -/
def acquire (s : State) (e : Env) (scope : Nat) : State :=
  let s := dropAhead s e
  match s.outq with
  | [] => s
  | _ => noteAgent s e.who (((e.now s).a.heard.filter fun m => m.agrees e.who scope).map fun m => m.w) []

/-- What comes before a release of a scope (R83): the waiting writes that the agent has observed, and its own reads, atomics
and operand-store writes that have not taken effect. -/
def Env.past (e : Env) (s : State) (scope : Nat) : List Need × List Need :=
  let needOf (n : Nat) : Need := ⟨n, scope, e.g.die, e.g.core, e.g.uid, e.a.wg⟩
  let ms := (s.outq.filter (e.observes s)).map fun p => needOf p.n
  let e := e.now s
  let reads := (e.a.outs.filter fun o => o.reads.any LoadReq.waits).map fun o => o.n
  let ids := reads ++ ((s.atoms.filter fun p => p.agent == e.a.id).map fun p => p.n) ++ (e.g.osq.filter fun p => p.agent == e.a.id).map fun p => p.n
  (ms, ids.map needOf)

/-- R83: a release of a scope, as far as it goes before a later write: the agent's later writes wait for what comes before
the release; later reads do not. -/
def release (s : State) (e : Env) (scope : Nat) : State :=
  let p := e.past s scope
  if p.1.isEmpty && p.2.isEmpty then s
  else e.set s fun a => { a with
    before := (a.before.filter fun m => (m.write? s).isSome) ++ p.1
    after := a.after.filter (fun m => accessOpen s e.g.uid m.w) ++ p.2 }

/-- R104: whether a write of the agent waits for a collapse; a release after it does so too. -/
def ownHeld (s : State) (e : Env) : Bool :=
  s.outq.any (fun p => p.agent == e.a.id && p.held) || s.atoms.any fun p => p.agent == e.a.id && p.held

/-- R98: a `.sc` fence acquires what the earlier ones have left for it, and leaves what its agent has observed to the later
ones. -/
def scJoin (s : State) (e : Env) (scope : Nat) : State := match s.scs with
  | [] => s
  | _ => noteAgent s e.who ((s.scs.filter fun m => m.agrees e.who scope).map fun m => m.w) []
def scLeave (s : State) (e : Env) (scope : Nat) : State :=
  let ms := (e.past s scope).1
  if s.scs.isEmpty && ms.isEmpty then s else { s with scs := ((s.scs.filter fun m => (m.write? s).isSome) ++ ms).eraseDups }


/-- The agent's reads and atomics have returned, or none while one cannot yet. -/
def readsIn (s : State) (e : Env) : Option State :=
  let s := settle (settleAtoms s e.a.id fun _ => true) e fun _ _ => true
  if s.atoms.any (fun p => p.agent == e.a.id) || e.partOwed s (fun _ _ => true) then none else some s

/-- A fence that takes effect at once: order 0 acq, 1 rel, 2 ar, 3 sc; scope 0 wg to 4 sys. None while it has to wait. -/
def fence (s : State) (e : Env) (order scope : Nat) : Option State :=
  match readsIn s e with
  | none => none
  | some s =>
    if order = 0 then some (acquire s e scope)
    else
      let s := if order = 3 then scJoin s e scope else s
      let obs := e.observes s
      let s := osFlush s e.g.uid fun p => p.agent == e.a.id
      if osOwed s e.g.uid (fun p => p.agent == e.a.id) || ownHeld s e then none
      else
        let done (s : State) : Option State :=
          some (if order = 1 then s else if order = 3 then scLeave (acquire s e scope) e scope else acquire s e scope)
        let cores := if scope = 2 then List.range 32 else [e.g.core]
        if 3 ≤ scope then (if stuckSel s obs then none else done (performSel s obs))
        else if canShowSel s e.who obs cores then done (showSel s e.who obs cores) else none

/-- `FENCE`, and what an `ATOM` has of it before itself: a release and an acquire as the order says; `.sc` takes effect at
once (R83, R98). -/
def fenceFor (s : State) (e : Env) (order scope : Nat) : Option State :=
  match order with
  | 0 => fence s e 0 scope
  | 1 => if ownHeld s e then none else some (release s e scope)
  | 2 => if ownHeld s e then none else (fence s e 0 scope).map fun s => release s e scope
  | _ => fence s e 3 scope

/-- The waiting writes an agent has made or observed, by their numbers. -/
def Env.observedNow (e : Env) (s : State) : List Nat := (s.outq.filter (e.observes s)).map fun p => p.n

/-- The waiting writes, of memory and of the operand store, that an agent's release at `.core` passes on (R84). -/
def relIds (s : State) (e : Env) : List Nat :=
  e.observedNow s ++ (((s.gang? e.g.uid).map fun g => g.osq).getD []).filterMap fun p => if p.agent == e.a.id then some p.n else none

/-- An agent acquires what was released (R84): operand-store writes land, and it has observed the others; none while one
cannot land yet. -/
def relIn (s : State) (e : Env) (ids : List Nat) : Option State := match ids with
  | [] => some s
  | _ =>
    let s := osFlush s e.g.uid fun p => ids.contains p.n
    if osOwed s e.g.uid (fun p => ids.contains p.n) then none else some (noteAgent s e.who ids [])

/-! ### Killing (R350, R357) -/

/-- Killed: the gang does nothing further; GANG_KILL does the rest. -/
def markDying (s : State) (uid : Nat) : State := s.updGang uid fun g => { g with dying := true }

/-- PROT: every gang of the context is killed and none is placed any more (R350). -/
def killContext (s : State) (asid : Nat) : State :=
  let die (g : Gang) : Gang := { g with dying := true }
  { s with
    gangs := updWhere (fun g => g.asid == asid) die s.gangs
    saved := updWhere (fun v => v.gang.asid == asid) (fun v => { v with gang := die v.gang }) s.saved
    grids := s.grids.filter fun g => g.asid != asid
    waitGangs := s.waitGangs.filter fun w => w.frame.isSome || !(s.grids.any fun g => g.n == w.grid && g.asid == asid)
    deadCtx := insNat asid s.deadCtx }

/-! ### Traps (R341, R350, R351) -/

/-- sr.trap after a trap: ACT, CODE, LEN, CAUSE. -/
def trapWord (act : Bool) (code len cause : Nat) : DWord :=
  BitVec.ofNat 64 ((if act then 2 ^ 63 else 0) + code % 256 * 2 ^ 32 + len % 16 * 2 ^ 8 + cause % 32)

/-- sr.tinfo: LANE, STEP, DETAIL; a DETAIL the spec does not number is free (log entry 14). -/
def tinfoWord (tick lane step : Nat) (detail : Option Nat) : DWord :=
  let d := match detail with
    | some d => d % 16
    | none => Config.choose tick 1 % 15
  BitVec.ofNat 64 (lane % 256 * 2 ^ 8 + step % 16 * 2 ^ 4 + d)

/-- The trap registers as a trap writes them. -/
def Agent.setTrap (a : Agent) (tick : Nat) (t : Trap) (act : Bool) : Agent :=
  { a with
    trap := trapWord act t.code t.len t.info.cause
    tepc := t.tepc.setWidth 64
    tinfo := tinfoWord tick t.info.lane t.step t.info.detail }

/-- sr.trap.ACT. -/
def Agent.act (a : Agent) : Bool := a.trap.getLsbD 63

/-- A die's fault gang: the gangs that no grid holds (R43). -/
def Gang.isFault (g : Gang) : Bool := g.grid == 0

/-- An attempt to issue that gives nothing: the agent waits at a condition, and is not ready (R154). -/
def Agent.hold (a : Agent) : Agent := { a with ready := none, stood := 0 }
def Env.hold (e : Env) (s : State) : State := e.set s Agent.hold

/-- A trap waits for the results that are out (R350); nothing of it is lost meanwhile. -/
def Env.pend (e : Env) (s : State) (t : Trap) (debug : Bool) : State :=
  e.set s fun a => { a.hold with st := .runnable, pend := some (t, debug) }

/-- An agent with nothing under way at its PC. -/
def Agent.fresh (a : Agent) : Agent := { a with st := .runnable, prog := 0, voted := none, sbw := none, dupWait := false, pend := none }

/-- R350: taking a trap. A PROT kills the context; a trap in a handler, or with no handler, or in a fault gang (R43), kills
the gang; otherwise every outstanding result returns, the trap registers are written and the PC goes to TRAPH. -/
def takeTrap (s : State) (e : Env) (t : Trap) : State :=
  if t.info.cause = cPROT then killContext s e.g.asid
  else if e.a.act || e.g.blk.traph == 0#52 || e.g.isFault then markDying s e.g.uid
  else
    let s := e.landAll s
    if !e.quiet s then e.pend s t false
    else e.set s fun a => { (a.setTrap s.tick t true).fresh with pc := e.g.blk.traph }

/-- `ERET` (R341): the PC goes back to tepc, past the instruction with `.skip`, and ACT clears; a breakpoint or
watchpoint is passed once (R360). -/
def leaveTrap (s : State) (e : Env) (skip : Bool) : State :=
  let len := fld e.a.trap.toNat 8 4
  let cause := fld e.a.trap.toNat 0 5
  let pc := e.a.tepc.setWidth 52 + BitVec.ofNat 52 (if skip then 4 * len else 0)
  e.set s fun a => { a with pc := pc, trap := a.trap &&& ~~~(1#64 <<< 63), st := .runnable, prog := 0, voted := none,
                            skipDbg := !skip && (cause == cBKPT || cause == cWATCH) }

/-! ### Debug (R358-R361) -/

def Env.dbgOn (e : Env) : Bool := e.g.dbg.getLsbD 0 && e.g.dbg.getLsbD (4 + e.a.wg) && !e.a.act

/-- The comparator whose breakpoint matches an address. -/
def Env.breakAt (e : Env) (pc : Addr) : Option Nat :=
  (List.range 4).find? fun n =>
    let w := (e.g.wp.getD n 0#64).toNat
    bitN w 63 && e.g.blk.code + BitVec.ofNat 52 (4 * fld w 32 24) == pc

/-- The comparator whose watchpoint matches an access of a kind to bytes [a, a + n). -/
def Env.watchAt (e : Env) (rd wr : Bool) (a n : Nat) : Option Nat :=
  (List.range 4).find? fun c =>
    let w := (e.g.wp.getD c 0#64).toNat
    let wk := fld w 61 2
    let len := match fld w 59 2 with
      | 0 => 4
      | 1 => 16
      | _ => 128
    ((rd && bitN wk 0) || (wr && bitN wk 1)) && fld w 0 20 < a + n && a < fld w 0 20 + len

/-- R360: the watch of an operand-store access over its lanes. -/
def Env.watch (e : Env) (rd wr : Bool) (acc : List (Nat × Nat × Nat)) : Option TrapInfo :=
  if e.dbgOn && !e.a.skipDbg then
    acc.findSome? fun l => (e.watchAt rd wr l.2.1 l.2.2).map fun n => ⟨cWATCH, l.1, some (n + 1)⟩
  else none

/-- R361: a debug event traps, or under HALT writes the trap registers and stops the gang for a save. -/
def takeDebug (s : State) (e : Env) (t : Trap) : State :=
  if e.g.dbg.getLsbD 2 then
    let s := e.landAll s
    if !e.quiet s then e.pend s t true
    else
      let s := e.set s fun a => { (a.setTrap s.tick t false).fresh with pc := t.tepc, stopped := true, skipDbg := t.info.cause != cSTEP }
      e.setGang s fun g => match g.stop with
        | some ⟨.halt _ _, _, _, _, _⟩ => g
        | _ => { g with stop := some { cause := .halt e.a.id t.info.cause, due := e.clk s + (s.die e.g.die).pretime.toNat, hit := false } }
  else takeTrap s e t

/-! ### Page faults (R40, R42, R342) -/

/-- A fault record. -/
def faultRec (va asid cause level kind lane seq count : Nat) (ovf : Bool) (token : Nat) (pc : Addr) : FaultRec :=
  ⟨BitVec.ofNat 64 va,
   BitVec.ofNat 64 (asid + cause * 2 ^ 16 + level * 2 ^ 22 + kind * 2 ^ 24 + (if ovf then 2 ^ 31 else 0) +
     lane * 2 ^ 32 + seq * 2 ^ 40 + count * 2 ^ 48),
   BitVec.ofNat 64 token, pc.setWidth 64⟩

/-- The records of one instruction, at most 64. -/
def pageRecs (k : AccKind) (asid token : Nat) (pc : Addr) (ps : List FaultPage) : List FaultRec :=
  let few := ps.take 64
  (enumFrom 0 few).map fun p =>
    faultRec p.2.va asid p.2.cause p.2.level k.code p.2.lane p.1 few.length (decide (64 < ps.length)) token pc

/-- Whether the die's fault queue has room for n more records. -/
def faultRoom (s : State) (die n : Nat) : Bool := decide ((s.die die).faultQ.length + n ≤ Config.faultQueueSize)

/-- R40: an instruction meets page faults: records written, the agent parked, the gang asked to stop. Held while the
queue has no room (R342), and where there is no faulting page: a translation waits (R74). -/
def pageFault (s : State) (e : Env) (k : AccKind) (ps : List FaultPage) : State :=
  let tok := s.fresh
  let recs := pageRecs k e.g.asid tok e.a.pc ps
  if ps.isEmpty || !faultRoom s e.g.die recs.length then e.hold s
  else
    let s := s.updDie e.g.die fun d => { d with faultQ := d.faultQ ++ recs }
    let s := { s with fresh := s.fresh + 1 }
    let s := e.set s fun a => { a with st := .parked tok }
    e.setGang s fun g => match g.stop with
      | none => { g with stop := some { cause := .pageFault, due := e.clk s, hit := false } }
      | some _ => g

/-- Whether a pending stop is for a wait or a fault, and gives way to a request of system software or the host. -/
def StopCause.yields : StopCause → Bool
  | .longWait => true
  | .pageFault => true
  | _ => false

/-- A watched condition of a gang that is being saved for a wait or a fault has come true (R160). -/
def Gang.noteHit (g : Gang) : Gang := { g with stop := g.stop.map fun p => { p with hit := p.hit || p.cause.yields } }

/-! ### Issue -/

/-- R112-R114: the value of a counter of the place an agent holds. -/
def Env.counter (e : Env) (s : State) (c : CmdClass) : Nat :=
  (s.cmds.filter fun q => q.cls == c && q.gang == e.g.uid && q.wg == e.a.wg && q.place == e.a.place).length
/-- R113: whether an agent's counter is full. -/
def Env.full (e : Env) (s : State) (c : CmdClass) : Bool := 63 ≤ e.counter s c

/-- How an instruction's own effect ends. -/
inductive Res where
  /-- done; the next instruction follows -/
  | done (s : State)
  /-- done; that address follows -/
  | jump (s : State) (pc : Addr)
  /-- stalled: issued again later; what it has done so far stands -/
  | stay (s : State)
  /-- at a long wait (R159) -/
  | wait (s : State)
  /-- a trap, with its CODE; the state is the one before -/
  | trap (t : TrapInfo) (code : Nat)
  /-- a page fault of a kind (R40) -/
  | page (k : AccKind) (ps : List FaultPage)
  /-- the agent has ended, become a donor, or left; nothing follows -/
  | gone (s : State)
  deriving DecidableEq, Repr, Inhabited

/-- What the issue of an instruction needs of it before its own checks. -/
structure Hdr where
  m : Marks
  words : Nat
  /-- an engine command whose counter is full (R113, R154) -/
  full : Bool := false
  /-- waits as if it carried SW (R192) -/
  always : Bool := false
  /-- the words name no instruction (R199 step 1) -/
  illop : Bool := false
  /-- the privilege check of R199 step 1 -/
  priv : Bool := false
  /-- step 2 of R199 passes -/
  ok : Bool := true
  /-- both guards hold -/
  guards : Bool := true
  role : RoleSet := .any
  /-- step 4 of R199 passes -/
  regs : Bool := true
  /-- the instruction's own list of checks begins with those of R199: ILLOP, ILLENC, REGBOUND (R206) -/
  own : Bool := false
  deriving DecidableEq, Repr

/-- R129. -/
def roleOk (c : RoleSet) (role : Nat) : Bool :=
  role == 0 || match c with
    | .any => true
    | .copy => role == 1
    | .mat => role == 2
    | .vec => role == 3

def Env.trapAt (e : Env) (words step : Nat) (t : TrapInfo) (code : Nat) : Trap := ⟨t, step, code, words, e.a.pc⟩

/-- The agent goes on at an address: a step event follows where one is enabled (R360). -/
def advance (s : State) (e : Env) (h : Hdr) (pc : Addr) : State :=
  let s := e.set s fun a => { a with pc := pc, st := .runnable, skipDbg := false, prog := 0, voted := none, dupWait := false }
  if e.dbgOn && e.g.dbg.getLsbD 1 then takeDebug s (e.now s) ⟨⟨cSTEP, 0, some 0⟩, 0, 0, h.words, pc⟩ else s

/-- Where the next instruction stands. -/
def Env.nextPc (e : Env) (h : Hdr) : Addr := e.a.pc + BitVec.ofNat 52 (4 * h.words)

/-- What the end of a wait at an `APPLY`, a barrier or a `QPOP` knows of the instruction, which has three words. -/
def waitHdr : Hdr := { m := ⟨false, false⟩, words := 3 }

/-- A stall: the agent is not ready (R154), and one that is no long wait ends a long wait (R159). -/
def Agent.unwait (a : Agent) : Agent := match a.st with
  | .waiting _ => { a.hold with st := .runnable }
  | _ => a.hold

/-- A long wait begins, with the threshold in force when it began (R159, R340), or goes on; the instruction has issued when
it begins. -/
def Agent.wait (due : Nat) (a : Agent) : Agent := match a.st with
  | .waiting _ => a.hold
  | _ => { a with st := .waiting due }

/-- What follows an instruction's own effect. -/
def finish (s : State) (e : Env) (h : Hdr) : Res → State
  | .done t => advance t e h (e.nextPc h)
  | .jump t pc => advance t e h pc
  | .stay t => e.set t Agent.unwait
  | .wait t => e.set t (Agent.wait (e.clk t + max 1024 (t.die e.g.die).swapthr.toNat))
  | .trap t code => if t.cause = cWATCH then takeDebug s e (e.trapAt h.words 5 t code) else takeTrap s e (e.trapAt h.words 5 t code)
  | .page k ps => pageFault s e k ps
  | .gone t => t

/-- The results an instruction with a switch marker waits for: register results, not a hand on its way (R192). -/
def Agent.owed (a : Agent) : Bool := a.outs.any fun o => o.hand.isNone

/-- R192, R193, R199, R360: the issue of an instruction: a stop at a safe point, the switch marker, breakpoints, the checks in
order, the guards, then its own checks and effect. An engine command whose counter is full is not ready (R154). -/
def issue (h : Hdr) (s : State) (e : Env) (body : State → Env → Res) : State :=
  -- an instruction that has done a part of its work goes on with it (`FORK`, `BIASF`, `CTXS`)
  if h.m.sp && e.a.prog == 0 && e.g.stop.isSome then e.set s fun a => { a.hold with stopped := true }
  else if h.full || ((h.m.sw || h.always) && e.a.owed) then e.hold s
  else if h.m.sp && e.a.prog == 0 && e.a.notice && e.a.depth == 0 && !e.a.isPack then e.hold s
  else
    let d (n : Nat) : Option Nat := if h.own then some n else none
    match if e.dbgOn && !e.a.skipDbg then e.breakAt e.a.pc else none with
    | some n => takeDebug s e (e.trapAt h.words 0 ⟨cBKPT, 0, some (n + 1)⟩ 0)
    | none =>
      if h.illop || (h.priv && !e.g.ident) then takeTrap s e (e.trapAt h.words 1 ⟨cILLOP, 0, d 1⟩ 0)
      else if !h.ok then takeTrap s e (e.trapAt h.words 2 ⟨cILLENC, 0, d 2⟩ 0)
      else if !h.guards then advance s e h (e.nextPc h)
      else if !roleOk h.role e.wg.role then takeTrap s e (e.trapAt h.words 3 ⟨cROLE, 0, none⟩ 0)
      else if !h.regs then takeTrap s e (e.trapAt h.words 4 ⟨cREGBOUND, 0, d 3⟩ 0)
      else finish s e h (body s e)

abbrev Outcome := Host.Outcome State Fault Refusal

/-- An instruction with a header that depends on the agent. -/
def run (h : Env → Hdr) (s : State) (body : State → Env → Res) : Outcome :=
  match s.env? with
  | none => .fault .noAgent
  | some e => .next (issue (h e) s e body)

/-- A base form (R182). -/
def runBase (i : Instr) (m : Marks) (words : Nat) (s : State) (body : State → Env → Res) : Outcome :=
  run (fun _ => { m := m, words := words, ok := i.wellFormed }) s body

/-- A base form that waits as if it carried SW (R192). -/
def runWait (i : Instr) (m : Marks) (words : Nat) (s : State) (body : State → Env → Res) : Outcome :=
  run (fun _ => { m := m, words := words, always := true, ok := i.wellFormed }) s body

/-- A base form of the vector group: its role, and registers below the grant. -/
def runVec (i : Instr) (m : Marks) (words : Nat) (regs : List Nat) (s : State) (body : State → Env → Res) : Outcome :=
  run (fun e => { m := m, words := words, ok := i.wellFormed, role := .vec, regs := regs.all fun r => r < e.allot }) s body

/-- R192: the extended forms that wait as if they carried SW. -/
def Instr.waits : Instr → Bool
  | .eret _ => true
  | .ctxs _ => true
  | .ctxl _ => true
  | _ => false

/-- The counter class of an engine command (R112). -/
def Instr.cmdClass : Instr → Option CmdClass
  | .cpy _ => some .cp
  | .cpo _ => some .cp
  | .gath _ => some .cp
  | .mma _ => some .mx
  | .mload _ => some .mx
  | .mzero _ => some .mx
  | .mdrain _ => some .mx
  | .sred _ _ => some .rd
  | .rtsend _ => some .rt
  | .rtflush _ => some .rt
  | .auct _ => some .au
  | .walk _ => some .fw
  | .vdec _ => some .vd
  | _ => none

/-- R246: operands that have to be different registers, after indirection. -/
def Instr.apart : Instr → Regs → Bool
  | .bfpq _, r => r.d != r.a
  | _, _ => true

/-- An extended form. -/
def runExt (i : Instr) (x : Ext) (s : State) (body : State → Env → Regs → Res) : Outcome :=
  let f := i.fields.getD {}
  run (fun e => { m := x.m, words := x.words, full := ((Instr.cmdClass i).map (e.full s)).getD false, always := Instr.waits i, priv := i.privileged,
                  ok := i.wellFormed && Instr.apart i (e.regs f x), guards := e.guards x, role := f.role, regs := e.regsOk f x (e.regs f x) }) s
    fun s e => body s e (e.regs f x)

/-- The ordinary end of an instruction with register results and flags. -/
def Env.result (e : Env) (s : State) (ws : List RegWrite) (f : BitVec 5 := 0#5) : Res :=
  .done (e.addOut (e.addFlags s f) { writes := ws })

end Sys2Proof.Machine
end

