-- ==== Sys2Proof/Machine/Hands.lean ====
section
/-! DEFINITION. The hand instructions: tests, set algebra, queries, making hands, HFENCE (R210-R215). -/

namespace Sys2Proof.Machine

/-- Types whose integers are signed (R162). -/
def signedTy (ty : BitVec 5) : Bool := ty.toNat % 2 == 1
/-- Width of an integer type of 32 or 64 bits. -/
def bitsOf (ty : BitVec 5) : Nat := if w64 ty then 64 else 32
/-- An operand read as signed or unsigned. -/
def asInt (ty : BitVec 5) (v : Nat) : Int := if signedTy ty then sInt (bitsOf ty) v else (v : Int)

/-- R196: an integer condition. -/
def condI (c : Cond) (a b : Int) : Bool :=
  match c with
  | .eq => a == b
  | .ne => a != b
  | .lt => decide (a < b)
  | .le => decide (a ≤ b)
  | .gt => decide (b < a)
  | .ge => decide (b ≤ a)
  | .nan => false
  | .num => true

def floatTy (ty : BitVec 5) : Bool := ty == 10#5 || ty == 11#5

/-- R196: a condition on two values of a type, with its flags. -/
def condV (c : Cond) (ty : BitVec 5) (a b : Nat) : Bool × BitVec 5 :=
  if floatTy ty then
    let f := fmtOf ty.toNat
    fcondV c (f.read a) (f.read b)
  else (condI c (asInt ty a) (asInt ty b), 0#5)

/-- The OR of the flags of the positions that take part (R172). -/
def orFlags (l : List (BitVec 5)) : BitVec 5 := l.foldl (fun a b => a ||| b) 0#5

/-- R211: what a test writes: true hand, false hand, mask, flags. -/
def testHands (e : Env) (s : State) (perWarp : Bool) (hS : Nat) (cond : Nat → Bool × BitVec 5) : Hand × Hand × Hand × BitVec 5 :=
  let sel := e.hand s hS &&& e.hand s 0
  let ls := (List.range e.a.pk).filter fun l => sel.getLsbD (e.rank l)
  let rs := ls.map fun l => (e.rank l, cond l)
  let t := handOf ((rs.filter fun r => r.2.1).map fun r => r.1)
  let f := handOf ((rs.filter fun r => !r.2.1).map fun r => r.1)
  (t, f, if perWarp then handOf ((List.range e.a.pk).map e.rank) else allOnes, orFlags (rs.map fun r => r.2.2))

/-- R211: the two hand writes of a test. -/
def doTest (e : Env) (s : State) (perWarp : Bool) (x : Ext) (cond : Nat → Bool × BitVec 5) : Res :=
  let r := testHands e s perWarp x.b.toNat cond
  let s := e.pushHand s x.d.toNat r.2.2.1 r.1
  let s := e.pushHand s x.a.toNat r.2.2.1 r.2.1
  .done (e.addFlags s r.2.2.2)

/-- `HTEST` (R210, R211). -/
def execHtest (c : Cond) (m : Bool) (x : Ext) (s : State) : Outcome :=
  runExt (.htest c m x) x s fun s e r => doTest e s m x fun l =>
    condV c x.ty (e.src (w64 x.ty) r.c l) (e.src (w64 x.ty) x.e.toNat l)

/-- R210: the immediate of `HTESTI`, as an unsigned number of the type's width. -/
def testImm (x : Ext) : Nat :=
  match x.lit with
  | some l => l.toNat % 2 ^ bitsOf x.ty
  | none => if signedTy x.ty then wrapI (bitsOf x.ty) x.imm.toInt else x.imm.toNat

/-- `HTESTI` (R210, R211). -/
def execHtesti (c : Cond) (m : Bool) (x : Ext) (s : State) : Outcome :=
  runExt (.htesti c m x) x s fun s e r => doTest e s m x fun l => condV c x.ty (e.src (w64 x.ty) r.c l) (testImm x)

/-- `HBIT` (R210, R211). -/
def execHbit (m : Bool) (x : Ext) (s : State) : Outcome :=
  runExt (.hbit m x) x s fun s e r => doTest e s m x fun l => (bitN (e.src (w64 x.ty) r.c l) x.byteImm, 0#5)

/-- R212: one hand write over all ranks. -/
def writeHand (e : Env) (s : State) (d : Nat) (h : Hand) : Res := .done (e.pushHand s d allOnes h)

/-- Operations of HLOG on two hands. -/
def hlog (e : Env) (s : State) (d a b : Nat) (f : Hand → Hand → Hand) : Res :=
  writeHand e s d (f (e.hand s a) (e.hand s b))

/-- `HOR`, base form (R212). -/
def execHorBase (m : Marks) (d a b : BitVec 4) (s : State) : Outcome :=
  runBase (.horBase m d a b) m 1 s fun s e => hlog e s d.toNat a.toNat b.toNat fun p q => p ||| q
/-- `HAND`, base form (R212). -/
def execHandBase (m : Marks) (d a b : BitVec 4) (s : State) : Outcome :=
  runBase (.handBase m d a b) m 1 s fun s e => hlog e s d.toNat a.toNat b.toNat fun p q => p &&& q
/-- `HANDN`, base form (R212). -/
def execHandnBase (m : Marks) (d a b : BitVec 4) (s : State) : Outcome :=
  runBase (.handnBase m d a b) m 1 s fun s e => hlog e s d.toNat a.toNat b.toNat fun p q => p &&& ~~~q
/-- `HXOR`, base form (R212). -/
def execHxorBase (m : Marks) (d a b : BitVec 4) (s : State) : Outcome :=
  runBase (.hxorBase m d a b) m 1 s fun s e => hlog e s d.toNat a.toNat b.toNat fun p q => p ^^^ q
/-- `HNOT`, base form: h0 ∩ ¬ha (R212). -/
def execHnotBase (m : Marks) (d a : BitVec 4) (s : State) : Outcome :=
  runBase (.hnotBase m d a) m 1 s fun s e => hlog e s d.toNat a.toNat 0 fun p q => q &&& ~~~p
/-- `HMOV`, base form (R212). -/
def execHmovBase (m : Marks) (d a : BitVec 4) (s : State) : Outcome :=
  runBase (.hmovBase m d a) m 1 s fun s e => writeHand e s d.toNat (e.hand s a.toNat)
/-- `HOR` (R212). -/
def execHorExt (x : Ext) (s : State) : Outcome :=
  runExt (.horExt x) x s fun s e _ => hlog e s x.d.toNat x.a.toNat x.b.toNat fun p q => p ||| q
/-- `HAND` (R212). -/
def execHandExt (x : Ext) (s : State) : Outcome :=
  runExt (.handExt x) x s fun s e _ => hlog e s x.d.toNat x.a.toNat x.b.toNat fun p q => p &&& q
/-- `HANDN` (R212). -/
def execHandnExt (x : Ext) (s : State) : Outcome :=
  runExt (.handnExt x) x s fun s e _ => hlog e s x.d.toNat x.a.toNat x.b.toNat fun p q => p &&& ~~~q
/-- `HXOR` (R212). -/
def execHxorExt (x : Ext) (s : State) : Outcome :=
  runExt (.hxorExt x) x s fun s e _ => hlog e s x.d.toNat x.a.toNat x.b.toNat fun p q => p ^^^ q
/-- `HNOT` (R212). -/
def execHnotExt (x : Ext) (s : State) : Outcome :=
  runExt (.hnotExt x) x s fun s e _ => hlog e s x.d.toNat x.a.toNat 0 fun p q => q &&& ~~~p
/-- `HMOV` (R212). -/
def execHmovExt (x : Ext) (s : State) : Outcome :=
  runExt (.hmovExt x) x s fun s e _ => writeHand e s x.d.toNat (e.hand s x.a.toNat)

/-- A scalar result. -/
def sResult (e : Env) (s : State) (n v : Nat) : Res := e.result s [.s n (BitVec.ofNat 64 v)]

/-- R213: the lowest rank, or all ones. -/
def hfirstOf (h : Hand) : Nat := match (List.range 1024).find? fun r => h.getLsbD r with
  | some r => r
  | none => 2 ^ 64 - 1
def hmembOf (h : Hand) (r : Nat) : Nat := if r < 1024 && h.getLsbD r then 1 else 0
def hposOf (h : Hand) (n : Nat) : Nat := handCount h (min n 1024)

/-- `HCNT`, base form (R213). -/
def execHcntBase (m : Marks) (d : BitVec 6) (a : BitVec 4) (s : State) : Outcome :=
  runBase (.hcntBase m d a) m 1 s fun s e => sResult e s d.toNat (handCount (e.hand s a.toNat) 1024)
/-- `HFIRST`, base form (R213). -/
def execHfirstBase (m : Marks) (d : BitVec 6) (a : BitVec 4) (s : State) : Outcome :=
  runBase (.hfirstBase m d a) m 1 s fun s e => sResult e s d.toNat (hfirstOf (e.hand s a.toNat))
/-- A base form's scalar operand B: the literal, or the register. -/
def Env.baseSB (e : Env) (b : BitVec 6) (lit : Option DWord) : Nat := match lit with
  | some l => l.toNat
  | none => e.rs b.toNat
def baseWords (lit : Option DWord) : Nat := if lit.isSome then 3 else 1
/-- `HMEMB`, base form (R213). -/
def execHmembBase (m : Marks) (d : BitVec 6) (a : BitVec 4) (b : BitVec 6) (lit : Option DWord) (s : State) : Outcome :=
  runBase (.hmembBase m d a b lit) m (baseWords lit) s fun s e => sResult e s d.toNat (hmembOf (e.hand s a.toNat) (e.baseSB b lit))
/-- `HPOS`, base form (R213). -/
def execHposBase (m : Marks) (d : BitVec 6) (a : BitVec 4) (b : BitVec 6) (lit : Option DWord) (s : State) : Outcome :=
  runBase (.hposBase m d a b lit) m (baseWords lit) s fun s e => sResult e s d.toNat (hposOf (e.hand s a.toNat) (e.baseSB b lit))
/-- `HCNT` (R213). -/
def execHcntExt (x : Ext) (s : State) : Outcome :=
  runExt (.hcntExt x) x s fun s e _ => sResult e s x.d.toNat (handCount (e.hand s x.a.toNat) 1024)
/-- `HFIRST` (R213). -/
def execHfirstExt (x : Ext) (s : State) : Outcome :=
  runExt (.hfirstExt x) x s fun s e _ => sResult e s x.d.toNat (hfirstOf (e.hand s x.a.toNat))
/-- `HMEMB` (R213). -/
def execHmembExt (x : Ext) (s : State) : Outcome :=
  runExt (.hmembExt x) x s fun s e _ => sResult e s x.d.toNat (hmembOf (e.hand s x.a.toNat) (e.srcSB x))
/-- `HPOS` (R213). -/
def execHposExt (x : Ext) (s : State) : Outcome :=
  runExt (.hposExt x) x s fun s e _ => sResult e s x.d.toNat (hposOf (e.hand s x.a.toNat) (e.srcSB x))

/-- R214: members at positions b to b + c − 1. -/
def hpickOf (h : Hand) (b c : Nat) : Hand := handOf (((handRanks h).drop (min b 1024)).take (min c 1024))
/-- R214: ranks from a, b of them. -/
def hrangeOf (a b : Nat) : Hand := handOf ((List.range 1024).filter fun r => a ≤ r && r < a + b)

/-- `HPICK` (R214). -/
def execHpick (x : Ext) (s : State) : Outcome :=
  runExt (.hpick x) x s fun s e _ => writeHand e s x.d.toNat (hpickOf (e.hand s x.a.toNat) (e.srcSB x) (e.rs x.c.toNat))
/-- `HRANGE` (R214). -/
def execHrange (x : Ext) (s : State) : Outcome :=
  runExt (.hrange x) x s fun s e _ => writeHand e s x.d.toNat (hrangeOf (e.rs x.a.toNat) (e.srcSB x))

/-- `HFENCE`: stalls until every hand write of the agent that has issued has committed (R92, R215); the write of an `HLD`
whose data has not returned has not issued (R89). -/
def execHfence (x : Ext) (s : State) : Outcome :=
  runExt (.hfence x) x s fun s e _ => if handsQuiet s e.a.id then .done s else .stay s

end Sys2Proof.Machine
end

