-- ==== Sys2Proof/Machine/MemFam.lean ====
section
/-! DEFINITION. Loads, stores, atomics, prefetch, buffer and hand records, fences (R249-R255, R259-R262), and the
return of results. -/

namespace Sys2Proof.Machine

/-- Index of every lane that takes part (R249). -/
def Env.vIndices (e : Env) (reg : Nat) (off : Int) : List (Nat × Nat) := e.lanes.map fun l => (l, e.vIndex reg off l)
/-- The index of an atomic: a literal is the same in every lane (R249). -/
def Env.atomIndices (e : Env) (x : Ext) (r : Regs) : List (Nat × Nat) := e.lanes.map fun l => (l, e.srcB x r false l)

/-- How many line requests of an access are rejected (R65). -/
def rejections (s : State) (as : List Nat) : Nat := Config.choose s.tick 3 % ((sortNat (as.map lineOf)).length + 1)

/-- The pieces of all lanes. -/
def allPieces (l : List (Nat × Option (List Piece))) : List Piece := l.flatMap fun p => p.2.getD []

/-- The single-copy atomic reads of pieces: one for a piece of at most 8 bytes, two for one of 16 (R77). -/
def partsOf (ps : List Piece) : List LoadPart :=
  ps.flatMap fun p => (List.range (cdiv p.len 8)).map fun k =>
    let n := min 8 (p.len - 8 * k)
    { addrs := bytesAt (p.rd + 8 * k) n, home := bytesAt (p.pa + 8 * k) n }

/-! #### Values taken ahead (R80)

A dependency of a load's address on an earlier load orders nothing, so a load may return what its bytes held before its
address was known: at a load an agent may take any granules ahead, and its later loads may use them until it accesses the
bytes otherwise or acquires. -/

/-- A granule taken ahead: of the operand store, outside windows and poison and with no own write to it under way, or of
global memory, where its value can be taken. -/
def aheadAt (s : State) (e : Env) (k : Nat) : Option Ahead :=
  let as := bytesAt (8 * (Config.choose s.tick (2 ^ 22 + k) % 2 ^ 49)) 8
  let e := e.now s
  if Config.coin s.tick (2 ^ 22 + k) then
    if as.any (fun a => e.g.osLines * 128 ≤ a || (e.g.window? a).isSome || e.g.osPoison.contains (lineOf a)) ||
        osOwed s e.g.uid (fun w => w.agent == e.a.id && w.touches as) then none
    else some ⟨true, as, e.g.osBytes as⟩
  else if as.any (fun a => paReserved a || frozen s a || poisoned s a) || !readable s e.who as || s.atoms.any (fun p => p.agent == e.a.id && p.overlaps as) then none
  else some ⟨false, as, viewBytes s e.who as⟩

/-- An agent takes granules ahead, how many and which is free. -/
def takeAhead (s : State) (e : Env) : State :=
  let new := (List.range (Config.choose s.tick 6)).filterMap (aheadAt s e)
  let s1 := match s.outq with
    | [] => s
    | _ => noteSeen s e.who ((new.filter fun h => !h.os).flatMap fun h => h.addrs)
  e.set s1 fun a => { a with ahead := (a.ahead.filter fun h => !new.any fun k => h.meets k.os k.addrs) ++ new }

/-- A value taken ahead that a part of a load may use: a free choice. -/
def Agent.aheadFor (a : Agent) (tick : Nat) (os : Bool) (p : LoadPart) : Option Ahead :=
  if os && !p.home.isEmpty then none
  else a.ahead.find? fun h => h.os == os && p.addrs.all h.addrs.contains && Config.coin tick (2 ^ 23 + p.addrs.headD 0)

/-- The reads of a load, where they use values taken ahead, and those values: no earlier read of the agent of their bytes is
under way. -/
def useAhead (s : State) (e : Env) (reads : List LoadReq) : List LoadReq × List Ahead :=
  let a := (e.now s).a
  match a.ahead with
  | [] => (reads, [])
  | _ =>
    let pick (l : LoadReq) (p : LoadPart) : Option Ahead :=
      if (a.waitParts fun m q => m.os == l.os && q.addrs.any p.addrs.contains).isEmpty then a.aheadFor s.tick l.os p else none
    let got (h : Ahead) (b : Nat) : Byte := (((h.addrs.zip h.bytes).find? fun x => x.1 == b).map fun x => x.2).getD 0#8
    (reads.map fun l => { l with parts := l.parts.map fun p => match pick l p with
       | some h => { p with got := some (p.addrs.map (got h)) }
       | none => p },
     reads.flatMap fun l => l.parts.filterMap (pick l))

/-- The reads of a load begin: what the agent has taken ahead may serve them, its own earlier accesses to their bytes come
first (R79), and the rest wait to take their values. -/
def startReads (s : State) (e : Env) (o : Out) (homes : List Nat) (rejected : Nat) : State :=
  let s := takeAhead s e
  let u := useAhead s e o.reads
  let s := ownFirst s e homes
  let s := if u.2.isEmpty then s else e.set s fun a => { a with ahead := (a.ahead ++ u.2).eraseDups }
  e.addOut { s with fresh := s.fresh + 1 } { o with n := s.fresh, reads := u.1, rejected := rejected }

/-- The common end of a load (R79, R191). -/
def startLoad (s : State) (e : Env) (o : Out) (ts : List Trans) : State :=
  let parts := o.reads.flatMap fun l => l.parts
  startReads (noteTlb s e.who ts) e o (parts.flatMap fun p => p.home) (rejections s (parts.flatMap fun p => p.addrs))

/-- A load through a record, given the lanes' indices and how each lane's bytes become registers (R251). -/
def loadThrough (e : Env) (s : State) (rc w align : Nat) (idx : List (Nat × Nat)) (fmt : Nat → LoadFmt) (hint : Nat := 0)
    (hand : Option Nat := none) : Res :=
  match access s e.who .load rc w align idx with
  | .trap t => .trap t 0
  | .page ps => .page .load ps
  | .ok l ts =>
    match poisonLane s e.who l with
    | some n => .trap ⟨cMEMPOISON, n, none⟩ 0
    | none =>
      if ownBlocked s e (homeBytesOf (allPieces l)) || (readBytesOf (allPieces l)).any (frozen s) then .stay s
      else
        let zero := l.flatMap fun p => if p.2.isNone then (fmt p.1).writes 0 else []
        let reads := l.filterMap fun p => p.2.map fun ps => ({ parts := partsOf ps, fmt := fmt p.1, os := false, hint := hint } : LoadReq)
        .done (startLoad s e { writes := zero, reads := reads, hand := hand } ts)

/-- The bytes of each piece of a store, with the pages they lie in. -/
def splitPieces : List Piece → List Byte → List (List (Nat × Byte) × Option DupPage)
  | [], _ => []
  | p :: r, bs => ((bytesAt p.pa p.len).zip (bs.take p.len), p.dup) :: splitPieces r (bs.drop p.len)

/-- The common end of a store: its pieces enter the die's queue in lane order (R28, R77, R94). -/
def startStore (s : State) (e : Env) (parts : List (List (Nat × Byte) × Option DupPage)) (ts : List Trans) (hint : Nat := 0) : State :=
  let as := parts.flatMap fun p => p.1.map fun b => b.1
  let s := ownFirst (noteTlb s e.who ts) e as
  let s := fixRecords s e.who s.fresh as
  let whole := wholeLines as
  let id := s.fresh
  parts.foldl (fun s p =>
    let grp := if whole.contains (lineOf ((p.1.head?.map fun b => b.1).getD 0)) then id else 0
    pushParts s e.who { dup := p.2, grp := grp, hint := hint } p.1 16) s

/-- A store through a record, given each lane's data (R251). -/
def storeThrough (e : Env) (s : State) (rc w align : Nat) (idx : List (Nat × Nat)) (data : Nat → Nat) (hint : Nat := 0) : Res :=
  match access s e.who .store rc w align idx with
  | .trap t => .trap t 0
  | .page ps => .page .store ps
  | .ok l ts =>
    if ownBlocked s e (homeBytesOf (allPieces l)) then .stay s
    else .done (startStore s e (l.flatMap fun p => match p.2 with
      | some ps => splitPieces ps (toBytes w (data p.1))
      | none => []) ts hint)

/-- R250: the format of a vector load of a type. -/
def vecFmt (ty : BitVec 5) (d : Nat) (l : Nat) : LoadFmt := .lane d l (accWidth ty.toNat) (accSigned ty.toNat)

/-- The data of a lane as a store sends it: the low w bytes (R250). -/
def Env.stData (e : Env) (ty : BitVec 5) (d l : Nat) : Nat := e.src (w64 ty) d l

/-- `LD` (R251). -/
def execLd (x : Ext) (s : State) : Outcome :=
  runExt (.ld x) x s fun s e r =>
    loadThrough e s (e.rb r.a) (accWidth x.ty.toNat) 1 (e.vIndices r.b x.offset) (vecFmt x.ty r.d) x.hint.toNat
/-- `ST` (R251). -/
def execSt (x : Ext) (s : State) : Outcome :=
  runExt (.st x) x s fun s e r =>
    storeThrough e s (e.rb r.a) (accWidth x.ty.toNat) 1 (e.vIndices r.b x.offset) (e.stData x.ty r.d) x.hint.toNat
/-- `LDS` (R251). -/
def execLds (x : Ext) (s : State) : Outcome :=
  runExt (.lds x) x s fun s e r =>
    loadThrough e s (e.rb r.a) (accWidth x.ty.toNat) 1 [(0, e.sIndex r.b x.offset)]
      (fun _ => .scalar r.d (accWidth x.ty.toNat) (accSigned x.ty.toNat)) x.hint.toNat
/-- `STS` (R251). -/
def execSts (x : Ext) (s : State) : Outcome :=
  runExt (.sts x) x s fun s e r =>
    storeThrough e s (e.rb r.a) (accWidth x.ty.toNat) 1 [(0, e.sIndex r.b x.offset)] (fun _ => e.rs r.d) x.hint.toNat

/-! ### Atomics (R252, R253) -/

/-- R253: a 16-byte atomic. -/
def atomQuad (o : AtomOp) (x : Ext) (rc : Nat) : Bool := (o == .exch || o == .cas) && x.ty == 16#5 && recEsz rc == 4
/-- The access width of an atomic. -/
def atomWidth (o : AtomOp) (x : Ext) (rc : Nat) : Nat := if atomQuad o x rc then 16 else accWidth x.ty.toNat

/-- An operand of an atomic in a lane. -/
def Env.atomSrc (e : Env) (w reg l : Nat) : Nat := e.srcN (cdiv w 4) reg l

/-- R253: the register checks of a 16-byte atomic. -/
def quadCheck (e : Env) (o : AtomOp) (x : Ext) (r : Regs) : Option TrapInfo :=
  let regs := [r.d, r.c] ++ (if o == .cas then [x.e.toNat] else [])
  if regs.any fun n => e.allot ≤ n + 3 then some ⟨cREGBOUND, 0, none⟩
  else if regs.any fun n => n % 4 != 0 then some ⟨cMISALIGN, 0, none⟩
  else none

/-- The lanes of an atomic as they are to perform. -/
def atomLanes (e : Env) (o : AtomOp) (x : Ext) (r : Regs) (w : Nat) (l : List (Nat × Option (List Piece))) : List AtomLane :=
  l.filterMap fun p => match p.2 with
    | some (q :: _) =>
      some ⟨q.pa, e.atomSrc w r.c p.1, if o == .cas then e.atomSrc w x.e.toNat p.1 else 0, r.d, p.1⟩
    | _ => none

/-- The keys of the registers an atomic writes. -/
def atomKeys (w : Nat) (ls : List AtomLane) : List Nat :=
  ls.flatMap fun l => (vWritesN (cdiv w 4) l.reg l.lane 0).map RegWrite.key

/-- The atomic enters the machine (R252): a releasing one as after a release, an acquiring one with its fence still to come,
before the agent's next instruction. -/
def startAtom (s : State) (e : Env) (p : PendAtom) (zero : List RegWrite) (acq : Bool) (scope : Nat) : State :=
  let p := { p with n := s.fresh, need := liveNeeds s e.who, after := liveAfter s e.who }
  let s := { s with atoms := s.atoms ++ [p], fresh := s.fresh + 1 }
  let s := e.addOut s { n := p.n, writes := zero, atom := some p.n, keys := atomKeys p.w p.lanes,
                        rejected := rejections s (p.lanes.map fun l => l.pa) }
  if acq then e.set s fun a => { a with acq := some scope } else s

/-- `ATOM` (R252, R253). -/
def execAtom (o : AtomOp) (x : Ext) (s : State) : Outcome :=
  runExt (.atom o x) x s fun s e r =>
    let rc := e.rb r.a
    let w := atomWidth o x rc
    match if atomQuad o x rc then quadCheck e o x r else none with
    | some t => .trap t 0
    | none =>
      if recBad rc then .trap ⟨cOOB, 0, some 15⟩ 0
      else if 2 ^ recEsz rc < w then .trap ⟨cMISALIGN, 0, none⟩ 0
      else
        match access s e.who .atomic rc w w (e.atomIndices x r) with
        | .trap t => .trap t 0
        | .page ps => .page .atomic ps
        | .ok l ts =>
          match poisonLane s e.who l with
          | some n => .trap ⟨cMEMPOISON, n, none⟩ 0
          | none =>
            let as := homeBytesOf (allPieces l)
            if ownBlocked s e as then .stay s
            else
              let scope := x.imm.toNat % 8
              let s := ownFirst (noteTlb s e.who ts) e as
              let s := if x.imm.getLsbD 4 then release s e scope else s
              let zero := l.flatMap fun p => if p.2.isNone then vWritesN (cdiv w 4) r.d p.1 0 else []
              let p : PendAtom := { n := 0, die := e.g.die, core := e.g.core, gang := e.g.uid, agent := e.a.id, op := o,
                                    ty := x.ty.toNat, w := w, memSide := decide (2 ≤ scope), lanes := atomLanes e o x r w l,
                                    dups := (allPieces l).filterMap fun q => q.dup, hint := x.hint.toNat }
              .done (startAtom s e p zero (x.imm.getLsbD 3) scope)

/-! ### Prefetch (R255) -/

/-- `PREF`: lines of lanes that would pass are fetched; nothing a program sees changes. -/
def execPref (x : Ext) (s : State) : Outcome :=
  runExt (.pref x) x s fun s e r =>
    let rc := e.rb r.a
    if recBad rc then .done s
    else
      let w := accWidth x.ty.toNat
      let as := (e.vIndices r.b x.offset).flatMap fun p => match access s e.who .load rc w 1 [p] with
        | .ok l _ => readBytesOf (allPieces l)
        | _ => []
      let ok := as.filter fun a => !poisoned s a && !frozen s a
      .done ((sortNat (ok.map lineOf)).foldl (fun s l => dirRead s e.g.die e.g.core l x.hint.toNat) s)

/-! ### Records (R259-R261) -/

/-- A record access of at least 8-byte elements: malformed when ESZ is below 3 (R259). -/
def thinRecord (rc : Nat) : Bool := recBad rc || recEsz rc < 3

/-- `BLD` (R259). -/
def execBld (x : Ext) (s : State) : Outcome :=
  runExt (.bld x) x s fun s e r =>
    if thinRecord (e.rb r.a) then .trap ⟨cOOB, 0, some 15⟩ 0
    else loadThrough e s (e.rb r.a) 32 1 [(0, e.sIndex r.b x.offset)] fun _ => .buf r.d

/-- R260: the field of each code: lowest bit and width. -/
def bsetField (n : Nat) : Nat × Nat :=
  match n with
  | 0 => (0, 52)
  | 1 => (64, 32)
  | 2 => (96, 24)
  | 3 => (120, 3)
  | 4 => (123, 4)
  | 5 => (127, 1)
  | 6 => (128, 1)
  | _ => (192, 32)
/-- R260: a record with a field replaced. -/
def bsetOf (rc n v : Nat) : Nat :=
  let f := bsetField n
  rc - fld rc f.1 f.2 * 2 ^ f.1 + v % 2 ^ f.2 * 2 ^ f.1
/-- `BSET` (R260). -/
def execBset (x : Ext) (s : State) : Outcome :=
  runExt (.bset x) x s fun s e r => e.result s [.b r.d (BitVec.ofNat 256 (bsetOf (e.rb r.a) x.imm.toNat (e.srcSB x)))]

/-- `HLD` (R261): the hand write issues when the data returns (R89). -/
def execHld (x : Ext) (s : State) : Outcome :=
  runExt (.hld x) x s fun s e r =>
    if thinRecord (e.rb r.a) then .trap ⟨cOOB, 0, some 15⟩ 0
    else loadThrough e s (e.rb r.a) 128 128 [(0, e.sIndex r.b x.offset)] (fun _ => .hand r.d) 0 (some r.d)

/-- `HST` (R261, R93). -/
def execHst (x : Ext) (s : State) : Outcome :=
  runExt (.hst x) x s fun s e r =>
    if thinRecord (e.rb r.a) then .trap ⟨cOOB, 0, some 15⟩ 0
    else storeThrough e s (e.rb r.a) 128 128 [(0, e.sIndex r.b x.offset)] fun _ => (e.hand s r.d).toNat

/-! ### FENCE (R262, R83) -/

/-- `FENCE`. -/
def execFence (order : BitVec 2) (scope : BitVec 3) (x : Ext) (s : State) : Outcome :=
  runExt (.fence order scope x) x s fun s e _ =>
    match fenceFor s e order.toNat scope.toNat with
    | none => .stay s
    | some s => .done s

/-! ### Results return -/

/-- Parts of an outstanding load take their value: a free choice among those that wait (R75). -/
def takeParts (s : State) (e : Env) (o : Out) : State :=
  let mine (l : LoadReq) : Bool := o.reads.contains l
  let pick (p : LoadPart) : Bool := Config.coin s.tick (2 ^ 20 + p.addrs.headD 0)
  let some' := (o.reads.flatMap fun l => l.parts).any fun p => p.got.isNone && pick p
  settle s e fun l p => mine l && (!some' || pick p)

/-- LOAD_DATA_RETURN: of an outstanding load some parts take their value, and with the last it lands; a lane of an atomic
in an L1 performs (R75, R191, R101). -/
def execLoadDataReturn (gang agent n : Nat) (s : State) : Outcome :=
  match envOf s gang agent with
  | none => .next s
  | some e =>
    match e.a.outs[n]? with
    | none => .next s
    | some o =>
      match o.atom with
      | some k =>
        match s.atoms.find? fun p => p.n == k with
        | some p => .next (if p.memSide || o.rejected != 0 || p.stuck s then s else performOneLane s p)
        | none => .next s
      | none =>
        if o.rejected != 0 then .next s
        else
          let s := if o.reads.any LoadReq.waits then takeParts s e o else s
          .next (if canLand (e.now s).a.outs n then landOut s e n else s)

/-- MISS_RETRY: a rejected line request obtains an entry, or is rejected again (R65). -/
def execMissRetry (gang agent n : Nat) (s : State) : Outcome :=
  if Config.coin s.tick 0 then .next s
  else .next (s.updAgent gang agent fun a => { a with outs := a.outs.modify n fun o => { o with rejected := o.rejected - 1 } })

/-- WRITE_PERFORM_AT_HOME: a waiting write performs at its home slice, with the earlier ones to its bytes (R94). -/
def execWritePerformAtHome (die n : Nat) (s : State) : Outcome :=
  .next (performSel s fun p => p.die == die && p.n == n)

end Sys2Proof.Machine
end

