-- ==== Sys2Proof/Machine/Control.lean ====
section
/-! DEFINITION. Branches, calls and the return stack, YIELD, EXIT, APPLY and DONE with packs and joins, the barriers of
hands and gangs, and the commit of hand writes (R89-R93, R136-R138, R200-R209, R266). -/

namespace Sys2Proof.Machine

/-! ### Branches (R201) -/

/-- R200: the address of a branch plus 4 × a signed offset in words. -/
def target (pc : Addr) (off : Int) : Addr := pc + BitVec.ofInt 52 (4 * off)
/-- A branch taken or not. -/
def branch (e : Env) (s : State) (taken : Bool) (off : Int) : Res := if taken then .jump s (target e.a.pc off) else .done s

/-- `NOP`. -/
def execNop (m : Marks) (s : State) : Outcome := runBase (.nop m) m 1 s fun s _ => .done s
/-- `BRA`. -/
def execBra (m : Marks) (off : BitVec 21) (s : State) : Outcome :=
  runBase (.bra m off) m 1 s fun s e => branch e s true off.toInt
/-- `BRC`: taken if k XOR invert. -/
def execBrc (m : Marks) (off : BitVec 17) (inv : Bool) (k : BitVec 3) (s : State) : Outcome :=
  runBase (.brc m off inv k) m 1 s fun s e => branch e s (e.rk k.toNat != inv) off.toInt
/-- `BHE`: taken if h ∩ h0 is empty. -/
def execBhe (m : Marks) (off : BitVec 17) (h : BitVec 4) (s : State) : Outcome :=
  runBase (.bhe m off h) m 1 s fun s e => branch e s (e.hand s h.toNat &&& e.hand s 0 == 0#1024) off.toInt
/-- `BHN`: taken if h ∩ h0 is not empty. -/
def execBhn (m : Marks) (off : BitVec 17) (h : BitVec 4) (s : State) : Outcome :=
  runBase (.bhn m off h) m 1 s fun s e => branch e s (e.hand s h.toNat &&& e.hand s 0 != 0#1024) off.toInt
/-- `LOOP`. -/
def execLoop (m : Marks) (off : BitVec 15) (n : BitVec 6) (s : State) : Outcome :=
  runBase (.loop m off n) m 1 s fun s e =>
    let v := e.a.rs n.toNat - 1#64
    branch e (e.addOut s { writes := [.s n.toNat v] }) (v != 0#64) off.toInt
/-- `YIELD` (R204): its agent is not ready in the next cycle, and its age starts again (R154). -/
def execYield (m : Marks) (s : State) : Outcome :=
  runWait (.yield m) m 1 s fun s e => .done (e.set s fun a => { a with idle := e.clk s + 2 })

/-! ### The return stack (R202, R203) -/

/-- Thread-local word k of a rank as an element of b15 (R24); two consecutive words for an entry. -/
def tlPair (e : Env) (k : Nat) : List (Nat × Nat) := [(0, k * 1024 + e.rank 0), (0, (k + 1) * 1024 + e.rank 0)]
/-- R202: the first word of entry j. -/
def stackWord (e : Env) (j : Nat) : Int := (e.g.blk.tlw : Int) - 480 + 96 * e.a.depth + 2 * j

/-- A push, and then the jump (R202, R203). -/
def pushCall (e : Env) (s : State) (ret dest : Addr) : Res :=
  let put (s : State) : State := e.set s fun a => { a with rcnt := a.rcnt + 1, rcache := (ret.setWidth 64 :: a.rcache).take 16 }
  if e.a.rcnt < 16 then .jump (put s) dest
  else
    let k := stackWord e (e.a.rcnt - 16)
    if k < 0 then .trap ⟨cOOB, 0, none⟩ 0
    else
      match access s e.who .store (e.rb 15) 4 1 (tlPair e k.toNat) with
      | .trap t => .trap t 0
      | .page ps => .page .store ps
      | .ok l ts =>
        if ownBlocked s e (homeBytesOf (allPieces l)) then .stay s
        else .jump (put (startStore s e (splitPieces (allPieces l) (toBytes 8 (e.a.rcache.getD 15 0#64).toNat)) ts)) dest

/-- `CALL`. -/
def execCall (m : Marks) (off : BitVec 21) (s : State) : Outcome :=
  runWait (.call m off) m 1 s fun s e =>
    if e.a.rcnt = 64 then .trap ⟨cRET, 0, none⟩ 0 else pushCall e s (e.a.pc + 4#52) (target e.a.pc off.toInt)
/-- `CALLS`. -/
def execCalls (m : Marks) (n : BitVec 6) (s : State) : Outcome :=
  runWait (.calls m n) m 1 s fun s e =>
    if e.a.rcnt = 64 then .trap ⟨cRET, 0, none⟩ 0
    else if e.rs n.toNat % 4 != 0 then .trap ⟨cMISALIGN, 0, none⟩ 0
    else pushCall e s (e.a.pc + 4#52) ((e.a.rs n.toNat).setWidth 52)
/-- `RET`. -/
def execRet (m : Marks) (s : State) : Outcome :=
  runWait (.ret m) m 1 s fun s e =>
    if e.a.rcnt = 0 then .trap ⟨cRET, 0, none⟩ 0
    else
      let dest := (e.a.rcache.headD 0#64).setWidth 52
      let pop (s : State) (more : List DWord) : State :=
        e.set s fun a => { a with rcnt := a.rcnt - 1, rcache := a.rcache.tail ++ more }
      if e.a.rcnt ≤ 16 then .jump (pop s []) dest
      else
        let k := stackWord e (e.a.rcnt - 17)
        if k < 0 then .trap ⟨cOOB, 0, none⟩ 0
        else
          match access s e.who .load (e.rb 15) 4 1 (tlPair e k.toNat) with
          | .trap t => .trap t 0
          | .page ps => .page .load ps
          | .ok l ts =>
            match poisonLane s e.who l with
            | some n => .trap ⟨cMEMPOISON, n, none⟩ 0
            | none =>
              let as := readBytesOf (allPieces l)
              let homes := homeBytesOf (allPieces l)
              if readBlocked s e homes as then .stay s
              else
                let s := ownFirst (noteTlb s e.who ts) e homes
                .jump (pop (noteRead s e.who as) [BitVec.ofNat 64 (ofBytes (viewBytes s e.who as))]) dest

/-! ### Rendezvous (R207, R266) -/

/-- The parties of an instance: the warps of a workgroup, the packs of an apply, or every warp of the gang. A warp that has
exited is one until its retirement commits (R205); a pack that has ended is one of its apply's packs until the join (R207). -/
def parties (s : State) (g : Gang) (r : Rdv) : List Agent :=
  g.agents.filter fun a => (a.isPack || a.st != .ended || !handsQuiet s a.id) &&
    match r.kind with
    | .barGang => !a.isPack
    | _ => a.wg == r.wg && (match r.inside with
      | none => !a.isPack
      | some n => a.isPack && a.apply == some n)

/-- The members of an instance as an arrived party reads them: the hand ∩ h0, within the enclosing apply (R207). -/
def rdvMembers (e : Env) (s : State) (r : Rdv) : Hand :=
  let m := e.hand s r.hand &&& e.hand s 0
  match r.inside with
  | none => m
  | some n => match e.g.applies.find? fun a => a.n == n with
    | some a => m &&& handOf a.members
    | none => 0#1024

def Agent.hasRank (a : Agent) (m : Hand) : Bool := a.members.any fun r => m.getLsbD r

/-- Agents go on past the instruction they wait at (`APPLY` and `BAR` have three words): a step event follows where one is
enabled (R360), and for a gang that is being saved, what they watched for has come true (R160). -/
def resumePast (s : State) (uid : Nat) (ids : List Nat) : State := match ids with
  | [] => s
  | _ => ids.foldl (fun s id => match envOf s uid id with
    | some e => advance s e waitHdr (e.nextPc waitHdr)
    | none => s) (s.updGang uid Gang.noteHit)

/-- The agents of a list release at `.core` (R84): what they pass on; none while a read or an atomic of one is out. -/
def syncOut (uid : Nat) : List Nat → State → Option (State × List Nat)
  | [], s => some (s, [])
  | id :: r, s => match envOf s uid id with
    | none => syncOut uid r s
    | some e => match readsIn s e with
      | none => none
      | some s => (syncOut uid r (release s e 1)).map fun p => (p.1, relIds s e ++ p.2)

/-- The agents of a list acquire at `.core` what others have passed on (R84). -/
def syncIn (uid : Nat) (ids : List Nat) : List Nat → State → Option State
  | [], s => some s
  | id :: r, s => match envOf s uid id with
    | none => syncIn uid ids r s
    | some e => (relIn (acquire s e 1) e ids).bind (syncIn uid ids r)

/-- The parties of a barrier synchronise: none while one cannot. -/
def syncAll (s : State) (uid : Nat) (who : List Nat) : Option State :=
  (syncOut uid who s).bind fun p => syncIn uid p.2 who p.1

/-- An instance is over, which is what its parties watch for (R160). -/
def dropRdv (s : State) (uid n : Nat) : State := s.updGang uid fun g => { g.noteHit with rdvs := g.rdvs.filter fun r => r.n != n }

/-- An apply's rendezvous completes with members M: its donors wait for the join, the others go on (R207). It stays open
while the donors cannot synchronise yet. -/
def completeApply (s : State) (e : Env) (r : Rdv) (m : Hand) : State :=
  let arr := e.g.agents.filter fun a => r.arrived.contains a.id
  let donors := (arr.filter fun a => a.hasRank m).map fun a => a.id
  let others := (arr.filter fun a => !a.hasRank m).map fun a => a.id
  let go (s : State) : State := resumePast (dropRdv s e.g.uid r.n) e.g.uid others
  match donors with
  | [] => go s
  | _ =>
    match syncOut e.g.uid donors s with
    | none => s
    | some (s, ids) =>
      let s := go s
      let n := s.fresh
      let rec' : ApplyRec :=
        { n := n, wg := r.wg, inside := r.inside, depth := e.a.depth, donors := donors, members := handRanks m, packs := [],
          formed := false, va := r.va, nc := r.nc, vb := r.vb, nw := r.nw, block := r.block, ret := r.addr + 12#52, flags := 0#5,
          back := [], obs := ids }
      let s := { s with fresh := n + 1 }
      let mark (a : Agent) : Agent := { a with st := .donor n }
      s.updGang e.g.uid fun g => { g with agents := updWhere (fun a => donors.contains a.id) mark g.agents, applies := g.applies ++ [rec'] }

/-- A barrier's parties synchronise and everyone that has arrived goes on, if they can. -/
def completeBar (s : State) (uid : Nat) (r : Rdv) (due : List Nat) : State :=
  match syncAll s uid (r.arrived.filter due.contains) with
  | none => s
  | some s => resumePast (dropRdv s uid r.n) uid r.arrived

/-- The parties an instance is complete with, as an arrived one reads the hand (R207, R266). -/
def rdvDue (e : Env) (s : State) (g : Gang) (r : Rdv) : List Nat :=
  if r.kind == .barGang then (parties s g r).map fun a => a.id
  else match r.self with
    | some a => [a]
    | none => ((parties s g r).filter fun a => a.hasRank (rdvMembers e s r)).map fun a => a.id

/-- A recheck of an open instance, read by one of its arrived parties (R207, R266). -/
def recheck (s : State) (uid n : Nat) : State :=
  match s.gang? uid with
  | none => s
  | some g =>
    match g.rdvs.find? fun r => r.n == n with
    | none => s
    | some r =>
      match r.arrived with
      | [] => dropRdv s uid n
      | id :: _ =>
        match envOf s uid id with
        | none => s
        | some e =>
          let due := rdvDue e s g r
          if r.kind == .barGang then (if due.all fun a => r.arrived.contains a then completeBar s uid r due else s)
          else if r.arrived.any fun a => !handsQuiet s a then s
          else if due.all fun a => r.arrived.contains a then
            (if r.kind == .apply then completeApply s e r (rdvMembers e s r) else completeBar s uid r due)
          else if r.kind == .apply then s
          else
            let out := r.arrived.filter fun a => !due.contains a
            let keep (q : Rdv) : Rdv := { q with arrived := q.arrived.filter due.contains }
            match out with
            | [] => s
            | _ => resumePast (s.updGang uid fun g => { g with rdvs := updWhere (fun q => q.n == n) keep g.rdvs }) uid out

/-- Every open instance of a gang is rechecked. -/
def recheckAll (s : State) (uid : Nat) : State :=
  match s.gang? uid with
  | none => s
  | some g => (g.rdvs.map fun r => r.n).foldl (fun s n => recheck s uid n) s

/-- The instance an agent's instruction belongs to, if it is open. -/
def openRdv (e : Env) (r : Rdv) : Option Rdv :=
  e.g.rdvs.find? fun q => q.kind == r.kind && (r.kind == .barGang || (q.wg == r.wg && q.inside == r.inside && q.hand == r.hand &&
    q.self == r.self && (r.kind == .bar || q.addr == r.addr)))

def Gang.waitsIn (g : Gang) (id : Nat) : Bool := g.rdvs.any fun r => r.arrived.contains id

/-- Arrival of an agent at an instance, and the recheck it brings. -/
def arrive (e : Env) (s : State) (r : Rdv) : Res :=
  let n := match openRdv e r with
    | some q => q.n
    | none => s.fresh
  let join (q : Rdv) : Rdv := { q with arrived := insNat e.a.id q.arrived }
  let s := match openRdv e r with
    -- an arrival is what the gang's other waiters watch for (R159)
    | some q => e.setGang s fun g => { g.noteHit with rdvs := updWhere (fun p => p.n == q.n) join g.rdvs }
    | none => { e.setGang s fun g => { g with rdvs := g.rdvs ++ [join { r with n := n }] } with fresh := n + 1 }
  let s := recheck s e.g.uid n
  match s.gang? e.g.uid with
  | some g => if g.waitsIn e.a.id then .wait s else .gone s
  | none => .gone s

/-- `APPLY` (R206, R207). -/
def execApply (m : Marks) (off : BitVec 17) (h : BitVec 4) (va : BitVec 8) (nc : BitVec 4) (vb : BitVec 8) (nw : BitVec 4)
    (s : State) : Outcome :=
  run (fun e => { m := m, words := 3, always := true, own := true, ok := (Instr.apply m off h va nc vb nw).wellFormed,
                  regs := (nc == 0#4 || va.toNat + nc.toNat ≤ e.allot) && (nw == 0#4 || vb.toNat + nw.toNat ≤ e.allot) }) s
    fun s e =>
      if e.a.depth = 4 then .trap ⟨cRDV, 0, some 4⟩ 0
      else if e.g.waitsIn e.a.id then
        let s := recheckAll s e.g.uid
        if ((s.gang? e.g.uid).map fun g => g.waitsIn e.a.id).getD false then .wait s else .gone s
      else if !handsQuiet s e.a.id then .stay s
      else
        let r : Rdv := { n := 0, kind := .apply, wg := e.a.wg, inside := e.a.apply, addr := e.a.pc, hand := h.toNat,
                         self := if h == 1#4 then some e.a.id else none, arrived := [], va := va.toNat, nc := nc.toNat,
                         vb := vb.toNat, nw := nw.toNat, block := target e.a.pc off.toInt,
                         due := e.clk s + (s.die e.g.die).rdvto.toNat }
        if !e.a.hasRank (rdvMembers e s r) then .done s else arrive e s r

/-- `BAR hS` (R266). -/
def execBarHand (x : Ext) (s : State) : Outcome :=
  runExt (.barHand x) x s fun s e _ =>
    if e.g.waitsIn e.a.id then
      let s := recheckAll s e.g.uid
      if ((s.gang? e.g.uid).map fun g => g.waitsIn e.a.id).getD false then .wait s else .gone s
    else if !handsQuiet s e.a.id then .stay s
    else
      let r : Rdv := { (default : Rdv) with kind := .bar, wg := e.a.wg, inside := e.a.apply, addr := e.a.pc, hand := x.a.toNat,
                                            self := if x.a == 1#8 then some e.a.id else none }
      if !e.a.hasRank (rdvMembers e s r) then .done s else arrive e s r

/-- `BAR.gang` (R266). -/
def execBarGang (x : Ext) (s : State) : Outcome :=
  runExt (.barGang x) x s fun s e _ =>
    if e.a.isPack then .trap ⟨cILLOP, 0, none⟩ 0
    else if e.g.waitsIn e.a.id then
      let s := recheckAll s e.g.uid
      if ((s.gang? e.g.uid).map fun g => g.waitsIn e.a.id).getD false then .wait s else .gone s
    else arrive e s { (default : Rdv) with kind := .barGang, addr := e.a.pc }

/-! ### Packs (R136-R138, R209) -/

/-- The agent that holds a rank at an apply's own level, and the lane it stands in there. -/
def homeOf (g : Gang) (ap : ApplyRec) (rank : Nat) : Option (Agent × Nat) :=
  g.agents.findSome? fun a =>
    if ap.donors.contains a.id then (a.members.idxOf? rank).map fun l => (a, l) else none

/-- A carried register's contents in a new pack (R138). -/
def carried (g : Gang) (ap : ApplyRec) (ranks : List Nat) : Table Word :=
  Table.putAll 0#32 [] ((enumFrom 0 ranks).flatMap fun p => match homeOf g ap p.2 with
    | some (a, l) => (List.range ap.nc).map fun j => (64 * (ap.va + j) + p.1, a.v.look 0#32 (64 * (ap.va + j) + l))
    | none => [])

/-- Pack p of an apply. -/
def makePack (g : Gang) (ap : ApplyRec) (donors : List Agent) (gw : Nat) (id p : Nat) : Agent :=
  let ranks := (ap.members.drop (p * gw)).take gw
  let lead := donors.headD default
  let home := donors.getD p default
  { id := id, isPack := true, wg := ap.wg, place := home.place, depth := ap.depth + 1, apply := some ap.n,
    pk := ranks.length, members := ranks, pc := ap.block, st := .runnable, stopped := false,
    v := carried g ap ranks, s := lead.s, k := lead.k, i := lead.i, b := lead.b, fflags := 0#5, trap := 0#64, tepc := 0#64,
    tinfo := 0#64, rcnt := 0, rcache := [], tokens := List.replicate 16 .idle, outs := [], bind := none, notice := false,
    skipDbg := false, prog := 0, obs := ap.obs }

/-- Insertion of an agent by place. -/
def insPlace (a : Agent) : List Agent → List Agent
  | [] => [a]
  | b :: r => if a.place ≤ b.place then a :: b :: r else b :: insPlace a r

/-- Donors by ascending warp index (R136). -/
def donorsOf (g : Gang) (ap : ApplyRec) : List Agent :=
  (g.agents.filter fun a => ap.donors.contains a.id).foldl (fun l a => insPlace a l) []

/-- Operand-store writes that a synchronisation passes on land; none while one cannot yet (R84). -/
def landIds (s : State) (uid : Nat) (ids : List Nat) : Option State :=
  let s := osFlush s uid fun p => ids.contains p.n
  if osOwed s uid (fun p => ids.contains p.n) then none else some s

/-- PACK_FORMATION (R136-R138): the packs acquire what the donors released (R84). -/
def execPackFormation (gang apply : Nat) (s : State) : Outcome :=
  match s.gang? gang with
  | none => .next s
  | some g =>
    match g.applies.find? fun a => a.n == apply with
    | none => .next s
    | some ap =>
      if ap.formed then .next s
      else
        match landIds s gang ap.obs with
        | none => .next s
        | some s =>
          let gw := (g.wgs.getD ap.wg default).g
          let donors := donorsOf g ap
          let packs := (List.range (cdiv ap.members.length gw)).map fun p => makePack g ap donors gw (s.fresh + p) p
          let ap' := { ap with formed := true, packs := packs.map fun a => a.id, obs := [] }
          let s := { s with fresh := s.fresh + packs.length }
          .next (s.updGang gang fun g => { g with agents := g.agents ++ packs, applies := updWhere (fun a => a.n == apply) (fun _ => ap') g.applies })

/-- The write-backs a pack leaves: rank, index, value of each lane (R209). -/
def packBack (a : Agent) (ap : ApplyRec) : List (Nat × Nat × Word) :=
  (enumFrom 0 a.members).flatMap fun p => (List.range ap.nw).map fun j => (p.2, j, a.v.look 0#32 (64 * (ap.vb + j) + p.1))

/-- A pack ends: its write-backs and flags wait for the join, and what it releases (R84, R205, R209); none while a read or an
atomic of it is out. The pack itself stays among the packs of its apply until then (R207, R355). -/
def endPack (s : State) (e : Env) : Option State :=
  (syncOut e.g.uid [e.a.id] s).map fun p =>
    let a := (e.now p.1).a
    let leave (ap : ApplyRec) : ApplyRec := { ap with flags := ap.flags ||| a.fflags, back := ap.back ++ packBack a ap, obs := ap.obs ++ p.2 }
    p.1.updGang e.g.uid fun g =>
      { g.updAgent a.id (fun b => { b with st := .ended }) with applies := updWhere (fun ap => some ap.n == a.apply) leave g.applies }

/-- The end of a pack as its instruction's effect. -/
def donePack (s : State) (e : Env) : Res := match endPack s e with
  | none => .stay s
  | some t => .gone t

/-- The trap a token holds (R390), and the token once it has been raised. -/
def heldTrap (a : Agent) : Option (Nat × Nat) :=
  (enumFrom 0 a.tokens).findSome? fun p => match p.2 with
    | .trap c => some (p.1, c)
    | _ => none
def Agent.setToken (a : Agent) (n : Nat) (t : Token) : Agent := { a with tokens := a.tokens.set n t }

/-- A trap that a token holds is raised in place of an instruction's own effect (R390): the token lets it go. -/
def raiseHeld (s : State) (e : Env) (n cause words : Nat) : Res :=
  .gone (takeTrap (e.set s fun a => a.setToken n .idle) e (e.trapAt words 5 ⟨cause, 0, none⟩ 0))

/-- `DONE` (R209, R302). -/
def execDone (m : Marks) (s : State) : Outcome :=
  runWait (.done m) m 1 s fun s e =>
    if !e.a.isPack then .trap ⟨cILLOP, 0, none⟩ 0
    else
      match heldTrap e.a with
      | some (n, c) => raiseHeld s e n c 1
      | none => if !e.a.outs.isEmpty || e.a.tokens.contains .busy then .stay s else donePack s e

/-- `EXIT` (R205): the retirement write to h0, and the end of the warp or pack. -/
def execExit (m : Marks) (s : State) : Outcome :=
  runWait (.exit m) m 1 s fun s e =>
    match heldTrap e.a with
    | some (n, c) => raiseHeld s e n c 1
    | none =>
      if !e.a.outs.isEmpty || (e.a.isPack && e.a.tokens.contains .busy) then .stay s
      else
        let t := e.pushHand s 0 (handOf e.a.members) 0#1024
        if !e.a.isPack then .gone (e.set t fun a => { a with st := .ended, bind := none })
        else match endPack t e with
          | none => .stay s
          | some t => .gone t

/-- APPLY_JOIN (R87, R209): write-backs to live home lanes, flags to the donors, and the donors go on. -/
def execApplyJoin (gang apply : Nat) (s : State) : Outcome :=
  match s.gang? gang with
  | none => .next s
  | some g =>
    match g.applies.find? fun a => a.n == apply with
    | none => .next s
    | some ap =>
      if !ap.formed || (g.agents.any fun a => ap.packs.contains a.id && a.st != .ended) || (ap.packs.any fun p => !handsQuiet s p) then .next s
      else
        match (landIds s gang ap.obs).bind (syncIn gang ap.obs ap.donors) with
        | none => .next s
        | some s =>
        let live := (g.wgs.getD ap.wg default).hands.getD 0 0#1024
        let back (a : Agent) : Agent :=
          let ws := ap.back.filterMap fun b =>
            if live.getLsbD b.1 then (a.members.idxOf? b.1).map fun l => (64 * (ap.vb + b.2.1) + l, b.2.2) else none
          { a with v := Table.putAll 0#32 a.v ws, fflags := a.fflags ||| ap.flags }
        -- the packs' commands are the donors' from now on (R114, R173)
        let home (c : Cmd) : Cmd := { c with home := (((donorsOf g ap).find? fun a => a.place == c.place).map fun a => a.id).getD c.home }
        let s := { s with cmds := updWhere (fun c => c.gang == gang && ap.packs.contains c.home) home s.cmds }
        let s := s.updGang gang fun g =>
          { g with agents := (updWhere (fun a => ap.donors.contains a.id) back g.agents).filter fun a => !ap.packs.contains a.id
                   applies := g.applies.filter fun a => a.n != apply }
        .next (ap.donors.foldl (fun s id => match envOf s gang id with
          | some e => if e.a.st == .ended then s else advance s e waitHdr ap.ret
          | none => s) s)

/-- RENDEZVOUS_TIMEOUT (R208): an instance open too long is discarded, and every arrived party raises RDV. -/
def execRendezvousTimeout (gang n : Nat) (s : State) : Outcome :=
  match s.gang? gang with
  | none => .next s
  | some g =>
    match g.rdvs.find? fun r => r.n == n with
    | none => .next s
    | some r =>
      if r.kind != .apply || (s.die g.die).clk < r.due then .next s
      else .next (r.arrived.foldl (fun s id => match envOf s gang id with
        | some e => takeTrap s e (e.trapAt 3 5 ⟨cRDV, 0, none⟩ 0)
        | none => s) (dropRdv s gang n))

/-! ### Hand writes commit (R90) -/

/-- One hand write reaches the hand file. -/
def commitHand (s : State) (w : HandWrite) : State :=
  let put (h : Wg) : Wg := { h with hands := h.hands.set w.reg (w.applyTo (h.hands.getD w.reg 0#1024)) }
  s.updGang w.gang fun g => { g with wgs := g.wgs.modify w.wg put }

/-- R205: a warp whose lanes are all dead ends as if it had exited. -/
def endDead (g : Gang) : Gang :=
  let dead (a : Agent) : Bool := !a.isPack && a.st != .ended &&
    !(a.members.any fun r => ((g.wgs.getD a.wg default).hands.getD 0 0#1024).getLsbD r)
  { g with agents := updWhere dead (fun a => { a with st := .ended, bind := none }) g.agents }

/-- The hand writes of a core that issued first, in the order they land. -/
def oldestHands (s : State) (die core : Nat) : List HandWrite :=
  let mine := s.handQ.filter fun w => w.die == die && w.core == core
  match mine with
  | [] => []
  | w :: _ => (mine.takeWhile fun v => v.issued == w.issued).foldl (fun l v => insHand v l) []

/-- HAND_WRITE_COMMIT: the writes of the oldest issue cycle of a core commit together, once that cycle is over, and open
rendezvous recheck. -/
def execHandWriteCommit (die core : Nat) (s : State) : Outcome :=
  let ws := oldestHands s die core
  match ws with
  | [] => .next s
  | w0 :: _ =>
    if (s.die die).clk ≤ w0.issued then .next s
    else
    let s := { s with handQ := s.handQ.filter fun w => !(w.die == die && w.core == core && w.issued == w0.issued) }
    let s := ws.foldl commitHand s
    let gs := (ws.map fun w => w.gang).eraseDups
    let s := gs.foldl (fun s g => s.updGang g endDead) s
    .next (gs.foldl recheckAll s)

end Sys2Proof.Machine
end

