-- ==== Sys2Proof/Machine/OsFam.lean ====
section
/-! DEFINITION. The operand store: LDO, STO, the line bits of LDC and STP, stash windows, stage barriers and the
SBAR instructions, WAITC, and the tile table with TDEF, TREL and TSTAT (R49-R61, R113-R118, R256-R258, R263, R264,
R270-R273). -/

namespace Sys2Proof.Machine

/-! ### Windows (R53-R57) -/

/-- Whether a run of operand-store lines meets a mapped window. -/
def Gang.inWindow (g : Gang) (first n : Nat) : Bool :=
  g.stash.any fun w => w.v && first < w.base + w.lines && w.base < first + n
def Gang.wline? (g : Gang) (line : Nat) : Option WLine := g.wlines.find? fun w => w.line == line

/-- Whether a window line can be accessed as it stands (R55): a read needs CLEAN or DIRTY, a write DIRTY. -/
def Gang.lineReady (g : Gang) (write : Bool) (line : Nat) : Bool :=
  match g.wline? line with
  | none => false
  | some w => w.dirty || !write

/-- A window line to fill: operand-store line, home line, and the first byte this agent reads it at. -/
structure FillLine where
  line : Nat
  pa : Nat
  rd : Nat
  deriving DecidableEq, Repr, Inhabited

/-- A filled line replaces what stood in its bytes, poison with it. -/
def setWLine (g : Gang) (bytes : List Byte) (w : WLine) : Gang :=
  { g with os := g.os.putAll 0#8 ((bytesAt (w.line * 128) 128).zip bytes)
           osPoison := delNat w.line g.osPoison
           wlines := (g.wlines.filter fun v => v.line != w.line) ++ [w] }

/-- A fill with read permission (R55); of a read-duplicated page the die's own copy is cached and tracked (R71). -/
def fillRead (s : State) (e : Env) (f : FillLine) : State :=
  let l := f.rd / 128
  let s := trackLine (allocL2 (supply s f.pa) l 0) (clusterOf e.g.die e.g.core) l false
  e.setGang s fun g => setWLine g ((bytesAt f.rd 128).map (homeByte s)) ⟨f.line, f.pa, false, l⟩

/-- A line gains ownership (R55): every other copy of it goes, and an INVALID one is filled. -/
def fillWrite (s : State) (e : Env) (f : FillLine) : State :=
  trackLine (ownThrough s e.g.uid f.line f.pa) (clusterOf e.g.die e.g.core) f.pa true

/-- R72: a first write to a read-duplicated page starts its collapse. -/
def startCollapse (s : State) (d : DupPage) : State :=
  if s.collapses.any fun c => c.page.base == d.base then s else { s with collapses := s.collapses ++ [⟨d, []⟩] }

/-- The window lines that lanes' accesses touch and that must be filled first, with the lanes' global addresses. -/
def fillsFor (e : Env) (write : Bool) (acc : List (Nat × Nat)) : List (Nat × Nat × Nat) :=
  acc.filterMap fun p => match e.g.window? p.2 with
    | none => none
    | some w => if e.g.lineReady write (lineOf p.2) then none else some (p.1, p.2, w.vaOf p.2)

/-- R55: every window line an instruction touches is made ready: the state to go on in, or how it ends instead. -/
def fillWindows (e : Env) (s : State) (write : Bool) (acc : List (Nat × Nat)) : Except Res State :=
  match fillsFor e write acc with
  | [] => .ok s
  | fs =>
    let k : AccKind := if write then .store else .load
    match translateAll s e.who k (fs.map fun f => (f.1, [f.2.2])) with
    | .error (.inl t) => .error (.trap t 0)
    | .error (.inr ps) => .error (.page k ps)
    | .ok ts =>
      let ps := fs.map fun f => (f, placePiece s e.who ts (f.2.2, 1))
      match ps.find? fun p => (e.g.wline? (lineOf p.1.2.1)).isNone && poisoned s p.2.rd with
      | some p => .error (.trap ⟨cMEMPOISON, p.1.1, none⟩ 0)
      | none =>
        let lines := (ps.map fun p => (⟨lineOf p.1.2.1, lineOf p.2.pa, lineOf p.2.rd * 128⟩ : FillLine)).eraseDups
        match if write then ps.findSome? fun p => p.2.dup else none with
        | some d => .error (.stay (e.set (startCollapse s d) fun a => { a with dupWait := true }))
        | none =>
          if lines.any fun f => frozen s f.rd || frozen s (f.pa * 128) then .error (.stay s)
          else
            let s := noteTlb s e.who (ts.map fun t => t.2)
            .ok (lines.foldl (fun s f => if write then fillWrite s e f else fillRead s e f) s)

/-! ### LDO and STO (R256) -/

/-- The operand-store address of each lane that takes part (R249). -/
def osAddrs (e : Env) (x : Ext) (r : Regs) : List (Nat × Nat) :=
  e.lanes.map fun l => (l, if x.c == 0#8 then e.vIndex r.a x.offset l else e.sIndex r.a x.offset)

/-- The checks of an operand-store access (R256), and the watch (R360). -/
def osCheck (e : Env) (w : Nat) (rd wr : Bool) (acc : List (Nat × Nat)) : Option TrapInfo :=
  match acc.find? fun p => e.g.osLines * 128 < p.2 + w with
  | some p => some ⟨cOOB, p.1, none⟩
  | none =>
    match acc.find? fun p => p.2 % w != 0 with
    | some p => some ⟨cMISALIGN, p.1, none⟩
    | none => e.watch rd wr (acc.map fun p => (p.1, p.2, w))

/-- R68: the first lane that would consume poison, once its window lines are filled; behind the agent's own write of a whole
line there is none. -/
def Env.osPoisonLane (e : Env) (acc : List (Nat × Nat)) : Option TrapInfo :=
  let whole (l : Nat) : Bool := e.g.osq.any fun q => q.agent == e.a.id && q.grp != 0 && q.bytes.any fun b => lineOf b.1 == l
  (acc.find? fun p => e.g.osPoison.contains (lineOf p.2) && !whole (lineOf p.2)).map fun p => ⟨cMEMPOISON, p.1, none⟩

/-- Operand-store lines touched, ascending. -/
def osLinesOf (acc : List (Nat × Nat)) : List Nat := sortNat (acc.map fun p => lineOf p.2)

/-- Whether an access lies in a window. -/
def Env.windowed (e : Env) (p : Nat × Nat) : Bool := (e.g.window? p.2).isSome

/-- The operand-store bytes of lanes outside windows. -/
def plainBytes (e : Env) (w : Nat) (acc : List (Nat × Nat)) : List Nat :=
  (acc.filter fun p => !e.windowed p).flatMap fun p => bytesAt p.2 w

/-- The home of an operand-store byte in a filled window line. -/
def Gang.homeOf? (g : Gang) (a : Nat) : Option Nat := (g.wline? (lineOf a)).map fun l => l.pa * 128 + a % 128

/-- The homes of the bytes of window lanes, their lines filled. -/
def windowHomes (e : Env) (s : State) (w : Nat) (acc : List (Nat × Nat)) : List Nat :=
  (acc.filter e.windowed).flatMap fun p => match (e.now s).g.homeOf? p.2 with
    | some h => bytesAt h w
    | none => []

/-- The agent's own pending operand-store reads of bytes take their value before it writes them (R79). -/
def osOwnFirst (s : State) (e : Env) (as : List Nat) : State :=
  forget (settle s e fun l p => l.os && p.addrs.any as.contains) e true as

/-- Bytes written at once, and poison that whole-line writes clear (R68). -/
def Gang.putOs (g : Gang) (bytes : List (Nat × Byte)) : Gang :=
  let as := bytes.map fun b => b.1
  { g.setOsTags as [] with
           os := g.os.putAll 0#8 bytes
           osPoison := if g.osPoison.isEmpty then []
             else g.osPoison.filter fun l => !((List.range 128).all fun j => as.contains (l * 128 + j)) }

/-- The bytes of lanes' data in lane order (R28). -/
def laneBytes (w : Nat) (data : Nat → Nat) (acc : List (Nat × Nat)) : List (Nat × Byte) :=
  acc.flatMap fun p => (bytesAt p.2 w).zip (toBytes w (data p.1))

/-- A write that waits: after the agent's own to those bytes, before or after another agent's (R80). -/
def Gang.pushOs (g : Gang) (w : OsWrite) (first : Bool) : Gang :=
  let tail := (g.osq.reverse.takeWhile fun q => q.agent != w.agent || !q.overlaps w).length
  if first then
    let k := g.osq.length - tail
    { g with osq := g.osq.take k ++ w :: g.osq.drop k }
  else { g with osq := g.osq ++ [w] }

/-- The read of a lane: of the operand store, or through a window as a global access (R88). -/
def osPart (e : Env) (s : State) (w : Nat) (p : Nat × Nat) : LoadPart :=
  { addrs := bytesAt p.2 w, home := match if e.windowed p then (e.now s).g.homeOf? p.2 else none with
      | some h => bytesAt h w
      | none => [] }

/-- `LDO` (R256). -/
def execLdo (x : Ext) (s : State) : Outcome :=
  runExt (.ldo x) x s fun s e r =>
    let w := accWidth x.ty.toNat
    let acc := osAddrs e x r
    match osCheck e w true false acc with
    | some t => .trap t 0
    | none =>
      match fillWindows e s false acc with
      | .error q => q
      | .ok s =>
        match (e.now s).osPoisonLane acc with
        | some t => .trap t 0
        | none =>
          let homes := windowHomes e s w acc
          if ownBlocked s e homes then .stay s
          else
            let rd (p : Nat × Nat) : LoadReq := { parts := [osPart e s w p], fmt := vecFmt x.ty r.d p.1, os := true }
            .done (startReads s e { writes := [], reads := acc.map rd } homes 0)

/-- A lane's store through a window: it waits among the writes of its die (R80, R88). -/
def windowStore (e : Env) (grp w : Nat) (data : Nat → Nat) (s : State) (p : Nat × Nat) : State :=
  match e.g.window? p.2, (e.now s).g.homeOf? p.2 with
  | some v, some h =>
    pushParts s e.who { held := e.a.dupWait, grp := grp, win := some ⟨e.g.uid, lineOf p.2, v.gva.toNat + (lineOf p.2 - v.base) * 128⟩ }
      ((bytesAt h w).zip (toBytes w (data p.1))) 2
  | _, _ => s

/-- A lane's store to the operand store proper. -/
def plainStore (e : Env) (grp w : Nat) (data : Nat → Nat) (s : State) (p : Nat × Nat) : State :=
  let q : OsWrite := { n := s.fresh, agent := e.a.id, bytes := laneBytes w data [p], after := liveAfter s e.who, need := liveNeeds s e.who, grp := grp }
  let first := Config.coin s.tick (64 + p.1)
  { s.updGang e.g.uid (fun g => g.pushOs q first) with fresh := s.fresh + 1 }

/-- The lanes of a store in lane order (R28). -/
def storeLanes (e : Env) (s : State) (w : Nat) (data : Nat → Nat) (acc : List (Nat × Nat)) : State :=
  let whole := wholeLines (acc.flatMap fun p => bytesAt p.2 w)
  let id := s.fresh
  acc.foldl (fun s p =>
    let grp := if whole.contains (lineOf p.2) then id else 0
    if e.windowed p then windowStore e grp w data s p else plainStore e grp w data s p) s

/-- `STO` (R256). -/
def execSto (x : Ext) (s : State) : Outcome :=
  runExt (.sto x) x s fun s e r =>
    let w := accWidth x.ty.toNat
    let acc := osAddrs e x r
    match osCheck e w false true acc with
    | some t => .trap t 0
    | none =>
      match fillWindows e s true acc with
      | .error q => q
      | .ok s =>
        let homes := windowHomes e s w acc
        if ownBlocked s e homes then .stay s
        else
          let s := osOwnFirst (ownFirst s e homes) e (plainBytes e w acc)
          .done (storeLanes e (fixRecords s e.who s.fresh homes) w (e.stData x.ty r.d) acc)

/-! ### Line bits: LDC and STP (R50-R52, R84, R257) -/

def Gang.setFull (g : Gang) (lines : List Nat) (full : Bool) : Gang :=
  { g with full := if full then lines.foldl (fun f l => insNat l f) g.full else g.full.filter fun l => !lines.contains l }

/-- What has been released under a key, and more added to it. -/
def Gang.rel (g : Gang) (key : Nat) : List Nat := ((g.rels.find? fun r => r.1 == key).map fun r => r.2).getD []
def Gang.setRel (g : Gang) (key : Nat) (ids : List Nat) : Gang :=
  let rest := g.rels.filter fun r => r.1 != key
  { g with rels := if ids.isEmpty then rest else rest ++ [(key, ids)] }
def Gang.addRel (g : Gang) (key : Nat) (ids : List Nat) : Gang := g.setRel key (g.rel key ++ ids).eraseDups

/-- The agent's own waiting writes to plain bytes land, another's perhaps; none while its own cannot. -/
def osReady (s : State) (e : Env) (as : List Nat) : Option State :=
  let s := osNote (osOwnFirst s e as) e.g.uid e.a.id as
  if osOwed s e.g.uid (fun p => p.agent == e.a.id && p.touches as) then none else some s

/-- A lane's value as it stands. -/
def osNow (e : Env) (s : State) (w : Nat) (p : Nat × Nat) : Nat := ofBytes ((osPart e s w p).value s e.who true)

/-- The lines' data is read and the lines are emptied. -/
def consumeLines (e : Env) (s : State) (x : Ext) (r : Regs) (w : Nat) (acc : List (Nat × Nat)) : State :=
  let ws := acc.flatMap fun p => (vecFmt x.ty r.d p.1).writes (osNow e s w p)
  let s := noteSeen s e.who (windowHomes e s w acc)
  let s := e.setGang s fun g => g.setFull (osLinesOf acc) false
  e.addOut s { writes := .k r.b true :: ws }

/-- `LDC`. -/
def execLdc (x : Ext) (s : State) : Outcome :=
  runExt (.ldc x) x s fun s e r =>
    let w := accWidth x.ty.toNat
    let acc := osAddrs e x r
    match osCheck e w true false acc with
    | some t => .trap t 0
    | none =>
      match fillWindows e s false acc with
      | .error q => q
      | .ok s =>
        if (osLinesOf acc).any fun l => !(e.now s).g.full.contains l then .done (e.addOut s { writes := [.k r.b false] })
        else
          match (e.now s).osPoisonLane acc with
          | some t => .trap t 0
          | none =>
            let homes := windowHomes e s w acc
            let ids := (osLinesOf acc).flatMap (e.now s).g.rel
            match ((osReady s e (plainBytes e w acc)).bind fun s => fence s e 0 1).bind fun s => relIn s e ids with
            | none => .stay s
            | some s => if readBlocked s e homes homes then .stay s else .done (consumeLines e (ownFirst s e homes) x r w acc)

/-- The lines' data is written and the lines are filled: the release goes with them. -/
def fillLines (e : Env) (s : State) (x : Ext) (r : Regs) (w : Nat) (acc : List (Nat × Nat)) : State :=
  let data := e.stData x.ty r.d
  let ids := relIds s e
  let n := s.fresh
  let s := e.setGang s fun g => g.putOs (laneBytes w data (acc.filter fun p => !e.windowed p))
  let whole := wholeLines (acc.flatMap fun p => bytesAt p.2 w)
  let s := (acc.filter e.windowed).foldl (fun s p => windowStore e (if whole.contains (lineOf p.2) then n else 0) w data s p) s
  let mine := (s.outq.filter fun p => n ≤ p.n && p.agent == e.a.id).map fun p => p.n
  let s := e.setGang s fun g => (osLinesOf acc).foldl (fun g l => g.setRel l (ids ++ mine)) (g.setFull (osLinesOf acc) true)
  e.addOut s { writes := [.k r.b true] }

/-- `STP`: a release at `.core` goes before it (R83): its agent's reads and atomics have returned. -/
def execStp (x : Ext) (s : State) : Outcome :=
  runExt (.stp x) x s fun s e r =>
    let w := accWidth x.ty.toNat
    let acc := osAddrs e x r
    match osCheck e w false true acc with
    | some t => .trap t 0
    | none =>
      match fillWindows e s true acc with
      | .error q => q
      | .ok s =>
        if (osLinesOf acc).any fun l => (e.now s).g.full.contains l then .done (e.addOut s { writes := [.k r.b false] })
        else
          let homes := windowHomes e s w acc
          match (readsIn s e).bind fun s => osReady (release s e 1) e (plainBytes e w acc) with
          | none => .stay s
          | some s =>
            if ownBlocked s e homes then .stay s
            else .done (fillLines e (fixRecords (ownFirst s e homes) e.who s.fresh homes) x r w acc)

/-! ### Stash windows (R54, R57, R258) -/

/-- The dirty lines of a window. -/
def Gang.dirtyLines (g : Gang) (w : StashEnt) : List WLine := g.wlines.filter fun l => l.dirty && w.covers (l.line * 128)

def Gang.dropLines (g : Gang) (w : StashEnt) : Gang := { g with wlines := g.wlines.filter fun l => !w.covers (l.line * 128) }

/-- One dirty line of a gang is written back and becomes CLEAN. -/
def cleanLine (s : State) (uid : Nat) (l : WLine) : State :=
  (supply s l.pa).updGang uid fun g => { g with wlines := updWhere (fun v => v.line == l.line) (fun v => { v with dirty := false }) g.wlines }

/-- The waiting stores of a gang through a window. -/
def viaWindow (uid : Nat) (w : StashEnt) (p : PendWrite) : Bool := match p.win with
  | some v => v.gang == uid && w.covers (v.line * 128)
  | none => false

/-- The waiting stores through a window perform first; none while one cannot. -/
def settleWindow (s : State) (uid : Nat) (w : StashEnt) : Option State :=
  if stuckSel s (viaWindow uid w) then none else some (performSel s (viaWindow uid w))

/-- A write-back of a window's dirty lines, once the stores through it have performed (R55, R57). -/
def writeBack (e : Env) (s : State) (w : StashEnt) : Except Res State :=
  match settleWindow s e.g.uid w with
  | none => .error (.stay s)
  | some s =>
  match (e.now s).g.dirtyLines w with
  | [] => .ok s
  | ls =>
    match translateAll s e.who .store [(0, ls.map fun l => w.vaOf (l.line * 128))] with
    | .error (.inl t) => .error (.trap t 0)
    | .error (.inr ps) => .error (.page .store ps)
    | .ok ts =>
      if ls.any (fun l => frozen s (l.pa * 128)) then .error (.stay s)
      else .ok (ls.foldl (fun s l => cleanLine s e.g.uid l) (noteTlb s e.who (ts.map fun t => t.2)))

/-- R60: data lines of a tile, and exponent lines. -/
def tileWord (t : DWord) (lo n : Nat) : Nat := fld t.toNat lo n
def tBase (t : DWord) : Nat := tileWord t 0 13
def tRows (t : DWord) : Nat := tileWord t 18 9
def tCols (t : DWord) : Nat := tileWord t 27 9
def tType (t : DWord) : Nat := tileWord t 36 5
def tLayout (t : DWord) : Nat := tileWord t 41 2
def tBfpw (t : DWord) : Nat := tileWord t 43 3
def tExpo (t : DWord) : Nat := tileWord t 46 10
/-- The element size of a type in a tile or a shape record. -/
def elemSize (ty : Nat) : Nat := if ty = 17 then 8 else accWidth ty
def dataLines (ty rows cols bfpw : Nat) : Nat :=
  if ty = 14 then cdiv (rows * cols * (bfpw + 1)) 1024 else cdiv (rows * cols * elemSize ty) 128
def expoLines (ty rows cols : Nat) : Nat := if ty = 14 then cdiv (rows * cols) 4096 else 0
/-- The runs of lines of a defined tile: first line and count. -/
def tileRuns (t : DWord) : List (Nat × Nat) :=
  [(tBase t, dataLines (tType t) (tRows t) (tCols t) (tBfpw t)), (tBase t + tExpo t, expoLines (tType t) (tRows t) (tCols t))]

/-- A command that fills a tile of its gang, or drains it, and has not completed that (R61). -/
def Cmd.fills (c : Cmd) (t : Nat) : Bool :=
  match c.body with
  | .copy .cpo .. => false
  | .copy _ (some u) .. => u == t
  | .mdrain u .. => u == t
  | .walk u .. => u == t
  | _ => false
def Cmd.drains (c : Cmd) (t : Nat) : Bool :=
  match c.body with
  | .copy .cpo (some u) .. => u == t
  | _ => false
/-- A command that reads a tile as a source (R274). -/
def Cmd.readsTile (c : Cmd) (t : Nat) : Bool :=
  match c.body with
  | .mma _ a b .. => a == t || b == t
  | .mload _ u _ => u == t
  | _ => false
def tilePending (s : State) (uid : Nat) (p : Cmd → Bool) : Bool :=
  s.cmds.any fun c => c.gang == uid && !c.tileDone && p c

/-- STATE of a tile (R59, R61): 0 EMPTY, 1 FILLING, 2 READY, 3 DRAINING. -/
def tileState (s : State) (g : Gang) (t : Nat) : Nat :=
  if tilePending s g.uid fun c => c.fills t then 1
  else if tilePending s g.uid fun c => c.drains t then 3
  else if g.filled.contains t then 2
  else 0
/-- Whether TDEF has defined a tile. -/
def Gang.tile (g : Gang) (t : Nat) : DWord := g.tiles.look 0#64 t
def Gang.defined (g : Gang) (t : Nat) : Bool := tRows (g.tile t) != 0

/-- Whether a run of lines overlaps a tile that is not EMPTY. -/
def meetsTile (s : State) (g : Gang) (first n : Nat) : Bool :=
  g.tiles.any fun t => tileState s g t.1 != 0 && (tileRuns t.2).any fun r => first < r.1 + r.2 && r.1 < first + n

/-- R54: the first condition that fails. -/
def mapBad (s : State) (g : Gang) (n gva base lines : Nat) : Option (Option Nat) :=
  if 4096 < lines then some none
  else if g.osLines < base + lines then some (some 1)
  else if (enumFrom 0 g.stash).any fun w => w.1 != n && w.2.v && base < w.2.base + w.2.lines && w.2.base < base + lines then some (some 2)
  else if meetsTile s g base lines then some (some 3)
  else if 2 ^ 52 < gva + 128 * lines then some (some 4)
  else none

def Gang.setStash (g : Gang) (n : Nat) (w : StashEnt) : Gang := { g with stash := g.stash.set n w }

/-- `SMAP` (R54, R258). -/
def execSmap (x : Ext) (s : State) : Outcome :=
  runExt (.smap x) x s fun s e r =>
    let n := x.byteImm
    let old := e.g.stash.getD n default
    let gva := e.rs r.a
    let base := e.rs r.b
    let lines := e.rs r.c
    if gva % 128 != 0 then .trap ⟨cMISALIGN, 0, none⟩ 0
    else
      match if lines = 0 then none else mapBad s e.g n gva base lines with
      | some d => .trap ⟨cOOB, 0, d⟩ 0
      | none =>
        match if old.v then writeBack e s old else .ok s with
        | .error q => q
        | .ok s =>
          let new : StashEnt := if lines = 0 then { old with v := false } else ⟨true, BitVec.ofNat 52 gva, lines, base⟩
          let under (p : OsWrite) : Bool := p.bytes.any fun b => new.covers b.1
          let s := osFlush s e.g.uid under
          if osOwed s e.g.uid under then .stay s
          else .done (e.setGang s fun g => (if old.v then g.dropLines old else g).setStash n new)

/-- `SFLUSH`. -/
def execSflush (x : Ext) (s : State) : Outcome :=
  runExt (.sflush x) x s fun s e _ =>
    let w := e.g.stash.getD x.byteImm default
    if !w.v then .done s
    else
      match writeBack e s w with
      | .error q => q
      | .ok s => .done s

/-- `SINV`. -/
def execSinv (x : Ext) (s : State) : Outcome :=
  runExt (.sinv x) x s fun s e _ =>
    let w := e.g.stash.getD x.byteImm default
    if !w.v then .done s
    else
      match settleWindow s e.g.uid w with
      | none => .stay s
      | some s => .done (e.setGang s fun g => g.dropLines w)

/-! ### Stage barriers (R115, R116) -/

/-- A stage-barrier object; `rest` holds its reserved bits in place. -/
structure SBar where
  pend : Int
  carry : Nat
  arr : Nat
  exp : Nat
  err : Bool
  ovr : Bool
  phase : Bool
  rest : Nat
  /-- completions since the object was read -/
  flips : Nat := 0
  deriving DecidableEq, Repr, Inhabited

def SBar.of (w : Nat) : SBar :=
  ⟨sInt 32 (fld w 96 32), fld w 85 11, fld w 74 11, fld w 63 11, bitN w 3, bitN w 2, bitN w 0,
    fld w 4 59 * 2 ^ 4 + fld w 1 1 * 2, 0⟩

def SBar.word (b : SBar) : Nat :=
  wrapI 32 b.pend * 2 ^ 96 + b.carry % 2048 * 2 ^ 85 + b.arr % 2048 * 2 ^ 74 + b.exp % 2048 * 2 ^ 63 + b.rest +
    (if b.err then 8 else 0) + (if b.ovr then 4 else 0) + (if b.phase then 1 else 0)

/-- R116 `complete`; at most one pass for each arrival that is left. -/
def SBar.complete (b : SBar) : Nat → SBar
  | 0 => b
  | fuel + 1 =>
    if b.arr = b.exp && decide (b.pend ≤ 0) then
      let ovr := b.ovr || decide (b.pend < 0)
      SBar.complete { b with ovr := ovr, phase := !b.phase, arr := b.carry, carry := 0, flips := b.flips + 1 } fuel
    else b

/-- Three passes settle an initialised object: CARRY is 0 after the first, and ARR after the second. -/
def SBar.settle (b : SBar) : SBar := b.complete 3

def SBar.init (b : SBar) (n : Nat) : SBar :=
  { b with phase := false, exp := n, arr := 0, carry := 0, pend := 0, ovr := false, err := false }
def SBar.expect (b : SBar) (v : Int) : SBar :=
  let t := b.pend + v
  { b with pend := clampI (-(2 ^ 31)) (2 ^ 31 - 1) t, err := b.err || decide (t < -(2 ^ 31)) || decide (2 ^ 31 - 1 < t) }
def SBar.arrive (b : SBar) : SBar :=
  if b.arr < b.exp then { b with arr := b.arr + 1 }
  else if b.carry < b.exp then { b with carry := b.carry + 1 }
  else { b with err := true }
/-- A credit of c bytes; to an object that is not initialised it only sets ERR. -/
def SBar.credit (b : SBar) (c : Nat) : SBar :=
  if b.exp = 0 then { b with err := true }
  else
    let t := b.pend - c
    (if t < -(2 ^ 31) then { b with err := true, pend := -(2 ^ 31) } else { b with pend := t }).settle

def Gang.sbar (g : Gang) (a : Nat) : SBar := SBar.of (ofBytes (g.osBytes (bytesAt a 16)))
/-- The keys of `rels` for a phase of an object, and for arrivals carried over (R84, R116). -/
def sbKey (a : Nat) (phase : Bool) : Nat := 2 ^ 20 + 2 * a + (if phase then 1 else 0)
def sbCarry (a : Nat) : Nat := 2 ^ 22 + a

/-- Phases complete: the next one begins with what its carried arrivals released. -/
def Gang.flipRels (g : Gang) (a : Nat) : Bool → Nat → Gang
  | _, 0 => g
  | ph, n + 1 => Gang.flipRels ((g.setRel (sbKey a !ph) (g.rel (sbCarry a))).setRel (sbCarry a) []) a (!ph) n

def isWaiting (a : Agent) : Bool := match a.st with
  | .waiting _ => true
  | _ => false

/-- An object is written back: a phase flip is what its waiters' gang watches for (R159, R160). -/
def Gang.putSbar (g : Gang) (a : Nat) (b : SBar) : Gang :=
  let was := (g.sbar a).phase
  let g := { g with os := g.os.putAll 0#8 ((bytesAt a 16).zip (toBytes 16 b.word)) }
  if b.flips = 0 then g
  else
    let g := g.flipRels a was b.flips
    if g.agents.any fun q => q.sbw == some a && isWaiting q then g.noteHit else g

/-- Waiting writes to an object reach it before a unit's operation, or not: a free choice (R79, R116). -/
def barWrites (s : State) (uid a : Nat) : State :=
  let t := s.tick
  osFlush s uid fun p => p.touches (bytesAt a 16) && Config.coin t (1000 + p.n)

/-- An engine's operation on a barrier of a gang. -/
def creditBar (s : State) (uid : Nat) (bar : Option Nat) (f : SBar → SBar) : State :=
  match bar with
  | none => s
  | some a => (barWrites s uid a).updGang uid fun g => g.putSbar a (f (g.sbar a))

/-- R264: the operand value, exact over the signed register (log entry 28). -/
def sbValue (e : Env) (x : Ext) : Int := sInt 64 (e.rs x.b.toNat) + x.offset

/-- R264: the checks in order, and the watch. -/
def sbCheck (e : Env) (a : Nat) (inRange fresh rd wr : Bool) : Option TrapInfo :=
  if e.g.osLines * 128 ≤ a then some ⟨cOOB, 0, some 1⟩
  else if a % 16 != 0 then some ⟨cMISALIGN, 0, some 2⟩
  else if !inRange then some ⟨cOOB, 0, some 3⟩
  else if !fresh && (e.g.sbar a).exp = 0 then some ⟨cOOB, 0, some 4⟩
  else e.watch rd wr [(0, a, 16)]

/-- The object as the agent's operation finds it: its own writes first, another agent's perhaps (R79, R116); none while its
own cannot land. -/
def sbReady (e : Env) (s : State) (a : Nat) : Option State := osReady s e (bytesAt a 16)

/-- An SBAR instruction that updates its object, with what it releases. -/
def sbUpdate (e : Env) (s : State) (a : Nat) (inRange fresh rd wr : Bool) (f : SBar → SBar) (rels : Gang → Gang) : Res :=
  match sbReady e s a with
  | none => .stay s
  | some s =>
    match sbCheck (e.now s) a inRange fresh rd wr with
    | some t => .trap t 0
    | none => .done (e.setGang s fun g => let g := rels g; g.putSbar a (f (g.sbar a)).settle)

/-- `SBINIT`. -/
def execSbinit (x : Ext) (s : State) : Outcome :=
  runExt (.sbinit x) x s fun s e r =>
    let v := sbValue e x
    let a := e.rs r.a
    sbUpdate e s a (1 ≤ v && v ≤ 1024) true false true (fun b => b.init v.toNat)
      fun g => ((g.setRel (sbKey a true) []).setRel (sbKey a false) []).setRel (sbCarry a) []
/-- `SBEXP`. -/
def execSbexp (x : Ext) (s : State) : Outcome :=
  runExt (.sbexp x) x s fun s e r =>
    let v := sbValue e x
    sbUpdate e s (e.rs r.a) (-(2 ^ 31) ≤ v && v < 2 ^ 31) false true true (fun b => b.expect v) id

/-- What an arrival releases stands under the phase it is counted in. -/
def Gang.relArrival (g : Gang) (a : Nat) (ids : List Nat) : Gang :=
  let b := g.sbar a
  if b.arr < b.exp then g.addRel (sbKey a b.phase) ids else if b.carry < b.exp then g.addRel (sbCarry a) ids else g

/-- `SBARV`: a release at `.core`, and an arrival. -/
def execSbarv (x : Ext) (s : State) : Outcome :=
  runExt (.sbarv x) x s fun s e r =>
    let a := e.rs r.a
    match (sbReady e s a).bind fun t => sbCheck (e.now t) a true false true true with
    | some t => .trap t 0
    | none =>
      match readsIn s e with
      | none => .stay s
      | some s => sbUpdate e (release s e 1) a true false true true SBar.arrive fun g => g.relArrival a (relIds s e)

/-- The agent waits for a phase to complete. -/
def waitBar (e : Env) (s : State) (a : Option Nat) : State := e.set s fun b => { b with sbw := a }

/-- `SBWAIT`: a long wait until PHASE ≠ v, and an acquire. -/
def execSbwait (x : Ext) (s : State) : Outcome :=
  runExt (.sbwait x) x s fun s e r =>
    let v := sbValue e x
    let a := e.rs r.a
    match sbReady e s a with
    | none => .stay s
    | some s =>
      let e := e.now s
      match sbCheck e a (v == 0 || v == 1) false true false with
      | some t => .trap t 0
      | none =>
        if (e.g.sbar a).phase == (v == 1) then .wait (waitBar e s (some a))
        else
          match (fence s e 0 1).bind fun s => relIn s e (e.g.rel (sbKey a (v == 1))) with
          | none => .stay s
          | some s => .done (waitBar e s none)

/-! ### WAITC (R113, R114, R263) -/

/-- R263: the counter of a code. -/
def counterOf (n : Nat) : CmdClass :=
  match n with
  | 0 => .cp
  | 1 => .mx
  | 2 => .rd
  | 3 => .rt
  | 4 => .au
  | 5 => .fw
  | _ => .vd

/-- `WAITC`. -/
def execWaitc (x : Ext) (s : State) : Outcome :=
  runExt (.waitc x) x s fun s e _ => if e.counter s (counterOf x.d.toNat) ≤ x.byteImm then .done (dropAhead s e) else .wait s

/-! ### The tile table (R59-R61, R270-R273) -/

/-- The word a `TDEF` writes. -/
def tdefWord (base rows cols ty layout bfpw expo : Nat) : DWord :=
  BitVec.ofNat 64 (base + rows * 2 ^ 18 + cols * 2 ^ 27 + ty * 2 ^ 36 + layout * 2 ^ 41 + bfpw * 2 ^ 43 + expo * 2 ^ 46)

/-- R60: whether TDEF raises OOB. -/
def tdefBad (s : State) (g : Gang) (t base rows cols ty layout bfpw expo : Nat) : Bool :=
  let w := tdefWord base rows cols ty layout bfpw expo
  tileState s g t != 0 || ty = 16 || 20 ≤ ty || layout = 3 || (if ty = 14 then bfpw = 0 else bfpw != 0) || 1024 ≤ expo ||
    8192 ≤ base || (tileRuns w).any (fun r => r.2 != 0 && (g.osLines < r.1 + r.2 || meetsTile s g r.1 r.2 || g.inWindow r.1 r.2))

/-- `TDEF` (R270). -/
def execTdef (x : Ext) (s : State) : Outcome :=
  runExt (.tdef x) x s fun s e r =>
    let a := wrapI 64 ((e.rs r.a : Int) + 128 * x.offset)
    let rows := x.b.toNat + 1
    let cols := x.c.toNat + 1
    let ty := x.ty.toNat
    let layout := x.e.toNat % 4
    let bfpw := x.e.toNat / 4 % 8
    let expo := if ty = 14 then dataLines ty rows cols bfpw else 0
    if a % 128 != 0 then .trap ⟨cMISALIGN, 0, none⟩ 0
    else if tdefBad s e.g r.d (a / 128) rows cols ty layout bfpw expo then .trap ⟨cOOB, 0, none⟩ 0
    else .done (e.setGang s fun g =>
      { g with tiles := g.tiles.put 0#64 r.d (tdefWord (a / 128) rows cols ty layout bfpw expo), filled := delNat r.d g.filled })

/-- `TREL` (R272). -/
def execTrel (x : Ext) (s : State) : Outcome :=
  runExt (.trel x) x s fun s e r =>
    if tilePending s e.g.uid fun c => c.fills r.d || c.drains r.d || c.readsTile r.d then .stay s
    else .done (e.setGang s fun g => { g with tiles := g.tiles.put 0#64 r.d 0#64, filled := delNat r.d g.filled })

/-- `TSTAT` (R273): the entry as it stands at the issue. -/
def execTstat (x : Ext) (s : State) : Outcome :=
  runExt (.tstat x) x s fun s e r =>
    e.result s [.s r.d (e.g.tile r.a ||| (BitVec.ofNat 64 (tileState s e.g r.a) <<< 62))]

end Sys2Proof.Machine
end

