-- ==== Sys2Proof/Machine/Units.lean ====
section
/-! DEFINITION. What the units of the device share: contexts and their descriptors, the accesses of engines and units
with the page faults that hold them and the accesses that fail (R41, R390), and the return of a saved gang to its
distributor. -/

namespace Sys2Proof.Machine

/-! ### Contexts (R381) -/

/-- A word of a context descriptor. -/
def ctxWord (s : State) (asid off : Nat) : Nat := homeNat s (s.bar0.ctxtbase.toNat + 256 * asid + off) 8
/-- A region entry of the system context, in the device's own copy: valid, with no reserved bit; the spec gives no more of
it than that it maps physical memory one to one (R43, R381; log entry 62). -/
def sysRaf (n : Nat) : DWord := (Config.sysRegion n &&& 0x600FFFFFFFFFF01F#64) ||| (1#64 <<< 63)
/-- The region entries of a context. -/
def ctxRaf (s : State) (asid : Nat) : List DWord :=
  (List.range 16).map fun n => if asid = 0 then sysRaf n else BitVec.ofNat 64 (ctxWord s asid (8 * n))
def ctxValid (s : State) (asid : Nat) : Bool := asid == 0 || bitN (ctxWord s asid 0x80) 0
/-- QAREA and RAREA; the system context has neither (log entry 10). -/
def ctxQarea (s : State) (asid : Nat) : Nat := if asid = 0 then 0 else fld (ctxWord s asid 0x88) 0 52
def ctxRarea (s : State) (asid : Nat) : Nat := if asid = 0 then 0 else fld (ctxWord s asid 0x90) 0 52

/-- A unit that acts for a context: it stands on a die and in no core. -/
def unitWho (s : State) (asid die : Nat) : Who := ⟨die, 32, 0, 0, asid, ctxRaf s asid, asid == 0, [], 0, none⟩

/-! ### Accesses of units (R41, R390) -/

/-- How a unit's access can stop: it waits, or it has failed with PROT or MEMPOISON. -/
inductive UStop where
  | wait (s : State)
  | fail (s : State) (cause : Nat)
  deriving DecidableEq, Repr, Inhabited

abbrev U (α : Type) := Except UStop α

/-- A unit's identity for its accesses: for whom, who is held, and the PC a fault record carries. -/
structure Acc where
  who : Who
  holder : Holder
  pc : Addr
  deriving DecidableEq, Repr, Inhabited

def dropHold (s : State) (h : Holder) : State := { s with holds := s.holds.filter fun d => d.holder != h }

/-- The cause of a read that meets poisoned data, apart from that of a translation that does (R390). -/
def cDataPoison : Nat := 32 + cMEMPOISON

/-- A failed access is logged (R390). -/
def failAcc (s : State) (a : Acc) (va cause : Nat) : UStop :=
  .fail (logEvent (dropHold s a.holder) .engine [a.pc.toNat, va]) cause

/-- An engine fault: its record, and the holder is held (R41); while the queue has no room, it only waits (R342). -/
def engineFault (s : State) (a : Acc) (k : AccKind) (va cause level : Nat) : State :=
  if !faultRoom s a.who.die 1 then s
  else
    let tok := 2 ^ 63 + s.fresh
    let r := faultRec va a.who.asid cause level k.code 0 0 1 false tok a.pc
    { s.updDie a.who.die (fun d => { d with faultQ := d.faultQ ++ [r] }) with
      fresh := s.fresh + 1
      holds := s.holds ++ [⟨a.holder, tok, a.who.asid, va, false⟩] }

/-- A unit's translation. -/
def uXlat (s : State) (a : Acc) (k : AccKind) (va : Nat) : U Trans :=
  let go : U Trans := match xlat s a.who k va with
    | .ok t => .ok t
    | .prot => .error (failAcc s a va cPROT)
    | .poison => .error (failAcc s a va cMEMPOISON)
    | .page c lv => .error (.wait (engineFault s a k va c lv))
    | .wait => .error (.wait s)
  match s.holds.find? fun d => d.holder == a.holder with
  | none => go
  | some d =>
    if !d.denied then .error (.wait s)
    else if pageOf a.who d.va == pageOf a.who va then .error (failAcc s a va cPROT)
    else go

/-- Bits of the page size an access of a context works with. -/
def whoBits (who : Who) (va : Nat) : Nat :=
  if who.flat va then 12 else pageBits (fld (who.raf.getD (va / 2 ^ 48) 0#64).toNat 0 3)

/-- A range cut at page boundaries. -/
def splitPages (who : Who) : Nat → Nat → Nat → List (Nat × Nat)
  | 0, _, _ => []
  | fuel + 1, va, n =>
    if n = 0 then []
    else
      let sz := 2 ^ whoBits who va
      let k := min n (sz - va % sz)
      (va, k) :: splitPages who fuel ((va + k) % 2 ^ 52) (n - k)

/-- The translations of a list of ranges. -/
def uTrans (s : State) (a : Acc) (k : AccKind) : List (Nat × Nat) → U (List (Trans × Nat × Nat))
  | [] => .ok []
  | (va, n) :: r =>
    match uXlat s a k va with
    | .error e => .error e
    | .ok t =>
      match uTrans s a k r with
      | .error e => .error e
      | .ok ts => .ok ((t, va, n) :: ts)

def rangesOf (who : Who) (va n : Nat) : List (Nat × Nat) := splitPages who (n + 1) (va % 2 ^ 52) n

/-- R109: what a command's issuer accessed before it at some bytes, by their homes, takes effect first; none while a part of
that has to wait. -/
def issuerFirst (s : State) (who : Who) (as : List Nat) : Option State :=
  match who.cmd, envOf s who.gang who.agent with
  | some k, some e =>
    let early (l : LoadReq) (p : LoadPart) : Bool := p.overlaps as && e.a.outs.any fun o => o.n < k && o.reads.contains l
    let at' (p : PendAtom) : Bool := decide (p.n < k) && p.overlaps as
    let s := settleAtoms (settle s e early) e.a.id at'
    if e.partOwed s early || s.atoms.any (fun p => p.agent == e.a.id && at' p) then none else some s
  | _, _ => some s

/-- The same for operand-store bytes of the gang; another agent's writes, and the issuer's later ones, perhaps. -/
def issuerOs (s : State) (who : Who) (as : List Nat) : Option State :=
  let t := s.tick
  let own (p : OsWrite) : Bool := p.touches as && p.agent == who.agent && decide (p.n < who.cmd.getD 0)
  let (s, owed) := match who.cmd, envOf s who.gang who.agent with
    | some k, some e =>
      let early (l : LoadReq) (p : LoadPart) : Bool := l.os && p.addrs.any as.contains && e.a.outs.any fun o => o.n < k && o.reads.contains l
      let s := settle s e early
      (s, e.partOwed s early)
    | _, _ => (s, false)
  let s := osFlush s who.gang fun p => own p || (p.touches as && Config.coin t (1000 + p.n))
  if owed || osOwed s who.gang own then none else some s

/-- What a command's issuer did before it and that still waits (R109). -/
def cmdNeeds (s : State) (who : Who) : List Need :=
  ((who.cmd.bind fun k => s.cmds.find? fun c => c.id == k).map fun c => c.need).getD []
/-- Whether that can be visible to the core before a write of the command in it, and, for a write that performs at its home at
once, has performed where the issuer's release asks it (R97, R109, R121). -/
def cmdShows (s : State) (who : Who) : Bool := canShow s who (pulled s who (needPairs s (cmdNeeds s who)))
def cmdClear (s : State) (who : Who) : Bool :=
  !((cmdNeeds s who).any fun m => (m.write? s).isSome && decide (3 ≤ m.scope)) && cmdShows s who
/-- It is visible. -/
def cmdShow (s : State) (who : Who) : State := match cmdNeeds s who with
  | [] => s
  | ms => showPairs s (pulled s who (needPairs s ms))

/-- The physical bytes of a read, where this unit reads them. -/
def uReadAddrs (s : State) (a : Acc) (va n : Nat) : U (List Nat) :=
  match uTrans s a .engRead (rangesOf a.who va n) with
  | .error e => .error e
  | .ok ts =>
    let as := ts.flatMap fun t => (bytesAt (readAddr s a.who.die t.1 (t.1.pa + t.2.1 % 2 ^ t.1.bits)) t.2.2)
    if as.any fun b => if a.who.inCore then viewPoison s a.who b else poisoned s b then .error (failAcc s a va cDataPoison)
    else if as.any (frozen s) || (a.who.inCore && !readable s a.who as) then .error (.wait s)
    else .ok as

/-- The homes of bytes that a unit reads. -/
def uHomes (s : State) (a : Acc) (va n : Nat) : List Nat :=
  match uTrans s a .engRead (rangesOf a.who va n) with
  | .error _ => []
  | .ok ts => ts.flatMap fun t => bytesAt (t.1.pa + t.2.1 % 2 ^ t.1.bits) t.2.2

/-- The bytes a unit finds at physical addresses: what its core sees, or what stands at the home. -/
def uBytes (s : State) (a : Acc) (as : List Nat) : List Byte :=
  if a.who.inCore then viewBytes s a.who as else as.map (homeByte s)

/-- A unit reads n bytes. -/
def uRead (s : State) (a : Acc) (va n : Nat) (hint : Nat := 0) : U (State × List Byte) :=
  match issuerFirst s a.who (if a.who.cmd.isSome then uHomes s a va n else []) with
  | none => .error (.wait s)
  | some s =>
    match uReadAddrs s a va n with
    | .error e => .error e
    | .ok as => .ok (if a.who.inCore then noteRead s a.who as hint else s, uBytes s a as)

/-- A unit reads a number. -/
def uReadNat (s : State) (a : Acc) (va n : Nat) (hint : Nat := 0) : U (State × Nat) :=
  match uRead s a va n hint with
  | .error e => .error e
  | .ok (s, bs) => .ok (s, ofBytes bs)

/-- The waiting writes that come before a unit's write to bytes (R78, R109). -/
def beforeUnit (s : State) (who : Who) (as : List Nat) (p : PendWrite) : Bool :=
  p.touches as && (p.excl || (who.inCore && p.die == who.die && mustSee s who p))

/-- The homes a unit's write goes to; a first write to a read-duplicated page starts the collapse and waits (R72). -/
def uWriteAddrs (s : State) (a : Acc) (va n : Nat) : U (List Nat) :=
  match uTrans s a .engWrite (rangesOf a.who va n) with
  | .error e => .error e
  | .ok ts =>
    match ts.findSome? fun t => t.1.dup with
    | some d => .error (.wait (startCollapse s d))
    | none =>
      let as := ts.flatMap fun t => bytesAt (t.1.pa + t.2.1 % 2 ^ t.1.bits) t.2.2
      if as.any (frozen s) || stuckSel s (beforeUnit s a.who as) || !cmdClear s a.who || (issuerFirst s a.who as).isNone then .error (.wait s)
      else .ok as

/-- Bytes performed at their homes by a unit, after what comes before them (R109, R112). -/
def uPut (s : State) (who : Who) (bytes : List (Nat × Byte)) : State :=
  let as := bytes.map fun b => b.1
  let s := cmdShow ((issuerFirst s who as).getD s) who
  applyHome (clearPoison (performSel s (beforeUnit s who as)) as) bytes

/-- A unit writes bytes. -/
def uWrite (s : State) (a : Acc) (va : Nat) (bs : List Byte) : U State :=
  match uWriteAddrs s a va bs.length with
  | .error e => .error e
  | .ok as => .ok (uPut s a.who (as.zip bs))

/-- The waiting writes that come before a read-modify-write of a unit at the memory side: L1 atomics, and what any core has
seen or the unit's agent has observed (R78, R94, R102). -/
def beforeRmw (s : State) (who : Who) (as : List Nat) (p : PendWrite) : Bool :=
  p.touches as && (p.excl || !p.seen.isEmpty || (who.agent != 0 && observed s who p))

/-- They perform first; none while one cannot, or a frame of the bytes is in a bias flip. -/
def rmwFirst (s : State) (who : Who) (as : List Nat) : Option State :=
  if as.any (frozen s) || stuckSel s (beforeRmw s who as) || !cmdClear s who then none
  else (issuerFirst s who as).map fun s => performSel (cmdShow s who) (beforeRmw s who as)

/-- A unit's stop as the outcome of an instruction that depends on it (R141, R390). -/
def UStop.res (e : Env) (x : Ext) : UStop → Res
  | .wait s => .stay s
  | .fail s c => .gone (takeTrap s e (e.trapAt x.words 5 ⟨c % 32, 0, none⟩ 0))

/-- The state a stop leaves to a unit that only waits or gives up. -/
def UStop.state : UStop → State
  | .wait s => s
  | .fail s _ => s

/-! ### Saved gangs return (R152, R160) -/

/-- A saved gang goes to the distributor of its die as a returning gang. -/
def toDistributor (s : State) (frame : Nat) : State :=
  match s.saved.find? fun v => v.frame == frame with
  | none => s
  | some v =>
    if v.returning then s
    else { s with
      saved := updWhere (fun v => v.frame == frame) (fun v => { v with returning := true }) s.saved
      waitGangs := s.waitGangs ++ [⟨v.gang.die, v.gang.grid, v.gang.idx, some frame, v.gang.blk.prio, s.fresh, 0⟩]
      fresh := s.fresh + 1 }

/-- A watched condition of a gang has come true: a gang that is being saved comes back at once after the save, one that
was swapped out for a wait or a page fault goes to its distributor (R158, R160). -/
def conditionTrue (s : State) (uid : Nat) : State :=
  match s.gang? uid with
  | some _ => s.updGang uid Gang.noteHit
  | none =>
    match s.saved.find? fun v => v.gang.uid == uid && (v.cause == .longWait || v.cause == .pageFault) with
    | some v => toDistributor s v.frame
    | none => s

end Sys2Proof.Machine
end

