-- ==== Sys2Proof/Machine/Engines.lean ====
section
/-! DEFINITION. Engine commands: issue, acceptance, portions, credits and retirement (R109-R117, R156), SRED with the
memory-side units (R69, R70, R254), and SPILL, FILL, TOKW (R302). -/

namespace Sys2Proof.Machine

/-! ### Commands -/

def State.cmd? (s : State) (id : Nat) : Option Cmd := s.cmds.find? fun c => c.id == id
def State.updCmd (s : State) (id : Nat) (f : Cmd → Cmd) : State := { s with cmds := updWhere (fun c => c.id == id) f s.cmds }
def State.dropCmd (s : State) (id : Nat) : State := { s with cmds := s.cmds.filter fun c => c.id != id }

/-- How a command makes its accesses: as an agent ordered after its issuer, in the issuing core (R109). -/
def Cmd.acc (c : Cmd) (s : State) : Acc :=
  let who : Who := match s.gang? c.gang with
    | some g => ⟨c.die, c.core, c.gang, c.agent, c.asid, g.raf, g.ident, g.rafOwn, c.wg, some c.id⟩
    | none => ⟨c.die, c.core, c.gang, c.agent, c.asid, ctxRaf s c.asid, c.asid == 0, [], c.wg, some c.id⟩
  ⟨who, .cmd c.id, c.pc⟩

/-- Whether a command counts in the same counter as another (R114). -/
def Cmd.samePlace (c d : Cmd) : Bool := c.gang == d.gang && c.wg == d.wg && c.place == d.place && c.cls == d.cls

/-- Bytes that a command reads of its records, by their homes: one its issuer has written since the issue is read as it was
then, any other as the read finds it (R119). -/
def Cmd.resolve (c : Cmd) (homes : List Nat) (now : List Byte) : List Byte :=
  (homes.zip now).map fun b => ((c.old.find? fun p => p.1 == b.1).map fun p => p.2).getD b.2

/-- A command issues (R109, R112). -/
def issueCmd (e : Env) (s : State) (cls : CmdClass) (bar : Option Nat) (body : CmdBody) (hint : Nat := 0) : State :=
  let past := e.past s 1
  let c : Cmd := { id := s.fresh, cls := cls, gang := e.g.uid, asid := e.g.asid, die := e.g.die, core := e.g.core, wg := e.a.wg,
                   place := e.a.place, agent := e.a.id, pc := e.a.pc, accepted := none, bar := bar, body := body,
                   phase := .queued, portions := [], credits := [], tileDone := false, failed := false, flags := 0#5, hint := hint,
                   since := e.a.ready.getD (e.clk s), offer := e.clk s, need := past.1 ++ liveNeeds s e.who,
                   after := past.2 ++ liveAfter s e.who }
  { s with cmds := s.cmds ++ [c], fresh := s.fresh + 1 }

/-- R281: the check of a barrier's address, as check n of an instruction's list. -/
def barCheck (e : Env) (bar : Option Nat) (n : Option Nat) : Option TrapInfo :=
  match bar with
  | none => none
  | some a =>
    if e.g.osLines * 128 ≤ a then some ⟨cOOB, 0, n⟩
    else if a % 16 != 0 then some ⟨cMISALIGN, 0, n⟩
    else none

/-- The ERR flag of the barrier a command names; no phase completes by it (R117). -/
def setErr (s : State) (c : Cmd) : State := creditBar s c.gang c.bar fun b => { b with err := true }

/-- The lines of the operand store that a command has written bytes of. -/
def Cmd.begunLines (c : Cmd) : List Nat := c.portions.filterMap fun p => if p.begun then p.line else none

/-- R34, R390: a command fails: it moves and credits nothing more, sets ERR, and is complete once its writes to memory have
performed (R112). The lines it has written bytes of are full (R50). -/
def failCmd (s : State) (c : Cmd) : State :=
  let left (p : Portion) : Bool := s.outq.any fun q => p.ids.contains q.n
  let stop (d : Cmd) : Cmd :=
    let ps := (d.portions.filter left).map fun p => { p with line := none, moves := [], credit := 0, whole := false }
    { d with phase := if ps.isEmpty then .complete else .running, portions := ps, credits := [], todo := [], failed := true }
  let s := match c.begunLines with
    | [] => s
    | ls => s.updGang c.gang fun g => g.setFull ls true
  setErr (s.updCmd c.id stop) c

def completeCmd (s : State) (id : Nat) : State := s.updCmd id fun d => { d with phase := .complete }

/-- Whether an issued command can go on: its gang is not being killed. -/
def Cmd.alive (c : Cmd) (s : State) : Bool := match s.gang? c.gang with
  | some g => !g.dying
  | none => true

/-- The commands a core has been offered by the end of the last cycle: the first of each agent. -/
def offered (s : State) (die core : Nat) : List Cmd :=
  let ready := s.cmds.filter fun c => c.die == die && c.core == core && c.accepted.isNone && decide (c.offer < (s.die die).clk)
  ready.filter fun c => !ready.any fun d => d.agent == c.agent && d.id < c.id

/-- Of those, the ones of the warps that have been ready longest. -/
def oldestOffered (s : State) (die core : Nat) : List Cmd :=
  let cs := offered s die core
  cs.filter fun c => cs.all fun d => c.since ≤ d.since

/-- Whether a core has accepted a command in this cycle. -/
def acceptedNow (s : State) (die core : Nat) : Bool := s.accepts.contains (die, core, (s.die die).clk)

/-- ENGINE_COMMAND_ACCEPT (R156): when the cycle of an offer is over, the core accepts one command in a cycle: that of the
oldest ready warp. -/
def execEngineCommandAccept (die core : Nat) (s : State) : Outcome :=
  let first := oldestOffered s die core
  match first with
  | [] => .next s
  | c0 :: _ =>
    if acceptedNow s die core then .next s
    else
      let c := first.getD (Config.choose s.tick 0 % first.length) c0
      let clk := (s.die die).clk
      .next { s.updCmd c.id (fun d => { d with accepted := some s.fresh }) with
        fresh := s.fresh + 1, accepts := (die, core, clk) :: s.accepts.filter fun a => a.1 != die || a.2.2 == clk }

/-! ### Order of commands (R61, R111, R274) -/

/-- The tile a command fills or drains. -/
def Cmd.tile? (c : Cmd) : Option Nat :=
  match c.body with
  | .copy _ t .. => t
  | .mdrain t .. => some t
  | .walk t .. => some t
  | _ => none

/-- A drain has read all its lines (R61). -/
def Cmd.readAll (c : Cmd) : Bool := c.phase != .queued && c.portions.all fun p => p.moves.all fun m => m.val.isSome

/-- R61, R274: whether earlier commands on its tile still hold a command back. -/
def tileBlocked (s : State) (c : Cmd) : Bool :=
  match c.tile? with
  | none => false
  | some t => s.cmds.any fun d => d.gang == c.gang && d.id < c.id && !d.tileDone &&
      (d.fills t || (d.drains t && !(c.fills t && d.readAll)) || (c.fills t && d.readsTile t))

/-- The identity of a byte that a command accesses: a physical byte, or one of the operand store. -/
def byteKey (s : State) (c : Cmd) (mem : Bool) (a : Nat) : Nat :=
  if !mem then 2 ^ 61 + a
  else match xlat s (c.acc s).who .load (a % 2 ^ 52) with
    | .ok t => t.pa + a % 2 ^ t.bits
    | _ => 2 ^ 60 + a
def Move.dstKey (m : Move) (s : State) (c : Cmd) : Nat := byteKey s c m.toMem m.dst
def Move.srcKey (m : Move) (s : State) (c : Cmd) : Nat := byteKey s c (!m.toMem) m.src

/-- Whether a started command still has to write one of some bytes or, where they are to be written, to read one. -/
def Cmd.owes (d : Cmd) (s : State) (write : Bool) (ks : List Nat) : Bool :=
  d.portions.any fun p => (p.moves.any fun m => ks.contains (m.dstKey s d) || (write && m.val.isNone && ks.contains (m.srcKey s d))) ||
    s.outq.any fun q => p.ids.contains q.n && q.touches ks

/-- A decode in progress: where it reads and writes is known frame by frame, so it counts as on every byte. -/
def Cmd.decoding (d : Cmd) : Bool := match d.body with
  | .vdec .. => true
  | _ => false

/-- R111: whether an earlier command of the same issuer and class still has to access bytes that a command is to access. -/
def orderBlocked (s : State) (c : Cmd) (write : Bool) (ks : List Nat) : Bool :=
  s.cmds.any fun d => d.samePlace c && d.id < c.id && d.phase != .complete && (d.phase == .queued || d.decoding || d.owes s write ks)

/-- R109: whether the reads, atomics and operand-store writes that a command's issuer made before it have taken effect. -/
def Cmd.open (c : Cmd) (s : State) : Bool := !c.after.any fun m => accessOpen s c.gang m.w

/-- Whether every earlier command of the same issuer and class has started. -/
def mayStart (s : State) (c : Cmd) : Bool :=
  c.phase == .queued && c.accepted.isSome && c.alive s && c.open s &&
    !s.cmds.any fun d => d.samePlace c && d.id < c.id && (d.phase == .queued || (d.decoding && d.phase != .complete))

/-- A number of a command's record, once no earlier command of its class still has to write it (R33, R111). -/
def recNat (s : State) (c : Cmd) (va n : Nat) : U (State × Nat) :=
  if orderBlocked s c false ((bytesAt va n).map (byteKey s c true)) then .error (.wait s)
  else match uRead s (c.acc s) va n with
    | .error e => .error e
    | .ok (s, bs) => .ok (s, ofBytes (c.resolve (uHomes s (c.acc s) va n) bs))

/-- What a command has read of some numbers, in order; none while one is still to be read. -/
def Cmd.gotAll (c : Cmd) (l : List (Nat × Nat)) : Option (List Nat) :=
  l.mapM fun p => (c.got.find? fun g => g.1 == p.1 && g.2.1 == p.2).map fun g => g.2.2

/-- A command reads numbers of memory, by address and bytes, one at a time and in any order (R33, R110): the numbers once it
has them all; until then each step reads one. Those of its records are read as its issue fixes them (R119). -/
def readNats (s : State) (c : Cmd) (records : Bool) (l : List (Nat × Nat)) : U (State × List Nat) :=
  let c := (s.cmd? c.id).getD c
  match c.gotAll l with
  | some vs => .ok (s, vs)
  | none =>
    let left := l.filter fun p => !c.got.any fun g => g.1 == p.1 && g.2.1 == p.2
    let p := left.getD (Config.choose s.tick 0 % left.length) (0, 0)
    match if records then recNat s c p.1 p.2 else uReadNat s (c.acc s) p.1 p.2 with
    | .error e => .error e
    | .ok (s, v) => .error (.wait (s.updCmd c.id fun d => { d with got := d.got ++ [(p.1, p.2, v)] }))

/-! ### Writes of a command that perform at their home (R110, R112) -/

/-- Bytes as the granules they are written in. -/
def granules (va : Nat) (bs : List Byte) : List (Nat × List Byte) :=
  (List.range (cdiv bs.length 4)).map fun k => ((va + 4 * k) % 2 ^ 52, (bs.drop (4 * k)).take 4)

/-- A command has writes to make, in stages. -/
def Cmd.owe (c : Cmd) (stages : List (List (Nat × List Byte))) : Cmd := { c with todo := stages.filter fun g => !g.isEmpty }

/-- How far a command has got with its writes: none are left, one has been made, it waits, or one has failed. -/
inductive Todo where
  | none
  | ok (s : State)
  | wait (s : State)
  | fail (s : State)
  deriving DecidableEq, Repr, Inhabited

/-- A command writes a granule of the first stage. -/
def writeTodo (s : State) (c : Cmd) : Todo :=
  match c.todo with
  | [] => .none
  | st :: r =>
    let g := st.getD (Config.choose s.tick 0 % st.length) (0, [])
    match uWrite s (c.acc s) g.1 g.2 with
    | .error (.wait s) => .wait s
    | .error (.fail s _) => .fail s
    | .ok s => .ok (s.updCmd c.id fun d => d.owe (st.erase g :: r))

/-- A stage is given up. -/
def dropStage (s : State) (c : Cmd) : State := s.updCmd c.id fun d => { d with todo := d.todo.tail }

/-! ### Moves (R110) -/

/-- A number with n bits at an offset replaced. -/
def putBits (w lo n v : Nat) : Nat := w - fld w lo n * 2 ^ lo + v % 2 ^ n * 2 ^ lo

/-- The moves of n bits, byte by byte. -/
def fieldMoves (toMem : Bool) : Nat → Nat → Nat → Nat → Nat → Option Nat → Nat → List Move
  | 0, _, _, _, _, _, _ => []
  | fuel + 1, dst, db, src, sb, val, n =>
    if n = 0 then []
    else
      let k := min n (min (8 - db) (8 - sb))
      ⟨toMem, if toMem then dst % 2 ^ 52 else dst, db, k, if toMem || val.isSome then src else src % 2 ^ 52, sb, val.map fun v => v % 2 ^ k⟩ ::
        fieldMoves toMem fuel (dst + (db + k) / 8) ((db + k) % 8) (src + (sb + k) / 8) ((sb + k) % 8) (val.map fun v => v / 2 ^ k) (n - k)

/-- Bits from bytes to bytes; whole bytes; a constant of n bits; constant bytes. -/
def bitMoves (toMem : Bool) (dst db src sb n : Nat) : List Move := fieldMoves toMem (2 * n) dst db src sb none n
def byteMoves (toMem : Bool) (dst src n : Nat) : List Move := bitMoves toMem dst 0 src 0 (8 * n)
def bitFill (dst db v n : Nat) : List Move := fieldMoves false (2 * n) dst db 0 0 (some v) n
def byteFill (dst : Nat) (bs : List Byte) : List Move := bitFill dst 0 (ofBytes bs) (8 * bs.length)

/-- A byte after moves into it, in order. -/
def movedByte (ms : List Move) (a old : Nat) : Byte :=
  BitVec.ofNat 8 ((ms.filter fun m => m.dst == a).foldl (fun w m => putBits w m.db m.n (m.val.getD 0)) old)

/-- Operand-store bytes of a gang, and whether they meet poison. -/
def osPoisoned (s : State) (uid : Nat) (as : List Nat) : Bool := match s.gang? uid with
  | some g => as.any fun a => g.osPoison.contains (lineOf a)
  | none => false
def osRead (s : State) (uid : Nat) (as : List Nat) : List Byte := match s.gang? uid with
  | some g => g.osBytes as
  | none => []
/-- What a command reads of the operand store ahead of the rest, and what it finds with that: each granule as it was then or as
it stands now (R110, R111). -/
def Gang.readEarly (g : Gang) (as : List Nat) : Table Byte := Table.putAll 0#8 [] (as.map fun a => (a, g.os.look 0#8 a))
def Gang.mixEarly (g : Gang) (tick : Nat) (early : Option (Table Byte)) (as : List Nat) : Gang := match early with
  | none => g
  | some m => { g with os := g.os.putAll 0#8 ((as.filter fun a => Config.coin tick (2000000 + a / 4)).map fun a => (a, m.look 0#8 a)) }

/-- R58: whether an operand-store byte lies in a mapped window by now. -/
def osWindow (s : State) (uid a : Nat) : Bool := match s.gang? uid with
  | some g => (g.window? a).isSome
  | none => false

/-- The homes of single bytes that a unit writes. -/
def uWriteList (s : State) (a : Acc) : List Nat → U (List Nat)
  | [] => .ok []
  | va :: r =>
    match uWriteAddrs s a va 1 with
    | .error e => .error e
    | .ok x => match uWriteList s a r with
      | .error e => .error e
      | .ok y => .ok (x ++ y)

/-- The moves of a command that one read of a source granule serves: all that read from it, or, by a free choice, the first
of each source. -/
def readWith (s : State) (c : Cmd) (m : Move) : List Move :=
  let all := (c.portions.flatMap fun p => p.moves).filter fun q => q.val.isNone && q.src / 4 == m.src / 4
  if Config.coin s.tick 2 then all.foldl (fun l q => if l.any fun r => r.src == q.src && r.sb == q.sb then l else l ++ [q]) []
  else all

/-- The moves have read their bits. -/
def Cmd.filled (c : Cmd) (ms : List Move) (lo : Nat) (bs : List Byte) : Cmd :=
  let fill (q : Move) : Move :=
    if ms.contains q then { q with val := some (fld (ofBytes bs) (8 * (q.src - lo) + q.sb) q.n) } else q
  { c with portions := c.portions.map fun p => { p with moves := p.moves.map fill } }

/-- R68: no byte of a poisoned source line is moved or credited. -/
def Cmd.skipLine (c : Cmd) (line : Nat) : Cmd :=
  let hit (q : Move) : Bool := q.val.isNone && lineOf q.src == line
  let skip (p : Portion) : Portion :=
    let out := p.moves.filter hit
    let lost := if out.all fun q => q.n == 8 then out.length else (out.map fun q => q.dst).eraseDups.length
    { p with moves := p.moves.filter fun q => !hit q, credit := p.credit - lost, whole := p.whole && out.isEmpty }
  { c with portions := c.portions.map skip, failed := true }
def skipLine (s : State) (c : Cmd) (line : Nat) : State := setErr (s.updCmd c.id fun d => d.skipLine line) c

/-- How a step of a portion ends: done, waiting, or the command fails (R390). -/
inductive MoveEnd where
  | ok (s : State)
  | wait (s : State)
  | fail (s : State)
  deriving DecidableEq, Repr, Inhabited

/-- A source granule is read, in one access (R110). -/
def readGranule (s : State) (c : Cmd) (m : Move) : MoveEnd :=
  let a := c.acc s
  let ms := readWith s c m
  let lo := (ms.map fun q => q.src).foldl min m.src
  let n := (ms.map fun q => q.src).foldl max m.src + 1 - lo
  if orderBlocked s c false (ms.map fun q => q.srcKey s c) then .wait s
  else if m.toMem then
    if osWindow s c.gang m.src then .fail s
    else match issuerOs s a.who (bytesAt lo n) with
      | none => .wait s
      | some s =>
        if osPoisoned s c.gang (bytesAt lo n) then .ok (skipLine (failAcc s a lo cDataPoison).state c (lineOf m.src))
        else .ok (s.updCmd c.id fun d => d.filled ms lo (osRead s c.gang (bytesAt lo n)))
  else match uRead s a lo n c.hint with
    | .error (.wait s) => .wait s
    | .error (.fail s cause) => if cause = cDataPoison then .ok (skipLine s c (lineOf m.src)) else .fail s
    | .ok (s, bs) => .ok (s.updCmd c.id fun d => d.filled ms lo bs)

/-- R111: the later commands of the class that keep a byte as it stood before their issuer's later write see what an earlier
command writes to it. -/
def noteRecords (s : State) (c : Cmd) (bytes : List (Nat × Byte)) : State :=
  let now (p : Nat × Byte) : Nat × Byte := ((bytes.find? fun b => b.1 == p.1).map fun b => (p.1, b.2)).getD p
  { s with cmds := updWhere (fun d => c.samePlace d && decide (c.id < d.id)) (fun d => { d with old := d.old.map now }) s.cmds }

/-- The homes of single bytes that a copy writes, and the pages among them that are read-duplicated: those writes wait for the
collapse (R72, R104). -/
def copyHomes (s : State) (a : Acc) : List Nat → U (List (Nat × Option DupPage))
  | [] => .ok []
  | va :: r =>
    match uXlat s a .engWrite va with
    | .error e => .error e
    | .ok t => match copyHomes s a r with
      | .error e => .error e
      | .ok y => .ok ((t.pa + va % 2 ^ t.bits, t.dup) :: y)

/-- A granule of moves leaves its portion, with the write to memory that carries it. -/
def Cmd.wrote (c : Cmd) (k : Nat) (ms : List Move) (ids : List Nat) : Cmd :=
  { c with portions := c.portions.modify k fun p => { p with moves := p.moves.filter (fun q => !ms.contains q), begun := true, ids := p.ids ++ ids } }

/-- A destination granule is written, in one access: in the operand store, or as a write of the issuing core that has still
to perform at the home (R109, R110, R112). -/
def writeGranule (s : State) (c : Cmd) (k : Nat) (ms : List Move) : MoveEnd :=
  let a := c.acc s
  let ds := (ms.map fun q => q.dst).eraseDups
  if orderBlocked s c true (ms.map fun q => q.dstKey s c) then .wait s
  else if ms.any fun q => q.toMem then
    match copyHomes s a ds with
    | .error (.wait s) => .wait s
    | .error (.fail s _) => .fail s
    | .ok hs =>
      let as := hs.map fun h => h.1
      match issuerFirst s a.who as with
      | none => .wait s
      | some s =>
        let bytes := (ds.zip as).map fun p => (p.2, movedByte ms p.1 (viewByte s a.who p.2).toNat)
        let dup := hs.findSome? fun h => h.2
        let p : PendWrite := { n := s.fresh, die := c.die, core := c.core, gang := c.gang, agent := c.id, bytes := bytes, seen := [],
                               dup := dup, excl := false, hint := c.hint, need := c.need.filter fun m => (m.write? s).isSome }
        .ok ({ pushWrite (noteRecords s c bytes) a.who p with fresh := s.fresh + 1 }.updCmd c.id fun d => d.wrote k ms [p.n])
  else if ds.any (osWindow s c.gang) then .fail s
  else if !cmdShows s a.who then .wait s
  else match issuerOs (cmdShow s a.who) a.who ds with
    | none => .wait s
    | some s =>
      let bytes := ds.map fun d => (d, movedByte ms d (ofBytes (osRead s c.gang [d])))
      .ok ((s.updGang c.gang fun g => g.putOs bytes).updCmd c.id fun d => d.wrote k ms [])

/-- R61, R112: the last byte of a command is in place. -/
def portionsDone (s : State) (c : Cmd) : State :=
  match s.cmd? c.id with
  | none => s
  | some d =>
    if !d.portions.isEmpty then s
    else
      let waits := match d.body with
        | .mdrain _ _ _ (some _) => true
        | .walk .. => true
        | .vdec .. => true
        | _ => false
      let s := if d.failed then s
        else
          let s := s.updCmd c.id fun q => { q with tileDone := true }
          match d.tile? with
          | some t => if d.fills t then s.updGang c.gang fun g => { g with filled := insNat t g.filled } else s
          | none => s
      if waits then s else completeCmd s c.id

/-- Whole-line writes of a command clear a line's poison (R68). -/
def clearWhole (s : State) (c : Cmd) (p : Portion) : State :=
  if !p.whole then s
  else
    match p.mem with
    | none => match p.line with
      | some l => s.updGang c.gang fun g => { g with osPoison := delNat l g.osPoison }
      | none => s
    | some va => match uXlat s (c.acc s) .engWrite va with
      | .ok t => { s with memPoison := delNat (lineOf (t.pa + va % 2 ^ t.bits)) s.memPoison }
      | .error _ => s

/-- A credit in parts of at most 128 bytes (R117). -/
def creditParts (n : Nat) : List Nat := List.replicate (n / 128) 128 ++ (if n % 128 = 0 then [] else [n % 128])

/-- A portion whose moves are made ends once its writes to memory have performed: its line's bit where it has written bytes of
it, its credit, and, with the last portion, the command (R50, R112, R117). -/
def finishPortion (s : State) (c : Cmd) (k : Nat) (p : Portion) : State :=
  let s := performSel s fun q => p.ids.contains q.n
  if s.outq.any fun q => p.ids.contains q.n then s
  else
    let s := (clearWhole s c p).updCmd c.id fun d => { d with portions := d.portions.eraseIdx k, credits := d.credits ++ creditParts p.credit }
    let left := match s.cmd? c.id with
      | some d => d.portions.any fun q => q.line == p.line
      | none => false
    let s := match p.line with
      | some l => if left || !p.begun then s else s.updGang c.gang fun g => g.setFull [l] true
      | none => s
    portionsDone s c

/-- One access of portion k, for its j-th move: a granule it still has to read, a granule it can write, or its end. -/
def portionAt (s : State) (c : Cmd) (k j : Nat) : MoveEnd :=
  match c.portions[k]? with
  | none => .wait s
  | some p =>
    match p.moves[j % p.moves.length]? with
    | none => .ok (finishPortion s c k p)
    | some m =>
      let ms := p.moves.filter fun q => q.dst / 4 == m.dst / 4
      match ms.find? fun q => q.val.isNone with
      | some q => readGranule s c q
      | none => writeGranule s c k ms

/-- A command makes one access of a portion: which, is a free choice (R110). -/
def stepPortion (s : State) (c : Cmd) : State :=
  match portionAt s c (Config.choose s.tick 0 % c.portions.length) (Config.choose s.tick 1) with
  | .ok s => s
  | .wait s => s
  | .fail s => failCmd s c

/-- R120: the merge of an amax word, an atomic maximum at the memory side. -/
def mergeAmax (s : State) (c : Cmd) (t m : Nat) (word : Word) (vas : List Nat) (a : Nat) : State :=
  let done (s : State) : State := completeCmd (s.updCmd c.id fun d => { d with body := .mdrain t m word none }) c.id
  let ac := c.acc s
  match uWriteList s ac vas with
  | .error (.wait s) => s
  | .error (.fail s _) => done s
  | .ok as =>
    if as.any (poisoned s) then done (failAcc s ac (vas.headD 0) cDataPoison).state
    else
      match rmwFirst s ac.who as with
      | none => s
      | some s => done (applyHome s (as.zip (toBytes 4 (max (ofBytes (as.map (homeByte s))) a))))

/-- R124: the status entry of a frame comes before its last credit. -/
def Cmd.entryOwed (c : Cmd) : Bool := match c.body with
  | .vdec _ _ _ (some st) => st.pending.isSome
  | _ => false

/-- R336. -/
def WalkSt.word (st : WalkSt) : Nat :=
  let e := st.ended.getD (0, 0)
  st.steps % 2 ^ 25 * 2 ^ 32 + e.2 % 256 * 2 ^ 24 + e.1 * 2 ^ 8 + (if e.1 = 0 then 1 else 2)

/-- R335: a walk whose tile is in place writes its status word; a walk without fault then credits its tile's bytes. -/
def walkStatus (s : State) (c : Cmd) (t : DWord) (st : WalkSt) : State :=
  match writeTodo s c with
  | .wait s => s
  | .ok s => s
  | .fail s => completeCmd (setErr s c) c.id
  | .none =>
    if (st.ended.getD (0, 0)).1 = 0 then
      completeCmd (s.updCmd c.id fun d => { d with credits := creditParts (tRows t * tCols t * elemSize (tType t)) }) c.id
    else completeCmd (setErr s c) c.id

/-- ENGINE_PORTION_COMPLETE: one access of a portion, or what follows the last one. The spec does not order the amax merge
against the tile's bytes; here it comes after the last of them (log entry 64). -/
def execEnginePortionComplete (cmd : Nat) (s : State) : Outcome :=
  match s.cmd? cmd with
  | none => .next s
  | some c =>
    if c.phase != .running || !c.alive s then .next s
    else
      match c.portions with
      | _ :: r => .next (if tileBlocked s c || (r.isEmpty && c.entryOwed) then s else stepPortion s c)
      | [] =>
        match c.body with
        | .mdrain t m w (some va) => .next (mergeAmax s c t m w va.1 va.2)
        | .walk t _ (some st) => .next (match s.gang? c.gang with
          | some g => if st.written then walkStatus s c (g.tile t) st else s
          | none => s)
        | _ => .next s

/-- STAGE_BARRIER_CREDIT (R116, R117). -/
def execStageBarrierCredit (cmd : Nat) (s : State) : Outcome :=
  match s.cmd? cmd with
  | none => .next s
  | some c =>
    match c.credits with
    | [] => .next s
    | n :: r =>
      if !c.alive s then .next s
      else .next (creditBar (s.updCmd cmd fun d => { d with credits := r }) c.gang c.bar fun b => b.credit n)

/-- A retiring command's flags (R173): to the agent whose counter holds it, or, where that is a pack that has ended and not
joined, to its apply, which hands them to every donor. -/
def Gang.giveFlags (g : Gang) (home : Nat) (f : BitVec 5) : Gang :=
  if g.agents.any fun a => a.id == home then g.updAgent home fun a => { a with fflags := a.fflags ||| f }
  else { g with applies := updWhere (fun p => p.packs.contains home) (fun p => { p with flags := p.flags ||| f }) g.applies }

def mergeFlags (s : State) (c : Cmd) : State :=
  if c.flags == 0#5 then s
  else
    let on (g : Gang) : Gang := g.giveFlags c.home c.flags
    { s.updGang c.gang on with saved := updWhere (fun v => v.gang.uid == c.gang) (fun v => { v with gang := on v.gang }) s.saved }

/-- COMMAND_RETIRE (R112, R113): complete, credited, and with no older command of its counter. -/
def execCommandRetire (cmd : Nat) (s : State) : Outcome :=
  match s.cmd? cmd with
  | none => .next s
  | some c =>
    if c.phase != .complete || !c.credits.isEmpty || (c.cls != .tok && s.cmds.any fun d => d.samePlace c && d.id < c.id) then .next s
    else .next (dropHold (mergeFlags (s.dropCmd cmd) c) (.cmd cmd))

/-! ### SRED (R69, R70, R121, R254) -/

/-- Contributions of one instruction: lanes of equal address combine in ascending order (R70). -/
def addItem (w : Nat) (items : List RedItem) (i : RedItem) : List RedItem :=
  if items.any fun j => j.pa == i.pa then
    updWhere (fun j => j.pa == i.pa) (fun j => { j with val := (atomNew i.op i.ty w j.val i.val 0).1 }) items
  else items ++ [i]

/-- `SRED`. -/
def execSred (o : AtomOp) (x : Ext) (s : State) : Outcome :=
  runExt (.sred o x) x s fun s e r =>
    let rc := e.rb r.a
    let w := accWidth x.ty.toNat
    if recBad rc then .trap ⟨cOOB, 0, some 15⟩ 0
    else if 2 ^ recEsz rc < w then .trap ⟨cMISALIGN, 0, none⟩ 0
    else
      match access s e.who .atomic rc w w (e.atomIndices x r) with
      | .trap t => .trap t 0
      | .page ps => .page .atomic ps
      | .ok l ts =>
        match (allPieces l).findSome? fun p => p.dup with
        | some d => .stay (startCollapse s d)
        | none =>
          let items := (l.filterMap fun p => match p.2 with
            | some (q :: _) => some (⟨o, x.ty.toNat, q.pa, e.atomSrc w r.c p.1, q.va⟩ : RedItem)
            | _ => none).foldl (addItem w) []
          .done (issueCmd e (noteTlb s e.who ts) .rd none (.sred items) x.hint.toNat)

/-- The contributions a command still has to make. -/
def Cmd.items (c : Cmd) : List RedItem := match c.body with
  | .sred l => l
  | _ => []
def RedItem.w (i : RedItem) : Nat := accWidth i.ty
def RedItem.meets (i j : RedItem) : Bool := i.pa < j.pa + j.w && j.pa < i.pa + i.w

/-- A command's next contribution at an address, when no earlier one of its agent is in the way, nor an access of its issuer
before it (R109, R111). -/
def redReady (s : State) (c : Cmd) (i : RedItem) : Bool :=
  c.accepted.isSome && c.open s && !s.cmds.any fun d => d.samePlace c && d.id < c.id && d.items.any i.meets

/-- A contribution leaves its command; the command is complete with its last one. -/
def takeItem (s : State) (c : Cmd) (i : RedItem) : State :=
  let s := s.updCmd c.id fun d => { d with body := .sred (d.items.filter fun j => j != i) }
  match s.cmd? c.id with
  | some d => if d.items.isEmpty then completeCmd s c.id else s
  | none => s

/-- R70: contributions of the workgroup that arrive next may join the combined value, each after its own issuer's earlier
accesses (R121). -/
def mergeItems (wg : Cmd) : Nat → State → RedItem → State × RedItem
  | 0, s, i => (s, i)
  | fuel + 1, s, i =>
    let next := s.cmds.filter fun d => d.gang == wg.gang && d.wg == wg.wg && (d.items.any fun j => j.pa == i.pa && j.op == i.op && j.ty == i.ty) &&
      redReady s d i
    match next with
    | [] => (s, i)
    | d0 :: _ =>
      if Config.coin s.tick (2 * fuel + 10) then (s, i)
      else
        let d := next.getD (Config.choose s.tick (fuel + 10) % next.length) d0
        match d.items.find? (fun j => j.pa == i.pa), rmwFirst s (d.acc s).who (bytesAt i.pa i.w) with
        | some j, some s => mergeItems wg fuel (takeItem s d j) { i with val := (atomNew i.op i.ty i.w i.val j.val 0).1 }
        | _, _ => (s, i)

/-- A combined contribution performs at the memory-side unit; a poisoned line takes none (R68, R69). -/
def performRed (s : State) (c : Cmd) (i : RedItem) : State :=
  let as := bytesAt i.pa i.w
  if as.any (poisoned s) then logEvent s .engine [c.pc.toNat, i.va]
  else
    let new := (atomNew i.op i.ty i.w (homeNat s i.pa i.w) i.val 0).1
    applyHome s (as.zip (toBytes i.w new))

/-- MEMORY_SIDE_ATOMIC: a lane of an `ATOM` of wide scope, or a contribution of an `SRED`, performs (R69, R101). -/
def execMemorySideAtomic (n : Nat) (s : State) : Outcome :=
  match s.atoms.find? fun p => p.n == n with
  | some p => .next (if p.memSide && !p.stuck s then performOneLane s p else s)
  | none =>
    match s.cmd? n with
    | none => .next s
    | some c =>
      let k := Config.choose s.tick 0 % c.items.length
      match c.items[k]? with
      | none => .next (if c.cls == .rd && c.accepted.isSome && c.alive s then completeCmd s n else s)
      | some i =>
        if !c.alive s || !redReady s c i then .next s
        else
          match rmwFirst s (c.acc s).who (bytesAt i.pa i.w) with
          | none => .next s
          | some s =>
            let (s, i) := mergeItems c s.cmds.length (takeItem s c i) i
            .next (performRed s c i)

/-! ### Spilling (R302) -/

/-- The thread-local word of a token. -/
def tokenWord (e : Env) (tok : Nat) : Int := (e.g.blk.tlw : Int) - 560 + 16 * e.a.depth + tok

/-- The common start of `SPILL` and `FILL`: the token, the word, and the lanes' addresses in b15. -/
def spillStart (e : Env) (s : State) (x : Ext) (tok : Nat) (body : List (Nat × Option Nat) → CmdBody) : Res :=
  match e.a.tokens.getD tok .idle with
  | .busy => .stay s
  | .trap c => raiseHeld s e tok c x.words
  | .idle =>
    let k := tokenWord e tok
    if k < 0 then .trap ⟨cOOB, 0, none⟩ 0
    else
      match planAccess (e.rb 15) 4 1 (e.lanes.map fun l => (l, (k.toNat * 1024 + e.rank l) % 2 ^ 32)) with
      | .trap t => .trap t 0
      | .lanes ls =>
        let words := ls.map fun p => (p.1, match p.2 with
          | some ((va, _) :: _) => some va
          | _ => none)
        .done (issueCmd e (e.set s fun a => a.setToken tok .busy) .tok none (body words))

/-- `SPILL`. -/
def execSpill (x : Ext) (s : State) : Outcome :=
  runExt (.spill x) x s fun s e r =>
    spillStart e s x r.a fun ws => .spill r.a (ws.map fun p => (p.1, p.2, BitVec.ofNat 32 (e.rv r.d p.1)))
/-- `FILL`. -/
def execFill (x : Ext) (s : State) : Outcome :=
  runExt (.fill x) x s fun s e r => spillStart e s x r.a fun ws => .fill r.d r.a ws
/-- `TOKW`. -/
def execTokw (x : Ext) (s : State) : Outcome :=
  runExt (.tokw x) x s fun s e r =>
    match e.a.tokens.getD r.a .idle with
    | .busy => .stay s
    | .trap c => raiseHeld s e r.a c x.words
    | .idle => .done s

/-- The end of a token's command: the token's new state. -/
def endToken (s : State) (c : Cmd) (tok : Nat) (t : Token) : State :=
  dropHold ((s.dropCmd c.id).updAgent c.gang c.agent fun a => a.setToken tok t) (.cmd c.id)

/-- A word of a spill is written, any of those left; the token becomes idle with the last one. -/
def spillWord (s : State) (c : Cmd) (tok : Nat) (words : List (Nat × Option Nat × Word)) : State :=
  match words.filterMap fun p => p.2.1.map fun va => (va, p.2.2) with
  | [] => endToken s c tok .idle
  | ws =>
    let p := ws.getD (Config.choose s.tick 1 % ws.length) (0, 0#32)
    match uWrite s (c.acc s) p.1 (toBytes 4 p.2.toNat) with
    | .error (.wait s) => s
    | .error (.fail s cause) => endToken s c tok (.trap (cause % 32))
    | .ok s => match ws.erase p with
      | [] => endToken s c tok .idle
      | r => s.updCmd c.id fun d => { d with body := .spill tok (r.map fun q => (0, some q.1, q.2)) }

/-- A word of a fill is read, any of those left; with the last one the lanes' values stand. -/
def fillWord (s : State) (c : Cmd) (reg tok : Nat) (words : List (Nat × Option Nat)) : State :=
  match readNats s c false (words.filterMap fun p => p.2.map fun va => (va, 4)) with
  | .error (.wait s) => s
  | .error (.fail s cause) => endToken s c tok (.trap (cause % 32))
  | .ok (s, vs) =>
    let of (p : Nat × Option Nat) : Word := BitVec.ofNat 32 (((p.2.bind fun va => (words.filterMap fun q => q.2).idxOf? va).bind fun k => vs[k]?).getD 0)
    s.updCmd c.id fun d => { d with body := .fillv reg tok (words.map fun p => (p.1, of p)) }

/-- TOKEN_IDLE: the spill engine works for a token; with its last access the token becomes idle, or holds the trap of a
failed one (R302, R390). -/
def execTokenIdle (cmd : Nat) (s : State) : Outcome :=
  match s.cmd? cmd with
  | none => .next s
  | some c =>
    if !c.alive s || !c.open s then .next s
    else
      match c.body with
      | .spill tok words => .next (spillWord s c tok words)
      | .fill reg tok words => .next (fillWord s c reg tok words)
      | .fillv reg tok vals =>
        let mask := Config.choose s.tick 0
        let now := vals.filter fun p => bitN mask p.1
        let later := vals.filter fun p => !bitN mask p.1
        let now' := if now.isEmpty then vals else now
        let later' := if now.isEmpty then [] else later
        let put (a : Agent) : Agent := now'.foldl (fun a p => a.land (.v reg p.1 p.2)) a
        let s := s.updAgent c.gang c.agent put
        match later' with
        | [] => .next (endToken s c tok .idle)
        | _ => .next (s.updCmd cmd fun d => { d with body := .fillv reg tok later' })
      | _ => .next s

end Sys2Proof.Machine
end

