-- ==== Sys2Proof/Machine/Auction.lean ====
section
/-! DEFINITION. The auction engine: AUCT, AUST, the round algorithm, the result area, the save and the restore
(R309-R317). -/

namespace Sys2Proof.Machine

/-! ### The descriptor (R310, R311) -/

/-- The descriptor in seven scalar registers. -/
structure AuctD where
  res : Nat
  cap : Nat
  price0 : Nat
  limit : Nat
  m : Nat
  n : Nat
  score : Nat
  emin : Nat
  e0 : Nat
  dmax : Nat
  theta : Nat
  pmax : Nat
  deriving DecidableEq, Repr, Inhabited

/-- Register k of a descriptor as a number. -/
def descReg (regs : List DWord) (k : Nat) : Nat := (regs.getD k 0#64).toNat

def auctD (regs : List DWord) : AuctD :=
  let r := descReg regs
  { res := fld (r 0) 0 52, cap := fld (r 1) 0 52, price0 := fld (r 2) 0 52, limit := fld (r 3) 38 16, m := fld (r 3) 30 8 + 1,
    n := fld (r 3) 20 10 + 1, score := fld (r 3) 0 20, emin := fld (r 4) 32 32, e0 := fld (r 4) 0 32, dmax := fld (r 5) 32 32,
    theta := fld (r 5) 0 32, pmax := fld (r 6) 0 32 }

def auctReserved (regs : List DWord) : Bool :=
  let r := descReg regs
  fld (r 0) 52 12 != 0 || fld (r 1) 52 12 != 0 || fld (r 2) 52 12 != 0 || fld (r 3) 54 10 != 0 || fld (r 6) 32 32 != 0

def rd32 (x : Nat) : FVal := Fmt.f32.read x
def one32 : Nat := 0x3F800000
def inf32 : Nat := 0x7F800000
/-- An ordered comparison of two FP32 values: false with a NaN. -/
def lt32 (a b : Nat) : Bool := (fcondV .lt (rd32 a) (rd32 b)).1
def le32 (a b : Nat) : Bool := (fcondV .le (rd32 a) (rd32 b)).1
def add32 (a b : Nat) : Nat := (faddV .f32 0 (rd32 a) (rd32 b)).1
def sub32 (a b : Nat) : Nat := (faddV .f32 0 (rd32 a) (rd32 b).neg).1
def div32 (a b : Nat) : Nat := (fdivV .f32 0 (rd32 a) (rd32 b)).1

/-- Check 4: the offset from sA of the first register whose value fails. -/
def auctValues (d : AuctD) : Option Nat :=
  if !(lt32 0 d.emin && le32 d.emin d.e0 && lt32 d.e0 inf32) then some 4
  else if !(lt32 one32 d.theta && lt32 d.theta inf32 && lt32 0 d.dmax && lt32 d.dmax inf32) then some 5
  else if !finiteV (rd32 d.pmax) then some 6
  else none

/-- Bytes of the score tile. -/
def AuctD.bytes (d : AuctD) : Nat := 4 * d.n * d.m

/-- R311. -/
def auctCheck (g : Gang) (regs : List DWord) : Option TrapInfo :=
  let d := auctD regs
  if auctReserved regs || d.limit = 0 then some ⟨cOOB, 0, some 1⟩
  else if d.res % 128 != 0 || d.cap % 2 != 0 || d.price0 % 4 != 0 || d.score % 128 != 0 then some ⟨cMISALIGN, 0, some 2⟩
  else if g.osLines * 128 < d.score + d.bytes || g.inWindow (d.score / 128) (cdiv d.bytes 128) then some ⟨cOOB, 0, some 3⟩
  else (auctValues d).map fun k => ⟨cOOB, k, some 4⟩

/-- Addresses of the capacities and of the initial prices. -/
def AuctD.capVas (d : AuctD) : List Nat := (List.range d.m).map fun j => d.cap + 2 * j
def AuctD.priceVas (d : AuctD) : List Nat := (List.range d.m).map fun j => d.price0 + 4 * j

/-- `AUCT`. -/
def execAuct (x : Ext) (s : State) : Outcome :=
  runExt (.auct x) x s fun s e r =>
    let regs := (List.range 7).map fun k => e.a.rs (r.a + k)
    match auctCheck e.g regs with
    | some t => .trap t 0
    | none => .done (issueCmd e s .au none (.auct regs none))

/-- `AUST` (R317): one read, with an acquire at `.dev` before the agent's next instruction. -/
def execAust (x : Ext) (s : State) : Outcome :=
  runExt (.aust x) x s fun s e r =>
    if thinRecord (e.rb r.a) then .trap ⟨cOOB, 0, some 15⟩ 0
    else
      match loadThrough e s (e.rb r.a) 8 1 [(0, e.sIndex r.b x.offset)] fun _ => .scalar r.d 8 false with
      | .done s => .done (e.set s fun a => { a with acq := some 3 })
      | q => q

/-! ### A round (R313) -/

def isUnassigned : RowSt → Bool
  | .unassigned => true
  | _ => false
def isHolding : RowSt → Bool
  | .holding .. => true
  | _ => false

/-- The score of a row and column as the engine reads it: none for −∞, NaN and +∞ (R312). -/
def scoreAt (g : Gang) (d : AuctD) (i j : Nat) : Option Nat :=
  let w := ofBytes (g.osBytes (bytesAt (d.score + 4 * (i * d.m + j)) 4))
  if finiteV (rd32 w) then some w else none

/-- The highest of a list of values with their columns, the lower column on ties. -/
def bestOf : List (Nat × Nat) → Option (Nat × Nat)
  | [] => none
  | p :: r => match bestOf r with
    | none => some p
    | some q => if lt32 p.2 q.2 then some q else some p

/-- Step 1 for one row: its new status, or the column and bid it makes. -/
def rowBid (g : Gang) (d : AuctD) (eps : Nat) (prices : List Word) (i : Nat) : RowSt ⊕ (Nat × Nat) :=
  let price (j : Nat) : Nat := (prices.getD j 0#32).toNat
  let vs := (List.range d.m).filterMap fun j => (scoreAt g d i j).map fun sc => (j, sub32 sc (price j))
  match bestOf vs with
  | none => .inl .nofeas
  | some (j, v1) =>
    let v2 := match bestOf (vs.filter fun p => p.1 != j) with
      | some q => q.2
      | none => sub32 v1 d.dmax
    let b := add32 (add32 (price j) (sub32 v1 v2)) eps
    if isNaN (rd32 b) || lt32 d.pmax b then .inl .ceil else .inr (j, b)

/-- A holder or a bidder of a column: row, bid, whether it holds. -/
structure Claim where
  row : Nat
  bid : Nat
  holds : Bool
  deriving DecidableEq, Repr, Inhabited

/-- The ranking of step 2. -/
def Claim.above (a b : Claim) : Bool :=
  lt32 b.bid a.bid || (!lt32 a.bid b.bid && ((a.holds && !b.holds) || (a.holds == b.holds && a.row < b.row)))
def insClaim (c : Claim) : List Claim → List Claim
  | [] => [c]
  | d :: r => if c.above d then c :: d :: r else d :: insClaim c r

/-- A column's claims ranked. -/
def ranked (l : List Claim) : List Claim := l.foldl (fun acc c => insClaim c acc) []

def holdersOf (rows : List RowSt) (j : Nat) : List Claim :=
  (enumFrom 0 rows).filterMap fun p => match p.2 with
    | .holding k b => if k = j then some ⟨p.1, b.toNat, true⟩ else none
    | _ => none

/-- Step 2 for one column that has bidders. -/
def column (st : AuctSt) (bids : List (Nat × Nat × Nat)) (j : Nat) : AuctSt :=
  let mine := (bids.filter fun b => b.2.1 == j).map fun b => (⟨b.1, b.2.2, false⟩ : Claim)
  match mine with
  | [] => st
  | _ =>
    let cap := st.caps.getD j 0
    let all := ranked (holdersOf st.rows j ++ mine)
    let rows := (all.take cap).foldl (fun rs c => rs.set c.row (.holding j (BitVec.ofNat 32 c.bid))) st.rows
    let rows := (all.drop cap).foldl (fun rs c => rs.set c.row .unassigned) rows
    let low := ((all.take cap).getLast?.map fun c => c.bid).getD 0
    let p := (st.prices.getD j 0#32).toNat
    let prices := if cap ≤ all.length && lt32 p low then st.prices.set j (BitVec.ofNat 32 low) else st.prices
    { st with rows := rows, prices := prices }

/-- R313: one round. -/
def auctRound (g : Gang) (d : AuctD) (st : AuctSt) : AuctSt :=
  let eps := st.eps.toNat
  let outs := (enumFrom 0 st.rows).filterMap fun p =>
    if isUnassigned p.2 then some (p.1, rowBid g d eps st.prices p.1) else none
  let rows := outs.foldl (fun rs o => match o.2 with
    | .inl q => rs.set o.1 q
    | .inr _ => rs) st.rows
  let bids := outs.filterMap fun o => match o.2 with
    | .inr b => some (o.1, b)
    | .inl _ => none
  let st := (List.range d.m).foldl (fun st j => column st bids j) { st with rows := rows }
  let st := { st with rounds := st.rounds + 1 }
  let st :=
    if st.rows.any isUnassigned then st
    else if lt32 d.emin eps then
      let q := div32 eps d.theta
      { st with eps := BitVec.ofNat 32 (if lt32 q d.emin then d.emin else q), phases := st.phases + 1,
                rows := st.rows.map fun r => if isHolding r then .unassigned else r }
    else { st with code := 1 }
  if st.code = 0 && d.limit ≤ st.rounds then { st with code := 2 } else st

/-! ### The result area (R314, R315) -/

def assignWord : RowSt → Nat
  | .holding j _ => j
  | .unassigned => wrapI 32 (-1)
  | .nofeas => wrapI 32 (-2)
  | .ceil => wrapI 32 (-3)
def bidWord : RowSt → Nat
  | .holding _ b => b.toNat
  | _ => 0xFF800000

def statusWord (st : AuctSt) (code : Nat) : Nat :=
  let un := (st.rows.filter fun r => !isHolding r).length
  st.phases % 2 ^ 16 * 2 ^ 48 + st.rounds % 2 ^ 16 * 2 ^ 32 + un * 2 ^ 20 + st.reason * 2 ^ 8 + code

/-- The outputs but for the status word. -/
def auctOutputs (d : AuctD) (st : AuctSt) : List (Nat × List Byte) :=
  [(0x80, st.rows.flatMap fun r => toBytes 4 (assignWord r)), (0x1080, st.rows.flatMap fun r => toBytes 4 (bidWord r)),
   (0x2080, st.prices.flatMap fun p => toBytes 4 p.toNat),
   (0x2480, (List.range d.m).flatMap fun j => toBytes 2 (holdersOf st.rows j).length),
   (8, toBytes 8 st.eps.toNat ++ List.replicate 0x70 0#8)]

/-- The writes of the area, and of the status word after them, or of the status word alone, with a CODE. -/
def areaStages (d : AuctD) (st : AuctSt) (code : Nat) (full : Bool) : List (List (Nat × List Byte)) :=
  [if full then (auctOutputs d st).flatMap fun o => granules ((d.res + o.1) % 2 ^ 52) o.2 else [],
   granules d.res (toBytes 8 (statusWord st code))]

/-! ### The engine's commands -/

def Cmd.auct? (c : Cmd) : Option (List DWord × Option AuctSt) := match c.body with
  | .auct regs st => some (regs, st)
  | _ => none

def setAuct (s : State) (c : Cmd) (regs : List DWord) (st : AuctSt) : State :=
  s.updCmd c.id fun d => { d with body := .auct regs (some st), phase := .running }

/-- Whether a command's gang is resident and not to be killed. -/
def Cmd.resident (c : Cmd) (s : State) : Bool := match s.gang? c.gang with
  | some g => !g.dying
  | none => false

/-- The command the engine of a cluster takes next: the one it works on, or the first accepted of those that wait. -/
def auctNext (s : State) (cl : Nat) : Option Cmd :=
  let mine := s.cmds.filter fun c => c.cls == .au && clusterOf c.die c.core == cl && c.resident s && c.accepted.isSome
  match mine.find? fun c => c.phase == .running with
  | some c => some c
  | none =>
    let ready := mine.filter fun c => c.phase == .queued || c.phase == .saved
    ready.find? fun c => ready.all fun d => c.accepted.getD 0 ≤ d.accepted.getD 0

/-- Whether the engine may work on a command now. -/
def auctTurn (s : State) (c : Cmd) : Bool := (auctNext s (clusterOf c.die c.core)).map (fun d => d.id) == some c.id

/-- A command ends with a CODE: its outputs, and after them its status word, are to be written (R314, R315). -/
def auctEnd (s : State) (c : Cmd) (regs : List DWord) (d : AuctD) (st : AuctSt) : State :=
  (setAuct s c regs st).updCmd c.id fun q => q.owe (areaStages d st st.code (st.code != 4))
def auctFail (s : State) (c : Cmd) (regs : List DWord) (d : AuctD) (st : AuctSt) (reason : Nat) : State :=
  auctEnd s c regs d { st with code := 4, reason := reason }

/-- A write of the area; what follows the last one, or one that fails: nothing more is written, and the command is complete
(R390). -/
def auctWrite (s : State) (c : Cmd) (after : State → State) : State :=
  match writeTodo s c with
  | .none => after s
  | .ok s => s
  | .wait s => s
  | .fail s => completeCmd (s.updCmd c.id fun q => q.owe []) c.id

/-- The capacities and then the prices, once each (R312): a failure gives CODE FAILED with its REASON. -/
def auctInputs (s : State) (c : Cmd) (regs : List DWord) (d : AuctD) (st : AuctSt) : State :=
  match readNats s c true (d.capVas.map (fun va => (va, 2)) ++ d.priceVas.map fun va => (va, 4)) with
  | .error (.wait s) => s
  | .error (.fail s _) => auctFail s c regs d st 3
  | .ok (s, vs) =>
    let caps := vs.take d.m
    let ps := vs.drop d.m
    if caps.contains 0 then auctFail s c regs d st 1
    else if ps.any fun p => !finiteV (rd32 p) then auctFail s c regs d st 2
    else setAuct s c regs { st with caps := caps, prices := ps.map fun p => BitVec.ofNat 32 p }

/-- AUCTION_START (R312): the status word is to be written; after it, CAP and PRICE0 are read. -/
def execAuctionStart (cmd : Nat) (s : State) : Outcome :=
  match s.cmd? cmd with
  | none => .next s
  | some c =>
    match c.auct? with
    | none => .next s
    | some (regs, st?) =>
      let d := auctD regs
      if !auctTurn s c || !c.open s then .next s
      else
        match c.phase, st? with
        | .queued, _ =>
          let st : AuctSt := ⟨BitVec.ofNat 32 d.e0, 0, 1, [], [], List.replicate d.n .unassigned, 0, 0⟩
          .next ((setAuct s c regs st).updCmd cmd fun q => q.owe (areaStages d st 0 false))
        | .running, some st =>
          .next (if st.code = 0 && st.caps.isEmpty then auctWrite s c (fun s => auctInputs s c regs d st) else s)
        | _, _ => .next s

/-- The bytes of the scores that a round uses: of the rows that are unassigned (R313). -/
def roundBytes (d : AuctD) (st : AuctSt) : List Nat :=
  ((enumFrom 0 st.rows).filter fun p => isUnassigned p.2).flatMap fun p => bytesAt (d.score + 4 * (p.1 * d.m)) (4 * d.m)

/-- Whether a score that a round uses lies in a poisoned line: the command moves no byte and retires (R68). One that a window
mapped since the issue covers is not read either (R58: log entry 65). -/
def scoreBad (g : Gang) (d : AuctD) (st : AuctSt) : Bool :=
  (roundBytes d st).any (fun a => g.osPoison.contains (lineOf a)) || g.inWindow (d.score / 128) (cdiv d.bytes 128)

/-- AUCTION_ROUND (R313): one round; the last is followed by the outputs. The issuer's earlier writes to the scores have
reached them; a later one is read old or new, granule by granule: of what was read early, or of what stands there now (R109,
R111, R312). -/
def execAuctionRound (cmd : Nat) (s : State) : Outcome :=
  match s.cmd? cmd with
  | none => .next s
  | some c =>
    match c.auct?, s.gang? c.gang with
    | some (regs, some st), some g =>
      let d := auctD regs
      let as := roundBytes d st
      if c.phase != .running || !auctTurn s c || st.code == 3 then .next s
      else if st.code != 0 then .next (auctWrite s c fun s => completeCmd s cmd)
      else if st.caps.isEmpty || g.stop.isSome then .next s
      else if scoreBad g d st then .next (completeCmd (logEvent s .engine [c.pc.toNat, d.score]) cmd)
      else
        match issuerOs s (c.acc s).who as with
        | none => .next s
        | some s =>
          let g := (s.gang? c.gang).getD g
          if c.early.isNone && Config.coin s.tick 3 then .next (s.updCmd cmd fun q => { q with early := some (g.readEarly as) })
          else
            let st := auctRound (g.mixEarly s.tick c.early as) d st
            let s := (setAuct s c regs st).updCmd cmd fun q => { q with early := none }
            .next (if st.code = 0 then s else auctEnd s c regs d st)
    | _, _ => .next s

/-- AUCTION_SAVE (R316): between two rounds, the full area with CODE SAVED is to be written; after that, the engine stops. -/
def execAuctionSave (cmd : Nat) (s : State) : Outcome :=
  match s.cmd? cmd with
  | none => .next s
  | some c =>
    match c.auct?, s.gang? c.gang with
    | some (regs, some st), some g =>
      if c.phase != .running || g.dying then .next s
      else if st.code = 3 then
        .next (auctWrite s c fun s => s.updCmd cmd fun q => { q with phase := .saved, body := .auct regs none, got := [] })
      else if st.code != 0 || st.caps.isEmpty || g.stop.isNone then .next s
      else
        let st := { st with code := 3 }
        .next ((setAuct s c regs st).updCmd cmd fun q => { q.owe (areaStages (auctD regs) st 3 true) with early := none })
    | _, _ => .next s

/-- A row's status from its ASSIGN and BID words (R316). -/
def rowOf (m a b : Nat) : RowSt :=
  let v := sInt 32 a
  if 0 ≤ v && v < m then .holding v.toNat (BitVec.ofNat 32 b) else if v = -2 then .nofeas else if v = -3 then .ceil else .unassigned

/-- A column keeps as many holders as its capacity allows (R316). -/
def keepTop (st : AuctSt) (j : Nat) : AuctSt :=
  let excess := (ranked (holdersOf st.rows j)).drop (st.caps.getD j 0)
  { st with rows := excess.foldl (fun rs c => rs.set c.row .unassigned) st.rows }

/-- What a saved command reloads of its area, by address and bytes: ROUNDS and PHASES, ε, ASSIGN, BID and PRICE. -/
def AuctD.areaVas (d : AuctD) : List (Nat × Nat) :=
  ([4, 8] ++ ((List.range d.n).map fun i => 0x80 + 4 * i) ++ ((List.range d.n).map fun i => 0x1080 + 4 * i) ++
    (List.range d.m).map fun j => 0x2080 + 4 * j).map fun off => ((d.res + off) % 2 ^ 52, 4)

/-- The state that it makes of them, and of the capacities it rereads. -/
def reloaded (d : AuctD) (vs caps : List Nat) : AuctSt :=
  let w (k : Nat) : Nat := vs.getD k 0
  { eps := BitVec.ofNat 32 (w 1), rounds := fld (w 0) 0 16, phases := fld (w 0) 16 16, caps := caps,
    prices := (List.range d.m).map fun j => BitVec.ofNat 32 (w (2 + 2 * d.n + j)),
    rows := (List.range d.n).map fun i => rowOf d.m (w (2 + i)) (w (2 + d.n + i)), code := 0, reason := 0 }

/-- AUCTION_RESTORE (R316): the area as it stands by now, and CAP as the issue fixes it (R119). -/
def execAuctionRestore (cmd : Nat) (s : State) : Outcome :=
  match s.cmd? cmd with
  | none => .next s
  | some c =>
    match c.auct?, s.gang? c.gang with
    | some (regs, _), some g =>
      let d := auctD regs
      if c.phase != .saved || g.stop.isSome || !auctTurn s c then .next s
      else
        match readNats s c false d.areaVas with
        | .error (.wait s) => .next s
        | .error (.fail s _) => .next (completeCmd s cmd)
        | .ok (s, vs) =>
          match readNats s c true (d.capVas.map fun va => (va, 2)) with
          | .error (.wait s) => .next s
          | .error (.fail s _) => .next (auctFail s c regs d (reloaded d vs []) 3)
          | .ok (s, caps) =>
            if caps.contains 0 then .next (auctFail s c regs d (reloaded d vs []) 1)
            else .next (setAuct s c regs ((List.range d.m).foldl keepTop (reloaded d vs caps)))
    | _, _ => .next s

end Sys2Proof.Machine
end

