-- ==== Sys2Proof/Machine/Copy.lean ====
section
/-! DEFINITION. Shape records and the copies CPY, CPO and GATH: their issue, and the start of each in the copy engine
(R30-R34, R58, R281-R283). -/

namespace Sys2Proof.Machine

/-! ### Shape records (R30, R34) -/

/-- A shape record with its extents resolved. -/
structure Shape where
  ty : Nat
  ndim : Nat
  bfpw : Nat
  pad : Nat
  padv : Nat
  base : Nat
  expb : Nat
  ext : List Nat
  str : List Nat
  org : List Int
  box : List Nat
  deriving DecidableEq, Repr, Inhabited

def wd (ws : List Nat) (off : Nat) : Nat := ws.getD (off / 8) 0

/-- R34: what makes a record malformed, but for what an indirect extent holds. -/
def shapeBad (ws : List Nat) : Bool :=
  let w1 := wd ws 0x08
  let ty := fld w1 0 5
  let nd := fld w1 8 2
  let bfp := ty = 14
  let used (d : Nat) : Bool := d ≤ nd
  let ext (d : Nat) : Nat := wd ws (0x10 + 8 * d)
  let box (d : Nat) : Nat := fld (wd ws 0x60) (16 * d) 16
  let org (d : Nat) : Nat := fld (wd ws (if d < 2 then 0x50 else 0x58)) (32 * (d % 2)) 32
  let str (d : Nat) : Nat := wd ws (0x30 + 8 * d)
  fld (wd ws 0) 52 12 != 0 || fld w1 5 3 != 0 || bitN w1 10 || fld w1 16 16 != 0 || ty = 16 || 20 ≤ ty || fld w1 14 2 = 3 ||
    (if bfp then fld w1 11 3 = 0 else fld w1 11 3 != 0) || wd ws 0x30 != 0 || wd ws 0x68 != 0 || wd ws 0x78 != 0 ||
    (if bfp then fld (wd ws 0x70) 52 12 != 0 else wd ws 0x70 != 0) ||
    ((List.range 4).any fun d =>
      if used d then
        (if bitN (ext d) 63 then fld (ext d) 52 11 != 0 || ext d % 4 != 0 else fld (ext d) 32 31 != 0) || box d = 0 ||
          (d != 0 && fld (str d) 48 16 != 0)
      else ext d != 0 || box d != 0 || org d != 0 || str d != 0)

/-- A record's words, read one at a time (R33). -/
def readWords (s : State) (c : Cmd) (vas : List Nat) : U (State × List Nat) := readNats s c true (vas.map fun va => (va, 8))

/-- The dimensions whose extent is indirect, and where it stands. -/
def indirect (ws : List Nat) : List (Nat × Nat) := (List.range 4).filterMap fun d =>
  let w := wd ws (0x10 + 8 * d)
  if d ≤ fld (wd ws 0x08) 8 2 && bitN w 63 then some (d, fld w 0 52) else none

/-- The extents, direct and indirect, of the used dimensions (R33); 1 for the others. -/
def readExts (s : State) (c : Cmd) (ws : List Nat) : U (State × List Nat) :=
  match readNats s c true ((indirect ws).map fun p => (p.2, 4)) with
  | .error e => .error e
  | .ok (s, vs) =>
    let far := ((indirect ws).map fun p => p.1).zip vs
    .ok (s, (List.range 4).map fun d =>
      if fld (wd ws 0x08) 8 2 < d then 1
      else ((far.find? fun p => p.1 == d).map fun p => p.2).getD (fld (wd ws (0x10 + 8 * d)) 0 32))

/-- The record as data. -/
def shapeOf (ws ext : List Nat) : Shape :=
  let w1 := wd ws 0x08
  let nd := fld w1 8 2
  { ty := fld w1 0 5, ndim := nd, bfpw := fld w1 11 3, pad := fld w1 14 2, padv := fld w1 32 32, base := fld (wd ws 0) 0 52,
    expb := fld (wd ws 0x70) 0 52, ext := ext, str := (List.range 3).map fun d => fld (wd ws (0x38 + 8 * d)) 0 48,
    org := (List.range 4).map fun d => sInt 32 (fld (wd ws (if d < 2 then 0x50 else 0x58)) (32 * (d % 2)) 32),
    box := (List.range 4).map fun d => if nd < d then 1 else fld (wd ws 0x60) (16 * d) 16 }

def Shape.b (h : Shape) (d : Nat) : Nat := h.box.getD d 1
def Shape.e (h : Shape) : Nat := elemSize h.ty
def Shape.bfp (h : Shape) : Bool := h.ty == 14
def Shape.m (h : Shape) : Nat := h.bfpw + 1
def Shape.count (h : Shape) : Nat := h.b 0 * h.b 1 * h.b 2 * h.b 3

/-! ### Positions (R31, R32) -/

/-- A position of the box as coordinates of the tensor. -/
def Shape.pos (h : Shape) (j : List Nat) : List Int := (List.range 4).map fun d => h.org.getD d 0 + (j.getD d 0 : Nat)
def Shape.inside (h : Shape) (p : List Int) : Bool :=
  (List.range 4).all fun d => 0 ≤ p.getD d 0 && p.getD d 0 < (h.ext.getD d 1 : Nat)
/-- EDGE: the clamped position, where every extent is nonzero. -/
def Shape.clamp (h : Shape) (p : List Int) : Option (List Nat) :=
  if h.ext.any (· == 0) then none
  else some ((List.range 4).map fun d => (clampI 0 ((h.ext.getD d 1 : Nat) - 1) (p.getD d 0)).toNat)

/-- What a position delivers: an element of memory by its coordinates, or a constant. -/
inductive Src where
  | elem (x : List Nat)
  | zero
  | const
  deriving DecidableEq, Repr, Inhabited

def Shape.src (h : Shape) (j : List Nat) : Src :=
  let p := h.pos j
  if h.inside p then .elem (p.map Int.toNat)
  else match h.pad with
    | 0 => .zero
    | 1 => match h.clamp p with
      | some x => .elem x
      | none => .zero
    | _ => .const

/-- R31: the row offset of coordinates. R31 gives no modulus; an address beyond the virtual space wraps at 2^52, by choice
(log entry 67). -/
def Shape.rowAt (h : Shape) (x : List Nat) : Nat :=
  h.base + x.getD 1 0 * h.str.getD 0 0 + x.getD 2 0 * h.str.getD 1 0 + x.getD 3 0 * h.str.getD 2 0
def Shape.addr (h : Shape) (x : List Nat) : Nat := (h.rowAt x + x.getD 0 0 * h.e) % 2 ^ 52
/-- A mantissa's first byte and bit. -/
def Shape.mant (h : Shape) (x : List Nat) : Nat × Nat :=
  let bit := x.getD 0 0 * h.m
  ((h.rowAt x + bit / 8) % 2 ^ 52, bit % 8)
def Shape.expAt (h : Shape) (x : List Nat) : Nat :=
  -- wraps likewise (log entry 67)
  (h.expb + ((x.getD 3 0 * h.ext.getD 2 1 + x.getD 2 0) * h.ext.getD 1 1 + x.getD 1 0) * (h.ext.getD 0 0 / 32) + x.getD 0 0 / 32) % 2 ^ 52

/-- The positions of the box, dimension 0 innermost. -/
def Shape.positions (h : Shape) : List (List Nat) :=
  (List.range (h.b 3)).flatMap fun j3 => (List.range (h.b 2)).flatMap fun j2 =>
    (List.range (h.b 1)).flatMap fun j1 => (List.range (h.b 0)).map fun j0 => [j0, j1, j2, j3]

/-! ### Tile places (R271) -/

def tileIdx (t : DWord) (r c : Nat) : Nat := if tLayout t = 1 then c * tRows t + r else r * tCols t + c
/-- LAYOUT 2: the chunk swizzle of R29 with SWZ = 3, on the offset. -/
def tileByte (t : DWord) (r c : Nat) : Nat :=
  let o := tileIdx t r c * elemSize (tType t)
  tBase t * 128 + (if tLayout t = 2 then Nat.xor o (fld o 7 3 * 16) else o)
/-- A BFP element's first mantissa byte and bit, and its exponent byte. -/
def tileMant (t : DWord) (r c : Nat) : Nat × Nat :=
  let bit := tileIdx t r c * (tBfpw t + 1)
  (tBase t * 128 + bit / 8, bit % 8)
def tileExp (t : DWord) (r c : Nat) : Nat := (tBase t + tExpo t) * 128 + tileIdx t r c / 32

/-! ### Moves of a copy -/

/-- Where a position's bytes stand in the operand store. -/
def osPlace (tile : Option DWord) (raw : Nat) (h : Shape) (j : List Nat) : Nat :=
  match tile with
  | some t => tileByte t (j.getD 1 0) (j.getD 0 0)
  | none => raw + (((j.getD 3 0 * h.b 2 + j.getD 2 0) * h.b 1 + j.getD 1 0) * h.b 0 + j.getD 0 0) * h.e

/-- The moves of one position of a copy into the operand store. -/
def inMoves (tile : Option DWord) (raw : Nat) (h : Shape) (j : List Nat) : List Move :=
  let d := osPlace tile raw h j
  match h.src j with
  | .elem x => byteMoves false d (h.addr x) h.e
  | .zero => bitFill d 0 0 (8 * h.e)
  | .const => bitFill d 0 h.padv (8 * h.e)

/-- The moves of one position of a copy to memory, or the bits it skips. -/
def outMoves (tile : Option DWord) (raw : Nat) (h : Shape) (j : List Nat) : List Move × Nat :=
  let p := h.pos j
  if h.inside p then (byteMoves true (h.addr (p.map Int.toNat)) (osPlace tile raw h j) h.e, 0) else ([], 8 * h.e)

/-- The moves of one position of a BFP copy into a tile: its mantissa, and, for the first element of a tile block, the
exponent (log entry 17). -/
def inBfp (tick : Nat) (t : DWord) (h : Shape) (j : List Nat) : List Move :=
  let r := j.getD 1 0
  let c := j.getD 0 0
  let (d, db) := tileMant t r c
  let ed := tileExp t r c
  let exp (l : List Move) : List Move := if tileIdx t r c % 32 = 0 then l else []
  match h.src j with
  | .elem x => bitMoves false d db (h.mant x).1 (h.mant x).2 h.m ++ exp (byteMoves false ed (h.expAt x) 1)
  | .zero => bitFill d db 0 h.m ++ exp (bitFill ed 0 0 8)
  | .const => bitFill d db h.padv h.m ++ exp (byteFill ed [Config.freeByte tick (100000 + ed)])

/-- The moves of one position of a BFP copy to memory, or the bits it skips. -/
def outBfp (t : DWord) (h : Shape) (j : List Nat) : List Move × Nat :=
  let r := j.getD 1 0
  let c := j.getD 0 0
  let (d, db) := tileMant t r c
  let p := h.pos j
  if h.inside p then
    let x := p.map Int.toNat
    (bitMoves true (h.mant x).1 (h.mant x).2 d db h.m ++ (if c % 32 = 0 then byteMoves true (h.expAt x) (tileExp t r c) 1 else []), 0)
  else ([], h.m + if c % 32 = 0 then 8 else 0)

/-- Whether moves write every bit of a line. -/
def coversLine (ms : List Move) (line : Nat) : Bool :=
  (List.range 1024).all fun b => ms.any fun m => m.dst == line * 128 + b / 8 && m.db ≤ b % 8 && b % 8 < m.db + m.n

/-- The portions of a copy: one for each destination line, which credits the bytes moved, and one for the credits of
skipped positions (R117). -/
def portionsOf (toMem : Bool) (ms : List Move) (skip : Nat) : List Portion :=
  let portion (l : Nat) : Portion :=
    let ps := ms.filter fun m => lineOf m.dst == l
    { line := if toMem then none else some l, moves := ps, credit := cdiv (ps.map fun m => m.n).sum 8, whole := coversLine ps l,
      mem := if toMem then some (l * 128) else none, begun := false }
  (sortNat (ms.map fun m => lineOf m.dst)).map portion ++
    (if skip = 0 then [] else [{ line := none, moves := [], credit := cdiv skip 8, whole := false, mem := none, begun := false }])
def portionsIn (ms : List Move) : List Portion := portionsOf false ms 0
/-- Those of a command that credits nothing, or later. -/
def portionsBare (ms : List Move) : List Portion := (portionsIn ms).map fun p => { p with credit := 0 }
def portionsOut (l : List (List Move × Nat)) : List Portion := portionsOf true (l.flatMap fun p => p.1) (l.map fun p => p.2).sum

/-- R281: what the engine checks of the record it has read against the operand-store side. -/
def copyBad (s : State) (g : Gang) (tile : Option DWord) (raw : Nat) (h : Shape) : Bool :=
  (h.bfp && (h.ext.getD 0 0 % 32 != 0 || h.org.getD 0 0 % 32 != 0 || h.b 0 % 32 != 0)) ||
    match tile with
    | some t => h.ty != tType t || h.bfpw != tBfpw t || h.b 0 != tCols t || h.b 1 != tRows t || h.b 2 != 1 || h.b 3 != 1 ||
        ((tileRuns t).any fun r => r.2 != 0 && g.inWindow r.1 r.2)
    | none =>
      let n := h.count * h.e
      let lines := cdiv n 128
      h.bfp || g.osLines * 128 < raw + n || g.inWindow (raw / 128) lines || meetsTile s g (raw / 128) lines

/-- The portions of a copy whose record holds. -/
def copyPortions (s : State) (op : CopyOp) (tile : Option DWord) (raw : Nat) (h : Shape) : List Portion :=
  let js := h.positions
  match op, tile, h.bfp with
  | .cpo, some t, true => portionsOut (js.map (outBfp t h))
  | .cpo, _, _ => portionsOut (js.map (outMoves tile raw h))
  | _, some t, true => portionsIn (js.flatMap (inBfp s.tick t h))
  | _, _, _ => portionsIn (js.flatMap (inMoves tile raw h))

/-- The portions of a `GATH` (R283). -/
def gathPortions (t : DWord) (rows : List (Nat × Option Nat)) (swz : Nat) : List Portion :=
  let e := elemSize (tType t)
  portionsIn (rows.flatMap fun p => (List.range (tCols t)).flatMap fun c =>
    let d := tileByte t p.1 c
    match p.2 with
    | some row => byteMoves false d (swizzle ((row + c * e) % 2 ^ 52) swz) e
    | none => bitFill d 0 0 (8 * e))

/-- A command starts with its portions; with none, it is done. -/
def startWith (s : State) (c : Cmd) (ps : List Portion) : State :=
  let s := s.updCmd c.id fun d => { d with phase := .running, portions := ps }
  match ps with
  | [] => portionsDone s c
  | _ => s

/-- COPY_COMMAND_START (R33, R34, R58, R281). -/
def execCopyCommandStart (cmd : Nat) (s : State) : Outcome :=
  match s.cmd? cmd with
  | none => .next s
  | some c =>
    match c.body, s.gang? c.gang with
    | .copy op tile raw desc rows swz, some g =>
      if !mayStart s c then .next s
      else if op == .gath then
        let t := g.tile (tile.getD 0)
        if (tileRuns t).any fun r => r.2 != 0 && g.inWindow r.1 r.2 then .next (failCmd s c)
        else .next (startWith s c (gathPortions t rows swz))
      else
        match desc with
        | none => .next (failCmd s c)
        | some vas =>
          match readWords s c vas with
          | .error (.wait s) => .next s
          | .error (.fail s _) => .next (failCmd s c)
          | .ok (s, ws) =>
            if shapeBad ws then .next (failCmd s c)
            else
              match readExts s c ws with
              | .error (.wait s) => .next s
              | .error (.fail s _) => .next (failCmd s c)
              | .ok (s, ext) =>
                let h := shapeOf ws ext
                let tw := tile.map g.tile
                if copyBad s g tw raw h then .next (failCmd s c) else .next (startWith s c (copyPortions s op tw raw h))
    | _, _ => .next s

/-! ### Issue (R281, R283) -/

/-- The 8-byte words of an access's pieces, by virtual address. -/
def wordsOf (ps : List (Nat × Nat)) : List Nat := ps.flatMap fun p => (List.range (p.2 / 8)).map fun k => p.1 + 8 * k

/-- A command's record access (R27) of w bytes by lane 0: the addresses of its words, none for NONE and OUT; a trap of it
is check n of the instruction's list. The words are the engine's reads: it translates them at the start (R33, R390). -/
def recordAccess (rc w : Nat) (n : Option Nat) (idx : Nat) : Except TrapInfo (Option (List Nat)) :=
  if thinRecord rc then .error ⟨cOOB, 0, some 15⟩
  else
    match planAccess rc w 1 [(0, idx)] with
    | .trap t => .error { t with detail := match t.detail with
        | some d => some d
        | none => n }
    | .lanes l => .ok ((l.head?.bind fun p => p.2).map wordsOf)

/-- The barrier a copy names: IMM8[6] set means none. -/
def copyBar (e : Env) (x : Ext) (r : Regs) : Option Nat := if x.imm.getLsbD 6 then none else some (e.rs r.c)

/-- Checks 1 and 2 of R281. -/
def copyDest (s : State) (e : Env) (x : Ext) (r : Regs) (cpo : Bool) : Option TrapInfo :=
  if x.imm.getLsbD 7 then
    (if !e.g.defined r.d || (cpo && tileState s e.g r.d == 0) then some ⟨cOOB, 0, some 1⟩ else none)
  else if e.rs r.d % 128 != 0 then some ⟨cMISALIGN, 0, some 2⟩
  else if e.g.osLines * 128 ≤ e.rs r.d then some ⟨cOOB, 0, some 2⟩
  else none

/-- `CPY` and `CPO` at issue. -/
def startCopy (e : Env) (s : State) (x : Ext) (r : Regs) (op : CopyOp) : Res :=
  match copyDest s e x r (op == .cpo) with
  | some t => .trap t 0
  | none =>
    match barCheck e (copyBar e x r) (some 3) with
    | some t => .trap t 0
    | none =>
      match recordAccess (e.rb r.a) 128 (some 4) (e.sIndex r.b (x.imm.toNat % 64 : Nat)) with
      | .error t => .trap t 0
      | .ok desc =>
        .done (issueCmd e s .cp (copyBar e x r)
          (.copy op (if x.imm.getLsbD 7 then some r.d else none) (e.rs r.d) desc [] 0) x.hint.toNat)

/-- `CPY`. -/
def execCpy (x : Ext) (s : State) : Outcome := runExt (.cpy x) x s fun s e r => startCopy e s x r .cpy
/-- `CPO`. -/
def execCpo (x : Ext) (s : State) : Outcome := runExt (.cpo x) x s fun s e r => startCopy e s x r .cpo

/-- R283: the kind of a lane's row: none NONE, false OUT, true IN. -/
def rowKind (rc i : Nat) : Option Bool := if recSen rc && i == recSent rc then none else some (decide (i < recExtent rc))

/-- `GATH`. -/
def execGath (x : Ext) (s : State) : Outcome :=
  runExt (.gath x) x s fun s e r =>
    let rc := e.rb r.a
    let t := e.g.tile r.d
    let rows := (e.vIndices r.b (x.imm.toNat % 64 : Nat)).map fun p => (p.1, p.2, rowKind rc p.2)
    let addr (i : Nat) : Nat := (recBase rc + i * recStride rc) % 2 ^ 52
    if !e.g.defined r.d then .trap ⟨cOOB, 0, some 1⟩ 0
    else
      match barCheck e (copyBar e x r) (some 3) with
      | some q => .trap q 0
      | none =>
        if recBad rc then .trap ⟨cOOB, 0, some 15⟩ 0
        else if tType t = 14 || tLayout t = 1 then .trap ⟨cOOB, 0, some 4⟩ 0
        else
          match rows.find? fun p => tRows t ≤ p.1 with
          | some p => .trap ⟨cOOB, p.1, some 4⟩ 0
          | none =>
            match rows.find? fun p => recTrap rc && p.2.2 == some false with
            | some p => .trap ⟨cOOB, p.1, some 4⟩ 0
            | none =>
              match rows.find? fun p => p.2.2 == some true && addr p.2.1 % elemSize (tType t) != 0 with
              | some p => .trap ⟨cMISALIGN, p.1, some 4⟩ 0
              | none =>
                .done (issueCmd e s .cp (copyBar e x r) (.copy .gath (some r.d) 0 none
                  (rows.map fun p => (p.1, if p.2.2 == some true then some (addr p.2.1) else none)) (recSwz rc))
                  x.hint.toNat)

end Sys2Proof.Machine
end

