-- ==== Sys2Proof/Machine/Av1.lean ====
section
/-! DEFINITION. The AV1 decoder: VDEC, VDSTAT, the start of a decode and its frames (R124, R303-R308). What the outside
standard makes of OBUs are the free values Config.av1 and Config.seqHeader (log entry 8); the OBUs themselves, the limits of
R304 and what R306 calls corrupt are judged here. -/

namespace Sys2Proof.Machine

/-! ### Issue (R303, R308) -/

/-- `VDEC`. -/
def execVdec (x : Ext) (s : State) : Outcome :=
  runExt (.vdec x) x s fun s e r =>
    let dst := e.rs r.d
    if dst % 128 != 0 then .trap ⟨cMISALIGN, 0, none⟩ 0
    else if e.g.osLines * 128 ≤ dst then .trap ⟨cOOB, 0, none⟩ 0
    else
      match barCheck e (some (e.rs r.c)) none with
      | some t => .trap t 0
      | none =>
        match recordAccess (e.rb r.a) 32 none (e.sIndex r.b x.offset) with
        | .error t => .trap t 0
        | .ok desc =>
          .done (issueCmd e s .vd (some (e.rs r.c)) (.vdec (x.ty == 9#5) dst desc none))

/-- `VDSTAT` (R308): one read, with an acquire at `.dev` before the agent's next instruction. -/
def execVdstat (x : Ext) (s : State) : Outcome :=
  runExt (.vdstat x) x s fun s e r =>
    if thinRecord (e.rb r.a) then .trap ⟨cOOB, 0, some 15⟩ 0
    else
      match loadThrough e s (e.rb r.a) 8 1 [(0, e.sIndex r.b x.offset)] fun _ => .scalar r.d 8 false with
      | .done s => .done (e.set s fun a => { a with acq := some 3 })
      | q => q

/-! ### Start (R303) -/

/-- The decoder's state from the descriptor's words; none when it is malformed or MAXF is 0. -/
def decOf (ws : List Nat) : Option DecSt :=
  let w (k : Nat) : Nat := ws.getD k 0
  if fld (w 0) 52 12 != 0 || fld (w 1) 49 15 != 0 || fld (w 2) 52 12 != 0 || fld (w 3) 32 32 != 0 || fld (w 2) 0 52 % 16 != 0 ||
      fld (w 3) 0 32 % 128 != 0 || fld (w 1) 32 16 = 0 then none
  else some ⟨fld (w 0) 0 52, fld (w 1) 0 32, fld (w 1) 32 16, bitN (w 1) 48, fld (w 2) 0 52, fld (w 3) 0 32, 0, 0, 0, none, 0⟩

/-- R58, R303: the region leaves the grant, or meets a window or a tile that is not EMPTY. -/
def decRegionBad (s : State) (g : Gang) (dst n : Nat) : Bool :=
  g.osLines * 128 < dst + n || (n != 0 && (g.inWindow (dst / 128) (n / 128) || meetsTile s g (dst / 128) (n / 128)))

def setDec (s : State) (c : Cmd) (bf16 : Bool) (dst : Nat) (desc : Option (List Nat)) (st : DecSt) : State :=
  s.updCmd c.id fun d => { d with body := .vdec bf16 dst desc (some st) }

/-- The two words of the header. -/
def decHeader (st : DecSt) : List Byte := toBytes 8 (st.nfr + st.ended * 2 ^ 32) ++ toBytes 8 st.consumed

/-- How many decodes of resident gangs are under way on a command's die, of commands that pass a test. -/
def decodes (s : State) (c : Cmd) (p : Cmd → Bool) : Nat :=
  (s.cmds.filter fun d => d.cls == .vd && d.die == c.die && d.phase == .running && (s.gang? d.gang).isSome && p d).length
/-- A die's decoders work on one `VDEC` each, the earliest accepted of those under way (R1; log entry 73). -/
def decTurn (s : State) (c : Cmd) : Bool := decodes s c (fun d => d.accepted.getD 0 < c.accepted.getD 0) < Config.decodersPerDie

/-- What a frame, or the start or the end of a decode, writes to the status record (R124, R307). -/
def decOwe (s : State) (c : Cmd) (st : DecSt) (entry : List (Nat × List Byte)) : State :=
  s.updCmd c.id fun d => d.owe [entry, granules st.stat (decHeader st)]
/-- One of those writes; with one that fails, the header or entry is left out (R390); what follows the last one. -/
def decWrite (s : State) (c : Cmd) (after : State → State) : State :=
  match writeTodo s c with
  | .none => after s
  | .ok s => s
  | .wait s => s
  | .fail s => dropStage s c

/-- DECODE_START: the descriptor is read and checked, and the header is to be written. -/
def execDecodeStart (cmd : Nat) (s : State) : Outcome :=
  match s.cmd? cmd with
  | none => .next s
  | some c =>
    match c.body, s.gang? c.gang with
    | .vdec bf16 dst desc _, some g =>
      if !mayStart s c || Config.decodersPerDie ≤ decodes s c (fun _ => true) then .next s
      else
        match desc with
        | none => .next (failCmd s c)
        | some vas =>
          match readWords s c vas with
          | .error (.wait s) => .next s
          | .error (.fail s _) => .next (failCmd s c)
          | .ok (s, ws) =>
            match decOf ws with
            | none => .next (failCmd s c)
            | some st =>
              if decRegionBad s g dst st.outMax then .next (failCmd s c)
              else .next (decOwe ((setDec s c bf16 dst desc st).updCmd cmd fun d => { d with phase := .running }) c st [])
    | _, _ => .next s

/-! ### The stream -/

/-- How a stream's bytes came to an end. -/
inductive StreamEnd where
  | whole (s : State)
  | cut (s : State)
  | wait (s : State)
  deriving DecidableEq, Repr, Inhabited

/-- The stream from an address on, line by line, until a line that waits or fails. -/
def readStream (a : Acc) : Nat → State → Nat → Nat → List Byte × StreamEnd
  | 0, s, _, _ => ([], .whole s)
  | fuel + 1, s, va, n =>
    if n = 0 then ([], .whole s)
    else
      let k := min n (128 - va % 128)
      match uRead s a va k with
      | .error (.wait s) => ([], .wait s)
      | .error (.fail s _) => ([], .cut s)
      | .ok (s, bs) =>
        let (r, e) := readStream a fuel s ((va + k) % 2 ^ 52) (n - k)
        (bs ++ r, e)

/-! #### OBUs (R304) -/

/-- An OBU: type, extension byte, whether it has a size field, its payload, whether the stream ends inside it, and the number of
bytes up to its end. -/
structure Obu where
  type : Nat
  ext : Option Byte
  sized : Bool
  payload : List Byte
  cut : Bool
  upTo : Nat
  deriving DecidableEq, Repr, Inhabited

/-- A leb128 number of at most 8 bytes, and the bytes behind it. -/
def leb128 : Nat → List Byte → Option (Nat × List Byte)
  | 0, _ => none
  | _, [] => none
  | fuel + 1, b :: r =>
    if b.getLsbD 7 then (leb128 fuel r).map fun p => (b.toNat % 128 + 128 * p.1, p.2) else some (b.toNat, r)

/-- The OBUs of a stream in the low-overhead format, from a number of bytes on; one without a size field takes all the rest. The
header's fields are the standard's (log entry 8). -/
def obusOf : Nat → Nat → List Byte → List Obu
  | 0, _, _ => []
  | _, _, [] => []
  | fuel + 1, at', h :: r =>
    let type := fld h.toNat 3 4
    let (ext, body) := if h.getLsbD 2 then (r.head?, r.drop 1) else (none, r)
    if !h.getLsbD 1 then [⟨type, ext, false, body, false, at' + 1 + r.length⟩]
    else match leb128 8 body with
      | none => [⟨type, ext, true, [], true, at' + 1 + r.length⟩]
      | some (n, rest) =>
        let upTo := at' + 1 + r.length - (rest.length - n)
        ⟨type, ext, true, rest.take n, decide (rest.length < n), upTo⟩ :: obusOf fuel upTo (rest.drop n)

/-- Sequence header, temporal delimiter, frame header, tile group, metadata, frame, redundant frame header, padding. -/
def obuTypes : List Nat := [1, 2, 3, 4, 5, 6, 7, 15]
/-- Metadata and padding are skipped. -/
def Obu.skipped (o : Obu) : Bool := o.type == 5 || o.type == 15

/-- A frame as it is delivered. -/
structure Shown where
  width : Nat
  height : Nat
  depth : Nat
  mono : Bool
  /-- 0 good; otherwise the REASON of R307 -/
  reason : Nat
  consumed : Nat
  planes : Config.Av1Planes
  deriving DecidableEq, Repr, Inhabited

/-- R304, R306: what is wrong with a frame by itself, as a REASON of R307, given the OBUs from the frame before it on. Where
several are, the spec gives no order: cut off, then syntax, then profile and level, then OBUs and tools (log entry 8). -/
def ownFault (f : Config.Av1Frame) (os : List Obu) : Nat :=
  if f.cut || os.any Obu.cut then 4
  else if f.broken || f.size.isNone then 1
  else if f.profile != 0 || 61 < f.level || !(f.depth == 8 || f.depth == 10) || !(f.mono || f.sub420) then 3
  else if f.tool || os.any (fun o => !o.sized || !obuTypes.contains o.type) then 5
  else 0

/-- R306: the frames judged in order, each with its OBUs, with its REASON: a frame that predicts from a corrupt one is corrupt. -/
def judge : List (Config.Av1Frame × List Obu) → List Nat → List Nat
  | [], rs => rs
  | f :: r, rs =>
    let k := ownFault f.1 f.2
    judge r (rs ++ [if k != 0 then k else if f.1.refs.any fun n => rs.getD n 0 != 0 then 2 else 0])

/-- The frames with their sizes: a frame whose header is unreadable has that of the one before it. -/
def sizes : List Config.Av1Frame → Nat × Nat → List (Nat × Nat)
  | [], _ => []
  | f :: r, prev => f.size.getD prev :: sizes r (f.size.getD prev)

/-- R304: the bytes before the first sequence header are skipped: how many, and the rest. -/
def skipToSeq : List Byte → Nat → Nat × List Byte
  | [], n => (n, [])
  | b :: r, n => if fld b.toNat 3 4 = 1 && !b.getLsbD 7 && Config.seqHeader (b :: r) then (n, b :: r) else skipToSeq r (n + 1)

/-- Each frame with the OBUs behind the frame before it up to its own last one; the last frame has those to the end of the
stream where no size says where its own ends. -/
def frameObus (os kept : List Obu) : List Config.Av1Frame → Nat → List (Config.Av1Frame × List Obu)
  | [], _ => []
  | f :: r, from' =>
    let upTo := ((kept.take f.obus).getLast?.map fun o => o.upTo).getD from'
    (f, os.filter fun o => decide (from' < o.upTo) && decide (o.upTo ≤ upTo)) :: frameObus os kept r upTo

/-- R304: the frames of a stream that are delivered, in output order; film grain only with GRAIN. -/
def shownFrames (bs : List Byte) (grain : Bool) : List Shown :=
  let (skipped, rest) := skipToSeq bs 0
  let os := obusOf (rest.length + 1) skipped rest
  let kept : List Obu := os.filter fun o => !o.skipped
  let fs : List Config.Av1Frame := match kept with
    | [] => []
    | _ => Config.av1 (kept.map fun (o : Obu) => (o.type, o.ext, o.payload))
  let all := (fs.zip (sizes fs (0, 0))).zip (judge (frameObus os kept fs skipped) [])
  all.filterMap fun p =>
    let f := p.1.1
    if f.shown then some { width := p.1.2.1, height := p.1.2.2, depth := f.depth, mono := f.mono, reason := p.2,
                           consumed := ((kept.take f.obus).getLast?.map fun o => o.upTo).getD skipped, planes := if grain then f.grain else f.plain }
    else none

/-- The frame that comes next: the frame and the bytes there are of the stream, or the end of the stream, or a wait for more of it. -/
inductive NextFrame where
  | frame (s : State) (f : Shown) (len : Nat)
  | finished (s : State) (consumed : Nat)
  | wait (s : State)
  deriving Repr, Inhabited

/-- A frame cut off by the end of what was read is not yet known to be so while more may come. With a read that fails, the
stream ends before that line (R390). -/
def nextAv1 (s : State) (c : Cmd) (st : DecSt) : NextFrame :=
  let (bs, e) := readStream (c.acc s) (st.srcLen / 128 + 2) s st.src st.srcLen
  let f := (shownFrames bs st.grain)[st.nfr]?
  match f, e with
  | some f, .wait t => if f.reason = 4 then .wait t else .frame s f st.srcLen
  | some f, .cut t => .frame t f bs.length
  | some f, .whole t => .frame t f st.srcLen
  | none, .wait t => .wait t
  | none, .cut t => .finished t bs.length
  | none, .whole t => .finished t bs.length

/-! ### Frames (R305-R307) -/

def av1Tiles (f : Shown) : Nat := cdiv f.width 64 * cdiv f.height 64

/-- A sample as its bytes. -/
def sampleBytes (bf16 : Bool) (depth x : Nat) : List Byte :=
  if bf16 then toBytes 2 (fdivV (fmtOf 9) 0 (.fin false x 0) (.fin false (2 ^ depth - 1) 0)).1
  else [BitVec.ofNat 8 (if depth = 8 then x else min ((x + 2) / 4) 255)]

/-- The block of n × n samples at (bx, by) of a plane of w × h; beyond its edge 0. -/
def planeBlock (bf16 : Bool) (depth : Nat) (sample : Nat → Nat) (w h n bx bY : Nat) : List Byte :=
  (List.range n).flatMap fun y => (List.range n).flatMap fun x =>
    let px := bx * n + x
    let py := bY * n + y
    sampleBytes bf16 depth (if px < w && py < h then sample (py * w + px) else 0)

/-- The bytes of a delivered frame; a monochrome frame's chroma is 2^(b-1) inside the picture. -/
def frameBytes (bf16 : Bool) (f : Shown) : List Byte :=
  let tw := cdiv f.width 64
  let t := if bf16 then 12288 else 6144
  if f.reason != 0 then List.replicate (av1Tiles f * t) 0#8
  else
    let cw := cdiv f.width 2
    let ch := cdiv f.height 2
    let chroma (plane : List Nat) (k : Nat) : Nat := if f.mono then 2 ^ (f.depth - 1) else plane.getD k 0
    (List.range (av1Tiles f)).flatMap fun k =>
      let bx := k % tw
      let bY := k / tw
      planeBlock bf16 f.depth (fun j => f.planes.luma.getD j 0) f.width f.height 64 bx bY ++
        planeBlock bf16 f.depth (chroma f.planes.cb) cw ch 32 bx bY ++ planeBlock bf16 f.depth (chroma f.planes.cr) cw ch 32 bx bY

/-- The portions of bytes that start at a line. -/
def linePortions : Nat → Nat → List Byte → List Portion
  | 0, _, _ => []
  | fuel + 1, line, bs =>
    match bs with
    | [] => []
    | _ =>
      { line := some line, moves := byteFill (line * 128) (bs.take 128), credit := 128, whole := true, mem := none, begun := false } ::
        linePortions fuel (line + 1) (bs.drop 128)

/-- A frame's status entry. -/
def statEntry (f : Shown) (offs : Nat) : Nat :=
  (if f.reason = 0 then 1 else 2) + f.reason % 256 * 2 ^ 8 + av1Tiles f % 2 ^ 16 * 2 ^ 16 + f.width % 2 ^ 16 * 2 ^ 32 +
    f.height % 2 ^ 16 * 2 ^ 48 + offs * 2 ^ 64

/-- The next frame is delivered: its portions are to be made, and its entry is to be written. -/
def startFrame (s : State) (c : Cmd) (bf16 : Bool) (dst : Nat) (desc : Option (List Nat)) (st : DecSt) : State :=
  let stop (s : State) (st : DecSt) : State := decOwe (setDec s c bf16 dst desc st) c st []
  if st.nfr = st.maxf then stop s { st with ended := 2 }
  else
    match nextAv1 s c st with
    | .wait s => s
    | .finished s n => stop s { st with ended := 1, consumed := n }
    | .frame s f len =>
      let st := { st with srcLen := len }
      let n := av1Tiles f * (if bf16 then 12288 else 6144)
      if st.outMax < st.offs + n then stop s { st with ended := 3 }
      else
        let st := { st with nfr := st.nfr + 1, consumed := f.consumed, offs := st.offs + n, pending := some (statEntry f st.offs) }
        let entry := granules ((st.stat + 16 * st.nfr) % 2 ^ 52) (toBytes 16 (statEntry f (st.offs - n)))
        (decOwe (setDec s c bf16 dst desc st) c st entry).updCmd c.id fun d =>
          { d with portions := linePortions (n / 128 + 1) ((dst + st.offs - n) / 128) (frameBytes bf16 f) }

/-- DECODE_FRAME: a write of the status record; with none left, the next frame, or the end of the command. -/
def execDecodeFrame (cmd : Nat) (s : State) : Outcome :=
  match s.cmd? cmd with
  | none => .next s
  | some c =>
    match c.body, s.gang? c.gang with
    | .vdec bf16 dst desc (some st), some g =>
      if c.phase != .running || g.dying then .next s
      else
        .next (decWrite s c fun s =>
          if st.pending.isSome then setDec s c bf16 dst desc { st with pending := none }
          else if !c.portions.isEmpty then s
          else if st.ended != 0 then completeCmd s cmd
          else if g.stop.isSome || !decTurn s c then s
          else startFrame s c bf16 dst desc st)
    | _, _ => .next s

end Sys2Proof.Machine
end

