-- ==== Sys2Proof/Machine/IntVec.lean ====
section
/-! DEFINITION. Vector integer, logic, shift, bit-field and move instructions (R216-R225). -/

namespace Sys2Proof.Machine

/-- A lane-by-lane instruction that sets no flag: each lane that takes part receives the function's value. -/
def laneOp (i : Instr) (x : Ext) (wideD : Bool) (s : State) (f : Env → Regs → Nat → Nat) : Outcome :=
  runExt i x s fun s e r => e.result s (e.lanes.flatMap fun l => vWrites wideD r.d l (f e r l))

/-- A base form of the same kind on 32-bit registers. -/
def laneBase (i : Instr) (m : Marks) (words : Nat) (regs : List Nat) (d : Nat) (s : State) (f : Env → Nat → Nat) : Outcome :=
  runVec i m words regs s fun s e => e.result s (e.lanes.flatMap fun l => vWrites false d l (f e l))

/-- Operand B of a base RRR form: the literal, or the register. -/
def Env.baseB (e : Env) (b : BitVec 7) (lit : Option DWord) (lane : Nat) : Nat := match lit with
  | some l => l.toNat % 2 ^ 32
  | none => e.rv b.toNat lane

/-- The vector registers a base RRR form names. -/
def baseRegs (d a b : BitVec 7) (lit : Option DWord) : List Nat :=
  if lit.isSome then [d.toNat, a.toNat] else [d.toNat, a.toNat, b.toNat]

/-- R218: an exact integer wrapped, or clamped with `.sat`, to a type. -/
def intRes (ty : BitVec 5) (sat : Bool) (v : Int) : Nat :=
  let r := intRange ty.toNat
  wrapI (bitsOf ty) (if sat then clampI r.1 r.2 v else v)

/-- The operands of a two-source integer instruction. -/
def Env.intA (e : Env) (x : Ext) (r : Regs) (l : Nat) : Int := asInt x.ty (e.src (w64 x.ty) r.a l)
def Env.intB (e : Env) (x : Ext) (r : Regs) (l : Nat) : Int := asInt x.ty (e.srcB x r (w64 x.ty) l)
def Env.intC (e : Env) (x : Ext) (r : Regs) (l : Nat) : Int := asInt x.ty (e.src (w64 x.ty) r.c l)

/-- `IADD`, base form, `.i32` (R218). -/
def execIaddBase (m : Marks) (d a b : BitVec 7) (lit : Option DWord) (s : State) : Outcome :=
  laneBase (.iaddBase m d a b lit) m (baseWords lit) (baseRegs d a b lit) d.toNat s fun e l =>
    intRes 5#5 false (asInt 5#5 (e.rv a.toNat l) + asInt 5#5 (e.baseB b lit l))
/-- `ISUB`, base form, `.i32` (R218). -/
def execIsubBase (m : Marks) (d a b : BitVec 7) (lit : Option DWord) (s : State) : Outcome :=
  laneBase (.isubBase m d a b lit) m (baseWords lit) (baseRegs d a b lit) d.toNat s fun e l =>
    intRes 5#5 false (asInt 5#5 (e.rv a.toNat l) - asInt 5#5 (e.baseB b lit l))
/-- `IADD` (R218). -/
def execIaddExt (x : Ext) (s : State) : Outcome :=
  laneOp (.iaddExt x) x (w64 x.ty) s fun e r l => intRes x.ty x.sat (e.intA x r l + e.intB x r l)
/-- `ISUB` (R218). -/
def execIsubExt (x : Ext) (s : State) : Outcome :=
  laneOp (.isubExt x) x (w64 x.ty) s fun e r l => intRes x.ty x.sat (e.intA x r l - e.intB x r l)
/-- `IMUL` (R218). -/
def execImul (x : Ext) (s : State) : Outcome :=
  laneOp (.imul x) x (w64 x.ty) s fun e r l => intRes x.ty x.sat (e.intA x r l * e.intB x r l)
/-- `IMULH` (R218). -/
def execImulh (x : Ext) (s : State) : Outcome :=
  laneOp (.imulh x) x (w64 x.ty) s fun e r l =>
    intRes x.ty false ((e.intA x r l * e.intB x r l).fdiv (2 ^ bitsOf x.ty : Nat))
/-- `IMAD` (R218). -/
def execImad (x : Ext) (s : State) : Outcome :=
  laneOp (.imad x) x (w64 x.ty) s fun e r l => intRes x.ty x.sat (e.intA x r l * e.intB x r l + e.intC x r l)
/-- `IMIN` (R218). -/
def execImin (x : Ext) (s : State) : Outcome :=
  laneOp (.imin x) x (w64 x.ty) s fun e r l => intRes x.ty false (min (e.intA x r l) (e.intB x r l))
/-- `IMAX` (R218). -/
def execImax (x : Ext) (s : State) : Outcome :=
  laneOp (.imax x) x (w64 x.ty) s fun e r l => intRes x.ty false (max (e.intA x r l) (e.intB x r l))
/-- `IABS` (R218). -/
def execIabs (x : Ext) (s : State) : Outcome :=
  laneOp (.iabs x) x (w64 x.ty) s fun e r l => intRes x.ty x.sat ((e.intA x r l).natAbs : Int)

/-- The mask of a comparison (R219, R240). -/
def maskOf (b : Bool) : Nat := if b then 0xFFFFFFFF else 0

/-- `ISET` (R219). -/
def execIset (c : Cond) (x : Ext) (s : State) : Outcome :=
  laneOp (.iset c x) x false s fun e r l => maskOf (condI c (e.intA x r l) (e.intB x r l))
/-- `SEL` (R219). -/
def execSel (x : Ext) (s : State) : Outcome :=
  laneOp (.sel x) x (w64 x.ty) s fun e r l =>
    if e.rv r.c l != 0 then e.src (w64 x.ty) r.a l else e.srcB x r (w64 x.ty) l

/-- `AND`, base form (R220). -/
def execAndBase (m : Marks) (d a b : BitVec 7) (lit : Option DWord) (s : State) : Outcome :=
  laneBase (.andBase m d a b lit) m (baseWords lit) (baseRegs d a b lit) d.toNat s fun e l =>
    Nat.land (e.rv a.toNat l) (e.baseB b lit l)
/-- `OR`, base form (R220). -/
def execOrBase (m : Marks) (d a b : BitVec 7) (lit : Option DWord) (s : State) : Outcome :=
  laneBase (.orBase m d a b lit) m (baseWords lit) (baseRegs d a b lit) d.toNat s fun e l =>
    Nat.lor (e.rv a.toNat l) (e.baseB b lit l)
/-- `XOR`, base form (R220). -/
def execXorBase (m : Marks) (d a b : BitVec 7) (lit : Option DWord) (s : State) : Outcome :=
  laneBase (.xorBase m d a b lit) m (baseWords lit) (baseRegs d a b lit) d.toNat s fun e l =>
    Nat.xor (e.rv a.toNat l) (e.baseB b lit l)
/-- `AND` (R220). -/
def execAndExt (x : Ext) (s : State) : Outcome :=
  laneOp (.andExt x) x (w64 x.ty) s fun e r l => Nat.land (e.src (w64 x.ty) r.a l) (e.srcB x r (w64 x.ty) l)
/-- `OR` (R220). -/
def execOrExt (x : Ext) (s : State) : Outcome :=
  laneOp (.orExt x) x (w64 x.ty) s fun e r l => Nat.lor (e.src (w64 x.ty) r.a l) (e.srcB x r (w64 x.ty) l)
/-- `XOR` (R220). -/
def execXorExt (x : Ext) (s : State) : Outcome :=
  laneOp (.xorExt x) x (w64 x.ty) s fun e r l => Nat.xor (e.src (w64 x.ty) r.a l) (e.srcB x r (w64 x.ty) l)

/-- R220: the truth table of three inputs, bit by bit. -/
def lut3Of (n tab a b c : Nat) : Nat :=
  ((List.range n).map fun i =>
    if bitN tab (4 * (a / 2 ^ i % 2) + 2 * (b / 2 ^ i % 2) + c / 2 ^ i % 2) then 2 ^ i else 0).sum
/-- `LUT3` (R220). -/
def execLut3 (x : Ext) (s : State) : Outcome :=
  laneOp (.lut3 x) x (w64 x.ty) s fun e r l =>
    lut3Of (bitsOf x.ty) x.byteImm (e.src (w64 x.ty) r.a l) (e.src (w64 x.ty) r.b l) (e.src (w64 x.ty) r.c l)

/-- R221: shifts of a w-bit value. -/
def shlOf (w a n : Nat) : Nat := if n < w then a * 2 ^ n % 2 ^ w else 0
def shrOf (w a n : Nat) : Nat := if n < w then a / 2 ^ n else 0
def sarOf (w a n : Nat) : Nat := wrapI w ((sInt w a).fdiv (2 ^ (min n (w - 1)) : Nat))

/-- R182: the count of a base RRI form: imm7, or the literal in its place, of which the spec says no range: one of 32 or more
shifts everything out, as in the extended form (R221: log entry 77). -/
def baseCount (n : BitVec 5) (lit : Option DWord) : Nat := match lit with
  | some l => l.toNat % 2 ^ 32
  | none => n.toNat
/-- `SHL`, base form, `.n32` (R221). -/
def execShlBase (m : Marks) (d a : BitVec 7) (n : BitVec 5) (lit : Option DWord) (s : State) : Outcome :=
  laneBase (.shlBase m d a n lit) m (baseWords lit) [d.toNat, a.toNat] d.toNat s fun e l => shlOf 32 (e.rv a.toNat l) (baseCount n lit)
/-- `SHR`, base form, `.n32` (R221). -/
def execShrBase (m : Marks) (d a : BitVec 7) (n : BitVec 5) (lit : Option DWord) (s : State) : Outcome :=
  laneBase (.shrBase m d a n lit) m (baseWords lit) [d.toNat, a.toNat] d.toNat s fun e l => shrOf 32 (e.rv a.toNat l) (baseCount n lit)
/-- `SHL` (R221). -/
def execShlExt (x : Ext) (s : State) : Outcome :=
  laneOp (.shlExt x) x (w64 x.ty) s fun e r l => shlOf (bitsOf x.ty) (e.src (w64 x.ty) r.a l) (e.srcB x r false l)
/-- `SHR` (R221). -/
def execShrExt (x : Ext) (s : State) : Outcome :=
  laneOp (.shrExt x) x (w64 x.ty) s fun e r l => shrOf (bitsOf x.ty) (e.src (w64 x.ty) r.a l) (e.srcB x r false l)
/-- `SAR` (R221). -/
def execSar (x : Ext) (s : State) : Outcome :=
  laneOp (.sar x) x (w64 x.ty) s fun e r l => sarOf (bitsOf x.ty) (e.src (w64 x.ty) r.a l) (e.srcB x r false l)

/-- R222: the count of a funnel shift. -/
def Env.funnelCount (e : Env) (x : Ext) (r : Regs) (l : Nat) : Nat :=
  if x.imm.getLsbD 7 then x.imm.toNat % 32 else e.rv r.c l % 32
/-- `FSHL` (R222). -/
def execFshl (x : Ext) (s : State) : Outcome :=
  laneOp (.fshl x) x false s fun e r l =>
    (e.rv r.a l * 2 ^ 32 + e.srcB x r false l) * 2 ^ e.funnelCount x r l / 2 ^ 32 % 2 ^ 32
/-- `FSHR` (R222). -/
def execFshr (x : Ext) (s : State) : Outcome :=
  laneOp (.fshr x) x false s fun e r l =>
    (e.rv r.a l * 2 ^ 32 + e.srcB x r false l) / 2 ^ e.funnelCount x r l % 2 ^ 32

/-- `POPC` (R224). -/
def execPopc (x : Ext) (s : State) : Outcome :=
  laneOp (.popc x) x false s fun e r l => popBits (bitsOf x.ty) (e.src (w64 x.ty) r.a l)
/-- `CLZ` (R224). -/
def execClz (x : Ext) (s : State) : Outcome :=
  laneOp (.clz x) x false s fun e r l => clzBits (bitsOf x.ty) (e.src (w64 x.ty) r.a l)
/-- `BREV` (R224). -/
def execBrev (x : Ext) (s : State) : Outcome :=
  laneOp (.brev x) x (w64 x.ty) s fun e r l => revBits (bitsOf x.ty) (e.src (w64 x.ty) r.a l)

/-- R223: position and length actually used. -/
def fieldPos (b : Nat) : Nat := min (b % 256) 32
def fieldLen (b : Nat) : Nat := min (b / 256 % 256) (32 - fieldPos b)
def bfeOf (signed : Bool) (a b : Nat) : Nat :=
  let f := fld a (fieldPos b) (fieldLen b)
  if signed && fieldLen b != 0 then wrapI 32 (sInt (fieldLen b) f) else f
def bfiOf (a b c : Nat) : Nat :=
  c - fld c (fieldPos b) (fieldLen b) * 2 ^ fieldPos b + a % 2 ^ fieldLen b * 2 ^ fieldPos b
/-- `BFE` (R223). -/
def execBfe (x : Ext) (s : State) : Outcome :=
  laneOp (.bfe x) x false s fun e r l => bfeOf (signedTy x.ty) (e.rv r.a l) (e.srcB x r false l)
/-- `BFI` (R223). -/
def execBfi (x : Ext) (s : State) : Outcome :=
  laneOp (.bfi x) x false s fun e r l => bfiOf (e.rv r.a l) (e.srcB x r false l) (e.rv r.c l)

/-- `MOV`, base form (R225). -/
def execMovBase (m : Marks) (d a : BitVec 7) (s : State) : Outcome :=
  laneBase (.movBase m d a) m 1 [d.toNat, a.toNat] d.toNat s fun e l => e.rv a.toNat l
/-- `MOV` (R225). -/
def execMovExt (x : Ext) (s : State) : Outcome :=
  laneOp (.movExt x) x (w64 x.ty) s fun e r l => e.src (w64 x.ty) r.a l
/-- R225: the immediate of `MOVI`. -/
def moviImm (x : Ext) : Nat := match x.lit with
  | some l => l.toNat % 2 ^ bitsOf x.ty
  | none => wrapI (bitsOf x.ty) x.imm.toInt
/-- `MOVI` (R225). -/
def execMovi (x : Ext) (s : State) : Outcome :=
  laneOp (.movi x) x (w64 x.ty) s fun _ _ _ => moviImm x

end Sys2Proof.Machine
end

