-- ==== Sys2Proof/Machine/Scalar.lean ====
section
/-! DEFINITION. Scalar, predicate and index-register instructions (R226-R229). -/

namespace Sys2Proof.Machine

/-- R226: an exact result of a SALU instruction, wrapped or clamped to its type. -/
def saluRes (x : Ext) (v : Int) : Nat :=
  let r := intRange (if x.ty == 7#5 then 7 else 6)
  wrapI 64 (if x.sat then clampI r.1 r.2 v else v)

/-- A SALU operand as TYPE reads it. -/
def saluInt (x : Ext) (v : Nat) : Int := if x.ty == 7#5 then sInt 64 v else (v : Int)

/-- A SALU instruction: one scalar result. -/
def salu (i : Instr) (x : Ext) (s : State) (f : Nat → Nat → Nat) : Outcome :=
  runExt i x s fun s e _ => sResult e s x.d.toNat (f (e.rs x.a.toNat) (e.srcSB x))

/-- `SADD`, base form, `.i64` (R226). -/
def execSaddBase (m : Marks) (d a b : BitVec 6) (lit : Option DWord) (s : State) : Outcome :=
  runBase (.saddBase m d a b lit) m (baseWords lit) s fun s e => sResult e s d.toNat ((e.rs a.toNat + e.baseSB b lit) % 2 ^ 64)
/-- `SMOV`, base form: the base SALU with B = 0 (R182). -/
def execSmovBase (m : Marks) (d a : BitVec 6) (s : State) : Outcome :=
  runBase (.smovBase m d a) m 1 s fun s e => sResult e s d.toNat (e.rs a.toNat)
/-- `SADD` (R226). -/
def execSaddExt (x : Ext) (s : State) : Outcome := salu (.saddExt x) x s fun a b => saluRes x (saluInt x a + saluInt x b)
/-- `SSUB` (R226). -/
def execSsub (x : Ext) (s : State) : Outcome := salu (.ssub x) x s fun a b => saluRes x (saluInt x a - saluInt x b)
/-- `SMUL` (R226). -/
def execSmul (x : Ext) (s : State) : Outcome := salu (.smul x) x s fun a b => saluRes x (saluInt x a * saluInt x b)
/-- `SAND` (R226). -/
def execSand (x : Ext) (s : State) : Outcome := salu (.sand x) x s fun a b => Nat.land a b
/-- `SOR` (R226). -/
def execSor (x : Ext) (s : State) : Outcome := salu (.sor x) x s fun a b => Nat.lor a b
/-- `SXOR` (R226). -/
def execSxor (x : Ext) (s : State) : Outcome := salu (.sxor x) x s fun a b => Nat.xor a b
/-- `SSHL` (R226). -/
def execSshl (x : Ext) (s : State) : Outcome := salu (.sshl x) x s fun a b => shlOf 64 a b
/-- `SSHR` (R226). -/
def execSshr (x : Ext) (s : State) : Outcome :=
  salu (.sshr x) x s fun a b => if x.ty == 7#5 then sarOf 64 a b else shrOf 64 a b
/-- `SMIN` (R226). -/
def execSmin (x : Ext) (s : State) : Outcome := salu (.smin x) x s fun a b => if saluInt x b < saluInt x a then b else a
/-- `SMAX` (R226). -/
def execSmax (x : Ext) (s : State) : Outcome := salu (.smax x) x s fun a b => if saluInt x a < saluInt x b then b else a

/-- R184, R227: a scalar or index register written: fields 64 to 67 are i0 to i3. -/
def siWrite (n v : Nat) : RegWrite :=
  if n < 64 then .s n (BitVec.ofNat 64 v) else .i (n - 64) (BitVec.ofNat 8 v)
/-- A scalar or index register read. -/
def Env.rsi (e : Env) (n : Nat) : Nat := if n < 64 then e.rs n else e.ri (n - 64)

/-- `SMOV` (R226, R227). -/
def execSmovExt (x : Ext) (s : State) : Outcome :=
  runExt (.smovExt x) x s fun s e _ => e.result s [siWrite x.d.toNat (e.rsi x.a.toNat)]
/-- R226: the immediate of `SMOVI`. -/
def smoviImm (x : Ext) : Nat := match x.lit with
  | some l => l.toNat
  | none => wrapI 64 x.imm.toInt
/-- `SMOVI` (R226, R227). -/
def execSmovi (x : Ext) (s : State) : Outcome :=
  runExt (.smovi x) x s fun s e _ => e.result s [siWrite x.d.toNat (smoviImm x)]

/-- `SCMP` (R228). -/
def execScmp (c : Cond) (x : Ext) (s : State) : Outcome :=
  runExt (.scmp c x) x s fun s e _ =>
    e.result s [.k x.d.toNat (condI c (saluInt x (e.rs x.a.toNat)) (saluInt x (e.srcSB x)))]

/-- R229. -/
def kopOf (o : KOp) (a b : Bool) : Bool :=
  match o with
  | .and => a && b
  | .or => a || b
  | .xor => a != b
  | .andn => a && !b
  | .not => !a
  | .mov => a
/-- `KOP` (R229). -/
def execKop (o : KOp) (x : Ext) (s : State) : Outcome :=
  runExt (.kop o x) x s fun s e _ => e.result s [.k x.d.toNat (kopOf o (e.rk x.a.toNat) (e.rk x.b.toNat))]

end Sys2Proof.Machine
end

