-- ==== Sys2Proof/Machine/Special.lean ====
section
/-! DEFINITION. The special functions (R243): exact cases and special results as the table gives them; every other
result is the free value of Config where that value meets the table's bound, and the nearest value otherwise (log
entry 6). -/

namespace Sys2Proof.Machine

/-- Fraction bits of the fixed-point numbers a bound is checked with. -/
def fixP : Nat := 220
def fixOne : Int := (2 ^ fixP : Nat)
def fixMul (a b : Int) : Int := a * b / fixOne

/-- A dyadic value as a fixed-point number, rounded down. -/
def toFix (neg : Bool) (m : Nat) (e : Int) : Int :=
  let v : Int := if neg then -(m : Int) else (m : Int)
  if 0 ≤ e + fixP then v * (2 ^ (e + fixP).toNat : Nat) else v / (2 ^ (-(e + fixP)).toNat : Nat)

/-- ln 2. -/
def fixLn2 : Int := ((List.range 230).map fun k => fixOne / (((k + 1) * 2 ^ (k + 1) : Nat) : Int)).sum

/-- atan(1/n). -/
def fixAtanInv (n : Nat) : Int :=
  ((List.range 160).map fun k =>
    let t := fixOne / (((2 * k + 1) * n ^ (2 * k + 1) : Nat) : Int)
    if k % 2 = 0 then t else -t).sum

def fixPi : Int := 16 * fixAtanInv 5 - 4 * fixAtanInv 239

/-- The sum of n terms of a series whose term k + 1 is term k times x over the given divisor. -/
def fixSeries (x : Int) (div : Nat → Int) : Nat → Nat → Int → Int
  | 0, _, _ => 0
  | n + 1, k, t => t + fixSeries x div n (k + 1) (fixMul t x / div k)

/-- e^x for 0 ≤ x < 1. -/
def fixExp (x : Int) : Int := fixSeries x (fun k => (k : Int) + 1) 60 0 fixOne

/-- sin x and cos x for a reduced argument. -/
def fixSin (x : Int) : Int := fixSeries (-(fixMul x x)) (fun k => (2 * k + 2 : Int) * (2 * k + 3)) 60 0 x
def fixCos (x : Int) : Int := fixSeries (-(fixMul x x)) (fun k => (2 * k + 1 : Int) * (2 * k + 2)) 60 0 fixOne

/-- A reference value: n * 2^e. -/
abbrev Dyad := Int × Int

/-- 2^x of a dyadic x. -/
def refExp2 (neg : Bool) (m : Nat) (e : Int) : Dyad :=
  let x := toFix neg m e
  (fixExp (fixMul (x % fixOne) fixLn2), x / fixOne - fixP)

/-- log2 of m * 2^e, m nonzero. -/
def refLog2 (m : Nat) (e : Int) : Dyad :=
  let t := Nat.log2 m
  let f : Int := if t ≤ fixP then (m * 2 ^ (fixP - t) : Nat) else (m / 2 ^ (t - fixP) : Nat)
  let z := (f - fixOne) * fixOne / (f + fixOne)
  let z2 := fixMul z z
  let ln := 2 * ((List.range 75).foldl (fun (acc : Int × Int) (k : Nat) => (acc.1 + acc.2 / (2 * (k : Int) + 1), fixMul acc.2 z2)) (0, z)).1
  ((t + e) * fixOne + ln * fixOne / fixLn2, -fixP)

/-- A value just nearer to zero than one of m * 2^e. -/
def justBelow (neg : Bool) (m : Nat) (e : Int) : Dyad :=
  let v : Int := (m * 2 ^ 200 : Nat) - 1
  (if neg then -v else v, e - 200)
/-- A magnitude below 2^-60, where sin, cos and tanh lie less than 2^-119 of their value below A, 1 and A. -/
def tiny (m : Nat) (e : Int) : Bool := decide ((Nat.log2 m : Int) + e < -60)

/-- sin or cos of a dyadic argument of at most 2^16 in magnitude. -/
def refSinCos (cos neg : Bool) (m : Nat) (e : Int) : Dyad :=
  if tiny m e then (if cos then justBelow false 1 0 else justBelow neg m e) else
  let x := toFix neg m e
  let small := x.natAbs ≤ fixPi.natAbs
  let r := if small then x else x % (2 * fixPi)
  (if cos then fixCos r else fixSin r, -fixP)

/-- tanh of a dyadic argument below 9.5 in magnitude. -/
def refTanh (neg : Bool) (m : Nat) (e : Int) : Dyad :=
  if tiny m e then justBelow neg m e else
  let y := 2 * toFix false m e
  let n := (y / fixLn2).toNat
  let ex := fixExp (y - n * fixLn2) * (2 ^ n : Nat)
  let v := (ex - fixOne) * fixOne / (ex + fixOne)
  (if neg then -v else v, -fixP)

/-- |a − b| ≤ c. -/
def dyadWithin (a b c : Dyad) : Bool :=
  let e := min a.2 (min b.2 c.2)
  let up (d : Dyad) : Int := d.1 * (2 ^ (d.2 - e).toNat : Nat)
  (up a - up b).natAbs ≤ (up c).natAbs

/-- One unit in the last place of a format at a reference value. -/
def Fmt.ulp (f : Fmt) (r : Dyad) : Dyad :=
  (1, max ((Nat.log2 r.1.natAbs : Int) + r.2 - f.fb) f.qmin)

def dyadOf (v : FVal) : Option Dyad :=
  match v with
  | .fin n m e => some (if n then -(m : Int) else (m : Int), e)
  | _ => none

/-- The free candidate where it lies within the bound of the reference, and the nearest value otherwise. -/
def pickSpecial (f : Fmt) (sub bits : Nat) (ref bound : Dyad) : Nat :=
  let c := Config.special sub (f.fb == 52) bits % 2 ^ f.width
  match dyadOf (f.read c) with
  | some d => if dyadWithin d ref bound then c
    else (f.round 0 false (decide (ref.1 < 0)) ref.1.natAbs ref.2).1
  | none => (f.round 0 false (decide (ref.1 < 0)) ref.1.natAbs ref.2).1

/-- Whether a magnitude is a power of two, and its exponent. -/
def pow2? (m : Nat) (e : Int) : Option Int := if m ≠ 0 && m = 2 ^ Nat.log2 m then some (Nat.log2 m + e) else none

/-- FRCP: the reference is the quotient to many bits. -/
def frcp (f : Fmt) (bits : Nat) : FRes :=
  match f.read bits with
  | .nan s => nanRes f s
  | .inf n => (f.signed n 0, noFlag)
  | .fin n m e =>
    if m = 0 then (f.infBits n, DZ)
    else
      let k := 4 * f.fb + 64 + Nat.log2 m
      let q : Int := (2 ^ k / m : Nat)
      let exact := fdivV f 0 (.fin false 1 0) (.fin n m e)
      let maxM := f.read f.maxMag
      let beyond := match maxM with
        -- 1 / (m * 2^e) > mm * 2^ee
        | .fin _ mm ee => decide ((addExact false 1 (-(e + ee)) true (m * mm) 0).1 > 0)
        | _ => false
      if beyond then (f.infBits n, OF)
      else
        match pow2? m e with
        | some _ => (exact.1, noFlag)
        | none =>
          let ref : Dyad := (if n then -q else q, -e - k)
          let r := pickSpecial f 0 bits ref (f.ulp ref)
          -- a finite result, as the table's bound asks
          (if r % 2 ^ (f.eb + f.fb) > f.maxMag then f.signed n f.maxMag else r, noFlag)

/-- FRSQ. -/
def frsq (f : Fmt) (bits : Nat) : FRes :=
  match f.read bits with
  | .nan s => nanRes f s
  | .inf n => if n then nanRes f true else (f.signed false 0, noFlag)
  | .fin n m e =>
    if m = 0 then (f.infBits n, DZ)
    else if n then nanRes f true
    else
      let k : Int := 4 * f.fb + 64 + Nat.log2 m
      -- floor of 2^k / sqrt(m * 2^e'), with an even exponent taken out
      let e' : Int := if e % 2 = 0 then e else e - 1
      let m' := if e % 2 = 0 then m else 2 * m
      let q : Int := Nat.sqrt (2 ^ (2 * k).toNat / m')
      let ref : Dyad := (q, -k - e' / 2)
      match pow2? m e with
      | some p => if p % 2 = 0 then ((f.round 0 false false 1 (-(p / 2))).1, noFlag)
        else (pickSpecial f 1 bits ref (f.ulp ref), noFlag)
      | none => (pickSpecial f 1 bits ref (f.ulp ref), noFlag)

/-- A dyadic value compared with an integer over two to a power. -/
def dyadLt (neg : Bool) (m : Nat) (e : Int) (n : Int) (s : Nat) : Bool :=
  decide ((addExact neg m e (decide (0 < n)) n.natAbs (-(s : Int))).1 < 0)

def twice (d : Dyad) : Dyad := (2 * d.1, d.2)

/-- FEXP2 (`.f32`). -/
def fexp2 (bits : Nat) : FRes :=
  let f := Fmt.f32
  match f.read bits with
  | .nan s => nanRes f s
  | .inf n => (if n then 0 else f.infMag, noFlag)
  | .fin n m e =>
    if !dyadLt n m e 128 0 then (f.infMag, OF)
    else if dyadLt n m e (-150) 0 then (0, noFlag)
    else
      let (t, exact) := roundTo 1 n m e 0
      let ref := refExp2 n m e
      if exact && !dyadLt n m e (-149) 0 then ((f.round 0 false false 1 (if n then -(t : Int) else t)).1, noFlag)
      else if dyadLt n m e (-126) 0 then (pickSpecial f 2 bits ref (1, -148), noFlag)
      else (pickSpecial f 2 bits ref (twice (f.ulp ref)), noFlag)

/-- FLOG2 (`.f32`). -/
def flog2 (bits : Nat) : FRes :=
  let f := Fmt.f32
  match f.read bits with
  | .nan s => nanRes f s
  | .inf n => if n then nanRes f true else (f.infMag, noFlag)
  | .fin n m e =>
    if m = 0 then (f.signed true f.infMag, DZ)
    else if n then nanRes f true
    else
      match pow2? m e with
      | some p => ((f.round 0 false (decide (p < 0)) p.natAbs 0).1, noFlag)
      | none =>
        let ref := refLog2 m e
        let inside := !dyadLt false m e 1 1 && (dyadLt false m e 2 0)
        (pickSpecial f 3 bits ref (if inside then (1, -22) else twice (f.ulp ref)), noFlag)

/-- FSIN and FCOS (`.f32`). -/
def fsincos (cos : Bool) (bits : Nat) : FRes :=
  let f := Fmt.f32
  let sub := if cos then 5 else 4
  match f.read bits with
  | .nan s => nanRes f s
  | .inf _ => nanRes f true
  | .fin n m e =>
    if m = 0 then (if cos then (f.round 0 false false 1 0).1 else f.signed n 0, noFlag)
    else if !dyadLt false m e 65537 0 || (!dyadLt false m e 65536 0 && (addExact false m e true 65536 0).1 != 0) then
      (pickSpecial f sub bits (0, 0) (1, 0), noFlag)
    else
      let ref := refSinCos cos n m e
      let small := (toFix false m e) ≤ fixPi
      (pickSpecial f sub bits ref (if small then twice (f.ulp ref) else (1, -21)), noFlag)

/-- FTANH (`.f32`). -/
def ftanh (bits : Nat) : FRes :=
  let f := Fmt.f32
  let one := (f.round 0 false false 1 0).1
  match f.read bits with
  | .nan s => nanRes f s
  | .inf n => (f.signed n one, noFlag)
  | .fin n m e =>
    if m = 0 then (f.signed n 0, noFlag)
    else if !dyadLt false m e 19 1 then (f.signed n one, noFlag)
    else
      let ref := refTanh n m e
      (pickSpecial f 6 bits ref (twice (f.ulp ref)), noFlag)

end Sys2Proof.Machine
end

