-- ==== Sys2Proof/Machine/FloatFam.lean ====
section
/-! DEFINITION. Floating-point and conversion instructions, BFP and the format word (R235-R248). -/

namespace Sys2Proof.Machine

/-- A lane-by-lane instruction whose lanes give a value and flags (R172, R235). -/
def laneF (i : Instr) (x : Ext) (wideD : Bool) (s : State) (f : Env → Regs → Nat → Nat × BitVec 5) : Outcome :=
  runExt i x s fun s e r =>
    let vs := e.lanes.map fun l => (l, f e r l)
    e.result s (vs.flatMap fun p => vWrites wideD r.d p.1 p.2.1) (orFlags (vs.map fun p => p.2.2))

/-- A base form of the same kind. -/
def laneFBase (i : Instr) (m : Marks) (words : Nat) (regs : List Nat) (d : Nat) (s : State)
    (f : Env → Nat → Nat × BitVec 5) : Outcome :=
  runVec i m words regs s fun s e =>
    let vs := e.lanes.map fun l => (l, f e l)
    e.result s (vs.flatMap fun p => vWrites false d p.1 p.2.1) (orFlags (vs.map fun p => p.2.2))

/-- R189: abs clears the sign bit, negate then inverts it. -/
def signMod (f : Fmt) (neg abs : Bool) (v : Nat) : Nat :=
  let b := v % 2 ^ f.width
  let m := if abs then b % 2 ^ (f.width - 1) else b
  if neg then (if m < 2 ^ (f.width - 1) then m + 2 ^ (f.width - 1) else m - 2 ^ (f.width - 1)) else m

/-- R166, R236: whether a type is packed, and the width of one of its elements in its register bits. -/
def packed (ty : BitVec 5) : Bool := 17 ≤ ty.toNat
def elemWidth (ty : BitVec 5) : Nat := (fmtOf ty.toNat).width

/-- An operation on the elements of a type: one, or two of a packed form (R236). -/
def onElems (ty : BitVec 5) (f : (Nat → Nat) → Nat × BitVec 5) : Nat × BitVec 5 :=
  let w := elemWidth ty
  if packed ty then
    let lo := f fun v => v % 2 ^ w
    let hi := f fun v => v / 2 ^ w % 2 ^ w
    (lo.1 + hi.1 * 2 ^ w, lo.2 ||| hi.2)
  else f fun v => v % 2 ^ w

/-- Sources after MOD (R189). -/
def Ext.modA (x : Ext) (f : Fmt) (v : Nat) : Nat := signMod f (x.mod.getLsbD 0) (x.mod.getLsbD 1) v
def Ext.modB (x : Ext) (f : Fmt) (v : Nat) : Nat := signMod f (x.mod.getLsbD 2) (x.mod.getLsbD 3) v
def Ext.modC (x : Ext) (f : Fmt) (v : Nat) : Nat := signMod f (x.imm.getLsbD 0) (x.imm.getLsbD 1) v

/-- A two-source float instruction on operands given as bits after MOD. -/
def float2 (i : Instr) (x : Ext) (wideD : Bool) (s : State) (op : Fmt → Nat → Nat → Nat × BitVec 5) : Outcome :=
  laneF i x wideD s fun e r l => onElems x.ty fun el =>
    let f := fmtOf x.ty.toNat
    op f (Machine.Ext.modA x f (el (e.src (w64 x.ty) r.a l))) (Machine.Ext.modB x f (el (e.srcB x r (w64 x.ty) l)))

/-- A one-source float instruction. -/
def float1 (i : Instr) (x : Ext) (wideD : Bool) (s : State) (op : Fmt → Nat → Nat × BitVec 5) : Outcome :=
  laneF i x wideD s fun e r l => op (fmtOf x.ty.toNat) (e.src (w64 x.ty) r.a l % 2 ^ elemWidth x.ty)

/-- `FADD`, base form, `.f32` RNE (R237). -/
def execFaddBase (m : Marks) (d a b : BitVec 7) (lit : Option DWord) (s : State) : Outcome :=
  laneFBase (.faddBase m d a b lit) m (baseWords lit) (baseRegs d a b lit) d.toNat s fun e l =>
    faddV .f32 0 (Fmt.f32.read (e.rv a.toNat l)) (Fmt.f32.read (e.baseB b lit l))
/-- `FMUL`, base form, `.f32` RNE (R237). -/
def execFmulBase (m : Marks) (d a b : BitVec 7) (lit : Option DWord) (s : State) : Outcome :=
  laneFBase (.fmulBase m d a b lit) m (baseWords lit) (baseRegs d a b lit) d.toNat s fun e l =>
    fmulV .f32 0 (Fmt.f32.read (e.rv a.toNat l)) (Fmt.f32.read (e.baseB b lit l))
/-- `FADD` (R237). -/
def execFaddExt (x : Ext) (s : State) : Outcome :=
  float2 (.faddExt x) x (w64 x.ty) s fun f a b => faddV f x.rnd.toNat (f.read a) (f.read b)
/-- `FSUB` (R237): the sum with the sign of B inverted. -/
def execFsub (x : Ext) (s : State) : Outcome :=
  float2 (.fsub x) x (w64 x.ty) s fun f a b => faddV f x.rnd.toNat (f.read a) (f.read b).neg
/-- `FMUL` (R237). -/
def execFmulExt (x : Ext) (s : State) : Outcome :=
  float2 (.fmulExt x) x (w64 x.ty) s fun f a b => fmulV f x.rnd.toNat (f.read a) (f.read b)
/-- `FFMA` (R237). -/
def execFfma (x : Ext) (s : State) : Outcome :=
  laneF (.ffma x) x (w64 x.ty) s fun e r l => onElems x.ty fun el =>
    let f := fmtOf x.ty.toNat
    ffmaV f x.rnd.toNat (f.read (Machine.Ext.modA x f (el (e.src (w64 x.ty) r.a l))))
      (f.read (Machine.Ext.modB x f (el (e.srcB x r (w64 x.ty) l)))) (f.read (Machine.Ext.modC x f (el (e.src (w64 x.ty) r.c l))))
/-- `FMIN` (R239). -/
def execFmin (x : Ext) (s : State) : Outcome := float2 (.fmin x) x (w64 x.ty) s fun f a b => fminmax f false a b
/-- `FMAX` (R239). -/
def execFmax (x : Ext) (s : State) : Outcome := float2 (.fmax x) x (w64 x.ty) s fun f a b => fminmax f true a b
/-- `FSET` (R240). -/
def execFset (c : Cond) (x : Ext) (s : State) : Outcome :=
  float2 (.fset c x) x false s fun f a b => let r := fcondV c (f.read a) (f.read b); (maskOf r.1, r.2)
/-- `FCLASS` (R241). -/
def execFclass (x : Ext) (s : State) : Outcome := float1 (.fclass x) x false s fun f a => (fclassV f a, 0#5)
/-- `FRND` (R242). -/
def execFrnd (x : Ext) (s : State) : Outcome := float1 (.frnd x) x (w64 x.ty) s fun f a => frndV f x.rnd.toNat a
/-- `FDIV` (R238). -/
def execFdiv (x : Ext) (s : State) : Outcome :=
  laneF (.fdiv x) x (w64 x.ty) s fun e r l =>
    let f := fmtOf x.ty.toNat
    fdivV f x.rnd.toNat (f.read (e.src (w64 x.ty) r.a l)) (f.read (e.srcB x r (w64 x.ty) l))
/-- `FSQRT` (R238). -/
def execFsqrt (x : Ext) (s : State) : Outcome := float1 (.fsqrt x) x (w64 x.ty) s fun f a => fsqrtV f x.rnd.toNat (f.read a)
/-- `FRCP` (R243). -/
def execFrcp (x : Ext) (s : State) : Outcome := float1 (.frcp x) x (w64 x.ty) s fun f a => frcp f a
/-- `FRSQ` (R243). -/
def execFrsq (x : Ext) (s : State) : Outcome := float1 (.frsq x) x (w64 x.ty) s fun f a => frsq f a
/-- `FEXP2` (R243). -/
def execFexp2 (x : Ext) (s : State) : Outcome := float1 (.fexp2 x) x false s fun _ a => fexp2 a
/-- `FLOG2` (R243). -/
def execFlog2 (x : Ext) (s : State) : Outcome := float1 (.flog2 x) x false s fun _ a => flog2 a
/-- `FSIN` (R243). -/
def execFsin (x : Ext) (s : State) : Outcome := float1 (.fsin x) x false s fun _ a => fsincos false a
/-- `FCOS` (R243). -/
def execFcos (x : Ext) (s : State) : Outcome := float1 (.fcos x) x false s fun _ a => fsincos true a
/-- `FTANH` (R243). -/
def execFtanh (x : Ext) (s : State) : Outcome := float1 (.ftanh x) x false s fun _ a => ftanh a

/-! ### Conversions (R244, R245) -/

/-- An integer operand of a type: the low bits of its register, signed or unsigned. -/
def intValue (ty v : Nat) : Int :=
  let bits := 8 * 2 ^ (ty / 2)
  if ty % 2 = 1 then sInt bits (v % 2 ^ bits) else ((v % 2 ^ bits : Nat) : Int)

/-- R244: an integer result as its register holds it: 32 bits, or 64 for the 64-bit types. -/
def intReg (ty : Nat) (v : Int) : Nat := wrapI (if ty = 6 || ty = 7 then 64 else 32) v

/-- R245: an integer wrapped to a type. -/
def wrapTo (ty : Nat) (v : Int) : Int := intValue ty (wrapI 64 v)

/-- R245: one conversion between types of one element. -/
def cvt1 (dty sty mode : Nat) (sat : Bool) (v : Nat) : Nat × BitVec 5 :=
  if intTy sty then
    let i := intValue sty v
    if intTy dty then
      let r := intRange dty
      (intReg dty (if sat then clampI r.1 r.2 i else wrapTo dty i), 0#5)
    else cvtIF (fmtOf dty) mode sat i
  else
    let a := (fmtOf sty).read v
    if intTy dty then let r := cvtFI dty mode a; (intReg dty r.1, r.2)
    else cvtFF (fmtOf dty) mode sat a

/-- R245: a conversion, element by element for packed pairs. -/
def cvtOf (dty sty : BitVec 5) (mode : Nat) (sat : Bool) (v : Nat) : Nat × BitVec 5 :=
  if packed sty then
    let w := elemWidth sty
    let lo := cvt1 dty.toNat sty.toNat mode sat (v % 2 ^ w)
    let hi := cvt1 dty.toNat sty.toNat mode sat (v / 2 ^ w % 2 ^ w)
    (lo.1 + hi.1 * 2 ^ elemWidth dty, lo.2 ||| hi.2)
  else cvt1 dty.toNat sty.toNat mode sat v

/-- `CVT` (R244, R245). -/
def execCvt (src : BitVec 5) (x : Ext) (s : State) : Outcome :=
  laneF (.cvt src x) x (w64 x.ty) s fun e r l => cvtOf x.ty src x.rnd.toNat x.sat (e.src (w64 src) r.a l)

/-! ### Block floating point (R246, R247) -/

/-- `BFPQ` (R246): one block of 32 lanes. -/
def bfpqBlock (e : Env) (r : Regs) (x : Ext) (b : Nat) : List RegWrite × BitVec 5 :=
  let lanes := (List.range 32).map (32 * b + ·)
  if lanes.all fun l => !e.takesPart l then ([], 0#5)
  else
    let xs := lanes.map fun l => if e.takesPart l then Fmt.f32.read (e.rv r.b l) else .fin false 0 0
    let q := bfpQuant .f32 x.imm.toNat x.rnd.toNat x.sat xs
    let ws := (lanes.zip q.2.1).flatMap fun p =>
      if e.takesPart p.1 then
        [RegWrite.v r.d p.1 (BitVec.ofNat 32 (wrapI 32 p.2)), RegWrite.v r.a p.1 (BitVec.ofNat 32 q.1)]
      else []
    (ws, q.2.2)

/-- `BFPQ` (R246). -/
def execBfpq (x : Ext) (s : State) : Outcome :=
  runExt (.bfpq x) x s fun s e r =>
    if e.wg.g < 32 then .trap ⟨cILLENC, 0, none⟩ 0
    else
      let bs := (List.range (e.wg.g / 32)).map (bfpqBlock e r x)
      e.result s (bs.flatMap fun b => b.1) (orFlags (bs.map fun b => b.2))

/-- `BFPX` (R247). -/
def execBfpx (x : Ext) (s : State) : Outcome :=
  laneF (.bfpx x) x false s fun e r l =>
    match bfpVal x.imm.toNat (e.rv r.b l % 256) (e.rv r.a l) with
    | .nan _ => (Fmt.f32.nan, 0#5)
    | v => cvtFF .f32 x.rnd.toNat x.sat v

/-! ### The format word (R248, R174) -/

/-- R174, R248: the word `FMTW` writes. -/
def fmtwWord (x : Ext) : Nat :=
  let a := x.a.toNat
  let b := x.b.toNat
  a % 16 + b % 16 * 2 ^ 4 + a / 16 % 8 * 2 ^ 8 + b / 16 % 8 * 2 ^ 11 + x.c.toNat % 4 * 2 ^ 14 +
    x.rnd.toNat % 4 * 2 ^ 16 + (if x.sat then 2 ^ 18 else 0) + x.imm.toNat % 2 * 2 ^ 19
/-- `FMTW` (R248). -/
def execFmtw (x : Ext) (s : State) : Outcome := laneOp (.fmtw x) x false s fun _ _ _ => fmtwWord x

end Sys2Proof.Machine
end

