-- ==== Sys2Proof/Machine/CrossLane.lean ====
section
/-! DEFINITION. Cross-lane instructions (R230-R234). -/

namespace Sys2Proof.Machine

/-- R230: the lane a shuffle reads. -/
def shflLane (o : ShflMode) (l b : Nat) : Int :=
  match o with
  | .idx => b
  | .up => (l : Int) - b
  | .down => l + b
  | .xor => Nat.xor l b

/-- `SHFL` (R230). -/
def execShfl (o : ShflMode) (x : Ext) (s : State) : Outcome :=
  laneOp (.shfl o x) x (w64 x.ty) s fun e r l =>
    let j := shflLane o l (e.srcB x r false l)
    if 0 ≤ j && j < e.wg.g then e.src (w64 x.ty) r.a j.toNat else e.src (w64 x.ty) r.a l

/-- R231: combination of the values of a lower and a higher lane. -/
def combine (o : RedOp) (ty : BitVec 5) (mode : Nat) (a b : Nat) : Nat × BitVec 5 :=
  let f := fmtOf ty.toNat
  match o with
  | .add => ((a + b) % 2 ^ bitsOf ty, 0#5)
  | .min => (if asInt ty b < asInt ty a then b else a, 0#5)
  | .max => (if asInt ty a < asInt ty b then b else a, 0#5)
  | .and => (Nat.land a b, 0#5)
  | .or => (Nat.lor a b, 0#5)
  | .xor => (Nat.xor a b, 0#5)
  | .fadd => faddV f mode (f.read a) (f.read b)
  | .fmin => fminmax f false a b
  | .fmax => fminmax f true a b

/-- R231: the combination with NONE. -/
def combineOpt (o : RedOp) (ty : BitVec 5) (mode : Nat) : Option Nat → Option Nat → Option Nat × BitVec 5
  | none, y => (y, 0#5)
  | some a, none => (some a, 0#5)
  | some a, some b => let r := combine o ty mode a b; (some r.1, r.2)

/-- R231: one level of the tree: neighbours combine. -/
def pairUp (o : RedOp) (ty : BitVec 5) (mode : Nat) : List (Option Nat) → List (Option Nat) × BitVec 5
  | a :: b :: r =>
    let c := combineOpt o ty mode a b
    let rest := pairUp o ty mode r
    (c.1 :: rest.1, c.2 ||| rest.2)
  | l => (l, 0#5)

/-- R231: the whole tree over G lanes. -/
def redTree (o : RedOp) (ty : BitVec 5) (mode : Nat) : Nat → List (Option Nat) → BitVec 5 → Option Nat × BitVec 5
  | 0, l, f => (l.headD none, f)
  | n + 1, l, f =>
    if l.length ≤ 1 then (l.headD none, f)
    else let p := pairUp o ty mode l; redTree o ty mode n p.1 (f ||| p.2)

/-- `LRED` (R231). -/
def execLred (o : RedOp) (x : Ext) (s : State) : Outcome :=
  runExt (.lred o x) x s fun s e r =>
    let xs := (List.range e.wg.g).map fun l => if e.takesPart l then some (e.src (w64 x.ty) r.a l) else none
    let t := redTree o x.ty x.rnd.toNat 6 xs 0#5
    match t.1 with
    | none => e.result s []
    | some v => e.result s (e.lanes.flatMap fun l => vWrites (w64 x.ty) r.d l v) t.2

/-- R232: the identity of an operation. -/
def redIdentity (o : RedOp) (ty : BitVec 5) : Nat :=
  let f := fmtOf ty.toNat
  let r := intRange ty.toNat
  match o with
  | .add => 0
  | .or => 0
  | .xor => 0
  | .and => 2 ^ bitsOf ty - 1
  | .min => wrapI (bitsOf ty) r.2
  | .max => wrapI (bitsOf ty) r.1
  | .fadd => 0
  | .fmin => f.infMag
  | .fmax => f.signed true f.infMag

/-- R232: one step of the scan: every element at or beyond s combines with the one s below. -/
def scanStep (o : RedOp) (ty : BitVec 5) (mode s : Nat) (xs : List Nat) : List Nat × BitVec 5 :=
  let cs := (xs.zip (xs.drop s)).map fun p => combine o ty mode p.1 p.2
  (xs.take s ++ cs.map fun c => c.1, orFlags (cs.map fun c => c.2))

/-- R232: the whole scan. -/
def scanAll (o : RedOp) (ty : BitVec 5) (mode : Nat) : Nat → Nat → List Nat → BitVec 5 → List Nat × BitVec 5
  | 0, _, xs, f => (xs, f)
  | n + 1, s, xs, f =>
    if xs.length ≤ s then (xs, f)
    else let p := scanStep o ty mode s xs; scanAll o ty mode n (2 * s) p.1 (f ||| p.2)

/-- `LSCAN` (R232). -/
def execLscan (excl : Bool) (o : RedOp) (x : Ext) (s : State) : Outcome :=
  runExt (.lscan excl o x) x s fun s e r =>
    let xs := (List.range e.a.pk).map fun l => e.src (w64 x.ty) r.a l
    let t := scanAll o x.ty x.rnd.toNat 6 1 xs 0#5
    let vs := if excl then redIdentity o x.ty :: t.1 else t.1
    e.result s (e.lanes.flatMap fun l => vWrites (w64 x.ty) r.d l (vs.getD l 0)) t.2

/-- A lane's value as `VBCAST` and `VLANE` read it (R233). -/
def Env.laneVal (e : Env) (x : Ext) (r : Regs) (j : Nat) : Nat := if j < e.wg.g then e.src (w64 x.ty) r.a j else 0

/-- `VBCAST` (R233). -/
def execVbcast (x : Ext) (s : State) : Outcome :=
  laneOp (.vbcast x) x (w64 x.ty) s fun e r _ =>
    if x.imm == 1#8 then e.rs x.a.toNat % 2 ^ bitsOf x.ty else e.laneVal x r (e.srcSB x)
/-- `VLANE` (R233). -/
def execVlane (x : Ext) (s : State) : Outcome :=
  runExt (.vlane x) x s fun s e r => sResult e s x.d.toNat (e.laneVal x r (e.srcSB x))

/-! ### TOPKI (R234) -/

/-- Whether a candidate is better than an entry: scores compare as numbers of TYPE. -/
def topBetter (ty : BitVec 5) (c ic sc ix : Nat) : Bool :=
  if ty == 10#5 then
    let f := Fmt.f32
    isNaN (f.read sc) || cmpV (f.read c) (f.read sc) == .gt || (cmpV (f.read c) (f.read sc) == .eq && decide (ic < ix))
  else decide (asInt ty sc < asInt ty c) || (sc == c && decide (ic < ix))

/-- The list with a candidate inserted before the first of the trailing entries it is better than. -/
def topPlace (ty : BitVec 5) (c ic : Nat) (l : List (Nat × Nat)) : Nat :=
  l.length - (l.reverse.takeWhile fun p => topBetter ty c ic p.1 p.2).length
def topInsert (ty : BitVec 5) (c ic : Nat) (l : List (Nat × Nat)) : List (Nat × Nat) :=
  let q := topPlace ty c ic l
  (l.take q ++ (c, ic) :: l.drop q).take l.length

/-- One lane of `TOPKI`: the entries before the candidate's place are not written. -/
def topLane (e : Env) (x : Ext) (r : Regs) (n l : Nat) : List RegWrite :=
  let c := e.rv r.a l
  let ic := e.srcB x r false l
  if x.ty == 10#5 && isNaN (Fmt.f32.read c) then []
  else
    let old := (List.range n).map fun p => (e.rv (r.d + p) l, e.rv (r.d + n + p) l)
    ((enumFrom 0 (topInsert x.ty c ic old)).drop (topPlace x.ty c ic old)).flatMap fun p =>
      [RegWrite.v (r.d + p.1) l (BitVec.ofNat 32 p.2.1), RegWrite.v (r.d + n + p.1) l (BitVec.ofNat 32 p.2.2)]

/-- `TOPKI` (R234). -/
def execTopki (k : BitVec 2) (x : Ext) (s : State) : Outcome :=
  runExt (.topki k x) x s fun s e r => e.result s (e.lanes.flatMap fun l => topLane e x r (2 ^ k.toNat) l)

end Sys2Proof.Machine
end

