-- ==== Sys2Proof/Machine/Queues.lean ====
section
/-! DEFINITION. Queues, their waiters, completion records, and the task instructions QPOST, QPOP, LAUNCH and CMPL
(R139-R145, R158, R287-R291, R321). -/

namespace Sys2Proof.Machine

/-! ### Queue descriptors (R141) -/

/-- A queue descriptor as read: its address, ring, size, counts and CLOSED. -/
structure QDesc where
  va : Nat
  ring : Nat
  size : Nat
  posted : Nat
  taken : Nat
  closed : Bool
  deriving DecidableEq, Repr, Inhabited

def QDesc.count (q : QDesc) : Nat := (q.posted + 2 ^ 32 - q.taken) % 2 ^ 32
def QDesc.slot (q : QDesc) (k : Nat) : Nat := q.ring + 32 * (k % q.size)

/-- Descriptor u of the context's queue area, read for an indivisible step at its home (R69, R141); none when the queue does
not exist. R141 gives QSZ 4 to 16 and RING an alignment, and no outcome for others: any nonzero QSZ is taken as 2^QSZ entries,
and RING as it stands (log entry 75). -/
def readQ (s : State) (a : Acc) (u : Nat) : U (State × Option QDesc) :=
  let area := ctxQarea s a.who.asid
  if area = 0 then .ok (s, none)
  else
    match uReadNat ((rmwFirst s a.who (uHomes s a (area + 32 * u) 32)).getD s) a (area + 32 * u) 32 with
    | .error e => .error e
    | .ok (s, w) =>
      let qsz := fld w 128 5
      .ok (s, if qsz = 0 then none
        else some ⟨area + 32 * u, fld w 0 52, 2 ^ qsz, fld w 192 32, fld w 224 32, bitN w 133⟩)

/-- The first queue of a list that exists. -/
def firstQ (s : State) (a : Acc) : List Nat → U (State × Option Nat)
  | [] => .ok (s, none)
  | u :: r =>
    match readQ s a u with
    | .error e => .error e
    | .ok (s, some _) => .ok (s, some u)
    | .ok (s, none) => firstQ s a r

/-- A queue number of a shard. -/
def shardQ (h : Nat) : Nat := 256 + h

/-- R140, R141: the shard a post to the global queue goes to, given DATA and the poster's own; the lookup waits for a page-table
entry whose frame is in a bias flip (R74). -/
def pickShard (s : State) (a : Acc) (data own : Nat) : U (State × Option Nat) :=
  let go (c : Nat) : U (State × Option Nat) := firstQ s a ((c :: (List.range 8).map (8 * (c / 8) + ·) ++ List.range 64).map shardQ)
  match xlat s a.who .load data with
  | .ok t => let pa := t.pa + data % 2 ^ t.bits; go (8 * homeDie pa + homeSlice pa / 2)
  | .wait => .error (.wait s)
  | _ => go own

/-- R140: the order in which a `QPOP` tries the shards. -/
def scanOrder (die core : Nat) : List Nat :=
  let own := 8 * die + core / 4
  (own :: (((List.range 8).map (8 * die + ·)).filter fun h => h != own) ++
    (List.range 7).flatMap fun j => (List.range 8).map (8 * ((die + 1 + j) % 8) + ·)).map shardQ

/-! ### Taking (R142, R321) -/

/-- What a take finds. -/
inductive Pop where
  | empty
  | closed
  | entry (bytes : List Byte) (bind : Option (Nat × Nat))
  deriving DecidableEq, Repr, Inhabited

def wordAt (bs : List Byte) (off : Nat) : Nat := ofBytes ((bs.drop off).take 8)

/-- R321: a continuation is taken: the group record and sibling to bind, or none where it is delivered to no one. It reads
the header line and the sibling's state word, and no other line of the record. -/
def takeCont (s : State) (a : Acc) (entry : List Byte) : U (State × Option (Nat × Nat)) :=
  let g := wordAt entry 16
  let i := wordAt entry 24
  let drop (s : State) : U (State × Option (Nat × Nat)) := .ok (logEvent s .post [g, i], none)
  if g % 1024 != 0 || 2 ^ 52 ≤ g || 64 ≤ i then drop s
  else
    match uRead s a g 32 with
    | .error (.wait s) => .error (.wait s)
    | .error (.fail s _) => drop s
    | .ok (s, hd) =>
      match uReadNat s a (g + 0x280 + 4 * i) 4 with
      | .error (.wait s) => .error (.wait s)
      | .error (.fail s _) => drop s
      | .ok (s, st) =>
        if fld (wordAt hd 0) 0 7 ≤ i then drop s
        else if fld (wordAt hd 0x18) 0 4 != 1 || bitN st 1 then .ok (s, none)
        else
          match uWrite s a (g + 0x280 + 4 * i) (toBytes 4 (Nat.lor st 4)) with
          | .error (.wait s) => .error (.wait s)
          | .error (.fail s _) => drop s
          | .ok s => .ok (s, some ((uHomes s a g 1).headD 0, i))

/-- A take from queue u, going past continuations that are delivered to no one. A CLOSE entry that is reached sets CLOSED;
the spec does not say whether it counts as taken, and TAKEN stays as it was (log entry 63). -/
def popQ (a : Acc) (u : Nat) : Nat → State → U (State × Pop)
  | 0, s => .ok (s, .empty)
  | fuel + 1, s =>
    match readQ s a u with
    | .error e => .error e
    | .ok (s, none) => .ok (s, .empty)
    | .ok (s, some q) =>
      if u < 256 && q.closed then .ok (s, .closed)
      else if q.count = 0 then .ok (s, .empty)
      else
        match uRead s a (q.slot q.taken) 32 with
        | .error e => .error e
        | .ok (s, bs) =>
          let w := wordAt bs 0
          let took (s : State) : U State := uWrite s a (q.va + 28) (toBytes 4 (q.taken + 1))
          if u < 256 && bitN w 49 then
            match uRead s a (q.va + 16) 1 with
            | .error e => .error e
            | .ok (s, b) =>
              match uWrite s a (q.va + 16) (toBytes 1 (Nat.lor (ofBytes b) 32)) with
              | .error e => .error e
              | .ok s => .ok (s, .closed)
          else if bitN w 48 then
            match takeCont s a bs with
            | .error e => .error e
            | .ok (s, bind) =>
              match took s with
              | .error e => .error e
              | .ok s =>
                match bind with
                | none => popQ a u fuel s
                | some b => .ok (s, .entry bs (some b))
          else
            match took s with
            | .error e => .error e
            | .ok s => .ok (s, .entry bs none)

/-- No queue holds more entries than this (R141). -/
def popFuel : Nat := 65537

/-- The accesses an agent's task instruction has made for it at the memory side. -/
def Env.unit (e : Env) : Acc := ⟨{ e.who with core := 32 }, .agent e.g.uid e.a.id, e.a.pc⟩

/-- The warp whose place an agent holds (R321). -/
def Env.placeHolder (e : Env) : Nat :=
  if e.a.isPack then ((e.g.agents.find? fun a => !a.isPack && a.wg == e.a.wg && a.place == e.a.place).map fun a => a.id).getD e.a.id
  else e.a.id

def dropWaiter (s : State) (e : Env) : State :=
  { s with waiters := s.waiters.filter fun w => !(w.gang == e.g.uid && w.agent == e.a.id) }

/-- R142: what an agent gets from a take that ends its `QPOP`; with an entry, an acquire at `.dev` comes before its next
instruction (R122). -/
def receive (s : State) (e : Env) (p : Pop) : State :=
  let s := dropWaiter s e
  match p with
  | .entry bs bind =>
    let ent := BitVec.ofNat 64 (fld (wordAt bs 0) 0 32)
    let s := e.set s fun a => { a with acq := some 3 }
    let s := match bind with
      | none => s
      | some (pa, i) => e.setGang s fun g => g.updAgent e.placeHolder fun a => { a with bind := some ⟨pa, i, e.a.pc⟩, notice := false }
    e.addOut s { writes := [.s 1 (e.g.blk.code.setWidth 64 + ent), .s 2 (BitVec.ofNat 64 (fld (wordAt bs 0) 32 32)),
      .s 3 (BitVec.ofNat 64 (wordAt bs 16)), .s 4 (BitVec.ofNat 64 (wordAt bs 24)), .s 5 (BitVec.ofNat 64 (wordAt bs 8)), .k 1 true] }
  | _ => e.addOut s { writes := [.k 1 false] }

/-! ### Posting (R141, R158) -/

/-- The waiters of a queue, in the order they registered. -/
def waitersOf (s : State) (asid u : Nat) : List Waiter := s.waiters.filter fun w => w.asid == asid && w.queue == u

/-- Whether a waiter is of a resident gang that is not being saved. -/
def Waiter.free (s : State) (w : Waiter) : Bool := match s.gang? w.gang with
  | some g => g.stop.isNone && !g.dying
  | none => false
/-- Whether a waiter is of a gang that is being saved for a wait or a page fault, or is out for one (R158, R160). -/
def Waiter.swapped (s : State) (w : Waiter) : Bool := match s.gang? w.gang with
  | some g => !g.dying && (g.stop.map fun p => p.cause.yields).getD false
  | none => s.saved.any fun v => v.gang.uid == w.gang && (v.cause == .longWait || v.cause == .pageFault)

/-- R158: what a post does for waiters: the earliest one of a resident gang that is not being saved takes the entry;
else the earliest gang being saved for a wait, or swapped out, has its condition true. -/
def wakeQ (s : State) (asid u : Nat) : State :=
  let ws := waitersOf s asid u
  match ws.find? (Waiter.free s) with
  | some w =>
    match envOf s w.gang w.agent with
    | none => s
    | some e =>
      match popQ e.unit u popFuel s with
      | .error (.wait s) => s
      | .error (.fail s c) => takeTrap (dropWaiter s e) e (e.trapAt 3 5 ⟨c % 32, 0, none⟩ 0)
      | .ok (s, .empty) => s
      | .ok (s, p) => advance (receive s e p) e waitHdr (e.nextPc waitHdr)
  | none =>
    match ws.find? (Waiter.swapped s) with
    | none => s
    | some w => conditionTrue s w.gang

/-- A post to queue u: whether it found room (R141). -/
def postQ (s : State) (a : Acc) (u : Nat) (entry : List Byte) : U (State × Bool) :=
  match readQ s a u with
  | .error e => .error e
  | .ok (s, none) => .ok (s, false)
  | .ok (s, some q) =>
    if q.size ≤ q.count then .ok (s, false)
    else
      match uWriteAddrs s a (q.slot q.posted) 32 with
      | .error e => .error e
      | .ok ras =>
        match uWriteAddrs s a (q.va + 24) 4 with
        | .error e => .error e
        | .ok das =>
          let s := uPut s a.who (ras.zip entry ++ das.zip (toBytes 4 (q.posted + 1)))
          .ok (wakeQ s a.who.asid u, true)

/-- R139: a nonzero reserved field, or an ENTRY that is no multiple of 4. -/
def entryBad (bs : List Byte) : Bool :=
  fld (wordAt bs 0) 50 14 != 0 || wordAt bs 0 % 4 != 0 || fld (wordAt bs 8) 52 12 != 0

/-- The queue a post goes to: none where it does not exist. -/
def postTarget (s : State) (a : Acc) (q : Nat) (entry : List Byte) (own : Nat) : U (State × Option Nat) :=
  if q = 256 then pickShard s a (wordAt entry 8) own else firstQ s a [q]

/-- `QPOST` (R288). -/
def execQpost (x : Ext) (s : State) : Outcome :=
  runExt (.qpost x) x s fun s e r =>
    if thinRecord (e.rb r.a) then .trap ⟨cOOB, 0, some 15⟩ 0
    else
      match access s e.who .load (e.rb r.a) 32 32 [(0, e.sIndex r.b x.offset)] with
      | .trap t => .trap t 0
      | .page ps => .page .load ps
      | .ok l ts =>
        let as := readBytesOf (allPieces l)
        match poisonLane s e.who l with
        | some n => .trap ⟨cMEMPOISON, n, none⟩ 0
        | none =>
          if as.isEmpty then .trap ⟨cOOB, 0, none⟩ 0
          else if readBlocked s e (homeBytesOf (allPieces l)) as then .stay s
          else
            let s := ownFirst (noteTlb s e.who ts) e (homeBytesOf (allPieces l))
            let bs := viewBytes s e.who as
            let q := e.rs r.d
            if 256 < q then .trap ⟨cOOB, 0, none⟩ 0
            else if entryBad bs then .trap ⟨cOOB, 0, some 15⟩ 0
            else
              match fence (noteRead s e.who as) e 1 3 with
              | none => .stay s
              | some s =>
                match postTarget s e.unit q bs (clusterOf e.g.die e.g.core) with
                | .error u => u.res e x
                | .ok (_, none) => .trap ⟨cOOB, 0, none⟩ 0
                | .ok (s, some u) =>
                  match postQ s e.unit u bs with
                  | .error u => u.res e x
                  | .ok (s, ok) => e.result s [.k r.c ok]

/-- The queues a `QPOP` tries: the one it waits on, or all of its scan. -/
def popOrder (s : State) (e : Env) : List Nat :=
  match s.waiters.find? fun w => w.gang == e.g.uid && w.agent == e.a.id with
  | some w => [w.queue]
  | none => if e.g.blk.qbind = 256 then scanOrder e.g.die e.g.core else [e.g.blk.qbind]

/-- The first take of a list of queues that finds something. -/
def popAny (a : Acc) : List Nat → State → U (State × Pop)
  | [], s => .ok (s, .empty)
  | u :: r, s =>
    match popQ a u popFuel s with
    | .error e => .error e
    | .ok (s, .empty) => popAny a r s
    | .ok (s, p) => .ok (s, p)

/-- `QPOP` (R142, R158, R289). -/
def execQpop (x : Ext) (s : State) : Outcome :=
  runExt (.qpop x) x s fun s e _ =>
    if e.g.blk.qbind = 511 then .trap ⟨cOOB, 0, none⟩ 0
    else
      match firstQ s e.unit (popOrder s e) with
      | .error u => u.res e x
      | .ok (_, none) => .trap ⟨cOOB, 0, none⟩ 0
      | .ok (s, some u) =>
        let s := e.setGang s fun g => g.updAgent e.placeHolder fun a => { a with bind := none, notice := false }
        match popAny e.unit (popOrder s e) s with
        | .error u => u.res e x
        | .ok (s, .empty) =>
          .wait (if s.waiters.any fun w => w.gang == e.g.uid && w.agent == e.a.id then s
            else { s with waiters := s.waiters ++ [⟨e.g.asid, u, e.g.uid, e.a.id⟩] })
        | .ok (s, p) => .done (receive s e p)

/-- `LAUNCH` (R290). -/
def execLaunch (x : Ext) (s : State) : Outcome :=
  runExt (.launch x) x s fun s e r =>
    let a := e.rs r.a
    if a % 256 != 0 then .trap ⟨cMISALIGN, 0, none⟩ 0
    else if 2 ^ 52 ≤ a then .trap ⟨cOOB, 0, none⟩ 0
    else if Config.deviceLaunchQueueSize ≤ s.dlq.length then e.result s [.k r.c false]
    else
      match fence s e 1 3 with
      | none => .stay s
      | some s => e.result { s with dlq := s.dlq ++ [(e.g.asid, a)] } [.k r.c true]

/-! ### Completion records (R143, R291) -/

/-- ERR and ERRC of a record, given its physical bytes; a poisoned record is left alone (R390). -/
def recordErr (s : State) (rec' : List Nat) (code : Nat) : State :=
  let as := (rec'.drop 4).take 2
  if as.any (poisoned s) then logEvent s .post [rec'.headD 0]
  else
    let s := performSel s (beforeRmw s (unitWho s 0 0) as)
    let b := (homeByte s (as.getD 0 0)).toNat
    applyHome s (as.zip [BitVec.ofNat 8 (Nat.lor b 1), BitVec.ofNat 8 code])

def dropPost (s : State) (n : Nat) : State := { s with heldPosts := s.heldPosts.filter fun p => p.n != n }
/-- A post that cannot be made is dropped, and its record keeps the error; it waits while the record's frame is in a bias
flip (R74). -/
def failPost (s : State) (p : HeldPost) (code : Nat) : State :=
  if p.record.any (frozen s) then s else recordErr (dropPost s p.n) p.record code

/-- The number that `target` has for the device launch queue, of all contexts. -/
def deviceQ : Nat := 1000

/-- Whether an earlier decrement's post waits for the same queue (R291). -/
def HeldPost.behind (s : State) (p : HeldPost) (target : Nat) : Bool :=
  s.heldPosts.any fun q => q.n < p.n && q.target == some target && (target == deviceQ || q.asid == p.asid)

/-- What a held post has found out. -/
def HeldPost.note (p : HeldPost) (s : State) (entry : Option (List Byte)) (target : Nat) : State :=
  { s with heldPosts := updWhere (fun q => q.n == p.n) (fun q => { q with entry := entry, target := some target }) s.heldPosts }

/-- A held post with its entry goes into its queue, after the posts of earlier decrements that wait for that queue (R291). -/
def makePost (s : State) (p : HeldPost) (bs : List Byte) : State :=
  let a : Acc := ⟨unitWho s p.asid (homeDie (p.record.headD 0)), .post p.n, 0#52⟩
  let target : U (State × Option Nat) := match p.target with
    | some u => .ok (s, some u)
    | none => postTarget s a p.qsel bs p.shard
  match target with
  | .error (.wait s) => s
  | .error (.fail s _) => failPost s p 5
  | .ok (s, none) => failPost s p 1
  | .ok (s, some u) =>
    let s := p.note s (some bs) u
    if p.behind s u then s
    else
      match postQ s a u bs with
      | .error (.wait s) => s
      | .error (.fail s _) => failPost s p 5
      | .ok (s, true) => dropPost s p.n
      | .ok (s, false) => s

/-- One attempt at the post of a completion record (R143). -/
def tryPost (s : State) (n : Nat) : State :=
  match s.heldPosts.find? fun p => p.n == n with
  | none => s
  | some p =>
    if 258 ≤ p.qsel then failPost s p 1
    else if p.qsel = 257 then
      if p.qent % 256 != 0 then failPost s p 1
      else if Config.deviceLaunchQueueSize ≤ s.dlq.length || p.behind s deviceQ then p.note s none deviceQ
      else { dropPost s n with dlq := s.dlq ++ [(p.asid, p.qent)] }
    else if p.qent % 32 != 0 then failPost s p 1
    else
      match p.entry with
      | some bs => makePost s p bs
      | none =>
        let a : Acc := ⟨unitWho s p.asid (homeDie (p.record.headD 0)), .post p.n, 0#52⟩
        match uRead s a p.qent 32 with
        | .error (.wait s) => s
        | .error (.fail s _) => failPost s p 5
        | .ok (s, bs) => if entryBad bs then failPost s p 1 else makePost s p bs

/-- A decrement of a completion record, given its 16 physical bytes, and COUNT before it (R143): an atomic at the memory
side; none while it has to wait. -/
def decrement (s : State) (who : Who) (shard : Nat) (rec' : List Nat) : Option (State × Nat) :=
  (rmwFirst s who rec').map fun s =>
    let w := ofBytes (rec'.map (homeByte s))
    let count := fld w 0 32
    if count = 0 then (recordErr s rec' 6, 0)
    else
      let s := applyHome s ((rec'.take 4).zip (toBytes 4 (count - 1)))
      let qent := fld w 64 52
      if count = 1 && qent != 0 then
        let n := s.fresh
        let p : HeldPost := { n := n, asid := who.asid, record := rec', shard := shard, qsel := fld w 55 9, qent := qent, entry := none }
        (tryPost { s with fresh := n + 1, heldPosts := s.heldPosts ++ [p] } n, count)
      else (s, count)

/-- `CMPL` (R291). -/
def execCmpl (x : Ext) (s : State) : Outcome :=
  runExt (.cmpl x) x s fun s e r =>
    if thinRecord (e.rb r.a) then .trap ⟨cOOB, 0, some 15⟩ 0
    else
      match access s e.who .atomic (e.rb r.a) 16 16 [(0, e.sIndex r.b x.offset)] with
      | .trap t => .trap t 0
      | .page ps => .page .atomic ps
      | .ok l ts =>
        let as := homeBytesOf (allPieces l)
        match poisonLane s e.who l with
        | some n => .trap ⟨cMEMPOISON, n, none⟩ 0
        | none =>
          if as.isEmpty then e.result s [.s r.d 0#64]
          else
            match (allPieces l).findSome? fun p => p.dup with
            | some d => .stay (startCollapse s d)
            | none =>
              if ownBlocked s e as then .stay s
              else
                let s := (ownFirst (noteTlb s e.who ts) e as)
                match (fence s e 1 3).bind fun s => decrement s e.who (clusterOf e.g.die e.g.core) as with
                | none => .stay s
                | some (s, old) => e.result s [.s r.d (BitVec.ofNat 64 old)]

/-- COMPLETION_POST_HELD (R143, R291). -/
def execCompletionPostHeld (n : Nat) (s : State) : Outcome := .next (tryPost s n)

end Sys2Proof.Machine
end

