-- ==== Sys2Proof/Machine/Routing.lean ====
section
/-! DEFINITION. The routing engine: send lists, kitties, exchange frames and links, expert-queue rings, and RTSEND,
RTFLUSH, RTRECV, RTREL (R123, R292-R301, R382, R383). -/

namespace Sys2Proof.Machine

/-! ### Send lists (R294) -/

/-- A list descriptor as read. -/
structure LDesc where
  va : Nat
  lring : Nat
  size : Nat
  kring : Nat
  /-- the six counters, as one number of 192 bits from APPENDED up -/
  counts : Nat
  deriving DecidableEq, Repr, Inhabited

/-- Byte offsets of the counters. -/
def oAPPENDED : Nat := 36
def oFLUSHED : Nat := 40
def oACC : Nat := 44
def oKIN : Nat := 48
def oKOUT : Nat := 52
def oDISC : Nat := 56

def LDesc.count (d : LDesc) (off : Nat) : Nat := fld d.counts (8 * (off - oAPPENDED)) 32
/-- Entries that count against the capacity. -/
def LDesc.held (d : LDesc) : Nat := (d.count oAPPENDED + 2 * 2 ^ 32 - d.count oACC - d.count oDISC) % 2 ^ 32

/-- The engine's work on a list; its faults go to the queue of CD0 (log entry 18). -/
def listAcc (s : State) (asid route : Nat) : Acc := ⟨unitWho s asid 0, .list asid route, 0#52⟩

/-- The descriptor of a list; none where the context has no such list. -/
def readList (s : State) (a : Acc) (asid route : Nat) : U (State × Option LDesc) :=
  let area := ctxRarea s asid
  if area = 0 then .ok (s, none)
  else
    match uReadNat s a ((area + 64 * route) % 2 ^ 52) 64 with
    | .error e => .error e
    | .ok (s, w) =>
      let lsz := fld w 64 5
      .ok (s, if lsz = 0 then none else some ⟨(area + 64 * route) % 2 ^ 52, fld w 0 52, 2 ^ lsz, fld w 128 52, fld w 288 192⟩)

/-- A place of a list's ring, or of its kitty ring, is about to be written: another entry that stands there, one that the
engine has moved or is sending again, is kept in the engine alone from now on (log entry 66). -/
def freeSlot (s : State) (asid route : Nat) (kitty : Bool) (size k : Nat) : State :=
  let there (p : Parked) : Bool := p.asid == asid && !p.kitty && (if kitty then p.home == route else p.bound == route) &&
    match p.slot with
    | some (b, j) => b == kitty && j % size == k % size
    | none => false
  { s with parked := updWhere there (fun p => { p with slot := none, stored := true }) s.parked }

/-- An advance of a counter of a list is made, and gives its entry a place in the kitty ring; an access that fails leaves the
counter. An error is a wait. -/
def listStep (s : State) (w : ListWork) : Except State State :=
  let a := listAcc s w.asid w.route
  match readList s a w.asid w.route with
  | .error (.wait s) => .error s
  | .error (.fail s _) => .ok s
  | .ok (s, none) => .ok s
  | .ok (s, some d) =>
    match uWrite s a (d.va + w.off) (toBytes 4 (d.count w.off + w.n)) with
    | .error (.wait s) => .error s
    | .error (.fail s _) => .ok s
    | .ok s => match w.ent with
      | none => .ok s
      | some n =>
        let k := d.count w.off
        let s := freeSlot s w.asid w.route true d.size k
        .ok { s with parked := updWhere (fun p => p.n == n && p.kitty) (fun p => { p with slot := some (true, k) }) s.parked }

def ListWork.of (w : ListWork) (asid route : Nat) : Bool := w.asid == asid && w.route == route

/-- A counter of a list advances: at once, or, while a page fault holds the engine's work on the list, in its order after that
(R294). -/
def bump (s : State) (asid route off n : Nat) (ent : Option Nat := none) : State :=
  let w : ListWork := ⟨asid, route, off, n, ent⟩
  let later (s : State) : State := { s with listWork := s.listWork ++ [w] }
  if s.listWork.any fun v => v.of asid route then later s
  else match listStep s w with
    | .ok s => s
    | .error s => later s

/-- The 16 bytes of a stored entry; a moved one carries the list it was appended to. -/
def entBytes (e : RouteEnt) (home : Nat) : List Byte :=
  toBytes 8 (e.row % 2 ^ 52 + home * 2 ^ 52) ++ toBytes 4 e.w2.toNat ++ toBytes 4 e.w3.toNat
def entOf (bs : List Byte) : RouteEnt :=
  ⟨ofBytes (bs.take 8), BitVec.ofNat 32 (ofBytes ((bs.drop 8).take 4)), BitVec.ofNat 32 (ofBytes ((bs.drop 12).take 4))⟩
def RouteEnt.pri (e : RouteEnt) : Nat := fld e.w2.toNat 0 16
def RouteEnt.alt (e : RouteEnt) : Nat := fld e.w2.toNat 16 16
def RouteEnt.len (e : RouteEnt) : Nat := fld e.w3.toNat 0 8 + 1

/-! ### RTSEND, RTFLUSH (R292, R293) -/

/-- Lane l's entry. -/
def Env.routeEnt (e : Env) (v l : Nat) : RouteEnt :=
  ⟨e.src true v l, BitVec.ofNat 32 (e.rv (v + 2) l), BitVec.ofNat 32 (e.rv (v + 3) l)⟩

/-- The V bits of the table as it stands. -/
def tableV (s : State) (r : Nat) : Bool := bitN (homeNat s (s.bar0.rtbase.toNat + 32 * r) 8) 0
/-- R383: the core's copy of a V bit; while a reload is in progress, old or new. -/
def registered (s : State) (r : Nat) : Bool :=
  r < 4096 && (if s.bar0.sbusy && Config.coin s.tick (5000 + r) then tableV s r else s.routeV.contains r)

/-- Whether a route may be named: registered, with a list in the context. -/
def routeOk (s : State) (a : Acc) (r : Nat) : U Bool :=
  if !registered s r then .ok false
  else
    match readList s a a.who.asid r with
    | .error e => .error e
    | .ok (_, d) => .ok d.isSome

/-- Check 1 of R292 for one entry. -/
def entOk (s : State) (a : Acc) (e : RouteEnt) : U Bool :=
  if e.row / 2 ^ 52 != 0 || fld e.w3.toNat 8 8 != 0 || e.alt = e.pri then .ok false
  else
    match routeOk s a e.pri with
    | .error u => .error u
    | .ok false => .ok false
    | .ok true => if e.alt = 0xFFFF then .ok true else routeOk s a e.alt

/-- The first lane whose entry fails check 1. -/
def badEnt (s : State) (a : Acc) : List (Nat × RouteEnt) → U (Option Nat)
  | [] => .ok none
  | (l, e) :: r =>
    match entOk s a e with
    | .error u => .error u
    | .ok false => .ok (some l)
    | .ok true => badEnt s a r

/-- `RTSEND`. -/
def execRtsend (x : Ext) (s : State) : Outcome :=
  runExt (.rtsend x) x s fun s e r =>
    let es := e.lanes.map fun l => (l, e.routeEnt r.d l)
    match badEnt s e.unit es with
    | .error u => u.res e x
    | .ok (some l) => .trap ⟨cOOB, l, some 1⟩ 0
    | .ok none =>
      match es.find? fun p => p.2.row % 16 != 0 with
      | some p => .trap ⟨cMISALIGN, p.1, some 2⟩ 0
      | none => .done (issueCmd e s .rt none (.rtsend (es.map fun p => p.2)))

/-- `RTFLUSH`. -/
def execRtflush (x : Ext) (s : State) : Outcome :=
  runExt (.rtflush x) x s fun s e _ => .done (issueCmd e s .rt none (.rtflush false))

/-- Whether a flush's entries are all accepted or discarded. -/
def flushEmpty (s : State) (f : Nat) : Bool :=
  !(s.appended.any fun a => a.flush == some f) && !(s.parked.any fun p => p.flush == some f) &&
    !(s.sent.any fun t => t.ents.any fun p => p.flush == some f)

/-- Every flush with nothing left is complete. -/
def flushDone (s : State) : State :=
  let ended (c : Cmd) : Bool := match c.body with
    | .rtflush true => flushEmpty s c.id
    | _ => false
  { s with cmds := updWhere ended (fun c => { c with phase := .complete }) s.cmds }

/-- Whether a routing command of a warp has done its work on the lists. -/
def Cmd.routed (c : Cmd) : Bool := match c.body with
  | .rtsend [] => true
  | .rtflush t => t
  | _ => false
/-- R292: earlier routing commands of the warp have done theirs. -/
def routeReady (s : State) (c : Cmd) : Bool :=
  c.accepted.isSome && c.alive s && !s.cmds.any fun d => d.samePlace c && d.id < c.id && !d.routed

/-- One entry of an `RTSEND` is appended, if its list has room. -/
def appendEnt (s : State) (c : Cmd) (e : RouteEnt) (rest : List RouteEnt) : State :=
  let a := { listAcc s c.asid e.pri with pc := c.pc }
  let giveUp (s : State) : State := completeCmd (s.updCmd c.id fun d => { d with body := .rtsend [] }) c.id
  match readList s a c.asid e.pri with
  | .error (.wait s) => s
  | .error (.fail s _) => giveUp s
  | .ok (s, none) => giveUp s
  | .ok (s, some d) =>
    if d.size ≤ d.held then s
    else
      let k := d.count oAPPENDED
      match uWrite s a (d.lring + 16 * (k % d.size)) (entBytes e 0) with
      | .error (.wait s) => s
      | .error (.fail s _) => giveUp s
      | .ok s =>
        match uWrite s a (d.va + oAPPENDED) (toBytes 4 (k + 1)) with
        | .error (.wait s) => s
        | .error (.fail s _) => giveUp s
        | .ok s =>
          let new : Appended := ⟨s.fresh, c.asid, e.pri, k, c.gang, c.wg, c.place, none⟩
          let s := freeSlot { s with appended := s.appended ++ [new], fresh := s.fresh + 1 } c.asid e.pri false d.size k
          let s := s.updCmd c.id fun d => { d with body := .rtsend rest }
          if rest.isEmpty then completeCmd s c.id else s

/-- An `RTFLUSH` takes the entries of its warp (R293). -/
def takeFlush (s : State) (c : Cmd) : State :=
  let mine (a : Appended) : Bool := a.gang == c.gang && a.wg == c.wg && a.place == c.place && a.flush.isNone
  let lists := ((s.appended.filter mine).map fun a => (a.asid, a.route)).eraseDups
  let n (l : Nat × Nat) : Nat := (s.appended.filter fun a => mine a && (a.asid, a.route) == l).length
  let s := { s with appended := updWhere mine (fun a => { a with flush := some c.id }) s.appended }
  let s := lists.foldl (fun t l => bump t l.1 l.2 oFLUSHED (n l)) s
  flushDone (s.updCmd c.id fun d => { d with body := .rtflush true, phase := .running })

/-- SEND_LIST_APPEND: the next entry of an `RTSEND` enters its list; for an `RTFLUSH`, its entries are taken. -/
def execSendListAppend (cmd : Nat) (s : State) : Outcome :=
  match s.cmd? cmd with
  | none => .next s
  | some c =>
    if !routeReady s c then .next s
    else
      match c.body with
      | .rtsend [] => .next (completeCmd s cmd)
      | .rtsend (e :: r) => .next (appendEnt s c e r)
      | .rtflush false => .next (takeFlush s c)
      | _ => .next s

/-! ### Frames (R296) -/

/-- An exchange header. -/
structure FrameH where
  kind : Nat
  nrow : Nat := 0
  seq : Nat
  ackseq : Nat
  src : Nat
  dst : Nat
  queue : Nat
  route : Nat := 0
  free : Nat := 0
  rseq : Nat := 0
  rmask : Nat := 0
  deriving DecidableEq, Repr, Inhabited

def FrameH.bytes (h : FrameH) : List Byte :=
  toBytes 32 (1 + h.kind * 2 ^ 8 + h.nrow * 2 ^ 16 + h.seq % 2 ^ 32 * 2 ^ 32 + h.ackseq % 2 ^ 32 * 2 ^ 64 + h.src * 2 ^ 96 +
    h.dst * 2 ^ 112 + h.queue * 2 ^ 128 + h.route * 2 ^ 144 + h.free * 2 ^ 160 + h.rseq % 2 ^ 32 * 2 ^ 176 + h.rmask * 2 ^ 208)

/-- The header of a received frame; none when it is to be discarded and logged. -/
def frameOf (bs : List Byte) : Option FrameH :=
  let w := ofBytes (bs.take 32)
  let h : FrameH := ⟨fld w 8 8, fld w 16 8, fld w 32 32, fld w 64 32, fld w 96 16, fld w 112 16, fld w 128 12, fld w 144 16,
    fld w 160 16, fld w 176 32, fld w 208 16⟩
  if bs.length < 32 || fld w 0 8 != 1 || 3 ≤ h.kind || fld w 24 8 != 0 || fld w 140 4 != 0 || fld w 224 32 != 0 then none
  else if h.kind = 0 then
    (if h.nrow = 0 || 17 ≤ h.nrow || bs.length != 32 + 132 * h.nrow ||
        ((List.range h.nrow).any fun i => bs.getD (32 + 4 * i + 1) 0#8 != 0#8) then none else some h)
  else if h.nrow != 0 then none
  else some h

/-- Row i of a DATA frame: its table word and its 128 bytes. -/
def frameRow (bs : List Byte) (nrow i : Nat) : Word × List Byte :=
  (BitVec.ofNat 32 (ofBytes ((bs.drop (32 + 4 * i)).take 4)), (bs.drop (32 + 4 * nrow + 128 * i)).take 128)

/-! ### Links (R297) -/

def ownDev (s : State) : Nat := s.bar0.dev.toNat
def portClk (s : State) (port : Nat) : Nat := s.ioClk.getD (port / 8) 0

/-- The link of a port and a peer; a port that is down is down for every peer. -/
def State.link (s : State) (port peer : Nat) : Link :=
  let down := s.links.any fun l => l.port == port && l.down
  (s.links.find? fun l => l.port == port && l.peer == peer).getD ⟨port, peer, 0, 0, [], portClk s port, 0, down, [], [], default⟩
def State.putLink (s : State) (l : Link) : State :=
  { s with links := (s.links.filter fun m => !(m.port == l.port && m.peer == l.peer)) ++ [l] }

/-! #### Packets (R382, R383) -/

/-- The ones' complement sum of 16-bit words, first byte first. -/
def onesSum : List Byte → Nat → Nat
  | [], n => n
  | [a], n => onesAdd n (a.toNat * 256)
  | a :: b :: r, n => onesSum r (onesAdd n (a.toNat * 256 + b.toNat))
where
  onesAdd (a b : Nat) : Nat := if a + b < 65536 then a + b else a + b - 65535

/-- Bytes of a number, first the highest. -/
def netBytes (n v : Nat) : List Byte := (toBytes n v).reverse

/-- The UDP checksum over IPv6, which RFC 8200 defines (log entry 78). -/
def udpChecksum (p : OutPacket) : Nat :=
  let len := 8 + p.payload.length
  let c := 65535 - onesSum (netBytes 16 p.src.toNat ++ netBytes 16 p.dst.toNat ++ netBytes 4 len ++ netBytes 4 17 ++ netBytes 2 p.srcUdp.toNat ++
    netBytes 2 p.dstUdp.toNat ++ netBytes 2 len ++ netBytes 2 0 ++ p.payload) 0
  if c = 0 then 65535 else c

/-- A payload goes out on a port as one IPv6 packet carrying UDP, with hop limit 64 and its checksum, from the device's own
port, and from the address and MAC of that port (log entry 78). -/
def netSend (s : State) (port : Nat) (dest : NetDest) (bs : List Byte) : State :=
  let n := s.izsil.net
  let p : OutPacket := ⟨port, n.macs.getD port (n.macs.headD 0#48), n.addrs.getD port (n.addrs.headD 0#128), dest.addr, dest.tc, 64, n.udp, dest.udp, 0, bs⟩
  { s with wire := s.wire ++ [{ p with checksum := udpChecksum p }] }

/-- A counted frame enters the link, and waits there if its port is down; the resend time runs from here when nothing else is
unacknowledged. -/
def sendCounted (s : State) (l : Link) (dest : NetDest) (bs : List Byte) : State :=
  let s := s.putLink { l with txSeq := (l.txSeq + 1) % 2 ^ 32, unacked := l.unacked ++ [(l.txSeq, dest, bs)],
                              advanced := if l.unacked.isEmpty then portClk s l.port else l.advanced }
  if l.down then s else netSend s l.port dest bs

/-- A report of FREE > 0 for a ring settles what is owed for it. -/
def Link.report (l : Link) (x free : Nat) : Link := if free = 0 then l else { l with owed := delNat x l.owed }

/-- An ACK is sent, but for one on a port that is down. Its SEQ is that of the next counted frame. -/
def sendAck (s : State) (port peer x free : Nat) : State :=
  let l := s.link port peer
  if l.down then s else
  let f : FrameH := ⟨1, 0, l.txSeq, l.rxSeq, ownDev s, peer, x, 0, free, 0, 0⟩
  netSend (s.putLink { l.report x free with ack := f.bytes }) port l.dest f.bytes

/-- ACKSEQ advances: the frames before it are acknowledged. -/
def ackTo (s : State) (port peer ack : Nat) : State :=
  let l := s.link port peer
  match l.unacked with
  | [] => s
  | (q, _) :: _ =>
    let n := (ack + 2 ^ 32 - q) % 2 ^ 32
    if n = 0 || l.unacked.length < n then s
    else s.putLink { l with unacked := l.unacked.drop n, advanced := portClk s port, resends := 0 }

/-! ### Entries after a frame (R299) -/

/-- An entry has been accepted into a ring. -/
def acceptEnt (s : State) (p : Parked) : State := bump s p.asid p.home oACC 1
/-- An entry is discarded. -/
def discardEnt (s : State) (p : Parked) : State := bump s p.asid p.home oDISC 1

/-- An entry is parked in the kitty of the list it was appended to; its place in the kitty ring is written next. -/
def parkEnt (s : State) (p : Parked) : State :=
  let n := s.fresh
  bump { s with parked := s.parked ++ [{ p with kitty := true, n := n, slot := none, stored := false }], fresh := n + 1 }
    p.asid p.home oKIN 1 (some n)

/-- A returned entry: to the list of its alternate, or to its kitty; discarded when its gang has been killed (R357). -/
def returnEnt (s : State) (p : Parked) : State :=
  if !((p.flush.map fun f => (s.cmd? f).isSome).getD false) then discardEnt s p
  else if p.bound = p.home && p.ent.alt != 0xFFFF then
    let e : RouteEnt := { p.ent with w2 := BitVec.ofNat 32 (p.ent.alt + 0xFFFF * 2 ^ 16) }
    { s with
      parked := s.parked ++ [{ p with bound := p.ent.alt, ent := e, kitty := false, n := s.fresh, slot := none, stored := false }]
      fresh := s.fresh + 1 }
  else parkEnt s p

/-- The list in whose rings an entry is stored: its own, in the kitty or when it is sent again; else that of its route. -/
def Parked.list (p : Parked) : Nat := match p.slot with
  | some (true, _) => p.home
  | _ => if p.kitty then p.home else p.bound
def Parked.place (p : Parked) (d : LDesc) : Nat := match p.slot with
  | some (true, k) => d.kring + 16 * (k % d.size)
  | some (false, k) => d.lring + 16 * (k % d.size)
  | none => 0

/-- The places of a list's ring that hold no waiting entry. -/
def freePlaces (s : State) (asid route : Nat) (d : LDesc) : List Nat :=
  let own := (s.appended.filter fun a => a.asid == asid && a.route == route).map fun a => a.k % d.size
  let moved := (s.parked.filter fun p => p.asid == asid && p.bound == route).filterMap fun p => match p.slot with
    | some (false, k) => some k
    | _ => none
  (List.range d.size).filter fun k => !own.contains k && !moved.contains k

/-- An entry that still has to be stored in the rings of a list (R294); a parked one, once its place is known. The spec gives a
moved entry no place in the ring: any that holds no waiting entry, and where none is free it stays in the engine (log entry
66). -/
def Parked.unstored (asid route : Nat) (p : Parked) : Bool := p.asid == asid && p.list == route && !p.stored && (p.slot.isSome || !p.kitty)

/-- It is stored, with the list it was appended to where that is another. -/
def storeEnt (s : State) (asid route : Nat) (d : LDesc) (p : Parked) : State :=
  let free := freePlaces s asid route d
  let q : Parked := { p with slot := p.slot.or ((free[Config.choose s.tick 3 % free.length]?).map fun k => (false, k)), stored := true }
  let put (s : State) : State := { s with parked := updWhere (fun r => r.n == p.n) (fun _ => q) s.parked }
  match q.slot with
  | none => put s
  | some _ =>
    match uWrite s (listAcc s asid route) (q.place d) (entBytes q.ent (if q.bound = q.home then 0 else q.home)) with
    | .error (.wait s) => s
    | .error (.fail s _) => put s
    | .ok s => put s

/-- The entries of a frame, accepted up to the k-th or by a mask. -/
def settleEnts (s : State) (ps : List Parked) (back : Nat → Bool) : State :=
  flushDone ((enumFrom 0 ps).foldl (fun s p => if back p.1 then returnEnt s p.2 else acceptEnt s p.2) s)

/-- What the route table says of a route (R383). -/
structure RouteTo where
  dev : Nat
  queue : Nat
  port : Nat
  dest : NetDest
  deriving DecidableEq, Repr, Inhabited

/-- The route table's entry (R383); none when it is malformed or not registered. -/
def routeEntry (s : State) (r : Nat) : Option RouteTo :=
  let w := homeNat s (s.bar0.rtbase.toNat + 32 * r) 32
  if !bitN w 0 || fld w 96 8 != 0 || fld w 68 12 != 0 || fld w 1 51 != 0 then none
  else some ⟨fld w 80 16, fld w 56 12, fld w 52 4, BitVec.ofNat 128 (fld w 128 128), BitVec.ofNat 16 (fld w 112 16), BitVec.ofNat 8 (fld w 104 8)⟩

/-- The ring an entry is bound for. -/
def boundRing (s : State) (p : Parked) : Option (Nat × Nat) := (routeEntry s p.bound).map fun t => (t.dev, t.queue)

/-- The kitty that holds an entry, as one number in ascending route order. -/
def kittyKey (p : Parked) : Nat := p.home * 2 ^ 16 + p.asid

/-- The kitty to serve next for a ring. -/
def nextKitty (s : State) (ring : Nat) (ps : List Parked) : Option Nat :=
  let ks := sortNat (ps.map kittyKey)
  match (s.served.find? fun v => v.1 == ring) with
  | none => ks.head?
  | some v => match ks.find? fun k => v.2 < k with
    | some k => some k
    | none => ks.head?

/-- Up to f entries bound for a ring go out of their kitties, to be sent again; they are read from the kitty ring when their
frame is formed. -/
def resend (dev queue : Nat) : Nat → State → State
  | 0, s => s
  | f + 1, s =>
    let ring := dev * 4096 + queue
    let ps := s.parked.filter fun p => p.kitty && boundRing s p == some (dev, queue)
    match nextKitty s ring ps with
    | none => s
    | some k =>
      match ps.find? fun p => kittyKey p == k with
      | none => s
      | some p =>
        let s := bump s p.asid p.home oKOUT 1
        resend dev queue f { s with
          parked := (s.parked.filter fun q => q.n != p.n) ++ [{ p with kitty := false, n := s.fresh, stored := p.stored || p.slot.isNone }]
          fresh := s.fresh + 1
          served := (s.served.filter fun v => v.1 != ring) ++ [(ring, k)] }

/-- A report of f free slots of a ring (R299). -/
def reportFree (s : State) (dev queue f : Nat) : State := resend dev queue (min f s.parked.length) s

/-! ### Rings (R295, R298) -/

/-- An expert queue as it stands; `next` counts the rows ever accepted. -/
structure Ring where
  pa : Nat
  v : Bool
  base : Nat
  cap : Nat
  asid : Nat
  freed : Nat
  popped : Nat
  filled : Nat
  next : Nat
  deriving DecidableEq, Repr, Inhabited

def ringOf (s : State) (x : Nat) : Ring :=
  let pa := s.bar0.eqtbase.toNat + 32 * x
  let w := homeNat s pa 32
  ⟨pa, bitN w 63, fld w 0 52, fld w 64 16, fld w 128 16, fld w 160 32, fld w 192 32, fld w 224 32,
    ((s.ringNext.find? fun p => p.1 == x).map fun p => p.2).getD 0⟩
def Ring.free (r : Ring) : Nat := r.cap - (r.filled + 2 ^ 32 - r.freed) % 2 ^ 32
def Ring.present (r : Ring) : Nat := (r.filled + 2 ^ 32 - r.popped) % 2 ^ 32
def Ring.slotVa (r : Ring) (k : Nat) : Nat := (r.base + 128 * (k % r.cap)) % 2 ^ 52
/-- The number of the first row not popped yet, and of the first whose slot is not free again, among all rows accepted. -/
def Ring.popAt (r : Ring) : Nat := r.next - r.present
def Ring.freeAt (r : Ring) : Nat := r.next - (r.filled + 2 ^ 32 - r.freed) % 2 ^ 32
/-- FREE of a ring (R296). -/
def freeNow (s : State) (x : Nat) : Nat := let r := ringOf s x; if r.v then min r.free 65535 else 0
/-- A counter of a ring's entry, as the engine writes it. -/
def putRing (s : State) (r : Ring) (off v : Nat) : State := applyHome s ((bytesAt (r.pa + off) 4).zip (toBytes 4 v))

/-- The slots for a number of rows from one: those before the first whose access fails, and whether one fails. -/
def ringSlots (s : State) (x : Nat) (r : Ring) : Nat → Nat → U (List (List Nat) × Option State)
  | _, 0 => .ok ([], none)
  | k, n + 1 =>
    let a : Acc := ⟨unitWho s r.asid 0, .ring x, 0#52⟩
    match uWriteAddrs s a (r.slotVa k) 128 with
    | .error (.wait s) => .error (.wait s)
    | .error (.fail s _) => .ok ([], some s)
    | .ok as =>
      match ringSlots s x r (k + 1) n with
      | .error e => .error e
      | .ok (l, b) => .ok (as :: l, b)

/-- The granules of rows in their slots: virtual address, physical bytes, contents. -/
def slotGranules (r : Ring) (slots : List (List Nat)) (rows : List (Word × List Byte)) : List (Nat × List Nat × List Byte) :=
  (enumFrom 0 (slots.zip rows)).flatMap fun p => (List.range 32).map fun g =>
    (r.slotVa (r.next + p.1) + 4 * g, (p.2.1.drop (4 * g)).take 4, (p.2.2.2.drop (4 * g)).take 4)
/-- Those not written yet. -/
def unfilled (s : State) (x key : Nat) (gs : List (Nat × List Nat × List Byte)) : List (Nat × List Nat × List Byte) :=
  gs.filter fun g => !s.filling.any fun f => f.ring == x && f.key == key && f.done.contains (g.1, g.2.2)
/-- A granule is written. -/
def fillGranule (s : State) (who : Who) (x key : Nat) (g : Nat × List Nat × List Byte) : State :=
  let s := uPut s who (g.2.1.zip g.2.2)
  { s with filling := if s.filling.any fun f => f.ring == x then updWhere (fun f => f.ring == x) (fun f => { f with done := f.done ++ [(g.1, g.2.2)] }) s.filling
                      else s.filling ++ [⟨x, key, [(g.1, g.2.2)]⟩] }
/-- Rows on their way into rings are given up. -/
def unfill (s : State) (key : Nat → Bool) : State := { s with filling := s.filling.filter fun f => !key f.key }

/-- Rows arrive at a ring: they are written granule by granule (R110), those of one frame at a time, and are then accepted in
one step (R298): how many, and the FREE reported. An error is a wait, or the step of a granule. -/
def takeRows (s : State) (x src key : Nat) (rows : List (Word × List Byte)) : Except State (State × Nat × Nat) :=
  let r := ringOf s x
  if !r.v then .ok (logEvent s .frame [x, src], 0, 0)
  else if s.filling.any fun f => f.ring == x && f.key != key then .error s
  else
    match ringSlots s x r r.next (min r.free rows.length) with
    | .error u => .error u.state
    | .ok (slots, failed) =>
      let s := failed.getD s
      match unfilled s x key (slotGranules r slots rows) with
      | g0 :: gs => .error (fillGranule s (unitWho s r.asid 0) x key ((g0 :: gs).getD (Config.choose s.tick 5 % (gs.length + 1)) g0))
      | [] =>
        let s := putRing (clearPoison { s with filling := s.filling.filter fun f => f.ring != x } slots.flatten) r 28 (r.filled + slots.length)
        let metas := (enumFrom r.next (rows.take slots.length)).map fun p => (⟨x, p.1 % r.cap, src, p.2.1⟩ : RingRow)
        let s := { s with
          ringRows := s.ringRows ++ metas
          ringNext := (s.ringNext.filter fun p => p.1 != x) ++ [(x, r.next + slots.length)] }
        .ok (s, slots.length, if failed.isSome then 0 else min (r.free - slots.length) 65535)

/-! ### Forming a frame (R293, R299) -/

def lowN : List Nat → Option Nat
  | [] => none
  | a :: r => match lowN r with
    | none => some a
    | some b => some (min a b)

/-- An appended entry, as one of a frame. -/
def Appended.parked (a : Appended) : Parked :=
  { n := a.n, asid := a.asid, home := a.route, bound := a.route, ent := default, flush := a.flush, kitty := false,
    slot := some (false, a.k), stored := true }

/-- Whether a page fault holds the engine's work on a list. -/
def listHeld (s : State) (asid route : Nat) : Bool := s.holds.any fun h => h.holder == .list asid route && !h.denied

/-- Insertion by the order in which entries came to a list; with each, whether it is one of the list's own. -/
def insEnt (x : Bool × Parked) : List (Bool × Parked) → List (Bool × Parked)
  | [] => [x]
  | y :: r => if x.2.n ≤ y.2.n then x :: y :: r else y :: insEnt x r

/-- What a list has to send, in the order of R123: its own flushed entries, and those moved to it or to be sent again, but for
those that a page fault on another list holds back (R294). -/
def listQueue (s : State) (asid route : Nat) : List (Bool × Parked) :=
  let own := s.appended.filter fun a => a.asid == asid && a.route == route && a.flush.isSome
  let moved := s.parked.filter fun p => p.asid == asid && p.bound == route && !p.kitty &&
    (p.list == route || p.slot.isNone || !p.stored || !listHeld s asid p.list)
  (own.map (fun a => (true, a.parked)) ++ moved.map fun p => (false, p)).foldl (fun l x => insEnt x l) []

/-- The entries that go into the next frame of a list (R293, R299): the next sixteen of the flush whose entry is first of the
list's own, with the moved ones that came before or between them, where all fit, and those that stand behind them; where they
do not fit, the moved ones that came first, or the sixteen alone. -/
def nextFrame (s : State) (asid route : Nat) : List Parked :=
  let all := listQueue s asid route
  let lead := all.takeWhile fun x => !x.1
  match all.find? fun x => x.1 with
  | none => (lead.take 16).map fun x => x.2
  | some h =>
    let chunk := (all.filter fun x => x.1 && x.2.flush == h.2.flush).take 16
    let last := (chunk.getLast?.map fun x => x.2.n).getD 0
    let upTo := all.filter fun x => decide (x.2.n ≤ last) && (!x.1 || chunk.contains x)
    let behind := (all.filter fun x => decide (last < x.2.n)).takeWhile fun x => !x.1
    let frame := if upTo.length ≤ 16 then (upTo ++ behind).take 16 else if lead.isEmpty then chunk else lead.take 16
    frame.map fun x => x.2

/-- The stored entries of a frame, read back from the rings; false where the read fails. One that is not stored yet is in the
engine. -/
def readEnts : List Parked → State → U (List (Parked × Bool))
  | [], _ => .ok []
  | p :: r, s =>
    let next (s : State) (q : Parked) (good : Bool) : U (List (Parked × Bool)) := match readEnts r s with
      | .error e => .error e
      | .ok l => .ok ((q, good) :: l)
    let a := listAcc s p.asid p.list
    if p.slot.isNone || !p.stored then next s p true
    else match readList s a p.asid p.list with
      | .error (.wait s) => .error (.wait s)
      | .error (.fail s _) => next s p false
      | .ok (s, d) => match uRead s a (p.place (d.getD default)) 16 with
        | .error (.wait s) => .error (.wait s)
        | .error (.fail s _) => next s p false
        | .ok (_, bs) => next s { p with ent := { entOf bs with row := (entOf bs).row % 2 ^ 52 } } true

/-- What has been read of a row's granule. -/
def formed (s : State) (n g : Nat) : Option (List Byte) := (s.forming.find? fun f => f.1 == n && f.2.1 == g).map fun f => f.2.2
/-- The granules of a row, by their numbers. -/
def Parked.granules (p : Parked) : List Nat := List.range (cdiv p.ent.len 4)
/-- The granules of a frame's rows that are still to be read. -/
def unread (s : State) (ps : List Parked) : List (Parked × Nat) :=
  ps.flatMap fun p => (p.granules.filter fun g => (formed s p.n g).isNone).map fun g => (p, g)

/-- A granule of a row is read, as by the warp's `RTFLUSH` (R110, R123). -/
def readRow (s : State) (p : Parked) (g : Nat) : State :=
  let put (s : State) (bs : List Byte) : State := { s with forming := s.forming ++ [(p.n, g, bs)] }
  match p.flush.bind s.cmd? with
  | none => put s []
  | some c =>
    match uRead s (c.acc s) (p.ent.row % 2 ^ 52 + 4 * g) (min 4 (p.ent.len - 4 * g)) with
    | .error (.wait s) => s
    | .error (.fail s _) => put s []
    | .ok (s, bs) => put s bs

/-- A row as read, filled up with zeros; none where a read of it has failed. -/
def rowBytes (s : State) (p : Parked) : Option (List Byte) :=
  let gs := p.granules.map fun g => (formed s p.n g).getD []
  if gs.any List.isEmpty then none else some (gs.flatten ++ List.replicate (128 - p.ent.len) 0#8)

/-- The entries leave the lists they wait in. -/
def takeEnts (s : State) (ps : List Parked) : State :=
  let ns := ps.map fun p => p.n
  { s with
    appended := s.appended.filter fun a => !ns.contains a.n
    parked := s.parked.filter fun p => !ns.contains p.n
    forming := s.forming.filter fun f => !ns.contains f.1 }

/-- The table word of a row. -/
def rowWord (p : Parked) : Word := p.ent.w3 &&& 0xFFFF00FF#32

/-- Whose rows fill a ring: a frame's, by its port and sender, or those of one of the device's own routes. -/
def frameKey (port src : Nat) : Nat := 16 * src + port
def ownKey (route : Nat) : Nat := 2 ^ 32 + route

/-- A frame of rows goes out on its link, or to the device's own ring. -/
def dispatchFrame (s : State) (route : Nat) (t : RouteTo) (rows : List (Parked × List Byte)) : State :=
  let ps := rows.map fun r => r.1
  let data := rows.map fun r => (rowWord r.1, r.2)
  if t.dev = ownDev s then
    match takeRows s t.queue (ownDev s) (ownKey route) data with
    | .error s => s
    | .ok (s, n, _) => settleEnts (takeEnts s ps) ps fun i => n ≤ i
  else
    let l := s.link t.port t.dev
    let h : FrameH := ⟨0, rows.length, l.txSeq, l.rxSeq, ownDev s, t.dev, t.queue, route, 0, 0, 0⟩
    let bs := h.bytes ++ (data.flatMap fun d => toBytes 4 d.1.toNat) ++ data.flatMap fun d => d.2
    let s := takeEnts s ps
    sendCounted { s with sent := s.sent ++ [⟨t.dev, t.port, l.txSeq, t.queue, ps⟩] } l t.dest bs

/-- The frame's entries are known: its route is looked up, its rows are read, granule after granule in any order, and it
goes. -/
def formFrame (s : State) (route : Nat) (ps : List Parked) (lost : List Parked) : State :=
  let drop (s : State) (l : List Parked) : State := l.foldl discardEnt (takeEnts s l)
  match routeEntry s route with
  | none =>
    let s := ps.foldl parkEnt (takeEnts (drop s lost) ps)
    flushDone (logEvent (unfill s fun k => k == ownKey route) .frame [route])
  | some t =>
    if t.dev != ownDev s && (s.link t.port t.dev).down then s
    else
      match unread s ps with
      | p0 :: r =>
        let p := (p0 :: r).getD (Config.choose s.tick 0 % (r.length + 1)) p0
        readRow s p.1 p.2
      | [] =>
        let bad := ps.filter fun p => (rowBytes s p).isNone
        let good := ps.filterMap fun p => (rowBytes s p).map fun b => (p, b)
        let s := drop s (lost ++ bad)
        flushDone (if good.isEmpty then s else dispatchFrame s route t good)

/-- FRAME_FORMATION: a counter of a list advances that still has to, an entry is stored that still has to be, or the next frame
of the list is formed. -/
def execFrameFormation (asid route : Nat) (s : State) : Outcome :=
  match s.listWork.find? fun w => w.of asid route with
  | some w => .next (match listStep s w with
    | .error s => s
    | .ok s => { s with listWork := s.listWork.erase w })
  | none =>
    match readList s (listAcc s asid route) asid route with
    | .error u => .next u.state
    | .ok (s, d) =>
      match s.parked.find? (Parked.unstored asid route) with
      | some p => .next (storeEnt s asid route (d.getD default) p)
      | none =>
        match nextFrame s asid route with
        | [] => .next s
        | ps => match readEnts ps s with
          | .error u => .next u.state
          | .ok l => .next (formFrame s route ((l.filter fun p => p.2).map fun p => p.1) ((l.filter fun p => !p.2).map fun p => p.1))

/-! ### Frames that arrive (R297, R298) -/

/-- Frames known to be accepted whole: acknowledged, with nothing of the peer's missing. -/
def settleSent (s : State) (port peer : Nat) : State :=
  let l := s.link port peer
  let known (t : Sent) : Bool := t.port == port && t.dev == peer && !l.unacked.any fun u => u.1 == t.seq
  (s.sent.filter known).foldl (fun s t => settleEnts { s with sent := s.sent.filter fun u => u != t } t.ents fun _ => false) s

/-- The common course of a received frame: discarded and logged when malformed; put back while its rows are being written or a
page fault holds them. -/
def onFrame (kind port : Nat) (bs : List Byte) (s : State) (act : State → FrameH → Except State State) : Outcome :=
  match frameOf bs with
  | none => .next (logEvent s .frame [port])
  | some h =>
    if h.kind != kind || h.dst != ownDev s then .next (logEvent s .frame [port, h.src])
    else
      match act s h with
      | .error s => .next { s with inputs := .frame port bs :: s.inputs }
      | .ok s => .next s

/-- What follows a frame that was the next expected: what it acknowledges, and what it reports. -/
def afterFrame (s : State) (port : Nat) (h : FrameH) (report : Bool) : State :=
  let s := settleSent (ackTo s port h.src h.ackseq) port h.src
  if report && 0 < h.free then reportFree s h.src h.queue h.free else s

/-- The receiver's answer to a DATA frame: an ACK, or a RETURN of the rows from the n-th on. -/
def answer (s : State) (port : Nat) (h : FrameH) (n free : Nat) : State :=
  if n = h.nrow then sendAck s port h.src h.queue free
  else
    let l := s.link port h.src
    let mask := 2 ^ h.nrow - 2 ^ n
    let f : FrameH := ⟨2, 0, l.txSeq, l.rxSeq, ownDev s, h.src, h.queue, h.route, free, h.seq, mask⟩
    sendCounted s ({ l with owed := insNat h.queue l.owed }.report h.queue free) l.dest f.bytes

/-- DATA_FRAME. One that is not the next expected is discarded, ACKSEQ and all (R297); it brings an ACK again (log entry
11). -/
def execDataFrame (port : Nat) (frame : List Byte) (s : State) : Outcome :=
  onFrame 0 port frame s fun s h =>
    let l := s.link port h.src
    if h.seq != l.rxSeq then .ok (sendAck s port h.src h.queue (freeNow s h.queue))
    else
      match takeRows s h.queue h.src (frameKey port h.src) ((List.range h.nrow).map (frameRow frame h.nrow)) with
      | .error s => .error s
      | .ok (s, n, free) =>
        let s := s.putLink { s.link port h.src with rxSeq := (l.rxSeq + 1) % 2 ^ 32 }
        .ok (answer (afterFrame s port h false) port h n free)

/-- ACK_FRAME: it is no counted frame; where its SEQ tells that a counted one is missing, it is discarded (R297). -/
def execAckFrame (port : Nat) (frame : List Byte) (s : State) : Outcome :=
  onFrame 1 port frame s fun s h =>
    let l := s.link port h.src
    if h.seq != l.rxSeq then .ok s else .ok (afterFrame s port h true)

/-- RETURN_FRAME (R299). -/
def execReturnFrame (port : Nat) (frame : List Byte) (s : State) : Outcome :=
  onFrame 2 port frame s fun s h =>
    let l := s.link port h.src
    if h.seq != l.rxSeq then .ok (sendAck s port h.src h.queue (freeNow s h.queue))
    else
      let s := s.putLink { l with rxSeq := (l.rxSeq + 1) % 2 ^ 32 }
      let s := match s.sent.find? fun t => t.port == port && t.dev == h.src && t.seq == h.rseq with
        | none => s
        | some t => settleEnts { s with sent := s.sent.filter fun u => u != t } t.ents fun i => bitN h.rmask i
      let s := afterFrame s port h true
      .ok (sendAck s port h.src h.queue (freeNow s h.queue))

/-- RESEND_TIMEOUT: every unacknowledged frame is sent again; after 64 times without an advance the port is down. -/
def execResendTimeout (port peer : Nat) (s : State) : Outcome :=
  let l := s.link port peer
  if l.unacked.isEmpty || l.down || portClk s port < l.advanced + 16384 then .next s
  else if l.resends = 64 then
    .next (logEvent { s with links := updWhere (fun m => m.port == port) (fun m => { m with down := true }) s.links } .link [port, peer])
  else .next (l.unacked.foldl (fun s u => netSend s port u.2.1 u.2.2) (s.putLink { l with resends := l.resends + 1, advanced := portClk s port }))

/-- ETHERNET_PACKET_RECEIVE (R382): a packet for one of the device's addresses carries a frame, which is acted on next; the link's
acknowledgements go where its last packet came from (log entry 78). -/
def execEthernetPacketReceive (port : Nat) (packet : Packet) (s : State) : Outcome :=
  let n := s.izsil.net
  if s.phase != .ready || !n.addrs.contains packet.dest || packet.udp != n.udp || !packet.checksumOk || packet.extHeader then .next s
  else
    match frameOf packet.payload with
    | none => .next (logEvent s .frame [port])
    | some h =>
      let s := s.putLink { s.link port h.src with dest := ⟨packet.src, packet.srcUdp, 0#8⟩ }
      .next { s with inputs := .frame port packet.payload :: s.inputs }

/-- The network takes the first of the packets sent. -/
def execPacketTaken (s : State) : Outcome := .next { s with wire := s.wire.tail }

/-! ### RTRECV and RTREL (R300, R301) -/

/-- The ring an instruction names: none raises OOB. -/
def ringFor (s : State) (e : Env) (q : Nat) : Option Ring :=
  if 4096 ≤ q then none
  else
    let r := ringOf s q
    if r.v && r.asid == e.g.asid then some r else none

/-- What lane number j gets. -/
def recvWrites (s : State) (q : Nat) (r : Ring) (d n j lane : Nat) : List RegWrite :=
  if n ≤ j then vWritesN 4 d lane 0
  else
    let slot := (r.popAt + j) % r.cap
    match s.ringRows.find? fun w => w.queue == q && w.slot == slot with
    | none => vWritesN 4 d lane 0
    | some w => vWritesN 4 d lane (r.slotVa (r.popAt + j) + (slot + w.src * 2 ^ 16) * 2 ^ 64 + w.tag.toNat * 2 ^ 96)

/-- `RTRECV`. -/
def execRtrecv (x : Ext) (s : State) : Outcome :=
  runExt (.rtrecv x) x s fun s e r =>
    let q := e.rs r.a
    match ringFor s e q with
    | none => .trap ⟨cOOB, 0, none⟩ 0
    | some g =>
      if g.present = 0 && !x.imm.getLsbD 0 then .stay s
      else
        let n := min e.lanes.length g.present
        let ws := (enumFrom 0 e.lanes).flatMap fun p => recvWrites s q g r.d n p.1 p.2
        let gone (w : RingRow) : Bool := w.queue == q && (List.range n).any fun j => w.slot == (g.popAt + j) % g.cap
        let s := putRing { s with ringRows := s.ringRows.filter fun w => !gone w } g 24 (g.popped + n)
        e.result (e.set s fun a => { a with acq := some 3 }) (ws ++ [.s r.c (BitVec.ofNat 64 n)])

/-- Whether a slot has been popped and not freed. -/
def slotHeld (s : State) (q : Nat) (g : Ring) (i : Nat) : Bool :=
  i < g.cap && (i + g.cap - g.freeAt % g.cap) % g.cap < g.popAt - g.freeAt && !s.freed.contains (q, i)

/-- The free point advances over freed slots in slot order, from the row of a number. -/
def advanceFree (q : Nat) (g : Ring) : Nat → Nat → State → State × Nat
  | 0, f, s => (s, f)
  | fuel + 1, f, s =>
    let i := f % g.cap
    if s.freed.contains (q, i) then advanceFree q g fuel (f + 1) { s with freed := s.freed.filter fun p => p != (q, i) } else (s, f)

/-- FREE is reported to every peer that is owed it (R297), and to the device's own kitties (R299). -/
def reportRing (s : State) (q : Nat) : State :=
  let free := min (ringOf s q).free 65535
  let s := (s.links.filter fun l => l.owed.contains q).foldl (fun s l => sendAck s l.port l.peer q free) s
  reportFree s (ownDev s) q free

/-- `RTREL`. -/
def execRtrel (x : Ext) (s : State) : Outcome :=
  runExt (.rtrel x) x s fun s e r =>
    let q := e.rs r.a
    let i := e.rs r.b
    match ringFor s e q with
    | none => .trap ⟨cOOB, 0, none⟩ 0
    | some g =>
      if !slotHeld s q g i then .trap ⟨cOOB, 0, none⟩ 0
      else
        match fence s e 1 3 with
        | none => .stay s
        | some s =>
          let (s, f) := advanceFree q g g.cap g.freeAt { s with freed := s.freed ++ [(q, i)] }
          if f = g.freeAt then .done s else .done (reportRing (putRing s g 20 (g.freed + f - g.freeAt)) q)

/-- R357: entries of a gang are discarded: those not flushed, and at a kill every other. -/
def discardGang (s : State) (gang : Nat) (kill : Bool) : State :=
  let ids := (s.cmds.filter fun c => c.gang == gang).map fun c => c.id
  let own := s.appended.filter fun a => a.gang == gang && (kill || a.flush.isNone)
  let par := s.parked.filter fun p => kill && ((p.flush.map ids.contains).getD false)
  let ns := own.map (fun a => a.n) ++ par.map fun p => p.n
  let s := { s with
    appended := s.appended.filter fun a => !own.contains a
    parked := s.parked.filter fun p => !par.contains p
    forming := s.forming.filter fun f => !ns.contains f.1 }
  let s := if kill then unfill s fun k => 2 ^ 32 ≤ k else s
  let s := own.foldl (fun s a => bump s a.asid a.route oDISC 1) s
  par.foldl discardEnt s

end Sys2Proof.Machine
end

