-- ==== Sys2Proof/Machine/Frames.lean ====
section
/-! DEFINITION. Context frames: their size and layout, what a save writes, what a restore reads back, and the pool they
come from (R354-R356, R358, R359). -/

namespace Sys2Proof.Machine

/-! ### Sizes and offsets (R354, R356) -/

/-- The slots of a gang, in order: workgroup and position within it. -/
def Gang.slotList (g : Gang) : List (Nat × Nat) :=
  (enumFrom 0 g.wgs).flatMap fun w => (List.range (cdiv (w.2.warps * w.2.g) 64)).map fun j => (w.1, j)
def Gang.slotRegs (g : Gang) (l : List (Nat × Nat)) : Nat := (l.map fun p => (g.wgs.getD p.1 default).vregs).sum

/-- The agent whose registers a place holds: the innermost pack, else the warp. -/
def Gang.holder (g : Gang) (wg place : Nat) : Option Agent :=
  (g.agents.filter fun a => a.wg == wg && a.place == place).foldl (fun b a => match b with
    | none => some a
    | some c => if c.depth < a.depth then some a else b) none

/-- The slots whose places packs of an apply hold. -/
def Gang.packSlots (g : Gang) (ap : ApplyRec) : List (Nat × Nat) :=
  let per := 64 / max 1 (g.wgs.getD ap.wg default).g
  let held := (g.agents.filter fun a => ap.packs.contains a.id).map fun a => a.place / max 1 per
  (sortNat held).map fun j => (ap.wg, j)

/-- Applies in progress, outermost first. -/
def Gang.nested (g : Gang) : List ApplyRec :=
  let open' := g.applies.filter fun a => a.formed
  (List.range 4).flatMap fun d => open'.filter fun a => a.depth == d

/-- Slot-registers set aside. -/
def Gang.aside (g : Gang) : Nat := (g.nested.map fun ap => g.slotRegs (g.packSlots ap)).sum

/-- The section offsets of a frame, and its size. -/
structure FrameLay where
  agoff : Nat
  hoff : Nat
  toff : Nat
  moff : Nat
  voff : Nat
  ooff : Nat
  xoff : Nat
  size : Nat
  deriving DecidableEq, Repr, Inhabited

def Gang.layout (g : Gang) : FrameLay :=
  let hoff := 0x1000 + 1280 * g.agents.length
  let toff := hoff + 2048 * g.wgs.length
  let moff := toff + 1024
  let voff := moff + 16384 * g.accNos.length
  let ooff := voff + 256 * g.slotRegs g.slotList
  let xoff := ooff + 128 * g.osLines
  ⟨0x1000, hoff, toff, moff, voff, ooff, if g.aside = 0 then 0 else xoff, cdiv (xoff + 256 * g.aside) 128 * 128⟩

/-! ### Contents -/

/-- n bytes that the device alone reads (log entry 7). -/
def privateBytes (s : State) (k n : Nat) : List Byte := (List.range n).map fun j => Config.freeByte s.tick (k + j)

/-- The state code of an agent record (R355). -/
def AgentSt.code (g : Gang) : AgentSt → Nat
  | .runnable => 0
  | .waiting _ => 1
  | .donor n => if g.applies.any fun a => a.n == n && a.formed then 2 else 1
  | .parked _ => 0
  | .ended => 3

/-- The counter classes in the order of the record. -/
def counterBits (s : State) (g : Gang) (a : Agent) : Nat :=
  let e : Env := ⟨g, a, g.wgs.getD a.wg default⟩
  ((enumFrom 0 [CmdClass.cp, .mx, .rd, .rt, .au, .fw, .vd]).map fun c => e.counter s c.2 * 2 ^ (8 * c.1)).sum

def tokenBusy : Token → Bool
  | .busy => true
  | _ => false

/-- An agent record (R355). -/
def agentBytes (s : State) (g : Gang) (k : Nat) (a : Agent) : List Byte :=
  let busy := ((enumFrom 0 a.tokens).map fun t => if tokenBusy t.2 then 2 ^ t.1 else 0).sum
  toBytes 8 (a.pc.toNat + a.st.code g * 2 ^ 60) ++ toBytes 8 a.trap.toNat ++ toBytes 8 a.tepc.toNat ++ toBytes 8 a.tinfo.toNat ++
    toBytes 8 a.fflags.toNat ++
    toBytes 8 (counterBits s g a + ((List.range 8).map fun n => if a.rk n then 2 ^ (56 + n) else 0).sum) ++
    toBytes 8 (a.i.toNat + a.rcnt * 2 ^ 32 + busy * 2 ^ 48) ++ privateBytes s (10000 * (k + 1)) 8 ++
    ((List.range 16).flatMap fun n => toBytes 8 (a.rcache.getD n 0#64).toNat) ++
    ((List.range 64).flatMap fun n => toBytes 8 (a.rs n).toNat) ++
    ((List.range 16).flatMap fun n => toBytes 32 (a.b.look 0#256 n).toNat) ++ privateBytes s (10000 * (k + 1) + 8) 64

/-- The words of one slot-register: the 64 lanes of a slot, from the agents that `who` gives for its places. -/
def slotBytes (g : Gang) (who : Nat → Nat → Option Agent) (slot : Nat × Nat) : List Byte :=
  let w := g.wgs.getD slot.1 default
  let gw := max 1 w.g
  (List.range w.vregs).flatMap fun r => (List.range 64).flatMap fun l =>
    let v := match who slot.1 (slot.2 * (64 / gw) + l / gw) with
      | some a => a.v.look 0#32 (64 * r + l % gw)
      | none => 0#32
    toBytes 4 v.toNat

/-- The donor of an apply at a place that a pack holds. -/
def Gang.donorAt (g : Gang) (ap : ApplyRec) (wg place : Nat) : Option Agent :=
  if g.agents.any fun a => ap.packs.contains a.id && a.place == place then
    g.agents.find? fun a => ap.donors.contains a.id && a.wg == wg && a.place == place
  else none

/-- A stash entry as its 16 bytes (R53). -/
def StashEnt.bytes (w : StashEnt) : List Byte :=
  toBytes 16 (w.base % 2 ^ 13 + w.lines % 2 ^ 13 * 2 ^ 32 + (if w.v then 2 ^ 63 else 0) + w.gva.toNat * 2 ^ 64)

/-- The tile section: 64 entries and then the stash entries, in 1 KiB. -/
def tileSection (s : State) (g : Gang) : List Byte :=
  ((List.range 64).flatMap fun t => toBytes 8 ((g.tile t).toNat + tileState s g t * 2 ^ 62)) ++
    ((List.range 4).flatMap fun n => (g.stash.getD n default).bytes) ++ List.replicate 448 0#8

/-- The header of a frame (R354); a halt's words are written after the save. -/
def headerBytes (s : State) (g : Gang) (frame : Nat) : List Byte :=
  let l := g.layout
  toBytes 8 (l.size + g.agents.length * 2 ^ 32 + 2 ^ 48) ++ toBytes 8 0 ++ toBytes 8 g.dbg.toNat ++
    ((List.range 4).flatMap fun n => toBytes 8 (g.wp.getD n 0#64).toNat) ++ toBytes 8 frame ++
    ([l.agoff, l.hoff, l.toff, l.moff, l.voff, l.ooff, l.xoff].flatMap fun o => toBytes 8 o) ++ privateBytes s 100 3976

/-- All the bytes of a frame. -/
def frameImage (s : State) (g : Gang) (frame : Nat) : List Byte :=
  headerBytes s g frame ++ ((enumFrom 0 g.agents).flatMap fun a => agentBytes s g a.1 a.2) ++
    (g.wgs.flatMap fun w => (List.range 16).flatMap fun n => if n = 1 then List.replicate 128 0#8 else toBytes 128 (w.hands.getD n 0#1024).toNat) ++
    tileSection s g ++
    ((List.range g.accNos.length).flatMap fun m => (List.range 4096).flatMap fun w => toBytes 4 (g.accs.look 0#32 (4096 * m + w)).toNat) ++
    (g.slotList.flatMap (slotBytes g g.holder)) ++ g.osBytes (List.range (128 * g.osLines)) ++
    (g.nested.flatMap fun ap => (g.packSlots ap).flatMap (slotBytes g (g.donorAt ap)))

/-- The identity fields of agent records (R355). -/
def identityBytes : Nat → List Byte → List Byte
  | 0, _ => []
  | n + 1, r => ((r.drop 0x38).take 8 ++ (r.drop 0x4C0).take 64) ++ identityBytes n (r.drop 1280)

/-- The bytes a program may not change, from the header of 4 KiB and the agent records behind it (R355). -/
def fixedBytes (h : List Byte) : List Byte :=
  h.take 8 ++ (h.take 4096).drop 0x40 ++ identityBytes (h.length / 1280) (h.drop 4096)

/-! ### Debug words (R358, R359) -/

def dbgBad (v : Nat) : Bool := fld v 8 56 != 0 || bitN v 3
def wpBad (v : Nat) : Bool :=
  let wl := fld v 59 2
  fld v 56 3 != 0 || fld v 20 12 != 0 || wl = 3 || fld v 0 20 % (if wl = 0 then 4 else if wl = 1 then 16 else 128) != 0

/-! ### The pool (R356) -/

/-- The pool's list descriptor of a die. -/
def poolDesc (die : Nat) : Nat := die * Config.stackBytes + 0x40
def poolFrame : Nat := 2 ^ 24

/-- Where the link of a frame stands. -/
def poolLink (s : State) (die frame : Nat) : Nat :=
  let d := poolDesc die
  fld (homeNat s (d + 16) 8) 0 52 + 8 * ((frame - fld (homeNat s (d + 8) 8) 12 40 * 4096) / poolFrame)

/-- The device writes a number at its home. -/
def devPut (s : State) (a n v : Nat) : State := applyHome s ((bytesAt a n).zip (toBytes n v))

/-- What comes before an indivisible step of the device on a word of memory, such as the head of a list (R44, R69). -/
def wordFirst (s : State) (a : Nat) : State := performSel s (beforeRmw s (unitWho s 0 0) (bytesAt a 8))

/-- A frame is taken from the pool; none when it is empty. -/
def popFrame (s : State) (die : Nat) : Option (State × Nat) :=
  let d := poolDesc die
  let s := wordFirst s d
  let old := homeNat s d 8
  let f := fld old 12 40 * 4096
  if f = 0 then none
  else
    let nxt := homeNat s (poolLink s die f) 8
    some (devPut s d 8 (fld nxt 12 40 * 4096 + (old + 1) % 4096), f)

/-- A frame goes back to the pool. -/
def pushFrame (s : State) (die frame : Nat) : State :=
  let d := poolDesc die
  let s := wordFirst s d
  let old := homeNat s d 8
  let s := devPut s (poolLink s die frame) 8 (fld old 12 40 * 4096)
  devPut s d 8 (frame + (old + 1) % 4096)

/-! ### What a program may have edited (R355) -/

/-- Record words a restored agent takes from its frame. -/
def editAgent (s : State) (rec' : Nat) (a : Agent) : Agent :=
  let pc := BitVec.ofNat 52 (homeNat s rec' 8)
  let sregs := (List.range 63).foldl (fun (t : Table DWord) n =>
    t.put 0#64 (n + 1) (BitVec.ofNat 64 (homeNat s (rec' + 0xC0 + 8 * (n + 1)) 8))) a.s
  if pc = a.pc then { a with s := sregs }
  else { a with s := sregs, pc := pc, skipDbg := false, prog := 0 }

def editAgents (s : State) : Nat → List Agent → List Agent
  | _, [] => []
  | rec', a :: r => editAgent s rec' a :: editAgents s (rec' + 1280) r

/-- The gang as its frame now gives it; debug words that would be refused stay as they were. -/
def editGang (s : State) (frame : Nat) (g : Gang) : Gang :=
  let dbg := homeNat s (frame + 0x10) 8
  let wps := (List.range 4).map fun n => homeNat s (frame + 0x18 + 8 * n) 8
  let ok := !dbgBad dbg && !wps.any wpBad
  { g with
    agents := editAgents s (frame + 0x1000) g.agents
    dbg := if ok then BitVec.ofNat 64 dbg else g.dbg
    wp := if ok then wps.map fun w => BitVec.ofNat 64 w else g.wp }

/-- R355: whether `CTXL` takes a frame as the device wrote it. -/
def frameOk (s : State) (v : Saved) : Bool :=
  let h := (bytesAt v.frame (4096 + 1280 * v.gang.agents.length)).map (homeByte s)
  fixedBytes h == v.hdr && !dbgBad (homeNat s (v.frame + 0x10) 8) &&
    !((List.range 4).any fun n => wpBad (homeNat s (v.frame + 0x18 + 8 * n) 8))

/-- Whether a byte of a range lies in a frame in a bias flip. -/
def rangeFrozen (s : State) (a n : Nat) : Bool := s.flips.any fun f => a < (f.frame + 1) * 4096 && f.frame * 4096 < a + n

end Sys2Proof.Machine
end

