-- ==== Sys2Proof/Machine/System.lean ====
section
/-! DEFINITION. The instructions of system software: MFS, MTS, TRAP, BKPT, DMBX, ERET, FPOP, FRES, TLBI, BIASF, CTXS,
CTXL (R339-R342). -/

namespace Sys2Proof.Machine

/-! ### Status registers (R340) -/

/-- A status register that is not per lane, by its code. -/
def Env.status (e : Env) (s : State) (code : Nat) : DWord :=
  let n (k : Nat) : DWord := BitVec.ofNat 64 k
  let d := s.die e.g.die
  match code with
  | 2 => n e.a.place
  | 3 => n e.wg.warps
  | 4 => n e.wg.g
  | 5 => 64#64
  | 6 => n e.a.pk
  | 7 => n e.a.depth
  | 8 => n e.a.wg
  | 9 => n e.g.idx
  | 10 => n e.g.blk.ngang
  | 11 => n e.wg.role
  | 12 => n e.g.core
  | 13 => n (Config.dies * Config.coresPerDie - s.fenced.length)
  | 14 => n e.g.die
  | 15 => s.bar0.dev.setWidth 64
  | 16 => n (e.clk s)
  | 17 => e.a.fflags.setWidth 64
  | 18 => n e.g.asid
  | 19 => Config.mchunk
  | 32 => d.swapthr
  | 33 => d.rdvto
  | 34 => d.pretime
  | 35 => e.a.trap
  | 36 => e.a.tepc
  | 37 => e.a.tinfo
  | 38 => e.g.dbg
  | _ =>
    if code < 48 then e.g.wp.getD (code - 40) 0#64
    else e.g.raf.getD (code - 48) 0#64

/-- `MFS`. -/
def execMfs (x : Ext) (s : State) : Outcome :=
  runExt (.mfs x) x s fun s e r =>
    let code := x.a.toNat
    if code = 0 then e.result s (e.lanes.map fun l => .v r.d l (BitVec.ofNat 32 (e.rank l)))
    else if code = 1 then e.result s (e.lanes.map fun l => .v r.d l (BitVec.ofNat 32 l))
    else if 48 ≤ code && !e.g.ident then .trap ⟨cILLOP, 0, none⟩ 0
    else e.result s [.s r.d (e.status s code)]

/-- `MTS`. A region of the system context maps one to one while it holds the entry that R43 and R381 give it. -/
def execMts (x : Ext) (s : State) : Outcome :=
  runExt (.mts x) x s fun s e r =>
    let v := e.a.rs r.a
    match x.d.toNat with
    | 17 => .done (e.set s fun a => { a with fflags := v.setWidth 5 })
    | 32 => .done (s.updDie e.g.die fun d => { d with swapthr := v })
    | 33 => .done (s.updDie e.g.die fun d => { d with rdvto := v })
    | 34 => .done (s.updDie e.g.die fun d => { d with pretime := v })
    | 38 => if dbgBad v.toNat then .trap ⟨cOOB, 0, none⟩ 0 else .done (e.setGang s fun g => { g with dbg := v })
    | code =>
      if code < 48 then
        (if wpBad v.toNat then .trap ⟨cOOB, 0, none⟩ 0 else .done (e.setGang s fun g => { g with wp := g.wp.set (code - 40) v }))
      else .done (e.setGang s fun g => { g with raf := g.raf.set (code - 48) v, rafOwn := if v == sysRaf (code - 48) then delNat (code - 48) g.rafOwn else insNat (code - 48) g.rafOwn })

/-! ### Traps and the mailbox (R341) -/

/-- `TRAP n`. -/
def execTrap (x : Ext) (s : State) : Outcome :=
  runExt (.trap x) x s fun _ _ _ => .trap ⟨cTRAP, 0, none⟩ x.imm.toNat
/-- `BKPT`. -/
def execBkpt (x : Ext) (s : State) : Outcome := runExt (.bkpt x) x s fun _ _ _ => .trap ⟨cBKPT, 0, some 0⟩ 0

/-- An entry is appended to a core's mailbox; when it is full, the oldest goes and the overflow bit is set. -/
def mailPush (s : State) (die core : Nat) (w : DWord) : State :=
  let m := (s.mail.find? fun m => m.die == die && m.core == core).getD ⟨die, core, [], false⟩
  let full := decide (Config.mailboxEntries ≤ m.entries.length)
  let es := (if full then m.entries.tail else m.entries) ++ [w]
  { s with mail := (s.mail.filter fun m => !(m.die == die && m.core == core)) ++ [⟨die, core, es, m.overflow || full⟩] }

/-- `DMBX`. -/
def execDmbx (x : Ext) (s : State) : Outcome :=
  runExt (.dmbx x) x s fun s e r => .done (mailPush s e.g.die e.g.core (e.a.rs r.a))

/-- `ERET`: its own check in every context. -/
def execEret (x : Ext) (s : State) : Outcome :=
  runExt (.eret x) x s fun s e _ => if e.a.act then .gone (leaveTrap s e (x.imm.getLsbD 0)) else .trap ⟨cILLOP, 0, none⟩ 0

/-! ### Fault service (R342) -/

/-- `FPOP`. -/
def execFpop (x : Ext) (s : State) : Outcome :=
  runExt (.fpop x) x s fun s e r =>
    match (s.die e.g.die).faultQ with
    | f :: rest =>
      e.result (s.updDie e.g.die fun d => { d with faultQ := rest })
        [.s r.d f.w0, .s (r.d + 1) f.w1, .s (r.d + 2) f.w2, .s (r.d + 3) f.w3, .k r.c true]
    | [] => if x.imm.getLsbD 0 then e.result s [.k r.c false] else .stay s

/-- Whether an agent is parked with a token. -/
def parkedAt (tok : Nat) (a : Agent) : Bool := match a.st with
  | .parked t => t == tok
  | _ => false

/-- An agent that was parked issues its instruction again; where its gang's save has taken its frame or waits for one, after
the restore (R161). -/
def unpark (tok : Nat) (g : Gang) : Gang :=
  let out := (g.stop.map fun p => p.frame.isSome || p.since.isSome).getD false
  { g with agents := updWhere (parkedAt tok) (fun a => { a with st := .runnable, stopped := a.stopped || out }) g.agents }

/-- A gang saved for a wait or a fault, which comes back when what it waits for is there. -/
def Saved.swapped (v : Saved) : Bool := v.cause == .longWait || v.cause == .pageFault

/-- Outcome 0: a parked agent goes on, and a gang saved for it comes back; a held engine access is made again. -/
def resumeToken (s : State) (tok : Nat) : State :=
  if 2 ^ 63 ≤ tok then { s with holds := s.holds.filter fun h => h.token != tok || h.denied }
  else
    match s.gangs.find? fun g => g.agents.any (parkedAt tok) with
    | some g => s.updGang g.uid fun g => (unpark tok g).noteHit
    | none =>
      match s.saved.find? fun v => v.gang.agents.any (parkedAt tok) with
      | none => s
      | some v =>
        let s := { s with saved := updWhere (fun w => w.frame == v.frame) (fun w => { w with gang := unpark tok w.gang }) s.saved }
        if v.swapped then toDistributor s v.frame else s

/-- Outcome PROT: the parked instruction raises PROT; a held engine access is a failed one (R390). -/
def denyToken (s : State) (tok : Nat) : State :=
  if 2 ^ 63 ≤ tok then { s with holds := updWhere (fun h => h.token == tok) (fun h => { h with denied := true }) s.holds }
  else
    match (s.gangs ++ s.saved.map fun v => v.gang).find? fun g => g.agents.any (parkedAt tok) with
    | some g => killContext s g.asid
    | none => s

/-- `FRES`. -/
def execFres (x : Ext) (s : State) : Outcome :=
  runExt (.fres x) x s fun s e r =>
    match e.rs r.b with
    | 0 => .done (resumeToken s (e.rs r.a))
    | 1 => .done (denyToken s (e.rs r.a))
    | _ => .trap ⟨cOOB, 0, none⟩ 0

/-- A translation that a `TLBI` of a mode removes. -/
def tlbHits (mode asid va size : Nat) (t : TlbEnt) : Bool :=
  mode == 2 || (t.asid == asid && (mode == 1 ||
    (let b := max t.bits (pageBits size); t.va / 2 ^ b == va % 2 ^ 52 / 2 ^ b)))

/-- Whether an access of a context, or with all of them, still waits after its translation: a write, an atomic, a read, a
contribution of an `SRED`, or a message to a group unit (R39). -/
def accessWaits (s : State) (mode asid : Nat) : Bool :=
  let mine (uid : Nat) : Bool := mode == 2 || match s.gang? uid with
    | some g => g.asid == asid
    | none => true
  (s.outq.any fun p => mine p.gang) || (s.atoms.any fun p => mine p.gang) ||
    (s.cmds.any fun c => (mode == 2 || c.asid == asid) && !c.items.isEmpty) || (s.grpMsgs.any fun m => mode == 2 || m.asid == asid) ||
    s.gangs.any fun g => mine g.uid && g.agents.any fun a => a.outs.any fun o => o.reads.any fun l => l.waits

/-- R39: translations are removed; none while an access made with them may still wait. -/
def removeTlb (s : State) (mode asid va size : Nat) : Option State :=
  if accessWaits s mode asid then none else some { s with tlb := s.tlb.filter fun t => !tlbHits mode asid va size t }

/-- `TLBI`. -/
def execTlbi (x : Ext) (s : State) : Outcome :=
  runExt (.tlbi x) x s fun s e r =>
    match fence s e 2 3 with
    | none => .stay s
    | some s =>
      match removeTlb s x.imm.toNat (e.rs r.a % 2 ^ 16) (e.rs r.b) (e.rs r.c % 8) with
      | none => .stay s
      | some s => .done s

/-- `BIASF` (R74): the flip is asked for once, and the instruction completes with it. -/
def execBiasf (x : Ext) (s : State) : Outcome :=
  runExt (.biasf x) x s fun s e r =>
    let a := e.rs r.a
    let host := x.imm.getLsbD 0
    let me := some (e.g.uid, e.a.id)
    if !paDevice a then .trap ⟨cOOB, 0, none⟩ 0
    else if a % 4096 != 0 then .trap ⟨cMISALIGN, 0, none⟩ 0
    else if e.a.prog != 0 then (if s.flips.any fun f => f.asker == me then .stay s else .done s)
    else if s.hostBias.contains (a / 4096) == host && !frozen s a then .done s
    else .stay { e.set s (fun b => { b with prog := 1 }) with flips := s.flips ++ [⟨a / 4096, host, me⟩] }

/-! ### Saving and loading a gang (R342, R352, R354, R355) -/

/-- A stop request reaches a gang, if none that stands before it is pending. -/
def Gang.ask (g : Gang) (c : StopCause) (due : Nat) : Gang :=
  match g.stop with
  | none => { g with stop := some { cause := c, due := due, hit := false } }
  | some p => if p.cause.yields then { g with stop := some { p with cause := c, due := due, hit := false } } else g

/-- The asker of a `CTXS`. -/
def askedBy (e : Env) (g : Gang) : Bool := match g.stop with
  | some ⟨.ctxs _ gang agent _, _, _, _, _⟩ => gang == e.g.uid && agent == e.a.id
  | _ => false

/-- `CTXS`: it asks for the save, waits for its end, and says whether the gang was there. -/
def execCtxs (x : Ext) (s : State) : Outcome :=
  runExt (.ctxs x) x s fun s e r =>
    let name := e.rs r.a
    let f := e.rs r.b
    let die := fld name 16 3
    let here (g : Gang) : Bool := g.die == die && g.core == fld name 8 5 && g.slot == fld name 0 6
    if f % 4096 != 0 then .trap ⟨cMISALIGN, 0, none⟩ 0
    else if e.a.prog = 2 then e.result s [.k r.c true]
    else if s.gangs.any (askedBy e) then .stay s
    else if e.a.prog = 1 then e.result s [.k r.c false]
    else
      match s.gangs.find? here with
      | none => e.result s [.k r.c false]
      | some g =>
        let cause : StopCause := .ctxs (f % 2 ^ 52) e.g.uid e.a.id r.c
        let due := (s.die die).clk + (s.die die).pretime.toNat
        if (g.ask cause due) == g then .stay s
        else .stay ((e.set s fun a => { a with prog := 1 }).updGang g.uid fun g => g.ask cause due)

/-- A range of addresses. -/
def inRange (a n b : Nat) : Bool := a ≤ b && b < a + n

/-- The issuer's own accesses to a frame come before the device reads it (R109); none while one of them waits. -/
def ownFrame (s : State) (e : Env) (a n : Nat) : Option State :=
  let s := settleAtoms s e.a.id fun p => p.lanes.any fun l => inRange a n l.pa
  let mine (p : PendWrite) : Bool := p.agent == e.a.id && p.bytes.any fun b => inRange a n b.1
  if (s.atoms.any fun p => p.agent == e.a.id && p.lanes.any fun l => inRange a n l.pa) || stuckSel s mine then none
  else some (performSel s mine)

/-- `CTXL`. -/
def execCtxl (x : Ext) (s : State) : Outcome :=
  runExt (.ctxl x) x s fun s e r =>
    let f := e.rs r.a
    if f % 4096 != 0 then .trap ⟨cMISALIGN, 0, none⟩ 0
    else
      match s.saved.find? fun v => v.frame == f && !v.returning && !v.gang.dying with
      | none => e.result s [.k r.c false]
      | some v =>
        let n := v.gang.layout.size
        if rangeFrozen s f n then .stay s
        else
          match ownFrame s e f n with
          | none => .stay s
          | some s =>
            if !frameOk s v then e.result s [.k r.c false]
            else
              let h := homeNat s (f + 0xF) 1
              let s := applyHome s [(f + 0xF, BitVec.ofNat 8 (h % 128))]
              let load (w : Saved) : Saved := { w with gang := { editGang s f w.gang with self := some f } }
              let s := { s with saved := updWhere (fun w => w.frame == f) load s.saved }
              e.result (toDistributor s f) [.k r.c true]

end Sys2Proof.Machine
end

