-- ==== Sys2Proof/Machine/Fetch.lean ====
section
/-! DEFINITION. The fetch of an agent's next instruction (R180, R199), and words that are no instruction. -/

namespace Sys2Proof.Machine

/-- What a fetch finds. -/
inductive Fetched where
  | instr (i : Instr)
  | bad (b : Bad)
  | trap (cause : Nat)
  | page (ps : List FaultPage)
  deriving DecidableEq, Repr

/-- The virtual addresses of the words of an instruction: the first and the last byte of each. -/
def fetchVas (pc : Addr) (words : Nat) : List Nat :=
  (List.range words).flatMap fun k => [(pc.toNat + 4 * k) % 2 ^ 52, (pc.toNat + 4 * k + 3) % 2 ^ 52]

/-- Some words from an address: their translations, and their bytes as the agent's core sees them; no faulting page where
the read has to wait, for a write that it may not pass or in a frame in a bias flip (R74, R78, R79). -/
def fetchWords (s : State) (e : Env) (words : Nat) : Except Fetched (List Trans × List Nat) :=
  match translateAll s e.who .fetch [(0, fetchVas e.a.pc words)] with
  | .error (.inl t) => .error (.trap t.cause)
  | .error (.inr ps) => .error (.page ps)
  | .ok ts =>
    let as := (List.range (4 * words)).map fun j => (placePiece s e.who ts ((e.a.pc.toNat + j) % 2 ^ 52, 1)).rd
    if as.any (frozen s) || !readable s e.who as then .error (.page [])
    else if as.any (viewPoison s e.who) then .error (.trap cMEMPOISON)
    else .ok (ts.map fun t => t.2, as)

/-- R180: the core fetches all words of the instruction, whose number is in the first. -/
def fetch (s : State) (e : Env) : State × Fetched :=
  match fetchWords s e 1 with
  | .error f => (s, f)
  | .ok (_, a0) =>
    let n := lengthOf (BitVec.ofNat 32 (ofBytes (viewBytes s e.who a0)))
    match fetchWords s e n with
    | .error f => (s, f)
    | .ok (ts, as) =>
      let bs := viewBytes s e.who as
      (noteRead (noteTlb s e.who ts) e.who as, match decode bs with
        | .ok (i, _) => .instr i
        | .error b => .bad b)

/-- Words that are no instruction raise ILLOP or ILLENC (R199). -/
def issueBad (s : State) (e : Env) (b : Bad) : State :=
  issue { m := b.m, words := b.words, illop := b.kind == .illop, priv := b.priv, ok := false, own := b.apply } s e fun s _ => .stay s

/-- A fetch that gives no instruction: its trap or page fault. LEN of an instruction that was not read is free. -/
def fetchFailed (s : State) (e : Env) : Fetched → State
  | .instr _ => s
  | .bad b => issueBad s e b
  | .trap c => takeTrap s e ⟨⟨c, 0, none⟩, 0, 0, 1 + 2 * (Config.choose s.tick 2 % 3), e.a.pc⟩
  | .page ps => pageFault s e .fetch ps

end Sys2Proof.Machine
end

