-- ==== Sys2Proof/Machine/Group.lean ====
section
/-! DEFINITION. Sample groups: FORK, GRWD, GBAR, GCANCEL, GSTAT, the steps of the group unit, age and deadlines, and the
redirection of a cancelled warp (R318-R326). -/

namespace Sys2Proof.Machine

/-! ### The record (R318, R319) -/

/-- A field of the record at its physical base. -/
def grpWord (s : State) (pa w : Nat) : Nat := homeNat s (pa + 8 * w) 8
def grpN (s : State) (pa : Nat) : Nat := fld (grpWord s pa 0) 0 7
def grpQuorum (s : State) (pa : Nat) : Nat := fld (grpWord s pa 0) 16 7
def grpEps (s : State) (pa : Nat) : Nat := fld (grpWord s pa 0) 32 32
def grpStatus (s : State) (pa : Nat) : Nat := fld (grpWord s pa 3) 0 4
def grpReward (s : State) (pa i : Nat) : Nat := homeNat s (pa + 0x80 + 4 * i) 4
def grpSib (s : State) (pa i : Nat) : Nat := homeNat s (pa + 0x280 + 4 * i) 4

/-- Bytes written in the record in one step at the unit. -/
def grpPut (s : State) (off n val : Nat) (pa : Nat) : State := unitPut s ((bytesAt (pa + off) n).zip (toBytes n val))

def setField (w lo n v : Nat) : Nat := w - fld w lo n * 2 ^ lo + v % 2 ^ n * 2 ^ lo
/-- A field of the status word 0x18 replaced. -/
def grpSet (s : State) (pa lo n v : Nat) : State := grpPut s 0x18 8 (setField (grpWord s pa 3) lo n v) pa
def sibSet (s : State) (pa i bit : Nat) : State := grpPut s (0x280 + 4 * i) 4 (Nat.lor (grpSib s pa i) (2 ^ bit)) pa

/-! ### Age (R324) -/

def State.grp? (s : State) (pa : Nat) : Option GrpAge := s.groups.find? fun g => g.pa == pa
def State.updGrp (s : State) (pa : Nat) (f : GrpAge → GrpAge) : State :=
  { s with groups := updWhere (fun g => g.pa == pa) f s.groups }

/-- Whether a gang of a context is resident. -/
def residentCtx (s : State) (asid : Nat) : Bool := s.gangs.any fun g => g.asid == asid

/-- The report of a change of residency lags by at most this many cycles (R324). -/
def reportLag : Nat := 256
/-- The cycles that count since the age was last brought up to date: those in which the home die takes a gang of the context to
be resident, which follows a change of residency by at most the lag. -/
def GrpAge.counted (g : GrpAge) (clk : Nat) : Nat := match g.paused, g.since with
  | true, none => 0
  | true, some t => clk - max (t + reportLag) g.changed
  | false, none => clk - g.changed
  | false, some t => min clk (t + reportLag) - g.changed
/-- The age now; it stops at the deadline, at which the group is released. -/
def GrpAge.now (g : GrpAge) (s : State) : Nat :=
  let n := (g.age + g.counted (s.die g.home).clk) % 2 ^ 48
  if g.deadline = 0 then n else min n g.deadline
/-- The age brought up to date. -/
def GrpAge.sync (g : GrpAge) (s : State) : GrpAge := { g with age := g.now s, changed := (s.die g.home).clk }
def writeAge (s : State) (g : GrpAge) : State := grpPut s 0x10 8 (g.now s) g.pa

/-! ### Release (R325) -/

def add64 (a b : Nat) : Nat := (faddV .f64 0 (Fmt.f64.read a) (Fmt.f64.read b)).1
def sub64 (a b : Nat) : Nat := (faddV .f64 0 (Fmt.f64.read a) (Fmt.f64.read b).neg).1
def mul64 (a b : Nat) : Nat := (fmulV .f64 0 (Fmt.f64.read a) (Fmt.f64.read b)).1
def div64 (a b : Nat) : Nat := (fdivV .f64 0 (Fmt.f64.read a) (Fmt.f64.read b)).1
def sqrt64 (a : Nat) : Nat := (fsqrtV .f64 0 (Fmt.f64.read a)).1
def widen64 (a : Nat) : Nat := (cvtFF .f64 0 false (Fmt.f32.read a)).1
def narrow32 (a : Nat) : Nat := (cvtFF .f32 0 false (Fmt.f64.read a)).1
def finite32 (a : Nat) : Bool := finiteV (Fmt.f32.read a)

/-- What a release computes: STATUS, ZV, MEAN, VAR and the advantage of each counted reward. -/
structure GrpStats where
  status : Nat
  zv : Bool
  mean : Nat
  var : Nat
  adv : List Nat
  deriving DecidableEq, Repr, Inhabited

/-- R325: the statistics of the counted rewards, in ascending index. -/
def groupStats (rewards : List Nat) (quorum eps : Nat) : GrpStats :=
  let na := rewards.length
  if na < quorum then ⟨3, false, 0, 0, []⟩
  else if rewards.any fun r => !finite32 r then ⟨4, false, 0, 0, []⟩
  else
    let r := rewards.map widen64
    let cnt := (cvtIF .f64 0 false na).1
    let mean := div64 (r.foldl add64 0) cnt
    let d := r.map fun x => sub64 x mean
    let ss := (d.map fun x => mul64 x x).foldl add64 0
    let var := div64 ss cnt
    if ss = 0 then ⟨2, true, mean, var, []⟩
    else
      let den := add64 (sqrt64 var) (widen64 eps)
      ⟨2, false, mean, var, d.map fun x => narrow32 (div64 x den)⟩

/-- Siblings of the group by a test on their state word. -/
def sibsWhere (s : State) (pa : Nat) (p : Nat → Bool) : List Nat := (List.range (grpN s pa)).filter fun i => p (grpSib s pa i)

/-- The release of a group, in one step (R325); waiting `GBAR`s of gangs swapped out come back (R160). -/
def releaseGroup (s : State) (pa : Nat) (timeout : Bool) : State :=
  let arr := sibsWhere s pa fun w => bitN w 0
  let missing := sibsWhere s pa fun w => !bitN w 0 && !bitN w 1
  let st := groupStats (arr.map (grpReward s pa)) (grpQuorum s pa) (grpEps s pa)
  let s := missing.foldl (fun s i => sibSet s pa i 4) s
  let s := (arr.zip st.adv).foldl (fun s p => grpPut s (0x180 + 4 * p.1) 4 p.2 pa) s
  let s := if st.status = 2 then grpPut (grpPut s 0x30 8 st.mean pa) 0x38 8 st.var pa else s
  let w := setField (grpWord s pa 3) 0 4 st.status
  let w := setField w 6 1 (if st.zv then 1 else 0)
  let w := if timeout then setField w 7 1 1 else w
  let s := grpPut s 0x18 8 w pa
  match s.grp? pa with
  | none => s
  | some g => { writeAge s g with groups := s.groups.filter fun h => h.pa != pa }

/-- The release test after a reward or a cancel. -/
def releaseTest (s : State) (pa : Nat) : State :=
  if grpStatus s pa = 1 && (sibsWhere s pa fun w => !bitN w 0 && !bitN w 1).isEmpty then releaseGroup s pa false else s

/-! ### FORK (R320) -/

/-- An instruction's translation of a group address (R40): the physical base and where it reads, or how it ends; `rd`
tells whether the instruction reads the header line (R68), `own` whether its own earlier accesses to the record come first,
and, of its messages to the unit, all (R79, R364). -/
def groupAt (e : Env) (s : State) (k : AccKind) (rd own : Bool) (va : Nat) : Except Res (State × Piece) :=
  match translateAll s e.who k [(0, [va])] with
  | .error (.inl t) => .error (.trap t 0)
  | .error (.inr ps) => .error (.page k ps)
  | .ok ts =>
    let p := placePiece s e.who ts (va, 8)
    if rd && viewPoison s e.who p.rd then .error (.trap ⟨cMEMPOISON, 0, none⟩ 0)
    else
      match if k.writes then p.dup else none with
      | some d => .error (.stay (startCollapse s d))
      | none =>
        let s' := noteTlb s e.who (ts.map fun t => t.2)
        if !own then .ok (s', p)
        else if ownBlocked s e (bytesAt p.pa 1024) || s.grpMsgs.any (fun m => m.agent == e.a.id && m.pa == p.pa) then .error (.stay s)
        else .ok (ownFirst s' e (bytesAt p.pa 1024), p)

/-- The address operand of a group instruction. -/
def groupVa (v : Nat) : Nat := v % 2 ^ 52

/-- The header words `FORK` reads that make it raise OOB. -/
def forkBad (s : State) (pa n : Nat) : Bool :=
  let w0 := grpWord s pa 0
  let w1 := grpWord s pa 1
  let w3 := grpWord s pa 3
  fld w3 0 4 = 1 || fld w0 7 9 != 0 || fld w0 23 9 != 0 || fld w1 48 16 != 0 || bitN w3 4 || fld w3 9 7 != 0 || bitN w3 23 ||
    bitN w3 31 || fld w3 35 29 != 0 || grpQuorum s pa = 0 || n < grpQuorum s pa ||
    (match Fmt.f32.read (grpEps s pa) with
      | .fin neg m _ => neg && m != 0
      | _ => true)

/-- The record as `FORK` leaves it: every line but the header's is written whole (R68). -/
def forkRecord (s : State) (pa n die ctx : Nat) : State :=
  let zero (off k : Nat) (s : State) : State := applyHome s ((bytesAt (pa + off) k).map fun a => (a, 0#8))
  let s := clearPoison (zero 0x80 0x380 s) (bytesAt (pa + 0x80) 0x380)
  let s := zero 0x30 16 s
  let s := grpPut s 0 8 (setField (grpWord s pa 0) 0 7 n) pa
  let s := grpPut s 0x10 8 0 pa
  let s := grpPut s 0x18 8 (1 + die * 2 ^ 32) pa
  grpPut s 0x20 8 ctx pa

/-- The entry of sibling i. -/
def forkEntry (ent g ctx i : Nat) : List Byte := toBytes 8 (ent + 2 ^ 48) ++ toBytes 8 ctx ++ toBytes 8 g ++ toBytes 8 i

/-- The posts from the i-th on, n - i of them left: how far it came is kept in `prog`. -/
def forkPosts (e : Env) (x : Ext) (ent g ctx n : Nat) : Nat → State → Res
  | 0, s => .done s
  | left + 1, s =>
    let i := n - (left + 1)
    let bs := forkEntry ent g ctx i
    match pickShard s e.unit ctx (clusterOf e.g.die e.g.core) with
    | .error u => u.res e x
    | .ok (_, none) => .trap ⟨cOOB, 0, none⟩ 0
    | .ok (s, some u) =>
      match postQ s e.unit u bs with
      | .error u => u.res e x
      | .ok (s, false) => .stay s
      | .ok (s, true) => forkPosts e x ent g ctx n left (e.set s fun a => { a with prog := i + 2 })

/-- `FORK`. -/
def execFork (x : Ext) (s : State) : Outcome :=
  runExt (.fork x) x s fun s e r =>
    let g := e.rs r.d
    let n := e.rs r.a
    let ent := e.rs r.b
    let ctx := e.rs r.c
    if g % 1024 != 0 then .trap ⟨cMISALIGN, 0, some 1⟩ 0
    else if n < 2 || 64 < n || ent % 4 != 0 || 0xFFFFFFFC < ent || 2 ^ 52 ≤ ctx then .trap ⟨cOOB, 0, some 2⟩ 0
    else if e.a.prog != 0 then forkPosts e x ent g ctx n (n - (e.a.prog - 1)) s
    else
      match groupAt e s .store true true (groupVa g) with
      | .error q => q
      | .ok (s, p) =>
        let pa := p.pa
        -- its own writes, and the posts' release (R79, R122)
        match (fence s e 1 3).bind fun s => rmwFirst s e.who (bytesAt pa 1024) with
        | none => .stay s
        | some s =>
          if forkBad s pa n then .trap ⟨cOOB, 0, none⟩ 0
          else
            match firstQ s e.unit ((List.range 64).map shardQ) with
            | .error u => u.res e x
            | .ok (_, none) => .trap ⟨cOOB, 0, none⟩ 0
            | .ok (s, some _) =>
              let dl := fld (grpWord s pa 1) 0 48
              if dl != 0 && 4096 ≤ (s.groups.filter fun h => h.home == e.g.die && h.deadline != 0).length then .stay s
              else
                let s := forkRecord s pa n e.g.die ctx
                let age : GrpAge := { pa := pa, asid := e.g.asid, home := e.g.die, deadline := dl, age := 0, paused := false,
                                      changed := e.clk s, wrote := e.clk s }
                let s := { s with groups := (s.groups.filter fun h => h.pa != pa) ++ [age] }
                forkPosts e x ent g ctx n n (e.set s fun a => { a with prog := 1 })

/-! ### Rewards and cancels (R322, R323) -/

/-- What a message waits for before it performs: as a release at `.dev`, all that its agent did before it (R122); otherwise what
the agent's releases make its later writes wait for, and its own earlier accesses to the record (R79, R83). -/
def Env.msgNeeds (e : Env) (s : State) (rel : Bool) (as : List Nat) : List Need × List Need :=
  let p := e.past s 3
  let mine (n : Nat) : Bool := s.atoms.any (fun q => q.n == n && q.overlaps as) ||
    (e.now s).a.outs.any fun o => o.n == n && o.reads.any fun l => l.parts.any fun q => q.overlaps as
  if rel then p
  else (liveNeeds s e.who ++ p.1.filter (fun m => ((m.write? s).map fun q => q.touches as).getD false),
        liveAfter s e.who ++ p.2.filter fun m => mine m.w)

/-- A message to a group unit: the checks and the translation of its instruction, then it is sent, without waiting (R322,
R323). -/
def sendMsg (e : Env) (s : State) (g i : Nat) (reward : Option Word) : Res :=
  if g % 1024 != 0 then .trap ⟨cMISALIGN, 0, none⟩ 0
  else if 64 ≤ i then .trap ⟨cOOB, 0, none⟩ 0
  else
    match groupAt e s .atomic false false (groupVa g) with
    | .error q => q
    | .ok (s, p) =>
      let w := e.msgNeeds s reward.isSome (bytesAt p.pa 1024)
      .done { s with
        fresh := s.fresh + 1
        grpMsgs := s.grpMsgs ++ [⟨s.fresh, e.g.asid, p.pa, groupVa g, i, reward, e.g.uid, e.a.id, w.1, w.2⟩] }

/-- `GRWD`. -/
def execGrwd (x : Ext) (s : State) : Outcome :=
  runExt (.grwd x) x s fun s e r => sendMsg e s (e.rs r.d) (e.rs r.a) (some (BitVec.ofNat 32 (e.srcSB x)))
/-- `GCANCEL`. -/
def execGcancel (x : Ext) (s : State) : Outcome :=
  runExt (.gcancel x) x s fun s e r => sendMsg e s (e.rs r.d) (e.rs r.a) none

/-- No agent: for what has to be visible at the cores that a release names. -/
def anyone : Who := { die := 0, core := 33, gang := 0, agent := 0, asid := 0, raf := [], ident := false, own := [] }
def GrpMsg.first (s : State) (m : GrpMsg) : List (Nat × Nat) := pulled s anyone (needPairs s m.need)

/-- Whether a message can perform now: earlier messages of its agent to the group come first (R364), and what it waits for. -/
def msgReady (s : State) (m : GrpMsg) : Bool :=
  !(frozen s m.pa) && !(s.grpMsgs.any fun q => q.agent == m.agent && q.pa == m.pa && q.n < m.n) &&
    !(m.after.any fun x => accessOpen s m.gang x.w) && !(m.need.any fun x => (x.write? s).isSome && decide (3 ≤ x.scope)) &&
    canShow s anyone (m.first s)

/-- A message leaves its way to the unit, with what its agent's releases order before it visible. -/
def dropMsg (s : State) (m : GrpMsg) : State :=
  let s := if m.need.isEmpty then s else showPairs s (m.first s)
  { s with grpMsgs := s.grpMsgs.filter fun q => q.n != m.n }

/-- What a message has written stands behind its agent's releases (R84). -/
def tagMsg (s : State) (m : GrpMsg) : State :=
  if m.need.isEmpty then s else setTags s (bytesAt (m.pa + 0x18) 8 ++ bytesAt (m.pa + 0x280 + 4 * m.sibling) 4) m.need

/-- A message meets a poisoned line that it reads, of the header or of the sibling's state: it is abandoned, and logged (R68,
R390). -/
def msgPoisoned (s : State) (m : GrpMsg) : Bool := [m.pa, m.pa + 0x280 + 4 * m.sibling].any (poisoned s)
def abandonMsg (s : State) (m : GrpMsg) : State := logEvent (dropMsg s m) .engine [m.pa, m.sibling]

/-- R322: what a reward does when it performs. -/
def performReward (s : State) (pa i : Nat) (v : Word) : State :=
  let st := grpStatus s pa
  if st != 1 || grpN s pa ≤ i then
    let s := if st = 0 || grpN s pa ≤ i then grpSet s pa 8 1 1 else s
    if (st = 2 || st = 3 || st = 4) && i < grpN s pa then sibSet s pa i 3 else s
  else if bitN (grpSib s pa i) 0 || bitN (grpSib s pa i) 1 then s
  else
    let s := grpPut s (0x80 + 4 * i) 4 v.toNat pa
    let s := sibSet s pa i 0
    releaseTest (grpSet s pa 16 7 (fld (grpWord s pa 3) 16 7 + 1)) pa

/-- GROUP_REWARD_PERFORM. -/
def execGroupRewardPerform (n : Nat) (s : State) : Outcome :=
  match s.grpMsgs.find? fun m => m.n == n with
  | none => .next s
  | some m =>
    match m.reward with
    | none => .next s
    | some v => .next (if !msgReady s m then s else if msgPoisoned s m then abandonMsg s m
        else tagMsg (performReward (dropMsg s m) m.pa m.sibling v) m)

/-- Every warp bound to a sibling is notified (R323), resident or saved. -/
def notifySib (s : State) (pa i : Nat) : State :=
  let hit (b : Binding) : Bool := b.group == pa && b.sibling == i
  let note (a : Agent) : Agent := if (a.bind.map hit).getD false then { a with notice := true } else a
  let onGang (g : Gang) : Gang :=
    if g.agents.any fun a => (a.bind.map hit).getD false then { g with agents := g.agents.map note } else g
  { s with gangs := s.gangs.map onGang, saved := s.saved.map fun v => { v with gang := onGang v.gang } }

/-- R323: what a cancel does when it performs. -/
def performCancel (s : State) (pa i : Nat) : State :=
  let st := grpStatus s pa
  if st != 1 || grpN s pa ≤ i then (if st = 0 || grpN s pa ≤ i then grpSet s pa 8 1 1 else s)
  else if bitN (grpSib s pa i) 0 || bitN (grpSib s pa i) 1 then s
  else
    let s := sibSet s pa i 1
    let s := grpSet s pa 24 7 (fld (grpWord s pa 3) 24 7 + 1)
    releaseTest (notifySib s pa i) pa

/-- GROUP_CANCEL_PERFORM. -/
def execGroupCancelPerform (n : Nat) (s : State) : Outcome :=
  match s.grpMsgs.find? fun m => m.n == n with
  | none => .next s
  | some m =>
    match m.reward with
    | some _ => .next s
    | none => .next (if !msgReady s m then s else if msgPoisoned s m then abandonMsg s m
        else tagMsg (performCancel (dropMsg s m) m.pa m.sibling) m)

/-- CANCEL_REDIRECT (R323): a notified warp that stands ready at a safe point at depth 0 continues at its `QPOP`, once
its results have returned. The step decides when it stands so. -/
def execCancelRedirect (gang agent : Nat) (s : State) : Outcome :=
  match envOf s gang agent with
  | none => .next s
  | some e =>
    match e.a.bind with
    | none => .next s
    | some b =>
      if !e.a.notice || e.a.depth != 0 || e.a.isPack then .next s
      else
        let s := e.landAll s
        if !e.quiet s then .next s
        else .next (e.set s fun a => { a with pc := b.qpop, bind := none, notice := false, rcnt := 0, rcache := [], st := .runnable, prog := 0 })

/-! ### Age, deadlines (R324) -/

/-- GROUP_DEADLINE: a group whose age has reached its deadline is released (R325). -/
def execGroupDeadline (grp : Nat) (s : State) : Outcome :=
  match s.grp? grp with
  | none => .next s
  | some g =>
    if g.deadline = 0 || g.now s < g.deadline || grpStatus s grp != 1 || frozen s grp then .next s
    else
      -- the first cycle at which the age reaches the deadline
      let cap (h : GrpAge) : GrpAge := { h with age := g.deadline, paused := true, since := none }
      .next (releaseGroup (s.updGrp grp cap) grp true)

/-- GROUP_AGE_WRITE: the home die writes AGE to the record. -/
def execGroupAgeWrite (grp : Nat) (s : State) : Outcome :=
  match s.grp? grp with
  | none => .next s
  | some g =>
    if frozen s grp then .next s
    else .next (writeAge (s.updGrp grp fun h => { h.sync s with wrote := (s.die h.home).clk }) g)

/-- GROUP_AGE_PAUSE: the report of a change of residency reaches the home die: the age pauses, with AGE written, or
runs again. -/
def execGroupAgePause (grp : Nat) (s : State) : Outcome :=
  match s.grp? grp with
  | none => .next s
  | some g =>
    let res := residentCtx s g.asid
    if g.paused != res || frozen s grp then .next s
    else
      let s1 := s.updGrp grp fun h => { h.sync s with paused := !res, since := none }
      let s2 := if res then s1 else writeAge s1 g
      .next (grpSet s2 grp 5 1 (if res then 0 else 1))

/-- R324: since when a change of residency has not been reported to each group's home die. -/
def noteResidency (s : State) : State := match s.groups with
  | [] => s
  | gs =>
    { s with groups := gs.map fun g => { g with since := if g.paused != residentCtx s g.asid then none else some (g.since.getD (s.die g.home).clk) } }

/-! ### GBAR and GSTAT (R326) -/

/-- A read of header word w: its value as the agent sees it, with an acquire at `.dev` before its next instruction. -/
def readGroup (e : Env) (s : State) (g w : Nat) : Except Res (State × Piece × Nat) :=
  if g % 1024 != 0 then .error (.trap ⟨cMISALIGN, 0, none⟩ 0)
  else
    match groupAt e s .load true true (groupVa g) with
    | .error q => .error q
    | .ok (s, p) =>
      let as := bytesAt (p.rd + 8 * w) 8
      if !readable s e.who as then .error (.stay s)
      else .ok (e.set (noteRead s e.who as) fun a => { a with acq := some 3 }, p, ofBytes (viewBytes s e.who as))

/-- `GBAR`. -/
def execGbar (x : Ext) (s : State) : Outcome :=
  runExt (.gbar x) x s fun s e r =>
    match readGroup e s (e.rs r.a) 3 with
    | .error q => q
    | .ok (t, _, w) =>
      let st := fld w 0 4
      if st = 0 || 5 ≤ st then .trap ⟨cOOB, 0, none⟩ 0
      else if st = 1 then .wait s
      else e.result t [.s r.d (BitVec.ofNat 64 w)]

/-- `GSTAT`. -/
def execGstat (x : Ext) (s : State) : Outcome :=
  runExt (.gstat x) x s fun s e r =>
    let w := x.imm.toNat
    match readGroup e s (e.rs r.a) w with
    | .error q => q
    | .ok (t, p, v) =>
      let v := if w = 2 then ((s.grp? p.pa).map fun g => g.now s).getD v else v
      e.result t [.s r.d (BitVec.ofNat 64 v)]

end Sys2Proof.Machine
end

