-- ==== Sys2Proof/Machine/Save.lean ====
section
/-! DEFINITION. Long waits, pre-emption and halts: when a gang is to stop, when it can be saved, the save, the watch of its
conditions, and the host's requests (R159-R161, R352-R356, R361, R378). -/

namespace Sys2Proof.Machine

/-! ### Marking (R159, R160, R352) -/

/-- Whether an agent's long wait has exceeded the threshold. -/
def waitOver (clk : Nat) (a : Agent) : Bool := match a.st with
  | .waiting due => decide (due < clk)
  | _ => false

/-- LONG_WAIT_THRESHOLD: the gang is marked. -/
def execLongWaitThreshold (gang : Nat) (s : State) : Outcome :=
  match s.gang? gang with
  | none => .next s
  | some g =>
    let clk := (s.die g.die).clk
    if g.stop.isSome || g.dying || !g.agents.any (waitOver clk) then .next s
    else .next (s.updGang gang fun g => g.ask .longWait clk)

def isPreempt (g : Gang) : Bool := match g.stop with
  | some ⟨.preempt, _, _, _, _⟩ => true
  | _ => false

/-- BUSY: a request is still being carried out (R378). -/
def settleBusy (s : State) : State := { s with bar0 := { s.bar0 with busy := s.gangs.any isPreempt } }

/-- Gangs pre-empted by the host come back (R352); one that is still being saved, as soon as it is saved. -/
def resumeContext (s : State) (asid : Nat) : State :=
  let out := s.saved.filter fun v => v.gang.asid == asid && v.cause == .preempt
  let note (g : Gang) : Gang := { g with stop := g.stop.map fun p => { p with hit := true } }
  let s := { s with gangs := updWhere (fun g => g.asid == asid && isPreempt g) note s.gangs }
  out.foldl (fun s v => toDistributor s v.frame) s

/-- PREEMPT_REQUEST: a write of 0x2000 with PRE. -/
def execPreemptRequest (w : DWord) (s : State) : Outcome :=
  let asid := fld w.toNat 0 16
  let s := { s with bar0 := { s.bar0 with preAsid := BitVec.ofNat 16 asid } }
  let due (g : Gang) : Nat := (s.die g.die).clk + (s.die g.die).pretime.toNat
  let hit (g : Gang) : Bool := w.getLsbD 63 && g.asid == asid && g.blk.preempt
  let s := settleBusy { s with gangs := updWhere hit (fun g => g.ask .preempt (due g)) s.gangs }
  .next (if w.getLsbD 62 then resumeContext s asid else s)

/-- RESUME_REQUEST: a write of 0x2000 with RES, or with neither. -/
def execResumeRequest (w : DWord) (s : State) : Outcome :=
  let asid := fld w.toNat 0 16
  let s := { s with bar0 := { s.bar0 with preAsid := BitVec.ofNat 16 asid } }
  .next (if w.getLsbD 62 then resumeContext s asid else s)

/-! ### When a gang can be saved (R160, R352, R353) -/

/-- Whether an agent stands where a save finds it: stopped at a safe point, waiting, parked, ended, or a donor. -/
def atRest (g : Gang) (a : Agent) : Bool :=
  a.stopped || match a.st with
    | .runnable => false
    | .waiting _ => true
    | .donor n => g.applies.any fun p => p.n == n && p.formed
    | .parked _ => true
    | .ended => true
def gangStopped (g : Gang) : Bool := g.agents.all (atRest g)

/-- R353: whether a command may stay as it is while its gang is out. -/
def Cmd.settled (c : Cmd) : Bool :=
  c.credits.isEmpty && c.todo.isEmpty && (c.phase == .complete || match c.body with
    | .rtsend _ => true
    | .rtflush _ => true
    | .auct .. => c.phase == .queued || c.phase == .saved
    | .walk .. => c.phase == .queued || c.phase == .saved
    | .vdec _ _ _ st => c.phase == .queued || (c.portions.isEmpty && match st with
      | some d => d.pending.isNone
      | none => true)
    | _ => false)
def enginesSettled (s : State) (g : Gang) : Bool := s.cmds.all fun c => c.gang != g.uid || c.settled

/-- Outstanding results have returned, and hand writes have committed. -/
def resultsBack (s : State) (g : Gang) : Bool :=
  g.agents.all (fun a => a.outs.isEmpty) && !(s.handQ.any fun w => w.gang == g.uid) && !(s.atoms.any fun p => p.gang == g.uid)

def saveReady (s : State) (g : Gang) : Bool := gangStopped g && enginesSettled s g && resultsBack s g

/-- Whether step 1 or step 3 of a pre-emption has not finished in its time; a wait for a pool frame does not count (R161,
R352). -/
def stopLate (s : State) (g : Gang) : Bool := match g.stop with
  | none => false
  | some p => !p.cause.yields && p.since.isNone && decide (p.due ≤ (s.die g.die).clk) && !(gangStopped g && enginesSettled s g)

/-- PREEMPT_TIMEOUT: stopping took longer than sr.pretime, and the gang is killed (R352). -/
def execPreemptTimeout (gang : Nat) (s : State) : Outcome :=
  match s.gang? gang with
  | none => .next s
  | some g => .next (if stopLate s g then markDying s gang else s)

/-! ### Watched conditions (R158-R160) -/

/-- Whether the queue a waiting `QPOP` is registered on brings its gang back: it is closed, or it holds an entry and no
waiter stands before it that could take it or be returned (R158). -/
def queueTrue (s : State) (e : Env) : Bool :=
  match s.waiters.find? fun w => w.gang == e.g.uid && w.agent == e.a.id with
  | none => false
  | some w => match readQ s e.unit w.queue with
    | .ok (_, some q) => (decide (w.queue < 256) && q.closed) || (q.count != 0 && (waitersOf s w.asid w.queue).find? (fun v => v.free s || v.swapped s) == some w)
    | _ => false

/-- Whether a group has been released (R326). -/
def groupTrue (s : State) (e : Env) (va : Nat) : Bool := match xlat s e.who .load va with
  | .ok t => decide (2 ≤ fld (homeNat s (readAddr s e.g.die t (t.pa + va % 2 ^ t.bits) + 0x18) 8) 0 4)
  | _ => false

/-- Whether the condition of a waiting agent is true. -/
def condTrue (s : State) (e : Env) : Bool :=
  match (fetch s e).2 with
  | .instr (.sbwait x) => (e.g.sbar (e.rs (e.regs ((Instr.fields (.sbwait x)).getD {}) x).a)).phase != (sbValue e x == 1)
  | .instr (.waitc x) => decide (e.counter s (counterOf x.d.toNat) ≤ x.byteImm)
  | .instr (.qpop _) => queueTrue s e
  | .instr (.gbar x) => groupTrue s e (groupVa (e.rs (e.regs ((Instr.fields (.gbar x)).getD {}) x).a))
  | _ => false

/-- The waiting agents of a gang that pass a test. -/
def Gang.someWaits (g : Gang) (p : Env → Bool) : Bool := g.agents.any fun a => isWaiting a && p ⟨g, a, g.wgs.getD a.wg default⟩

/-- Whether the condition of some waiting agent of a gang is true. -/
def gangCond (s : State) (g : Gang) : Bool := g.someWaits (condTrue s)

/-- Whether an agent waits for what a command that has stopped with its gang does after a restore (R147, R353): its counter
for `WAITC`, its barrier for `SBWAIT`. -/
def waitsForCmd (s : State) (c : Cmd) (e : Env) : Bool :=
  let out : Bool := match c.body with
    | .auct .. => c.phase == .saved
    | .walk .. => c.phase == .saved
    | .vdec .. => c.phase == .running
    | _ => false
  c.gang == e.g.uid && out && match (fetch s e).2 with
    | .instr (.waitc x) => c.cls == counterOf x.d.toNat && c.wg == e.a.wg && c.place == e.a.place
    | .instr (.sbwait x) => c.bar == some (e.rs (e.regs ((Instr.fields (.sbwait x)).getD {}) x).a)
    | _ => false

/-- Whether an agent's wait can end by what some agents of its gang do: the parties its instance lacks are among them; or, at a
stage barrier, a queue or a group, another agent is. -/
def waitsForOwn (s : State) (live : List Nat) (e : Env) : Bool :=
  if e.g.waitsIn e.a.id then
    e.g.rdvs.any fun r => r.arrived.contains e.a.id && (rdvDue e s e.g r).all fun a => r.arrived.contains a || live.contains a
  else match (fetch s e).2 with
    | .instr (.sbwait _) => live.any fun a => a != e.a.id
    | .instr (.qpop _) => live.any fun a => a != e.a.id
    | .instr (.gbar _) => live.any fun a => a != e.a.id
    | _ => false

/-- Whether an agent could go on if its gang were back: it runs; its wait is over, or is for what a stopped command of its gang
or some agents that could go on do; or the packs of the apply it waits for could. -/
def couldRun (s : State) (g : Gang) (live : List Nat) (a : Agent) : Bool :=
  let e : Env := ⟨g, a, g.wgs.getD a.wg default⟩
  match a.st with
  | .runnable => true
  | .waiting _ => condTrue s e || s.cmds.any (fun c => waitsForCmd s c e) || waitsForOwn s live e
  | .donor n => g.applies.any fun p => p.n == n && p.packs.all fun k => live.contains k || !g.agents.any fun b => b.id == k && b.st != .ended
  | .parked _ => false
  | .ended => false

/-- The agents of a gang that could go on, found in rounds (R146, R147). -/
def couldGoOn (s : State) (g : Gang) : Nat → List Nat → List Nat
  | 0, live => live
  | fuel + 1, live => couldGoOn s g fuel ((g.agents.filter (couldRun s g live)).map fun a => a.id)

/-- Whether a gang that is out may come back: a watched condition is true; or some wait can end only by what its own stopped
command or its own agents do after a restore, of which the spec says no more than that such waits end (R146: log entry 21).
A gang none of whose waits can end stays out (R147). -/
def comesBack (s : State) (g : Gang) : Bool :=
  gangCond s g || (let live := couldGoOn s g (g.agents.length + 1) []
                   g.someWaits fun e => live.contains e.a.id)

/-- WATCHED_CONDITION: it is noted for a gang that is being saved, and brings back one that is out. -/
def execWatchedCondition (gang : Nat) (s : State) : Outcome :=
  match s.gang? gang with
  | some g => .next (if gangCond s g then conditionTrue s gang else s)
  | none =>
    match s.saved.find? fun v => v.gang.uid == gang && v.swapped && !v.returning with
    | some v => .next (if comesBack s v.gang then toDistributor s v.frame else s)
    | none => .next s

/-! ### The save -/

/-- A walk that was stopped enters its queue again, behind the commands accepted meanwhile (R337). -/
def requeueWalks (s : State) (uid : Nat) : State :=
  (s.cmds.filter fun c => c.gang == uid && c.cls == .fw && c.phase == .saved).foldl (fun s c =>
    { s.updCmd c.id (fun d => { d with phase := .queued, accepted := some s.fresh }) with fresh := s.fresh + 1 }) s

/-- An agent that stopped for a save issues again; a wait counts afresh. -/
def wakeAgent (a : Agent) : Agent :=
  { a with stopped := false, st := match a.st with
      | .waiting _ => .runnable
      | st => st }

/-- R161: with an empty pool, a gang that was to be swapped resumes in place. -/
def resumeInPlace (s : State) (g : Gang) : State :=
  requeueWalks (s.updGang g.uid fun g => { g with stop := none, agents := g.agents.map wakeAgent }) g.uid

def StopCause.out : StopCause → OutCause
  | .longWait => .longWait
  | .pageFault => .pageFault
  | .preempt => .preempt
  | .ctxs .. => .ctxs
  | .halt .. => .halt

/-- The gang as it is held while it is out: an agent's votes are given up. Open instances stay open in a swap, with what
is left of their time; otherwise they are given up too, and parties arrive afresh (R208). -/
def Gang.asleep (g : Gang) (keep : Bool) (clk : Nat) : Gang :=
  { g with
    stop := none
    rdvs := if keep then g.rdvs.map fun r => { r with due := r.due - clk } else []
    agents := g.agents.map fun a => { a with stopped := false, voted := none } }

/-- The agent that asked for a save learns that it is done. -/
def tellAsker (s : State) (p : Stop) : State :=
  match p.cause with
  | .ctxs _ gang agent _ =>
    let told (g : Gang) : Gang := g.updAgent agent fun a => { a with prog := 2 }
    { s.updGang gang told with saved := updWhere (fun v => v.gang.uid == gang) (fun v => { v with gang := told v.gang }) s.saved }
  | _ => s

/-- R361: HAG, the number of the agent's record in the frame, and HCAUSE, then H, and the address of a pool frame to the core's mailbox. -/
def tellHalt (s : State) (g : Gang) (p : Stop) (frame : Nat) (pool : Bool) : State :=
  match p.cause with
  | .halt a c =>
    let n := (g.agents.findIdx? fun b => b.id == a).getD 0
    let s := devPut s (frame + 8) 8 (2 ^ 63 + n % 2 ^ 16 * 2 ^ 32 + c % 32)
    if pool then mailPush s g.die g.core (BitVec.ofNat 64 frame) else s
  | _ => s

/-- A gang's operand-store writes and its stores through windows reach the operand store before it is saved; none while one
cannot. -/
def landStores (s : State) (g : Gang) : Option State :=
  let mine (p : PendWrite) : Bool := match p.win with
    | some w => w.gang == g.uid
    | none => false
  let s := osFlush s g.uid fun _ => true
  if osOwed s g.uid (fun _ => true) || stuckSel s mine then none else some (performSel s mine)

/-- The gang is saved to a frame, and all it holds is free (R160, R352, R354). -/
def saveTo (s : State) (g : Gang) (p : Stop) (frame : Nat) (pool : Option Nat) : State :=
  let image := frameImage s g frame
  let as := bytesAt frame image.length
  let s := performSel s fun w => w.bytes.any fun b => inRange frame image.length b.1
  let s := applyHome (clearPoison s as) (as.zip image)
  let g := (s.gang? g.uid).getD g
  let v : Saved := ⟨frame, g.asleep p.cause.yields (s.die g.die).clk, p.cause.out, pool, false, fixedBytes (image.take (4096 + 1280 * g.agents.length))⟩
  let s := { s with gangs := s.gangs.filter (fun h => h.uid != g.uid), saved := (s.saved.filter fun w => w.frame != frame) ++ [v] }
  let s := tellHalt (tellAsker s p) g p frame pool.isSome
  let hit := if p.cause.yields then p.hit || gangCond s v.gang else p.hit && v.cause == .preempt
  settleBusy (if hit then toDistributor s frame else s)

/-- The frame a stop names: that of `CTXS`, or the one a halted gang was loaded from. -/
def Stop.frame? (p : Stop) (g : Gang) : Option Nat := match p.cause with
  | .ctxs f .. => some f
  | .halt .. => g.self
  | _ => none

/-- Whether a stopped gang has still to take a pool frame for its save (R161). -/
def wantsFrame (g : Gang) : Bool := match g.stop with
  | some p => gangStopped g && (p.frame? g).isNone && p.frame.isNone
  | none => false

/-- R161: every warp has stopped, and the save takes its frame. With an empty pool a gang that was to be swapped resumes in
place, and another one waits, on no account of `sr.pretime`. -/
def takeFrame (s : State) (g : Gang) (p : Stop) : State :=
  let clk := (s.die g.die).clk
  if rangeFrozen s (poolDesc g.die) 32 then s
  else
    match popFrame s g.die with
    | some (s, f) =>
      let got (q : Stop) : Stop := { q with frame := some f, since := none, due := q.due + (clk - p.since.getD clk) }
      s.updGang g.uid fun g => { g with stop := g.stop.map got }
    | none =>
      if p.cause.yields then resumeInPlace s g
      else s.updGang g.uid fun g => { g with stop := g.stop.map fun q => { q with since := some (q.since.getD clk) } }

/-- GANG_SAVE. -/
def execGangSave (gang : Nat) (s : State) : Outcome :=
  match s.gang? gang with
  | none => .next s
  | some g =>
    match g.stop with
    | none => .next s
    | some p =>
      if g.dying || !gangStopped g then .next s
      else if wantsFrame g then .next (takeFrame s g p)
      else if !saveReady s g then .next s
      else
        match p.frame? g, p.frame with
        | none, none => .next s
        | none, some f => .next (if rangeFrozen s f g.layout.size then s else match landStores s g with
          | none => s
          | some s => saveTo s ((s.gang? gang).getD g) p f (some g.die))
        | some f, held =>
          -- a stop that named its own frame only later gives the pool's back
          let back (s : State) : State := match held with
            | some h => pushFrame s g.die h
            | none => s
          .next (if rangeFrozen s f g.layout.size || (held.isSome && rangeFrozen s (poolDesc g.die) 32) then s else match landStores s g with
            | none => s
            | some s => saveTo (back s) ((s.gang? gang).getD g) p f none)

end Sys2Proof.Machine
end

