-- ==== Sys2Proof/Machine/Launch.lean ====
section
/-! DEFINITION. From launch block to core: the launch unit, grids and their handing out, stealing, the fit of a gang to a
core, placement and restore (R46, R126-R134, R148-R153, R379, R381). -/

namespace Sys2Proof.Machine

/-! ### Launch blocks (R130-R132) -/

def blkWord (ws : List Nat) (off : Nat) : Nat := ws.getD (off / 8) 0

/-- Role entry k. -/
def roleOf (ws : List Nat) (k : Nat) : RoleEnt :=
  let a := blkWord ws (0x60 + 32 * k)
  { role := fld a 0 2, grp := fld a 7 2, g := 8 * 2 ^ fld a 9 2, vregs := 8 * (fld a 11 5 + 1), osl := fld a 16 14, entry := fld a 32 32,
    warps := fld (blkWord ws (0x68 + 32 * k)) 0 11 }

def nrole (ws : List Nat) : Nat := fld (blkWord ws 0) 20 2

/-- The block that 32 words describe. -/
def blockOf (ws : List Nat) : Block :=
  let w := blkWord ws
  let addr (off : Nat) : Addr := BitVec.ofNat 52 (w off)
  { ngang := fld (w 0) 32 32, nwg := fld (w 0) 17 3, preempt := bitN (w 0) 13, prio := fld (w 0) 11 2, persist := bitN (w 0) 10,
    spread := bitN (w 0) 9, tlw := fld (w 8) 32 16, ntile := fld (w 8) 16 8, nacc := fld (w 8) 8 8, code := addr 0x10, map := addr 0x18,
    argp := addr 0x20, argsz := fld (w 0x28) 0 32, cmpla := addr 0x30, traph := addr 0x38, tlbase := addr 0x40,
    qbind := fld (w 0x48) 0 9, roles := (List.range (nrole ws)).map (roleOf ws) }

/-- A nonzero reserved field or a reserved code of a role entry, or an OSL out of range. -/
def roleBad (ws : List Nat) (k : Nat) : Bool :=
  let a := blkWord ws (0x60 + 32 * k)
  fld a 30 2 != 0 || fld a 2 5 != 0 || fld (blkWord ws (0x68 + 32 * k)) 11 53 != 0 || blkWord ws (0x70 + 32 * k) != 0 ||
    blkWord ws (0x78 + 32 * k) != 0 || 8192 < fld a 16 14
def roleNone (ws : List Nat) (k : Nat) : Bool := (List.range 4).all fun j => blkWord ws (0x60 + 32 * k + 8 * j) == 0

/-- ERRC 1. -/
def blockReserved (ws : List Nat) : Bool :=
  let w := blkWord ws
  let b := blockOf ws
  fld (w 0) 0 9 != 0 || fld (w 0) 14 3 != 0 || fld (w 0) 22 10 != 0 || nrole ws = 0 || b.nwg = 0 || 5 ≤ b.nwg || b.ngang = 0 ||
    fld (w 8) 0 8 != 0 || fld (w 8) 24 8 != 0 || fld (w 8) 48 16 != 0 || 64 < b.ntile || 16 < b.nacc ||
    ([0x10, 0x18, 0x20, 0x30, 0x38, 0x40].any fun o => fld (w o) 52 12 != 0) || (b.spread && w 0x18 != 0) ||
    fld (w 0x28) 32 32 != 0 || b.argsz = 0 || 1048576 < b.argsz || fld (w 0x48) 9 55 != 0 || (256 < b.qbind && b.qbind != 511) ||
    ([0x50, 0x58, 0xC0, 0xC8, 0xD0, 0xD8, 0xE0, 0xE8, 0xF0, 0xF8].any fun o => w o != 0) ||
    ((List.range 3).any fun k => if k < nrole ws then roleBad ws k else !roleNone ws k)

/-- ERRC 4. -/
def blockMisaligned (b : Block) : Bool :=
  b.code.toNat % 256 != 0 || b.argp.toNat % 8 != 0 || b.argsz % 8 != 0 || b.cmpla.toNat % 16 != 0 || b.tlbase.toNat % 128 != 0 ||
    b.traph.toNat % 4 != 0 || b.roles.any fun r => r.entry % 4 != 0

/-- ERRC 2. -/
def rolesInvalid (b : Block) : Bool :=
  let codes := b.roles.map fun r => r.role
  (codes.contains 0 && codes.length != 1) || codes.eraseDups.length != codes.length ||
    (b.roles.any fun r => (r.role = 2 && r.g != 64) || r.warps = 0 || 1024 / r.g < r.warps) ||
    (b.roles.map fun r => r.grp + 1).sum != b.nwg

/-! ### The fit of a gang to a core (R128) -/

/-- Gangs resident on a core. -/
def coreGangs (s : State) (die core : Nat) : List Gang := s.gangs.filter fun g => g.die == die && g.core == core

/-- A core's slots and slot-registers per quadrant that gangs leave free: the free slots, and the register count. -/
def quadFree (gs : List Gang) (q : Nat) : List Nat × Nat :=
  let used := gs.flatMap fun g => g.slots.zip (g.slotList.map fun p => (g.wgs.getD p.1 default).vregs)
  let mine := used.filter fun u => u.1 / Config.slotsPerQuadrant == q
  (((List.range Config.slotsPerQuadrant).map (16 * q + ·)).filter fun n => !(mine.any fun u => u.1 == n),
    Config.slotRegsPerQuadrant - (mine.map fun u => u.2).sum)

/-- The slots a block needs, by role: count and slot-registers each. -/
def Block.kinds (b : Block) : List (Nat × Nat) := b.roles.map fun r => ((r.grp + 1) * cdiv (r.warps * r.g) 64, r.vregs)

/-- How many slots of each kind one quadrant may take, the fullest choices first; of the last kind, all that go in. -/
def quadChoices : List (Nat × Nat) → Nat → Nat → List (List Nat)
  | [], _, _ => [[]]
  | [(n, v)], slots, regs => [[min (min n slots) (regs / v)]]
  | (n, v) :: r, slots, regs =>
    (List.range (min n slots + 1)).reverse.flatMap fun k =>
      if k * v ≤ regs then (quadChoices r (slots - k) (regs - k * v)).map (k :: ·) else []

/-- A division of the slots over the quadrants, if there is one: the first that is found, with the fullest first quadrant.
Which one is the distributor's choice, and no rule shows it (R153: log entry 47). -/
def packQuads : List (Nat × Nat) → List (Nat × Nat) → Option (List (List Nat))
  | [], kinds => if kinds.all fun k => k.1 == 0 then some [] else none
  | (slots, regs) :: r, kinds =>
    let qs := (slots, regs) :: r
    if (qs.map fun q => q.1).sum < (kinds.map fun k => k.1).sum || (qs.map fun q => q.2).sum < (kinds.map fun k => k.1 * k.2).sum then none
    else
      (quadChoices kinds slots regs).findSome? fun c =>
        (packQuads r ((kinds.zip c).map fun p => (p.1.1 - p.2, p.1.2))).map (c :: ·)

/-- The lowest start of a run of n free operand-store lines. -/
def osRun (gs : List Gang) (n : Nat) : Option Nat :=
  let free (a : Nat) : Bool := a + n ≤ Config.osLinesPerCore &&
    !(gs.any fun g => g.osLines != 0 && a < g.osFirst + g.osLines && g.osFirst < a + n)
  if n = 0 then some 0 else (sortNat (0 :: gs.map fun g => g.osFirst + g.osLines)).find? free

/-- What a placement takes. -/
structure Fit where
  quads : List (List Nat)
  osFirst : Nat
  accs : List Nat
  tiles : List Nat
  deriving DecidableEq, Repr, Inhabited

def Block.osl (b : Block) : Nat := (b.roles.map fun r => r.osl).sum

/-- R128: whether a block's gang can be granted what the gangs on a core leave free. -/
def fitWith (gs : List Gang) (b : Block) : Option Fit :=
  let quads := (List.range 4).map (quadFree gs)
  let accs := (List.range Config.accsPerCore).filter fun n => !gs.any fun g => g.accNos.contains n
  let tiles := (List.range Config.tilesPerCore).filter fun n => !gs.any fun g => g.tileNos.contains n
  let need := (b.kinds.map fun k => k.1).sum
  if (quads.map fun q => q.1.length).sum < need || accs.length < b.nacc || tiles.length < b.ntile ||
      Config.workgroupsPerCore < (gs.map fun g => g.wgs.length).sum + b.nwg then none
  else
    match osRun gs b.osl, packQuads (quads.map fun q => (q.1.length, q.2)) b.kinds with
    | some o, some q => some ⟨q, o, accs.take b.nacc, tiles.take b.ntile⟩
    | _, _ => none

/-- Whether a block's gang fits some core in service with no gang but a fault gang resident. -/
def fitsSome (s : State) (b : Block) : Bool :=
  (List.range Config.dies).any fun d => (List.range Config.coresPerDie).any fun c =>
    !s.fenced.contains (32 * d + c) && (fitWith ((coreGangs s d c).filter Gang.isFault) b).isSome

/-- R132: the ERRC of a block that has been read whole; none when it passes. -/
def blockError (s : State) (ws : List Nat) : Option Nat :=
  let b := blockOf ws
  if blockReserved ws then some 1
  else if blockMisaligned b then some 4
  else if b.persist && b.qbind = 511 then some 8
  else if rolesInvalid b then some 2
  else if !fitsSome s b then some 3
  else none

/-! ### Completion records of grids -/

/-- An access of a unit to the record of a grid, by its physical bytes; one that fails is dropped. -/
def withRecord (s : State) (a : Acc) (cmpla : Addr) (f : State → List Nat → State) : Except State State :=
  if cmpla = 0#52 then .ok s
  else
    match uWriteAddrs s a cmpla.toNat 16 with
    | .error (.wait s) => .error s
    | .error (.fail s _) => .ok s
    | .ok as => .ok (f s as)

/-! ### The launch unit (R148, R379) -/

def lqOf (s : State) (q : Nat) : LaunchQ := s.bar0.lq.getD q LaunchQ.reset
def updLq (s : State) (q : Nat) (f : LaunchQ → LaunchQ) : State :=
  { s with bar0 := { s.bar0 with lq := s.bar0.lq.set q (f (lqOf s q)) } }

/-- Whether a queue holds an entry: 0-15 a host queue, 16 the device launch queue. -/
def launchable (s : State) (q : Nat) : Bool :=
  if q = 16 then !s.dlq.isEmpty else (lqOf s q).en && (lqOf s q).head != (lqOf s q).tail

/-- The queue that comes next: that of the block that is being read, or the next in turn. -/
def launchNext (s : State) : Option Nat := match s.reading with
  | r :: _ => some r.1
  | [] => ((List.range 17).map fun j => (s.lastVisit + 1 + j) % 17).find? (launchable s)

/-- The entry is taken: HEAD advances, or the device queue's first entry goes. -/
def tookEntry (s : State) (q : Nat) : State :=
  let s := { s with lastVisit := q, reading := [] }
  if q = 16 then { s with dlq := s.dlq.tail } else updLq s q fun l => { l with head := l.head + 1#32 }

/-- A host queue stops on an error. -/
def stopQueue (s : State) (q : Nat) : State :=
  logEvent (updLq s q fun l => { l with en := false, err := true }) .launch [q]

/-- The chunks a die begins with (R150). -/
def firstChunks (ngang die : Nat) : List Nat := (List.range (cdiv ngang 64)).filter fun c => c % 8 == die

/-- A block that passes becomes a grid. -/
def newGrid (s : State) (asid : Nat) (b : Block) : State :=
  let chunks := if b.spread then (List.range 8).map (firstChunks b.ngang) else []
  let new : Grid := { n := s.fresh, asid := asid, blk := b, next := 0, chunks := chunks, victim := (List.range 8).map (fun d => (d + 1) % 8), dry := List.replicate 8 0, ended := false }
  { s with grids := s.grids ++ [new], fresh := s.fresh + 1 }

/-- R132: a failure is recorded in the completion record, or in the log. -/
def blockFailed (s : State) (a : Acc) (ws : List Nat) (code : Nat) : Except State State :=
  let c := blkWord ws 0x30
  if ws.length < 7 || c = 0 || 2 ^ 52 ≤ c || c % 16 != 0 then .ok (logEvent s .launch [code])
  else withRecord s a (BitVec.ofNat 52 c) fun s as => recordErr s as code

/-- The block of a queue's entry has been read, as far as it goes: ERRC 5 where a read failed. -/
def judgeBlock (s : State) (q asid : Nat) (ws : List Nat) (unread : Bool) : State :=
  match if unread then some 5 else blockError s ws with
  | none =>
    if s.deadCtx.contains asid then tookEntry (logEvent s .launch [asid]) q
    else tookEntry (newGrid s asid (blockOf ws)) q
  | some code => match blockFailed s ⟨unitWho s asid 0, .launch q, 0#52⟩ ws code with
    | .error s => s
    | .ok s => tookEntry s q

/-- The next word of the block at an address (R132): one read of 8 bytes, which a page fault holds and then resumes; with
the last one the block is checked. -/
def takeBlock (s : State) (q asid va : Nat) (ws : List Nat) : State :=
  let keep (s : State) (ws : List Nat) : State := { s with reading := [(q, va :: ws)] }
  if 32 ≤ ws.length then judgeBlock s q asid ws false
  else
    match uReadNat s ⟨unitWho s asid 0, .launch q, 0#52⟩ (va + 8 * ws.length) 8 with
    | .error (.wait s) => keep s ws
    | .error (.fail s _) => judgeBlock (keep s ws) q asid ws true
    | .ok (s, w) =>
      let s := keep s (ws ++ [w])
      if ws.length < 31 then s else judgeBlock s q asid (ws ++ [w]) false

/-- The entry of a host launch queue is read (R379). -/
def takeEntry (s : State) (q : Nat) : State :=
  let l := lqOf s q
  let asid := l.asid.toNat
  if !ctxValid s asid then tookEntry (logEvent s .launch [5, asid]) q
  else
    let a : Acc := ⟨unitWho s asid 0, .launch q, 0#52⟩
    match uReadNat s a ((l.base.toNat + 8 * (l.head.toNat % 2 ^ l.lsz.toNat)) % 2 ^ 52) 8 with
    | .error (.wait s) => s
    | .error (.fail s _) => stopQueue { s with lastVisit := q } q
    | .ok (s, e) =>
      if 2 ^ 52 ≤ e then tookEntry (logEvent s .launch [1, e]) q
      else if e % 256 != 0 then tookEntry (logEvent s .launch [4, e]) q
      else takeBlock s q asid e []

/-- LAUNCH_UNIT_VISIT: the next read of the block at the head of a queue, or of the entry that names it. -/
def execLaunchUnitVisit (s : State) : Outcome :=
  match s.reading with
  | (q, va :: ws) :: _ =>
    .next (takeBlock s q (if q = 16 then (s.dlq.headD (0, 0)).1 else (lqOf s q).asid.toNat) va ws)
  | _ => .next (match launchNext s with
    | none => s
    | some 16 => match s.dlq with
      | [] => s
      | (asid, va) :: _ => takeBlock s 16 asid va []
    | some q => takeEntry s q)

/-! ### Handing out and stealing (R149-R151) -/

def State.grid? (s : State) (n : Nat) : Option Grid := s.grids.find? fun g => g.n == n
def State.updGrid (s : State) (n : Nat) (f : Grid → Grid) : State := { s with grids := updWhere (fun g => g.n == n) f s.grids }

/-- New gangs of a grid that wait at a distributor. -/
def gridWaits (s : State) (n : Nat) (die : Option Nat) : Bool :=
  s.waitGangs.any fun w => w.grid == n && w.frame.isNone && (die.isNone || die == some w.die)

/-- Whether gangs of a grid are still to be handed out. -/
def Grid.pending (g : Grid) : Bool :=
  !g.ended && (if g.blk.spread then g.chunks.any fun c => !c.isEmpty else decide (g.next < g.blk.ngang))

/-- Grids whose gangs are all placed are forgotten. -/
def dropGrids (s : State) : State := { s with grids := s.grids.filter fun g => g.pending || gridWaits s g.n none }

def freeSlots (s : State) (die core : Nat) : Nat :=
  Config.slotsPerCore - ((coreGangs s die core).map fun g => g.slots.length).sum
def dieFree (s : State) (die : Nat) : Nat :=
  (((List.range Config.coresPerDie).filter fun c => !s.fenced.contains (32 * die + c)).map (freeSlots s die)).sum

/-- The die with the most free slots, the lowest on ties. -/
def freestDie (s : State) : Nat := (List.range Config.dies).foldl (fun b d => if dieFree s b < dieFree s d then d else b) 0

/-- GANG_HANDOUT: the next gang of a PLACE grid goes to a distributor. -/
def execGangHandout (grid : Nat) (s : State) : Outcome :=
  match s.grid? grid with
  | none => .next s
  | some g =>
    if g.blk.spread || !g.pending then .next s
    else
      let a : Acc := ⟨unitWho s g.asid 0, .map grid, 0#52⟩
      match uReadNat s a ((g.blk.map.toNat + g.next) % 2 ^ 52) 1 with
      | .error (.wait s) => .next s
      | .error (.fail s _) =>
        match withRecord s a g.blk.cmpla fun s as => recordErr s as 5 with
        | .error s => .next s
        | .ok s => .next (dropGrids (s.updGrid grid fun g => { g with ended := true }))
      | .ok (s, b) =>
        match if b < 8 || b = 255 then .ok s else withRecord s a g.blk.cmpla fun s as => recordErr s as 1 with
        | .error s => .next s
        | .ok s =>
          let w : WaitGang := ⟨if b < 8 then b else freestDie s, grid, g.next, none, g.blk.prio, s.fresh, 0⟩
          .next ({ s with waitGangs := s.waitGangs ++ [w], fresh := s.fresh + 1 }.updGrid grid fun g => { g with next := g.next + 1 })

/-! ### What a distributor considers (R152) -/

/-- When a chunk reached its distributor, by an order number: with its grid, or when it was given away (R150-R152). -/
def Grid.order (g : Grid) (c : Nat) : Nat := ((g.came.find? fun p => p.1 == c).map fun p => p.2).getD g.n

/-- The first gang of the next chunk of a SPREAD grid, once no gang of a started one waits (R150). R152 lets gangs handed out, of
started chunks and returning wait and be passed over; the spec does not say whether this one can be, and it is not (log entry
74). -/
def chunkGang (s : State) (die : Nat) (g : Grid) : Option WaitGang :=
  if gridWaits s g.n (some die) then none
  else (sortNat (g.chunks.getD die [])).head?.map fun c => ⟨die, g.n, 64 * c, none, g.blk.prio, g.order c, 0⟩

/-- The order of R152; the gangs of a chunk have reached their distributor together, and go in ascending index (R150). -/
def WaitGang.before (a b : WaitGang) : Bool :=
  b.prio < a.prio || (a.prio == b.prio && ((a.frame.isSome && b.frame.isNone) || (a.frame.isSome == b.frame.isSome &&
    (a.order < b.order || (a.order == b.order && a.idx ≤ b.idx)))))
def insWait (w : WaitGang) : List WaitGang → List WaitGang
  | [] => [w]
  | v :: r => if w.before v then w :: v :: r else v :: insWait w r

/-- The gangs of a die in the order of R152. -/
def waiting (s : State) (die : Nat) : List WaitGang :=
  let new := s.grids.filterMap (chunkGang s die)
  ((s.waitGangs.filter fun w => w.die == die) ++ new).foldl (fun l w => insWait w l) []

/-- The saved gang that a returning gang stands for. -/
def savedFor (s : State) (w : WaitGang) : Option Saved :=
  w.frame.bind fun f => s.saved.find? fun v => v.frame == f && v.returning && !v.gang.dying

/-- The block of a waiting gang; none when it has none any more. -/
def waitBlock (s : State) (w : WaitGang) : Option Block :=
  match w.frame with
  | some _ => (savedFor s w).map fun v => v.gang.blk
  | none => (s.grid? w.grid).map fun g => g.blk

/-- The core a gang is placed on: fewest occupied slots, then the lowest index (R153). -/
def coreFor (s : State) (die : Nat) (b : Block) : Option (Nat × Fit) :=
  let cores := (List.range Config.coresPerDie).filter fun c => !s.fenced.contains (32 * die + c)
  let fits := cores.filterMap fun c => (fitWith (coreGangs s die c) b).map fun f => (c, f)
  fits.foldl (fun best p => match best with
    | none => some p
    | some q => if freeSlots s die q.1 < freeSlots s die p.1 then some p else some q) none

/-- A gang passed over 64 times holds back the others of equal or lower priority. -/
def heldBack (ws : List WaitGang) (c : WaitGang) : Bool :=
  ws.any fun a => a != c && 64 ≤ a.passed && c.prio ≤ a.prio && !(64 ≤ c.passed && c.before a)

/-- The gang a distributor places next, and where. -/
def placeNext (s : State) (die : Nat) : Option (WaitGang × Nat × Fit) :=
  let ws := waiting s die
  ws.findSome? fun w => match waitBlock s w with
    | none => none
    | some b => if heldBack ws w then none else (coreFor s die b).map fun p => (w, p.1, p.2)

/-- A grid of one chunk is placed by the distributor that begins with the chunk, where that can place it (R343): no steal
reaches it before. -/
def Grid.ownFirst (g : Grid) (s : State) (victim : Nat) : Bool :=
  decide (g.blk.ngang ≤ 64) && match placeNext s victim with
    | some (w, _, _) => w.grid == g.n && w.frame.isNone
    | none => false

/-- STEAL_MESSAGE (R151): one attempt of a dry distributor. -/
def execStealMessage (grid die : Nat) (s : State) : Outcome :=
  match s.grid? grid with
  | none => .next s
  | some g =>
    if !g.blk.spread || !(g.chunks.getD die []).isEmpty || gridWaits s grid (some die) || 7 ≤ g.dry.getD die 0 ||
        (coreFor s die g.blk).isNone || g.ownFirst s (g.victim.getD die 0) then .next s
    else
      let victim := g.victim.getD die 0
      let theirs := sortNat (g.chunks.getD victim [])
      let k := theirs.length - (theirs.length + 1) / 2
      let next := if (victim + 1) % 8 = die then (victim + 2) % 8 else (victim + 1) % 8
      let mine := theirs.drop k
      let came := g.came.filter (fun p => !mine.contains p.1) ++ mine.map fun c => (c, s.fresh)
      .next ({ s with fresh := s.fresh + 1 }.updGrid grid fun g => { g with
        came := came
        chunks := (g.chunks.set victim (theirs.take k)).set die mine
        victim := g.victim.set die next
        dry := g.dry.set die (if theirs.isEmpty then g.dry.getD die 0 + 1 else 0) })

/-! ### Placement (R46, R127, R133, R153) -/

/-- A list in an order that free choices give. -/
def shuffle (tick : Nat) : Nat → List Nat → List Nat
  | 0, l => l
  | k + 1, l => match l with
    | [] => []
    | a :: _ =>
      let x := l.getD (Config.choose tick (2000 + k) % l.length) a
      x :: shuffle tick k (l.erase x)

/-- The slots of each kind out of the quadrants' free slots, kind by kind. -/
def takeSlots : List (List Nat × List Nat) → Nat → List (List Nat)
  | _, 0 => []
  | qs, n + 1 =>
    qs.flatMap (fun q => q.1.take (q.2.headD 0)) :: takeSlots (qs.map fun q => (q.1.drop (q.2.headD 0), q.2.tail)) n

/-- The slots of a gang in order of workgroup and warp: which of the free ones is a free choice (R153). -/
def slotsFor (s : State) (gs : List Gang) (b : Block) (f : Fit) : List Nat :=
  let quads := (List.range 4).map fun q => (shuffle s.tick 16 (quadFree gs q).1, f.quads.getD q [])
  (takeSlots quads b.roles.length).flatMap fun l => shuffle (s.tick + 1000000) l.length l

/-- The lowest gang index that no gang on the core holds (R342). -/
def freeIndex (gs : List Gang) : Nat := ((List.range 64).find? fun n => !gs.any fun g => g.slot == n).getD 0

/-- b14 and b15 at entry (R8, R24, R133). -/
def argRecord (b : Block) : Rec := BitVec.ofNat 256 (b.argp.toNat + b.argsz / 8 * 2 ^ 64 + 8 * 2 ^ 96 + 3 * 2 ^ 120 + 2 ^ 127)
def tlRecord (b : Block) (idx wg : Nat) : Rec :=
  BitVec.ofNat 256 ((b.tlbase.toNat + (idx * b.nwg + wg) * 4096 * b.tlw) % 2 ^ 52 + 1024 * b.tlw * 2 ^ 64 + 4 * 2 ^ 96 + 2 * 2 ^ 120 + 2 ^ 127)

/-- A warp as it starts (R46, R133). -/
def newWarp (b : Block) (idx wg : Nat) (r : RoleEnt) (id place : Nat) : Agent where
  id := id
  isPack := false
  wg := wg
  place := place
  depth := 0
  apply := none
  pk := r.g
  members := (List.range r.g).map fun l => place * r.g + l
  pc := b.code + BitVec.ofNat 52 r.entry
  st := .runnable
  stopped := false
  v := []
  s := Table.put 0#64 [] 1 (b.argp.setWidth 64)
  k := 1#8
  i := 0#32
  b := Table.put 0#256 (Table.put 0#256 [] 14 (argRecord b)) 15 (tlRecord b idx wg)
  fflags := 0#5
  trap := 0#64
  tepc := 0#64
  tinfo := 0#64
  rcnt := 0
  rcache := []
  tokens := List.replicate 16 .idle
  outs := []
  bind := none
  notice := false
  skipDbg := false
  prog := 0

/-- The role of each workgroup in order (R126). -/
def wgRoles (b : Block) : List RoleEnt := b.roles.flatMap fun r => List.replicate (r.grp + 1) r

/-- The warps of all workgroups, numbered from an identity on. -/
def newWarps (b : Block) (idx : Nat) : List (Nat × RoleEnt) → Nat → List Agent
  | [], _ => []
  | (wg, r) :: rest, id =>
    (List.range r.warps).map (fun p => newWarp b idx wg r (id + p) p) ++ newWarps b idx rest (id + r.warps)

def newWg (r : RoleEnt) : Wg :=
  ⟨r.role, r.g, r.warps, r.vregs, handOf (List.range (r.warps * r.g)) :: List.replicate 15 0#1024⟩

/-- A gang as it is placed (R46, R133, R381). -/
def newGang (s : State) (grid idx asid : Nat) (b : Block) (die core : Nat) (f : Fit) : Gang :=
  let gs := coreGangs s die core
  { uid := s.fresh, grid := grid, idx := idx, asid := asid, blk := b, die := die, core := core, slot := freeIndex gs,
    slots := slotsFor s gs b f, osFirst := f.osFirst, osLines := b.osl, accNos := f.accs, tileNos := f.tiles,
    agents := newWarps b idx (enumFrom 0 (wgRoles b)) (s.fresh + 1), wgs := (wgRoles b).map newWg, raf := ctxRaf s asid,
    ident := asid == 0, rafOwn := [], os := [], osq := [], full := [], osPoison := [], stash := List.replicate 4 default, wlines := [],
    tiles := [], filled := [], accs := [], rdvs := [], applies := [], dbg := 0#64, wp := List.replicate 4 0#64, self := none,
    stop := none, dying := false }

def addGang (s : State) (g : Gang) : State :=
  { s with gangs := s.gangs ++ [g], fresh := s.fresh + 1 + g.agents.length }

/-- The commands of a restored gang belong to its new core (R114, R353). -/
def moveCmds (s : State) (uid die core : Nat) : State :=
  requeueWalks { s with cmds := updWhere (fun c => c.gang == uid) (fun c => { c with die := die, core := core }) s.cmds } uid

/-- The saved mark goes: the device's words of the header change (R342). -/
def clearMark (s : State) (frame : Nat) : State :=
  applyHome s ((bytesAt (frame + 0x78) 3976).zip (privateBytes s 100000 3976))

/-- A saved gang comes back to a core (R46, R153, R160, R355, R356). -/
def restoreGang (s : State) (v : Saved) (core : Nat) (f : Fit) : State :=
  let g := editGang s v.frame v.gang
  let gs := coreGangs s g.die core
  let clk := (s.die g.die).clk
  let g := { g with
    rdvs := g.rdvs.map fun r => { r with due := r.due + clk }
    core := core, slot := freeIndex gs, slots := slotsFor s gs g.blk f, osFirst := f.osFirst, accNos := f.accs, tileNos := f.tiles,
    raf := ctxRaf s g.asid, rafOwn := [], agents := g.agents.map wakeAgent }
  let s := { s with
    gangs := s.gangs ++ [g], saved := s.saved.filter fun w => w.frame != v.frame
    waiters := s.waiters.filter fun w => w.gang != g.uid }
  let s := moveCmds (clearMark s v.frame) g.uid g.die core
  match v.pool with
  | some d => pushFrame s d v.frame
  | none => s

/-- A gang passed over when a later one of equal or lower priority is placed. "Later" is one that reached the distributor
later, a returning one too: R152 does not say whether its own order counts instead (log entry 47). -/
def passOver (s : State) (c : WaitGang) : State :=
  let overtaken (w : WaitGang) : Bool := w.die == c.die && w.order < c.order && c.prio ≤ w.prio
  { s with waitGangs := updWhere overtaken (fun w => { w with passed := w.passed + 1 }) s.waitGangs }

/-- The gang leaves those that wait; with the first of a chunk, the chunk is started (R150). -/
def leaveWait (s : State) (c : WaitGang) (b : Block) : State :=
  if s.waitGangs.contains c then { s with waitGangs := s.waitGangs.filter fun w => w != c }
  else
    let k := c.idx / 64
    let rest := (List.range (min (64 * k + 64) b.ngang)).filter fun i => c.idx < i
    let ws := rest.map fun i => (⟨c.die, c.grid, i, none, c.prio, c.order, 0⟩ : WaitGang)
    let s := { s with waitGangs := s.waitGangs ++ ws }
    s.updGrid c.grid fun g => { g with chunks := g.chunks.set c.die (delNat k (g.chunks.getD c.die [])) }

/-- GANG_PLACE: a distributor places one gang. -/
def execGangPlace (die : Nat) (s : State) : Outcome :=
  match placeNext s die with
  | none => .next s
  | some (w, core, f) =>
    match savedFor s w with
    | some v =>
      if rangeFrozen s v.frame v.gang.layout.size || rangeFrozen s (poolDesc die) 32 then .next s
      else .next (passOver (leaveWait (restoreGang s v core f) w v.gang.blk) w)
    | none =>
      match s.grid? w.grid with
      | none => .next s
      | some g => .next (dropGrids (passOver (leaveWait (addGang s (newGang s g.n w.idx g.asid g.blk die core f)) w g.blk) w))

end Sys2Proof.Machine
end

