-- ==== Sys2Proof/Machine/Finish.lean ====
section
/-! DEFINITION. The end of a gang: by exit, with its drains and write-backs, and by a kill (R57, R134, R357). -/

namespace Sys2Proof.Machine

/-- The accesses that end a gang, resident or saved. A page fault of one goes to the fault queue of the gang's die; the spec
names none for the launch unit here (R134: log entry 43). -/
def exitAcc (s : State) (g : Gang) : Acc :=
  let here := (s.gang? g.uid).isSome
  ⟨⟨g.die, 32, g.uid, 0, g.asid, if here then g.raf else ctxRaf s g.asid, g.ident, if here then g.rafOwn else [], 0, none⟩, .exit g.uid, 0#52⟩

/-- A gang leaves the machine with all it holds. -/
def removeGang (s : State) (uid : Nat) : State :=
  settleBusy { s with
    gangs := s.gangs.filter fun g => g.uid != uid
    saved := s.saved.filter fun v => v.gang.uid != uid
    waiters := s.waiters.filter fun w => w.gang != uid
    handQ := s.handQ.filter fun w => w.gang != uid
    holds := s.holds.filter fun h => h.holder != .exit uid }

/-- R134, R357: the record is decremented, as by an agent that has observed the gang's writes; after a kill, ERR and
ERRC 7 are set first. Nothing is done to a poisoned record (R68, R390). A post whose shard is not found out goes to shard 0
(R140). -/
def finishRecord (s : State) (g : Gang) (killed : Bool) : Except State State :=
  let mine (p : PendWrite) : Bool := p.gang == g.uid
  if g.blk.cmpla = 0#52 then .ok s
  else if stuckSel s mine then .error s
  else
    let s := performSel s mine
    let a := exitAcc s g
    match uWriteAddrs s a g.blk.cmpla.toNat 16 with
    | .error (.wait s) => .error s
    | .error (.fail s _) => .ok s
    | .ok as =>
      if as.any (poisoned s) then .ok (logEvent s .grid [g.blk.cmpla.toNat])
      else match decrement (if killed then recordErr s as 7 else s) a.who 0 as with
        | none => .error s
        | some (s, _) => .ok s

/-! ### Exit (R57, R134, R357) -/

/-- The dirty lines of a gang are written back, one after the other; a failed one is discarded (R390). -/
def exitLines (g : Gang) : List WLine → State → Except State State
  | [], s => .ok s
  | l :: r, s =>
    match g.window? (l.line * 128) with
    | none => exitLines g r s
    | some w =>
      match uXlat s (exitAcc s g) .engWrite (w.vaOf (l.line * 128)) with
      | .error (.wait s) => .error s
      | .error (.fail s _) =>
        exitLines g r (s.updGang g.uid fun g => { g with wlines := g.wlines.filter fun v => v.line != l.line })
      | .ok _ => if frozen s (l.pa * 128) then .error s else exitLines g r (cleanLine s g.uid l)

/-- Whether every warp of a gang has exited and its commands have retired. -/
def gangOver (s : State) (g : Gang) : Bool :=
  g.agents.all (fun a => !a.isPack && a.st == .ended) && !(s.cmds.any fun c => c.gang == g.uid) &&
    !(s.handQ.any fun w => w.gang == g.uid)

/-- GANG_COMPLETE: write-backs, entries never flushed, the record, and the gang is gone. -/
def execGangComplete (gang : Nat) (s : State) : Outcome :=
  match s.gang? gang with
  | none => .next s
  | some g =>
    if g.dying || !gangOver s g then .next s
    else
      match landStores s g with
      | none => .next s
      | some s =>
        match exitLines g (((s.gang? gang).getD g).wlines.filter fun l => l.dirty) s with
        | .error s => .next s
        | .ok s =>
          match finishRecord (discardGang s gang false) g false with
          | .error s => .next s
          | .ok s => .next (removeGang s gang)

/-! ### Kill (R357) -/

/-- A copy to memory that has begun a line. -/
def Cmd.begunCopy (c : Cmd) : Bool := (match c.body with
    | .copy .cpo .. => true
    | _ => false) && c.portions.any fun p => p.begun

/-- Commands of a gang are cancelled, but for some that are kept. -/
def cancelCmds (s : State) (uid : Nat) (keep : Cmd → Bool) : State :=
  let out := s.cmds.filter fun c => c.gang == uid && !keep c
  let ids := out.map fun c => c.id
  let mine (h : Holder) : Bool := match h with
    | .cmd n => ids.contains n
    | .agent gang _ => gang == uid
    | _ => false
  { s with cmds := s.cmds.filter (fun c => !ids.contains c.id), holds := s.holds.filter fun h => !mine h.holder }

/-- The moves of a line that a copy has begun are made, until its end; the state that waits for one. -/
def finishLine (id k : Nat) : Nat → State → Except State State
  | 0, s => .ok s
  | fuel + 1, s =>
    match (s.cmd? id).bind fun c => c.portions[k]?.map fun p => (c, p) with
    | none => .ok s
    | some (c, p) => match p.moves with
      | [] => .ok s
      | _ => match portionAt s c k 0 with
        | .ok s => finishLine id k fuel s
        | .fail s => .ok s
        | .wait s => .error s

/-- Each line that a copy has begun is written whole (R357). -/
def finishLines (id : Nat) : List (Nat × Portion) → State → Except State State
  | [], s => .ok s
  | (k, p) :: r, s => match if p.begun then finishLine id k (2 * p.moves.length + 1) s else .ok s with
    | .ok s => finishLines id r s
    | .error s => .error s

/-- Every line begun by the gang's copies, in their order. -/
def finishCopies : List Cmd → State → Except State State
  | [], s => .ok s
  | c :: r, s =>
    match finishLines c.id (enumFrom 0 c.portions) s with
    | .error s => .error s
    | .ok s => finishCopies r (s.dropCmd c.id)

/-- A saved gang that is killed no longer waits for a core, and its pool frame is free. -/
def dropSaved (s : State) (uid : Nat) : State :=
  match s.saved.find? fun v => v.gang.uid == uid with
  | none => s
  | some v =>
    let s := { s with waitGangs := s.waitGangs.filter fun w => w.frame != some v.frame }
    match v.pool with
    | some d => pushFrame s d v.frame
    | none => s

/-- A fault gang's end: its die services no fault (R43). -/
def faultGangGone (s : State) (g : Gang) : State :=
  if g.isFault then logEvent (s.updDie g.die fun d => { d with noService := true }) .faultGang [g.die] else s

/-- A killed gang's stores through its windows are discarded with its dirty lines, and the frame it had taken for a save goes
back to the pool. -/
def dropHeld (s : State) (g : Gang) : State :=
  let mine (p : PendWrite) : Bool := match p.win with
    | some w => w.gang == g.uid
    | none => false
  let s := { s with outq := s.outq.filter fun p => !mine p }
  match g.stop.bind fun p => p.frame with
  | some f => (pushFrame s g.die f).updGang g.uid fun g => { g with stop := none }
  | none => s

/-- What a kill does to a gang, resident or saved. -/
def killGang (s : State) (g : Gang) : State :=
  -- the entries of the gang's flushes are known by those commands
  let s := cancelCmds s g.uid fun c => c.begunCopy || c.cls == .rt
  match finishCopies (s.cmds.filter fun c => c.gang == g.uid && c.begunCopy) s with
  | .error s => s
  | .ok s =>
    match finishRecord (cancelCmds (discardGang (dropHeld s g) g.uid true) g.uid fun _ => false) g true with
    | .error s => s
    | .ok s => faultGangGone (removeGang (dropSaved s g.uid) g.uid) g

/-- GANG_KILL. -/
def execGangKill (gang : Nat) (s : State) : Outcome :=
  match s.gang? gang with
  | some g => .next (if g.dying then killGang s g else s)
  | none =>
    match s.saved.find? fun v => v.gang.uid == gang with
    | some v => .next (if v.gang.dying then killGang s v.gang else s)
    | none => .next s

end Sys2Proof.Machine
end

