-- ==== Sys2Proof/Machine/Coherence.lean ====
section
/-! DEFINITION. What the memory system does by itself: walks, directories, stash windows, read-duplicated pages, bias
flips, errors, the zero engines, and the host's accesses to memory (R38, R39, R45, R55, R56, R63, R68, R71-R74, R106,
R377, R387, R389). -/

namespace Sys2Proof.Machine

/-- A line leaves every L1 and window of the device; a dirty one hands its data over (R63). -/
def evictLine (s : State) (line : Nat) : State := ownLine s line

/-- A line leaves the L2 too: no copy of it is left in the device (R73, R74). -/
def flushLine (s : State) (line : Nat) : State := let s := evictLine s line; { s with l2 := s.l2.filter fun e => e.1 != line }

/-- PAGE_TABLE_WALK (R38, R39): a walk for an address of a gang; a translation that succeeds enters the TLBs. -/
def execPageTableWalk (gang : Nat) (va : Addr) (s : State) : Outcome :=
  match s.gang? gang with
  | none => .next s
  | some g =>
    let who : Who := ⟨g.die, g.core, g.uid, 0, g.asid, g.raf, g.ident, g.rafOwn, 0, none⟩
    if who.flat va.toNat then .next s
    else
      match walkVa s (g.raf.getD (va.toNat / 2 ^ 48) 0#64).toNat va.toNat .load with
      | .ok t => .next (noteTlb s who [t])
      | _ => .next s

/-- STASH_REMOTE_REQUEST (R55, R56): a request of another agent for a window line: a DIRTY one supplies its data; with a
write it becomes INVALID. -/
def execStashRemoteRequest (gang line : Nat) (write : Bool) (s : State) : Outcome :=
  match (s.gang? gang).bind fun g => g.wline? line with
  | none => .next s
  | some w => .next (if write then evictLine s w.pa else supply s w.pa)

/-- DIRECTORY_EVICT (R63). -/
def execDirectoryEvict (line : Nat) (s : State) : Outcome := .next (evictLine s line)

/-! ### Read-duplicated pages (R71, R72) -/

/-- DUP_COLLAPSE: the home directs a collapse for a write that it holds. -/
def execDupCollapse (die n : Nat) (s : State) : Outcome :=
  match s.outq.find? fun p => p.die == die && p.n == n with
  | some p => .next (match p.dup with
    | some d => startCollapse s d
    | none => s)
  | none => .next (match (s.atoms.find? fun p => p.die == die && p.n == n).bind fun p => p.dups.head? with
    | some d => startCollapse s d
    | none => s)

/-- Clean window lines of a page on a die go. -/
def dropPage (die : Nat) (d : DupPage) (g : Gang) : Gang :=
  if g.die != die then g
  else { g with wlines := g.wlines.filter fun w => w.dirty || !(inRange d.base d.size (w.pa * 128)) }

/-- A held write of a collapse performs, or stays while something else holds it. -/
def performHeld (s : State) (n : Nat) : State :=
  let s := performSel s fun p => p.n == n
  match s.atoms.find? fun p => p.n == n with
  | some p => if p.stuck s then s else performAtom s p
  | none => s

/-- The last acknowledgement: DUP goes from the PTE, with what is left of the page's translations, and the held writes
perform at the home in the order of their arrival (R72, R104). -/
def endCollapse (s : State) (d : DupPage) : State :=
  let s := wordFirst s d.pte
  let b := (homeByte s (d.pte + 7)).toNat
  let s := applyHome s [(d.pte + 7, BitVec.ofNat 8 (if bitN b 5 then b - 32 else b))]
  let here (q : DupPage) : Bool := q.base == d.base
  let held := ((s.outq.filter fun p => (p.dup.map here).getD false).map fun p => p.n) ++
    (s.atoms.filter fun p => p.dups.any here).map fun p => p.n
  let s := { s with
    collapses := s.collapses.filter fun c => !here c.page
    tlb := s.tlb.filter fun t => !(t.dup.map here).getD false
    outq := updWhere (fun p => (p.dup.map here).getD false) (fun p => { p with dup := none }) s.outq
    atoms := s.atoms.map fun p => { p with dups := p.dups.filter fun q => !here q } }
  (sortNat held).foldl performHeld s

/-- A read that waits reads the home from its die's acknowledgement on (R72). -/
def LoadPart.rehome (copy size : Nat) (p : LoadPart) : LoadPart :=
  if p.addrs.any (inRange copy size) then { p with addrs := p.home } else p
def rehomeReads (die copy size : Nat) (g : Gang) : Gang :=
  let load (l : LoadReq) : LoadReq := if l.os then l else { l with parts := l.parts.map (LoadPart.rehome copy size) }
  if g.die != die then g
  else { g with agents := g.agents.map fun a => { a with outs := a.outs.map fun o => { o with reads := o.reads.map load } } }

/-- DUP_COLLAPSE_ACK: a die has invalidated its copies and translations of the page. -/
def execDupCollapseAck (page die : Nat) (s : State) : Outcome :=
  match s.collapses.find? fun c => c.page.base == page with
  | none => .next s
  | some c =>
    let acked := insNat die c.acked
    if 8 ≤ die || (acked.length = 8 && frozen s c.page.pte) then .next s
    else
      let copy := c.page.base - homeDie c.page.base * Config.stackBytes + die * Config.stackBytes
      let far (line : Nat) : Bool := !inRange copy c.page.size (line * 128)
      let s := { s with
        collapses := updWhere (fun k => k.page.base == page) (fun k => { k with acked := acked }) s.collapses
        tlb := s.tlb.filter fun t => !(t.die == die && (t.dup.map fun d => d.base == page).getD false)
        l1 := s.l1.filter fun e => e.1 / 32 != die || far e.2
        l2 := s.l2.filter fun e => homeDie copy == homeDie c.page.base || far e.1
        gangs := s.gangs.map fun g => rehomeReads die copy c.page.size (dropPage die c.page g)
        saved := s.saved.map fun v => { v with gang := dropPage die c.page v.gang } }
      .next (if acked.length = 8 then endCollapse s c.page else s)

/-! ### Bias flips (R73, R74) -/

/-- Lines of a 4 KiB frame. -/
def frameLines (frame : Nat) : List Nat := (List.range 32).map (32 * frame + ·)

/-- BIAS_FLIP_COMPLETE: the oldest flip of a frame. -/
def execBiasFlipComplete (frame : Nat) (s : State) : Outcome :=
  match s.flips.find? fun f => f.frame == frame with
  | none => .next s
  | some f =>
    let s := if f.toHost then (frameLines frame).foldl flushLine s else s
    .next { s with
      flips := s.flips.erase f
      hostBias := if f.toHost then insNat frame s.hostBias else delNat frame s.hostBias }

/-- Bytes written by the host: every device copy of their lines goes first (R73, R106), after an L1 atomic's write to them
(R102). -/
def hostPut (s : State) (bytes : List (Nat × Byte)) : State :=
  unitPut ((sortNat (bytes.map fun b => lineOf b.1)).foldl flushLine s) bytes

/-- Whether the host's write to bytes has to wait for an L1 atomic's. -/
def hostWaits (s : State) (as : List Nat) : Bool := stuckSel s fun p => p.excl && p.touches as

/-- What a read of the host over the link returns (R377, R378). -/
def hostAnswer (s : State) (bs : List Byte) : State := { s with host := { s.host with answer := bs } }

/-- HOST_CXL_MEM_ACCESS: an access that finds a frame in device bias asks for the flip and waits; a read returns the bytes;
before READY a read returns 0, and only the recovery image can be written (R73, R74, R377, R387, R389). -/
def execHostCxlMemAccess (addr len : Nat) (bytes : Option (List Byte)) (s : State) : Outcome :=
  let data : List (Nat × Byte) := match bytes with
    | some bs => (bytesAt addr bs.length).zip bs
    | none => []
  let n := match bytes with
    | some bs => bs.length
    | none => len
  let zero (s : State) : State := if bytes.isNone then hostAnswer s (List.replicate n 0#8) else s
  match s.phase with
  | .ready =>
    if n = 0 || !paDevice addr || !paDevice (addr + n - 1) then .next s
    else
      let frames := (List.range ((addr + n - 1) / 4096 - addr / 4096 + 1)).map (addr / 4096 + ·)
      let wait := frames.filter fun f => !s.hostBias.contains f || s.flips.any fun p => p.frame == f
      match wait with
      | [] => .next (if hostWaits s (data.map fun d => d.1) then { s with inputs := .cxlMem addr len bytes :: s.inputs }
          else if bytes.isNone then hostAnswer s ((bytesAt addr n).map (homeByte s)) else hostPut s data)
      | _ =>
        let new := (wait.filter fun f => !s.flips.any fun p => p.frame == f && p.toHost).map fun f => (⟨f, true, none⟩ : Flip)
        .next { s with flips := s.flips ++ new, inputs := .cxlMem addr len bytes :: s.inputs }
  | .recovery => .next (if addr + n ≤ 2 ^ 26 then zero { s with mem := s.mem.putAll memDefault data } else zero s)
  | _ => .next (zero s)

/-- HOST_WRITE_TO_HOST_MEMORY (R106). -/
def execHostWriteToHostMemory (addr : Nat) (bytes : List Byte) (s : State) : Outcome :=
  let data := (bytesAt addr bytes.length).zip bytes
  .next (if addr < Config.hostBase || 2 ^ 52 < addr + bytes.length then s
    else if hostWaits s (data.map fun d => d.1) then { s with inputs := .hostStore addr bytes :: s.inputs }
    else hostPut s data)

/-! ### Errors (R68, R385) -/

/-- ECC_UNCORRECTABLE. -/
def execEccUncorrectable (loc : EccSite) (s : State) : Outcome :=
  match loc with
  | .cleanLine line => .next { s with l1 := s.l1.filter (fun e => e.2 != line), l2 := s.l2.filter fun e => e.1 != line }
  | .memLine line => .next (logEvent { s with memPoison := insNat line s.memPoison } .ecc [line])
  | .osLine gang line =>
    .next (logEvent (s.updGang gang fun g => if line < g.osLines then { g with osPoison := insNat line g.osPoison } else g) .ecc [gang, line])

/-- ECC_CORRECTED: counted in the event log; nothing a program sees changes. -/
def execEccCorrected (code : Nat) (s : State) : Outcome :=
  .next (logEvent { s with izsil := { s.izsil with soft := s.izsil.soft + 1 } } .ecc [code, s.izsil.soft + 1])

/-! ### Zero engines (R44, R45) -/

/-- A frame is cleared and every copy of it goes. -/
def zeroFrame (s : State) (a n : Nat) : State :=
  let s := performSel s fun p => p.excl && p.bytes.any fun b => inRange a n b.1
  let far (line : Nat) : Bool := !inRange a n (line * 128)
  let drop (g : Gang) : Gang := { g with wlines := g.wlines.filter fun w => far w.pa }
  { s with
    mem := Table.keep s.mem fun b => !inRange a n b
    memPoison := s.memPoison.filter far
    l1 := s.l1.filter fun e => far e.2
    l2 := s.l2.filter fun e => far e.1
    dir := s.dir.filter fun d => far d.line
    tags := s.tags.filter fun t => !inRange a n t.1
    gangs := s.gangs.map drop
    saved := s.saved.map fun v => { v with gang := drop v.gang } }

/-- FRAME_RELEASE: the engine takes the next entry of the release ring of a list descriptor. -/
def execFrameRelease (desc : Nat) (s : State) : Outcome :=
  let size := 2 ^ pageBits (fld (homeNat s (desc + 8) 8) 0 3)
  let pool := fld (homeNat s (desc + 8) 8) 12 40 * 4096
  let link := fld (homeNat s (desc + 16) 8) 0 52
  let ring := fld (homeNat s (desc + 24) 8) 0 52
  let cons := homeNat s (ring + 8) 8
  let ent := ring + 16 + 8 * (cons % 256)
  let w := homeNat s ent 8
  let f := fld w 12 40 * 4096
  if !bitN w 0 || rangeFrozen s f size || rangeFrozen s desc 32 || rangeFrozen s ring 2064 then .next s
  else
    let s := wordFirst (zeroFrame s f size) desc
    let old := homeNat s desc 8
    let s := devPut s (link + 8 * ((f - pool) / size)) 8 (fld old 12 40 * 4096)
    let s := devPut s desc 8 (f + (old + 1) % 4096)
    let s := devPut s ent 8 0
    .next (devPut s (ring + 8) 8 ((cons + 1) % 2 ^ 64))

end Sys2Proof.Machine
end

