-- ==== Sys2Proof/Machine/HostSide.lean ====
section
/-! DEFINITION. The host's registers, launch queues, posts and context changes (R378-R381, R383), and the Izsil
controller: bring-up, reset, firmware, attestation, settings, power (R384-R389). -/

namespace Sys2Proof.Machine

/-! ### The host link (R377) -/

/-- The device address of a host access, where an HDM decoder covers it. -/
def hdmAddr (s : State) (a n : Nat) : Option Nat :=
  (s.host.hdm.zip [0, Config.farBase]).findSome? fun d =>
    if d.1.on && d.1.base ≤ a && a + n ≤ d.1.base + d.1.size then some (d.2 + (a - d.1.base)) else none

/-- A byte of configuration space: what the host has written where it can, and otherwise the part's own (log entry 79). -/
def cfgRead (s : State) (off : Nat) : Byte :=
  (s.host.cfg.look 0#8 off &&& Config.cfgMask off) ||| (Config.cfgByte off &&& ~~~(Config.cfgMask off))
/-- A CXL.io access to configuration space. -/
def cfgAccess (s : State) (off n : Nat) : Option (List Byte) → State
  | none => hostAnswer s ((bytesAt off n).map (cfgRead s))
  | some bs => { s with host := { s.host with cfg := s.host.cfg.putAll 0#8 ((bytesAt off bs.length).zip bs) } }

/-! ### BAR0 (R378) -/

def bitAt (b : Bool) (n : Nat) : Nat := if b then 2 ^ n else 0
/-- What an 8-byte read of BAR0 returns: fields that can only be written, and offsets not listed, read 0. -/
def barWord (s : State) (off : Nat) : Nat :=
  let b := s.bar0
  let l := lqOf s ((off - 0x1000) / 0x40)
  if 0x1000 ≤ off && off < 0x1400 then
    match off % 0x40 with
    | 0 => l.base.toNat
    | 8 => bitAt l.en 63 + bitAt l.err 62 + l.asid.toNat * 2 ^ 32 + l.lsz.toNat
    | 16 => l.tail.toNat
    | 24 => l.head.toNat
    | _ => 0
  else match off with
    | 0x0000 => bitAt b.ready 63 + bitAt b.recov 62 + b.dev.toNat
    | 0x0008 => b.rlen.toNat
    | 0x2000 => bitAt b.busy 61 + b.preAsid.toNat
    | 0x2010 => b.uqaddr.toNat
    | 0x2018 => bitAt b.done 63 + bitAt b.full 62 + b.uq.toNat * 2 ^ 32 + b.uqAsid.toNat
    | 0x2020 => bitAt b.sbusy 62
    | 0x2028 => b.rtbase.toNat
    | 0x2030 => b.eqtbase.toNat
    | 0x2038 => b.ctxtbase.toNat
    | 0x2040 => bitAt b.cbusy 63
    | _ => 0
/-- A read of BAR0: one of another size or alignment than a whole register reads 0. -/
def barRead (s : State) (off n : Nat) : State := hostAnswer s (if n = 8 && off % 8 = 0 then toBytes 8 (barWord s off) else List.replicate n 0#8)

/-- Register writes of the host that have no effect beyond their field. -/
def execRegisterWrite (off : Nat) (w : DWord) (s : State) : Outcome :=
  if off = 0x2010 then .next { s with bar0 := { s.bar0 with uqaddr := w.setWidth 52 } }
  else
    let q := (off - 0x1000) / 0x40
    if 0x1000 ≤ off && q < 16 && off % 0x40 = 0 then
      .next (updLq s q fun l => if l.en then l else { l with base := w.setWidth 52 })
    else .next s

/-- LAUNCH_QUEUE_CONTROL: a write of 0x1008 + 0x40 q. -/
def execLaunchQueueControl (q : Nat) (w : DWord) (s : State) : Outcome :=
  .next (updLq s q fun l =>
    let l := if w.getLsbD 62 then { l with err := false } else l
    if l.en then { l with en := w.getLsbD 63 }
    else { l with en := w.getLsbD 63, asid := w.extractLsb' 32 16, lsz := w.extractLsb' 0 5 })

/-- LAUNCH_DOORBELL (R379): a write of 0x1010 + 0x40 q; ignored before READY. -/
def execLaunchDoorbell (q : Nat) (w : DWord) (s : State) : Outcome :=
  if s.phase != .ready then .next s
  else
    let l := lqOf s q
    let tail := w.setWidth 32
    let s := updLq s q fun l => { l with tail := tail }
    .next (if l.en && 2 ^ l.lsz.toNat < (tail - l.head).toNat then stopQueue s q else s)

/-- The host's post is decided (R380). -/
def postDone (s : State) (full : Bool) : State := { s with bar0 := { s.bar0 with done := true, full := full } }

/-- One attempt at the host's post, as `QPOST` posts (R288, R380). -/
def hostPost (s : State) : State :=
  let asid := s.bar0.uqAsid.toNat
  let a : Acc := ⟨unitWho s asid 0, .host, 0#52⟩
  let bad (s : State) : State := postDone (logEvent s .post [asid, s.bar0.uq.toNat]) false
  if !ctxValid s asid || 256 < s.bar0.uq.toNat || s.bar0.uqaddr.toNat % 32 != 0 then bad s
  else
    match uRead s a s.bar0.uqaddr.toNat 32 with
    | .error (.wait s) => s
    | .error (.fail s _) => bad s
    | .ok (s, bs) =>
      if entryBad bs then bad s
      else
        match postTarget s a s.bar0.uq.toNat bs 0 with
        | .error (.wait s) => s
        | .error (.fail s _) => bad s
        | .ok (s, none) => bad s
        | .ok (s, some u) =>
          match postQ s a u bs with
          | .error (.wait s) => s
          | .error (.fail s _) => bad s
          | .ok (s, ok) => postDone s (!ok)

/-- HOST_QUEUE_POST: a write of 0x2018; one while DONE = 0 is ignored, and the post under way goes on. -/
def execHostQueuePost (w : DWord) (s : State) : Outcome :=
  if s.bar0.done then
    .next (hostPost { s with bar0 := { s.bar0 with done := false, full := false, uq := w.extractLsb' 32 9, uqAsid := w.extractLsb' 0 16 } })
  else .next (hostPost s)

/-- ROUTE_SYNC: a write of 0x2020 with SYNC begins a reload; a reload in progress ends with the table's V bits in every
core (R383). -/
def execRouteSync (w : DWord) (s : State) : Outcome :=
  if s.bar0.sbusy then .next { s with routeV := (List.range 4096).filter (tableV s), bar0 := { s.bar0 with sbusy := false } }
  else if w.getLsbD 63 then .next { s with bar0 := { s.bar0 with sbusy := true } }
  else .next s

/-- CONTEXT_SYNC (R381): the descriptor's regions reach the context's resident gangs, and its translations go. CBUSY
stands while an access made with an old one may still wait. -/
def execContextSync (w : DWord) (s : State) : Outcome :=
  let asid := fld w.toNat 0 16
  if asid = 0 then .next s
  else
    let load (g : Gang) : Gang := { g with raf := ctxRaf s asid }
    let s := { s with gangs := updWhere (fun g => g.asid == asid) load s.gangs }
    match removeTlb s 1 asid 0 0 with
    | none => .next { s with bar0 := { s.bar0 with cbusy := true }, inputs := .write 0x2040 w :: s.inputs }
    | some s => .next { s with bar0 := { s.bar0 with cbusy := false } }

/-- TABLE_BASE_WRITE: RTBASE, EQTBASE, CTXTBASE; a write that the rules refuse is logged. -/
def execTableBaseWrite (off : Nat) (w : DWord) (s : State) : Outcome :=
  let a := w.setWidth 52
  let refuse : Outcome := .next (logEvent s .context [off, w.toNat])
  let busy := s.bar0.lq.any fun l => l.en
  if off = 0x2028 then
    (if a.toNat % 2 ^ 17 != 0 then refuse else .next { s with bar0 := { s.bar0 with rtbase := a } })
  else if off = 0x2030 then
    (if a.toNat % 2 ^ 17 != 0 || busy then refuse else .next { s with bar0 := { s.bar0 with eqtbase := a } })
  else if off = 0x2038 then
    (if a.toNat % 2 ^ 24 != 0 || busy then refuse else .next { s with bar0 := { s.bar0 with ctxtbase := a } })
  else .next s

/-! ### Reset and bring-up (R387, R389) -/

/-- The module starts again: what the controller's flash, the host's memory and the outside hold stays. -/
def resetModule (s : State) : State :=
  { State.reset with
    tick := s.tick
    fresh := s.fresh
    inputs := s.inputs
    mem := Table.keep s.mem fun a => Config.hostBase ≤ a
    memPoison := s.memPoison.filter fun l => Config.hostBase ≤ l * 128
    izsil := { s.izsil with ms := 0 } }

/-- MODULE_RESET. -/
def execModuleReset (s : State) : Outcome := .next (resetModule s)

/-- The launch block of a die's fault gang (R43): what the spec does not give is the firmware's. PREEMPT, PRIO, PERSIST, SPREAD,
CMPLA and QBIND, which are the firmware's too, are the model's choice (log entry 10). -/
def faultBlock (f : Config.Firmware) : Block :=
  { ngang := 1, nwg := 1, preempt := false, prio := 0, persist := false, spread := false, tlw := f.tlw, ntile := 0, nacc := 0,
    code := f.code, map := 0#52, argp := f.argp, argsz := f.argsz, cmpla := 0#52, traph := f.traph, tlbase := f.tlbase, qbind := 511,
    roles := [⟨0, 0, 64, 32, 0, (f.entry - f.code).toNat % 2 ^ 32, 2⟩] }

/-- A fault gang is placed on core 0 of its die (R43, R389). A fenced core takes no gang (R388): where core 0 is one, the first
core of the die in service takes it (log entry 10). -/
def placeFaultGang (s : State) (die : Nat) : State :=
  let f := Config.firmware s.izsil.image die
  let b := faultBlock f
  let s := { s with mem := s.mem.putAll memDefault f.image }
  match (List.range Config.coresPerDie).find? fun c => !s.fenced.contains (32 * die + c) with
  | none => s
  | some c => addGang s (newGang s 0 0 0 b die c ((fitWith [] b).getD default))

/-- Context descriptor 0: regions that map physical memory one to one, in an encoding the spec does not give; the device
keeps the same words as its own copy (R381). -/
def writeCtx0 (s : State) : State :=
  let a := s.bar0.ctxtbase.toNat
  let words := (List.range 16).map fun n => (sysRaf n).toNat
  let bytes := (words ++ [1, 0, 0]).flatMap fun w => toBytes 8 w
  { s with mem := s.mem.putAll memDefault ((bytesAt a bytes.length).zip bytes) }

/-- POWER_ON: the bring-up of R389, or recovery when the stored image fails its check (R387). -/
def execPowerOn (s : State) : Outcome :=
  if s.phase != .booting then .next s
  else if !s.izsil.imageOk then .next (logEvent { s with phase := .recovery, bar0 := { s.bar0 with recov := true } } .boot [0])
  else
    let s := { s with
      fenced := s.izsil.fenced
      freeLists := Config.freeLists s.izsil.image
      mem := Table.keep s.mem fun a => Config.hostBase ≤ a
      memPoison := s.memPoison.filter fun l => Config.hostBase ≤ l * 128 }
    let s := (List.range Config.dies).foldl placeFaultGang (writeCtx0 s)
    .next (logEvent { s with phase := .ready, bar0 := { s.bar0 with ready := true, dev := s.izsil.net.dev } } .boot [1])

/-! ### Firmware and attestation (R386, R387) -/

/-- Whether an image passes the checks of an update. -/
def imageGood (s : State) (image : List Byte) : Bool := Config.imageSigned image && s.izsil.rollback ≤ Config.imageVersion image

/-- The image is written in place. -/
def writeImage (s : State) (image : List Byte) : State :=
  { s with izsil := { s.izsil with image := image, imageOk := true, version := Config.imageVersion image } }

/-- Bytes of device memory. -/
def imageAt (s : State) (addr len : Nat) : List Byte := (bytesAt addr len).map (homeByte s)

/-- FIRMWARE_UPDATE: refused when a check fails, or while a context is resident. -/
def execFirmwareUpdate (addr len : Nat) (s : State) : Outcome :=
  let image := imageAt s addr len
  if s.phase != .ready || !imageGood s image || s.gangs.any fun g => !g.isFault then .next (logEvent s .firmware [0])
  else .next (logEvent (writeImage s image) .firmware [1])

/-- RECOVERY_GO: a write of 0x0008: RLEN, and with RGO the recovery image (R387). -/
def execRecoveryGo (w : DWord) (s : State) : Outcome :=
  let s := { s with bar0 := { s.bar0 with rlen := w.setWidth 32 } }
  if !w.getLsbD 63 || s.phase != .recovery then .next s
  else
    let n := s.bar0.rlen.toNat
    let image := imageAt s 0 n
    if n = 0 || 2 ^ 26 < n || !imageGood s image then .next (logEvent s .firmware [2])
    else .next (resetModule (writeImage s image))

/-- The measurements, each of 64 bytes, in the order of their indices 1 to 5 (R386). -/
def measurements (s : State) : List Byte :=
  let n := s.izsil.net
  [Config.bootRom, s.izsil.image, Config.fabricConfig, s.fenced.flatMap fun c => toBytes 2 c,
    toBytes 8 s.bar0.rtbase.toNat ++ toBytes 2 n.dev.toNat ++ (n.addrs.flatMap fun a => toBytes 16 a.toNat) ++ toBytes 2 n.udp.toNat ++
      n.macs.flatMap fun a => toBytes 6 a.toNat].flatMap fun m => Config.shake256 m 64

/-- The identity key pair's public key, and a signature under it (R386). -/
def publicKey : List Byte := toBytes 64 Config.identityKey
def signature (m : List Byte) : List Byte := toBytes 29792 (Config.identitySign m)

/-- SPDM_REQUEST (R386): the answer, with its signature where the request asks for one. -/
def execSpdmRequest (req : List Byte) (s : State) : Outcome :=
  let body := Config.spdmBody (measurements s) publicKey req
  .next { s with izsil := { s.izsil with answer := if Config.spdmSigned req then body ++ signature body else body } }

/-! ### Settings and power (R382, R384, R388) -/

/-- FENCED_CORE_MAP_UPDATE: in force from the next module reset. -/
def execFencedCoreMapUpdate (map : List Nat) (s : State) : Outcome :=
  .next { s with izsil := { s.izsil with fenced := (sortNat map).filter fun c => c < 256 } }

/-- IZSIL_CONFIG_SET. -/
def execIzsilConfigSet (cfg : NetConfig) (s : State) : Outcome :=
  .next { s with izsil := { s.izsil with net := cfg }, bar0 := { s.bar0 with dev := if s.phase = .ready then cfg.dev else s.bar0.dev } }

/-- POWER_LIMIT: the arithmetic clock is lowered. -/
def execPowerLimit (s : State) : Outcome := .next { s with dies := s.dies.map fun d => { d with slow := true } }
/-- THERMAL_THROTTLE: one die's clock is lowered. -/
def execThermalThrottle (die : Nat) (s : State) : Outcome := .next (s.updDie die fun d => { d with slow := true })
/-- THERMAL_STOP: the module stops, and the cause is logged. -/
def execThermalStop (code : Nat) (s : State) : Outcome := .next (logEvent { s with phase := .stopped } .power [code])
/-- POWER_LOSS: in the middle of an image's writing, the stored image is no longer good (R387). -/
def execPowerLoss (midWrite : Bool) (s : State) : Outcome :=
  let s := resetModule s
  .next { s with izsil := { s.izsil with imageOk := s.izsil.imageOk && !midWrite } }

end Sys2Proof.Machine
end

