-- ==== Sys2Proof/Machine/Matrix.lean ====
section
/-! DEFINITION. The matrix array: format words and their vote, MZERO, MMA, MLOAD, MDRAIN, and what each does when the
array performs it (R174-R179, R274-R280). -/

namespace Sys2Proof.Machine

/-! ### Format words (R174-R176) -/

def fwFA (w : Nat) : Nat := fld w 0 4
def fwFB (w : Nat) : Nat := fld w 4 4
def fwMA (w : Nat) : Nat := fld w 8 3
def fwMB (w : Nat) : Nat := fld w 11 3
def fwAcc (w : Nat) : Nat := fld w 14 2
def fwRnd (w : Nat) : Nat := fld w 16 2
def fwSat (w : Nat) : Bool := bitN w 18
def fwAmax (w : Nat) : Bool := bitN w 19

/-- R175 for `MMA`. -/
def fwOk (w : Nat) : Bool :=
  let fa := fwFA w
  let fb := fwFB w
  let combo := (fa == fb && (fa ≤ 2 || fa == 6) && fwAcc w == 0) || (fa == 3 && fb == 3 && fwAcc w == 1) ||
    ((fa == 4 || fa == 5) && (fb == 4 || fb == 5) && fwAcc w == 0)
  fld w 20 12 = 0 && combo && (if fa = 6 then fwMA w != 0 else fwMA w = 0) && (if fb = 6 then fwMB w != 0 else fwMB w = 0)
/-- R175 for `MLOAD` and `MDRAIN`. -/
def fwOkMove (w : Nat) : Bool := fld w 20 12 = 0 && fwAcc w ≤ 1 && fwFA w ≤ 6 && fwFB w ≤ 6

/-- R176: the vote of lanes on their words: the word, or the trap, as check n of the instruction's list. -/
def fwVote (words : List (Nat × Nat)) (ok : Nat → Bool) (n : Nat) : Except TrapInfo Nat :=
  match words with
  | [] => .ok 0
  | (_, w) :: _ =>
    match words.find? fun p => p.2 != w with
    | some p => .error ⟨cFMTDIV, p.1, some n⟩
    | none => if ok w then .ok w else .error ⟨cILLENC, 0, some n⟩

/-- R176: every lane below `sr.pk` votes; a dead one reads 0 (R205). -/
def Env.allVoters (e : Env) (word : Nat → Nat) : List (Nat × Nat) := (List.range e.a.pk).map fun l => (l, word l)

/-! ### Issue -/

/-- Whether an accumulator pair is not to be had (R275). -/
def pairBad (e : Env) (m : Nat) : Bool := m % 2 != 0 || e.g.blk.nacc ≤ m + 1

/-- `MZERO` (R275). -/
def execMzero (x : Ext) (s : State) : Outcome :=
  runExt (.mzero x) x s fun s e r =>
    .done (issueCmd e s .mx none (.mzero (x.ty == 11#5) r.d))

/-- R278: K of a TYPE. -/
def mmaK (ty : Nat) : Nat :=
  match ty with
  | 8 => 32
  | 9 => 32
  | 10 => 16
  | 11 => 8
  | 14 => 128
  | _ => 64
/-- R177: the chunk of a TYPE. -/
def mmaChunk (ty : Nat) : Nat :=
  match ty with
  | 8 => 16
  | 9 => 16
  | 10 => 4
  | 11 => 4
  | _ => 32

/-- R277 check 3 and its repetition: a tile is undefined or EMPTY. -/
def tileGone (s : State) (g : Gang) (t : Nat) : Bool := !g.defined t || tileState s g t == 0
/-- A tile that is being filled or drained. -/
def tileBusy (s : State) (g : Gang) (t : Nat) : Bool := tileState s g t == 1 || tileState s g t == 3

/-- R277 check 6. -/
def mmaTilesOk (ta tb : DWord) (ty w : Nat) : Bool :=
  tRows ta = 64 && tCols ta = mmaK ty && tType ta = fwFA w + 8 && tRows tb = mmaK ty && tCols tb = 64 && tType tb = fwFB w + 8 &&
    (ty != 14 || (tBfpw ta = fwMA w && tBfpw tb = fwMB w && tLayout ta != 1 && tLayout tb = 1))

/-- The command issues once its tiles are neither being filled nor drained; while it waits, it keeps what it has read
(R274, R277). -/
def tileWait (e : Env) (s : State) (ts : List Nat) (w : Nat) (rows : List Nat) (body : CmdBody) : Res :=
  if ts.any (tileBusy s e.g) then .stay (e.set s fun a => { a with voted := some (BitVec.ofNat 32 w, rows) })
  else .done (issueCmd e s .mx none body)

/-- R277 checks 4 and 5: the selected rows, and the word they agree on; 0 where no row is selected. -/
def mmaVote (e : Env) (s : State) (x : Ext) (c : Nat) : Except TrapInfo (Nat × List Nat) :=
  match e.a.voted with
  | some (w, rows) => .ok (w.toNat, rows)
  | none =>
    let m := e.hand s x.e.toNat &&& e.hand s 0
    let rows := (List.range e.a.pk).filter fun l => m.getLsbD (e.rank l)
    match fwVote (rows.map fun l => (l, e.rv c l)) (fun w => fwOk w && fwFA w + 8 = x.ty.toNat) 5 with
    | .error t => .error t
    | .ok w => .ok (w, rows)

/-- `MMA` (R277). -/
def execMma (x : Ext) (s : State) : Outcome :=
  runExt (.mma x) x s fun s e r =>
    let ty := x.ty.toNat
    if e.a.depth != 0 then .trap ⟨cMMAPK, 0, some 1⟩ 0
    else if e.wg.g != 64 then .trap ⟨cILLENC, 0, some 2⟩ 0
    else if tileGone s e.g r.a || tileGone s e.g r.b then .trap ⟨cOOB, 0, some 3⟩ 0
    else
      match mmaVote e s x r.c with
      | .error t => .trap t 0
      | .ok (_, []) => .done (issueCmd e s .mx none (.mma r.d r.a r.b ty 0#32 []))
      | .ok (w, rows) =>
        if !mmaTilesOk (e.g.tile r.a) (e.g.tile r.b) ty w then .trap ⟨cOOB, 0, some 6⟩ 0
        else tileWait e s [r.a, r.b] w rows (.mma r.d r.a r.b ty (BitVec.ofNat 32 w) rows)

/-- R279 check 2: the word of an `MLOAD`. -/
def mloadVote (e : Env) (x : Ext) (r : Regs) : Except TrapInfo Nat :=
  match e.a.voted with
  | some (w, _) => .ok w.toNat
  | none => fwVote (e.allVoters fun l => e.srcB x r false l) fwOkMove 2

/-- `MLOAD` (R279). -/
def execMload (x : Ext) (s : State) : Outcome :=
  runExt (.mload x) x s fun s e r =>
    if tileGone s e.g r.a then .trap ⟨cOOB, 0, some 1⟩ 0
    else
      match mloadVote e x r with
      | .error t => .trap t 0
      | .ok w =>
        let t := e.g.tile r.a
        let okTy := [8, 9, 10, 12, 13, 14].contains (tType t) || (fwAcc w = 1 && tType t = 11)
        if fwAcc w = 1 && pairBad e r.d then .trap ⟨cREGBOUND, 0, some 3⟩ 0
        else if tRows t != 64 || tCols t != 64 || !okTy then .trap ⟨cOOB, 0, some 4⟩ 0
        else tileWait e s [r.a] w [] (.mload r.d r.a (BitVec.ofNat 32 w))

/-- R280 check 5: the bytes of the amax word of an `MDRAIN`, in the pieces of R27: none where the merge is dropped. -/
def amaxWord (e : Env) (x : Ext) (r : Regs) (w : Nat) : Except TrapInfo (Option (List Nat)) :=
  if !fwAmax w then (if r.c != 0 || x.e != 0#8 || x.imm != 0#8 || x.offset != 0 then .error ⟨cILLENC, 0, some 5⟩ else .ok none)
  else
    match planAccess (e.rb r.c) 4 1 [(0, e.sIndex x.e.toNat x.offset)] with
    | .trap t => .error { t with detail := match t.detail with
        | some d => some d
        | none => some 5 }
    | .lanes l => .ok ((l.head?.bind fun p => p.2).map fun ps => ps.flatMap fun p => bytesAt p.1 p.2)

/-- `MDRAIN` (R280). -/
def execMdrain (x : Ext) (s : State) : Outcome :=
  runExt (.mdrain x) x s fun s e r =>
    if !e.g.defined r.d then .trap ⟨cOOB, 0, some 1⟩ 0
    else
      match fwVote (e.allVoters (e.rv r.b)) fwOkMove 2 with
      | .error t => .trap t 0
      | .ok w =>
        let t := e.g.tile r.d
        if fwAcc w = 1 && pairBad e r.a then .trap ⟨cREGBOUND, 0, some 3⟩ 0
        else if tRows t != 64 || tCols t != 64 || tType t < 8 || 14 < tType t || (tType t = 14 && tLayout t = 1) then
          .trap ⟨cOOB, 0, some 4⟩ 0
        else
          match amaxWord e x r w with
          | .error t => .trap t 0
          | .ok am => .done (issueCmd e s .mx none (.mdrain r.d r.a (BitVec.ofNat 32 w) (am.map fun vas => (vas, 0))))

/-! ### Values -/

/-- A tile element's value (R167, R271). -/
def tileElem (g : Gang) (t : DWord) (r c : Nat) : FVal :=
  let ty := tType t
  if ty = 14 then
    let m := tBfpw t + 1
    let (a, b) := tileMant t r c
    let w := ofBytes (g.osBytes [a, a + 1])
    bfpVal m (ofBytes (g.osBytes [tileExp t r c])) (fld w b m)
  else (fmtOf ty).read (ofBytes (g.osBytes (bytesAt (tileByte t r c) (elemSize ty))))

/-- An accumulator word, or the word of a pair. -/
def Gang.acc (g : Gang) (pair : Bool) (m w : Nat) : Nat :=
  let lo := (g.accs.look 0#32 (4096 * m + w)).toNat
  if pair then lo + 2 ^ 32 * (g.accs.look 0#32 (4096 * (m + 1) + w)).toNat else lo
/-- Entries of the accumulator table for a value. -/
def accEntries (pair : Bool) (m w v : Nat) : List (Nat × Word) :=
  (4096 * m + w, BitVec.ofNat 32 v) :: (if pair then [(4096 * (m + 1) + w, BitVec.ofNat 32 (v / 2 ^ 32))] else [])
def accFmt (pair : Bool) : Fmt := if pair then .f64 else .f32

def isInf : FVal → Bool
  | .inf _ => true
  | _ => false

/-- R177: the exact sum of a chunk's products, with its flags. R177 gives no precedence between a quiet NaN product and
infinite products of both signs in one chunk; here the NaN comes first and NV is not set (log entry 70). -/
def chunkSum (ps : List (FVal × FVal)) : FVal × FFlags :=
  let bad (p : FVal × FVal) : Bool := zeroTimesInf p.1 p.2
  let nan (p : FVal × FVal) : Bool := isNaN p.1 || isNaN p.2 || bad p
  if ps.any nan then (.nan false, if ps.any fun p => bad p || isSig p.1 || isSig p.2 then NV else noFlag)
  else
    let prods := ps.map fun p => mulExact p.1 p.2
    let infs := prods.filter isInf
    match infs with
    | i :: _ => if infs.all fun j => isNeg j == isNeg i then (i, noFlag) else (.nan false, NV)
    | [] =>
      let add (a : Int × Int) (v : FVal) : Int × Int := match v with
        | .fin n m e => addExact (decide (a.1 < 0)) a.1.natAbs a.2 n m e
        | _ => a
      let sum := prods.foldl add (0, 0)
      if sum.1 = 0 then (.fin (prods.all isNeg) 0 0, noFlag)
      else (.fin (decide (sum.1 < 0)) sum.1.natAbs sum.2, noFlag)

/-- R177: one element of an `MMA`: the chunks in ascending k, one rounding each. -/
def mmaElem (f : Fmt) (chunks : List (List (FVal × FVal))) (acc : Nat) : Nat × FFlags :=
  chunks.foldl (fun a ps =>
    let (v, fl) := chunkSum ps
    let (r, fl') := faddV f 0 (f.read a.1) v
    (r, a.2 ||| fl ||| fl')) (acc, noFlag)

/-- The first n elements of a tile's row, and of a column. -/
def tileRow (g : Gang) (t : DWord) (n r : Nat) : List FVal := (List.range n).map fun c => tileElem g t r c
def tileCol (g : Gang) (t : DWord) (n c : Nat) : List FVal := (List.range n).map fun r => tileElem g t r c

/-- The chunks of the products of a row and a column. -/
def mmaChunks (ty : Nat) (ps : List (FVal × FVal)) : List (List (FVal × FVal)) :=
  (List.range (mmaK ty / mmaChunk ty)).map fun q => (ps.drop (q * mmaChunk ty)).take (mmaChunk ty)

/-- Results at places of an accumulator, put in, with their flags. -/
def putAcc (s : State) (c : Cmd) (pair : Bool) (m : Nat) (vs : List (Nat × Nat × FFlags)) : State :=
  let fl := orFlags (vs.map fun v => v.2.2)
  let s := s.updGang c.gang fun g => { g with accs := Table.putAll 0#32 g.accs (vs.flatMap fun v => accEntries pair m v.1 v.2.1) }
  s.updCmd c.id fun d => { d with flags := fl, tileDone := true, phase := .complete }

/-- The operand-store bytes that hold a tile's element. -/
def elemBytes (t : DWord) (r c : Nat) : List Nat :=
  if tType t = 14 then
    let (a, b) := tileMant t r c
    bytesAt a (cdiv (b + tBfpw t + 1) 8) ++ [tileExp t r c]
  else bytesAt (tileByte t r c) (elemSize (tType t))

/-- What an `MMA` reads of its tiles: the selected rows of A, and B. -/
def mmaBytes (ta tb : DWord) (ty : Nat) (rows : List Nat) : List Nat :=
  match rows with
  | [] => []
  | _ => (rows.flatMap fun i => (List.range (mmaK ty)).flatMap fun k => elemBytes ta i k) ++
    (List.range (mmaK ty)).flatMap fun k => (List.range 64).flatMap fun j => elemBytes tb k j

/-- R278. -/
def performMma (s : State) (g : Gang) (c : Cmd) (m ta tb ty : Nat) (rows : List Nat) : State :=
  let pair := ty == 11
  let cols := enumFrom 0 ((List.range 64).map (tileCol g (g.tile tb) (mmaK ty)))
  putAcc s c pair m (rows.flatMap fun i =>
    let row := tileRow g (g.tile ta) (mmaK ty) i
    cols.map fun p => (i * 64 + p.1, mmaElem (accFmt pair) (mmaChunks ty (row.zip p.2)) (g.acc pair m (i * 64 + p.1))))

/-- The 4,096 places of an accumulator. -/
def accPlaces : List (Nat × Nat) := (List.range 64).flatMap fun i => (List.range 64).map fun j => (i, j)

/-- R279. -/
def performMload (s : State) (g : Gang) (c : Cmd) (m t : Nat) (w : Nat) : State :=
  let pair := fwAcc w == 1
  putAcc s c pair m (accPlaces.map fun p => (p.1 * 64 + p.2, cvtFF (accFmt pair) (fwRnd w) (fwSat w) (tileElem g (g.tile t) p.1 p.2)))

/-- R280: the magnitude an amax merge sees. -/
def amaxBits (f : Fmt) (v : Nat) : Nat :=
  match f.read v with
  | .nan _ => 0x7FC00000
  | .inf _ => Fmt.f32.infMag
  | .fin _ m e => (cvtFF .f32 2 false (.fin false m e)).1

/-- The moves and flags of a drain into a tile of float elements. -/
def drainMoves (g : Gang) (t : DWord) (m w : Nat) : List (List Move × FFlags) :=
  let pair := fwAcc w == 1
  let f := accFmt pair
  let d := fmtOf (tType t)
  let n := elemSize (tType t)
  accPlaces.map fun p =>
    let v := cvtFF d (fwRnd w) (fwSat w) (f.read (g.acc pair m (p.1 * 64 + p.2)))
    (bitFill (tileByte t p.1 p.2) 0 v.1 (8 * n), v.2)

/-- The moves and flags of a drain into a BFP tile: blocks of 32 along a row (R168). -/
def drainBfp (g : Gang) (t : DWord) (m w : Nat) : List (List Move × FFlags) :=
  let pair := fwAcc w == 1
  let f := accFmt pair
  let mw := tBfpw t + 1
  (List.range 64).flatMap fun i => (List.range 2).map fun b =>
    let q := bfpQuant f mw (fwRnd w) (fwSat w) ((List.range 32).map fun k => f.read (g.acc pair m (i * 64 + 32 * b + k)))
    (bitFill (tileExp t i (32 * b)) 0 q.1 8 ++ (enumFrom 0 q.2.1).flatMap fun p =>
        let (a, bit) := tileMant t i (32 * b + p.1)
        bitFill a bit (wrapI mw p.2) mw, q.2.2)

/-- R280: the array has read the accumulator; the tile's bytes and the amax merge follow. It credits no barrier. -/
def performMdrain (s : State) (g : Gang) (c : Cmd) (t m w : Nat) (am : Option (List Nat × Nat)) : State :=
  let tw := g.tile t
  let f := accFmt (fwAcc w == 1)
  let a := accPlaces.foldl (fun a p => max a (amaxBits f (g.acc (fwAcc w == 1) m (p.1 * 64 + p.2)))) 0
  let ms := if tType tw = 14 then drainBfp g tw m w else drainMoves g tw m w
  let ps := portionsBare (ms.flatMap fun p => p.1)
  s.updCmd c.id fun d => { d with phase := .running, portions := ps, flags := orFlags (ms.map fun p => p.2),
                                  body := .mdrain t m (BitVec.ofNat 32 w) (am.map fun p => (p.1, a)) }

/-- The accumulators a command uses. -/
def Cmd.accs (c : Cmd) : List Nat :=
  let pair (p : Bool) (m : Nat) : List Nat := if p then [m, m + 1] else [m]
  match c.body with
  | .mzero f64 m => pair f64 m
  | .mma m _ _ ty _ _ => pair (ty == 11) m
  | .mload m _ w => pair (fwAcc w.toNat == 1) m
  | .mdrain _ m w _ => pair (fwAcc w.toNat == 1) m
  | _ => []

/-- R276, R156: a core's matrix array takes the commands in the order in which the core accepted them. -/
def accReady (s : State) (c : Cmd) : Bool :=
  match c.accepted with
  | none => false
  | some k => c.phase == .queued && c.alive s && c.open s && !s.cmds.any fun d => d.cls == .mx && d.die == c.die && d.core == c.core &&
      d.phase == .queued && d.alive s && match d.accepted with
      | some j => j < k
      | none => false

/-- A matrix command reads its tiles, after what its issuer wrote to them before it, and what the earlier commands of its class
still have to write there (R111); a write of the issuer after it is read
old or new, granule by granule: of what it read early, or of what stands there now (R109, R278). A poisoned line that it
meets makes it write nothing (R68; log entry 69). -/
def withTiles (s : State) (c : Cmd) (as : List Nat) (perform : State → Gang → State) : State :=
  match as with
  | [] => match s.gang? c.gang with
    | some g => perform s g
    | none => s
  | _ =>
    if orderBlocked s c false (as.map (byteKey s c false)) then s
    else match issuerOs s (c.acc s).who as with
    | none => s
    | some s1 =>
      match s1.gang? c.gang with
      | none => s
      | some g =>
        if c.early.isNone && Config.coin s.tick 3 then
          s1.updCmd c.id fun d => { d with early := some (g.readEarly as) }
        else if osPoisoned s1 c.gang as then
          (failCmd (failAcc s1 (c.acc s1) 0 cDataPoison).state c).updCmd c.id fun d => { d with tileDone := true }
        else perform s1 (g.mixEarly s.tick c.early as)

/-- MATRIX_COMMAND_PERFORM. -/
def execMatrixCommandPerform (cmd : Nat) (s : State) : Outcome :=
  match s.cmd? cmd with
  | none => .next s
  | some c =>
    match s.gang? c.gang with
    | none => .next s
    | some g =>
      if !accReady s c then .next s
      else
        match c.body with
        | .mzero f64 m => .next (putAcc s c f64 m ((List.range 4096).map fun w => (w, 0, noFlag)))
        | .mma m ta tb ty _ rows =>
          .next (withTiles s c (mmaBytes (g.tile ta) (g.tile tb) ty rows) fun s g => performMma s g c m ta tb ty rows)
        | .mload m t w => .next (withTiles s c (accPlaces.flatMap fun p => elemBytes (g.tile t) p.1 p.2) fun s g => performMload s g c m t w.toNat)
        | .mdrain t m w am => .next (performMdrain s g c t m w.toNat am)
        | _ => .next s

end Sys2Proof.Machine
end

