-- ==== Sys2Proof/Machine/Walker.lean ====
section
/-! DEFINITION. The format walker: WALK, the start and the end of a walk, its 18 instructions, faults, read buffers, and
its stop for a save (R327-R338). -/

namespace Sys2Proof.Machine

/-! ### WALK (R327) -/

/-- The tile types a walk may fill. -/
def walkTypes : List Nat := [0, 1, 2, 3, 4, 5, 8, 9, 10, 12, 13, 15]

/-- `WALK`. -/
def execWalk (x : Ext) (s : State) : Outcome :=
  runExt (.walk x) x s fun s e r =>
    let bar := copyBar e x r
    if !e.g.defined r.d then .trap ⟨cOOB, 0, some 1⟩ 0
    else if !walkTypes.contains (tType (e.g.tile r.d)) then .trap ⟨cOOB, 0, some 2⟩ 0
    else
      match barCheck e bar (some 3) with
      | some t => .trap t 0
      | none =>
        match recordAccess (e.rb r.a) 32 (some 4) (e.sIndex r.b (x.imm.toNat % 64 : Nat)) with
        | .error t => .trap t 0
        | .ok desc =>
          .done (issueCmd e s .fw bar (.walk r.d desc none))

/-! ### Start (R328-R330) -/

/-- The command the walker of a cluster works on, or takes next: one at a time, in the order the core accepted them, so that
the walks of one issuer access the same bytes in issue order (R111). -/
def walkNext (s : State) (cl : Nat) : Option Cmd :=
  let mine := s.cmds.filter fun c => c.cls == .fw && clusterOf c.die c.core == cl && c.accepted.isSome &&
    ((s.gang? c.gang).map fun g => !g.dying).getD false
  match mine.find? fun c => c.phase == .running with
  | some c => some c
  | none =>
    -- a walk that stopped for a save stands behind the younger ones of its issuer, which go on waiting for it
    let ready := mine.filter fun c => c.phase == .queued && !mine.any fun d => d.samePlace c && d.id < c.id && d.phase == .queued
    ready.find? fun c => ready.all fun d => c.accepted.getD 0 ≤ d.accepted.getD 0
def walkTurn (s : State) (c : Cmd) : Bool := (walkNext s (clusterOf c.die c.core)).map (fun d => d.id) == some c.id

/-- R328: a malformed descriptor. -/
def walkDescBad (ws : List Nat) : Bool :=
  let w (k : Nat) : Nat := ws.getD k 0
  fld (w 0) 52 4 != 0 || fld (w 1) 52 12 != 0 || fld (w 3) 52 12 != 0 || w 0 % 4 != 0 || w 1 % 256 != 0 || w 3 % 8 != 0

/-- The fields of a format record. -/
def fmtWord (f : List DWord) (off : Nat) : Nat := (f.getD (off / 8) 0#64).toNat
def fmtNlev (f : List DWord) : Nat := fld (fmtWord f 0) 0 2
def fmtDim (f : List DWord) (l : Nat) : Nat := fld (fmtWord f (0x10 + 16 * l)) 0 32
def fmtLtype (f : List DWord) (l : Nat) : Nat := fld (fmtWord f (0x10 + 16 * l)) 32 3
def fmtBase (f : List DWord) (a : Nat) : Nat := fld (fmtWord f (0x50 + 16 * a)) 0 52
def fmtEsz (f : List DWord) (a : Nat) : Nat := 2 ^ fld (fmtWord f (0x50 + 16 * a)) 52 2
def fmtCount (f : List DWord) (a : Nat) : Nat := fld (fmtWord f (0x58 + 16 * a)) 0 32

/-- R330: what makes a format record a walker fault. -/
def fmtBad (f : List DWord) (ty : Nat) : Bool :=
  let w := fmtWord f
  fld (w 0) 13 51 != 0 || fld (w 0) 2 6 != 0 || w 8 != 0 || fld (w 0) 8 5 != ty ||
    ((List.range 4).any fun l => fld (w (0x10 + 16 * l)) 35 29 != 0 || w (0x18 + 16 * l) != 0 || 5 ≤ fmtLtype f l ||
      (fmtNlev f < l && w (0x10 + 16 * l) != 0)) ||
    ((List.range 8).any fun a => fld (w (0x50 + 16 * a)) 54 10 != 0 || fld (w (0x58 + 16 * a)) 32 32 != 0 ||
      fmtBase f a % fmtEsz f a != 0) ||
    ((List.range 6).any fun k => w (0xD0 + 8 * k) != 0)

/-- The walker's state at instruction 0. -/
def walkInit (ws : List Nat) (prog : List Word) (fmt : List DWord) : WalkSt :=
  let w (k : Nat) : Nat := ws.getD k 0
  { prog := prog, fmt := fmt,
    y := [0#32, BitVec.ofNat 32 (fld (w 2) 0 32), BitVec.ofNat 32 (fld (w 2) 32 32)] ++ List.replicate 13 0#32,
    row := 0#32, eq := false, lt := false, stack := [], staged := [], next := 0, steps := 0, bufs := [], stat := fld (w 3) 0 52,
    ended := none, written := false }

def putWalk (s : State) (c : Cmd) (t : Nat) (desc : Option (List Nat)) (st : WalkSt) : State :=
  s.updCmd c.id fun d => { d with body := .walk t desc (some st), phase := .running }

/-! ### End (R335) -/

/-- The moves of the staged tile: its elements line by line. -/
def stageMoves (tw : DWord) (st : WalkSt) : List Move :=
  let n := elemSize (tType tw)
  (List.range (tRows tw)).flatMap fun r => (List.range (tCols tw)).flatMap fun c =>
    let a := tileByte tw r c
    byteFill a ((bytesAt a n).map fun b => st.staged.look 0#8 b)

/-- A walk has no instruction left: its staged tile, all zeros after a fault, goes to the operand store. -/
def endWalk (s : State) (c : Cmd) (t : Nat) (desc : Option (List Nat)) (st : WalkSt) (reason pc : Nat) : State :=
  let st := { st with ended := some (reason, pc), written := true, staged := if reason = 0 then st.staged else [] }
  match s.gang? c.gang with
  | none => s
  | some g =>
    (putWalk s c t desc st).updCmd c.id fun d =>
      { d.owe [granules st.stat (toBytes 8 st.word)] with portions := portionsBare (stageMoves (g.tile t) st) }

/-- WALK_START. -/
def execWalkStart (cmd : Nat) (s : State) : Outcome :=
  match s.cmd? cmd with
  | none => .next s
  | some c =>
    match c.body, s.gang? c.gang with
    | .walk t desc none, some g =>
      if !mayStart s c || !walkTurn s c || g.stop.isSome then .next s
      else if (tileRuns (g.tile t)).any fun r => r.2 != 0 && g.inWindow r.1 r.2 then .next (failCmd s c)
      else
        match desc with
        | none => .next (failCmd s c)
        | some vas =>
          match readWords s c vas with
          | .error (.wait s) => .next s
          | .error (.fail s _) => .next (failCmd s c)
          | .ok (s, ws) =>
            if walkDescBad ws then .next (failCmd s c)
            else
              let w (k : Nat) : Nat := ws.getD k 0
              let n := fld (w 0) 56 8 + 1
              let base := fld (w 0) 0 52
              let words := (List.range (cdiv (base % 8 + 4 * n) 8)).map fun k => (alignDown base 8 + 8 * k, 8)
              match readNats s c false (words ++ (List.range 32).map fun k => ((fld (w 1) 0 52 + 8 * k) % 2 ^ 52, 8)) with
              | .error (.wait s) => .next s
              | .error (.fail s _) => .next (endWalk s c t desc (walkInit ws [] []) 8 0)
              | .ok (s, vs) =>
                let code := (vs.take words.length).flatMap (toBytes 8)
                let prog := (List.range n).map fun k => BitVec.ofNat 32 (ofBytes ((code.drop (base % 8 + 4 * k)).take 4))
                let fmt := (vs.drop words.length).map fun v => BitVec.ofNat 64 v
                let st := walkInit ws prog fmt
                .next (if fmtBad fmt (tType (g.tile t)) then endWalk s c t desc st 9 0 else putWalk s c t desc st)
    | _, _ => .next s

/-! ### Running (R330-R334) -/

/-- How a walker instruction ends. -/
inductive WRes where
  | next (st : WalkSt)
  | jump (st : WalkSt) (t : Nat)
  | done
  | fault (reason : Nat)
  /-- the next instruction follows, after a read -/
  | read (s : State) (st : WalkSt)
  /-- a read failed: REASON 8 -/
  | lost (s : State)
  /-- held by a page fault, or with more granules of a line to read: it takes no step, and keeps what it has read -/
  | hold (s : State) (st : WalkSt)
  deriving Repr, Inhabited

def WalkSt.r (st : WalkSt) (n : BitVec 4) : Word := st.y.getD n.toNat 0#32
def WalkSt.set (st : WalkSt) (n : BitVec 4) (v : Word) : WalkSt := { st with y := st.y.set n.toNat v }

/-- The walk whose instruction runs. -/
def State.walk? (s : State) : Option (Cmd × Nat × Option (List Nat) × WalkSt × Gang) :=
  match s.cur with
  | .walker id =>
    match s.cmd? id with
    | none => none
    | some c =>
      match c.body, s.gang? c.gang with
      | .walk t desc (some st), some g => some (c, t, desc, st, g)
      | _, _ => none
  | _ => none

/-- Whether a walk has an instruction to execute. -/
def walkRuns (s : State) (c : Cmd) (st : WalkSt) (g : Gang) : Bool :=
  c.phase == .running && st.ended.isNone && g.stop.isNone && !g.dying && st.steps < 2 ^ 24 && walkTurn s c

/-- One walker instruction: its step count, its successor, its fault. -/
def runWalk (i : Instr) (s : State) (body : State → Cmd → Gang → Nat → WalkSt → WRes) : Outcome :=
  match s.walk? with
  | none => .fault .noWalk
  | some (c, t, desc, st, g) =>
    if !walkRuns s c st g then .next s
    else
      let counted := { st with steps := st.steps + 1 }
      let goOn (s : State) (st' : WalkSt) (n : Nat) : State :=
        if st.prog.length ≤ n then endWalk s c t desc counted 3 st.next
        else putWalk s c t desc { st' with steps := st.steps + 1, next := n }
      match if i.wellFormed then body s c g t st else .fault 2 with
      | .next st' => .next (goOn s st' (st.next + 1))
      | .read s st' => .next (goOn s st' (st.next + 1))
      | .jump st' n => .next (goOn s st' n)
      | .done => .next (endWalk s c t desc counted 0 st.next)
      | .fault r => .next (endWalk s c t desc counted r st.next)
      | .lost s => .next (endWalk s c t desc counted 8 st.next)
      | .hold s st' => .next (putWalk s c t desc st')

/-- `WEND`. -/
def execWend (s : State) : Outcome := runWalk .wend s fun _ _ _ _ _ => .done
/-- `WLDI`. -/
def execWldi (yd : BitVec 4) (imm : BitVec 14) (s : State) : Outcome :=
  runWalk (.wldi yd imm) s fun _ _ _ _ st => .next (st.set yd (imm.setWidth 32))
/-- `WADD`. -/
def execWadd (yd ya yb : BitVec 4) (imm : BitVec 14) (s : State) : Outcome :=
  runWalk (.wadd yd ya yb imm) s fun _ _ _ _ st => .next (st.set yd (st.r ya + st.r yb + imm.signExtend 32))
/-- `WSUB`. -/
def execWsub (yd ya yb : BitVec 4) (s : State) : Outcome :=
  runWalk (.wsub yd ya yb) s fun _ _ _ _ st => .next (st.set yd (st.r ya - st.r yb))
/-- `WAND`. -/
def execWand (yd ya yb : BitVec 4) (s : State) : Outcome :=
  runWalk (.wand yd ya yb) s fun _ _ _ _ st => .next (st.set yd (st.r ya &&& st.r yb))
/-- `WSHR`. -/
def execWshr (yd ya : BitVec 4) (n : BitVec 5) (s : State) : Outcome :=
  runWalk (.wshr yd ya n) s fun _ _ _ _ st => .next (st.set yd (st.r ya >>> n.toNat))
/-- `WCMP`. -/
def execWcmp (ya yb : BitVec 4) (s : State) : Outcome :=
  runWalk (.wcmp ya yb) s fun _ _ _ _ st => .next { st with eq := st.r ya == st.r yb, lt := (st.r ya).ult (st.r yb) }
/-- `WBR`. -/
def execWbr (t : BitVec 8) (s : State) : Outcome := runWalk (.wbr t) s fun _ _ _ _ st => .jump st t.toNat
/-- `WBZ`. -/
def execWbz (ya : BitVec 4) (t : BitVec 8) (s : State) : Outcome :=
  runWalk (.wbz ya t) s fun _ _ _ _ st => if st.r ya == 0#32 then .jump st t.toNat else .next st
/-- `WBLT`. -/
def execWblt (t : BitVec 8) (s : State) : Outcome :=
  runWalk (.wblt t) s fun _ _ _ _ st => if st.lt then .jump st t.toNat else .next st

/-- R334: the line of an array that holds an address, from its buffer or fetched, one granule at a time and in any order
(R110); with the state after it, a wait, or REASON 8. -/
def walkLine (s : State) (c : Cmd) (st : WalkSt) (src va : Nat) : Except WRes (State × WalkSt × List Byte) :=
  let line := alignDown (va % 2 ^ 52) 128
  match st.bufs.find? fun b => b.1 == src && b.2.1 == line with
  | some b => .ok (s, st, b.2.2)
  | none =>
    let have' : List (Nat × List Byte) := match st.fetched with
      | some (a, l, gs) => if a == src && l == line then gs else []
      | none => []
    let left := (List.range 32).filter fun k => !have'.any fun g => g.1 == k
    match left with
    | [] =>
      let bs := (List.range 32).flatMap fun k => ((have'.find? fun g => g.1 == k).map fun g => g.2).getD []
      .ok (s, { st with bufs := (st.bufs.filter fun b => b.1 != src) ++ [(src, line, bs)], fetched := none }, bs)
    | k0 :: _ =>
      let k := left.getD (Config.choose s.tick 0 % left.length) k0
      match uRead s (c.acc s) (line + 4 * k) 4 with
      | .error (.wait s) => .error (.hold s st)
      | .error (.fail s _) => .error (.lost s)
      | .ok (s, bs) => .error (.hold s { st with fetched := some (src, line, have' ++ [(k, bs)]) })

/-- An element of an array. -/
def walkElem (s : State) (c : Cmd) (st : WalkSt) (src k : Nat) : Except WRes (State × WalkSt × Nat) :=
  let e := fmtEsz st.fmt src
  let va := fmtBase st.fmt src + k * e
  match walkLine s c st src va with
  | .error r => .error r
  | .ok (s, st, bs) => .ok (s, st, ofBytes ((bs.drop (va % 128)).take e))

/-- `WLD`. -/
def execWld (yd ya : BitVec 4) (src : BitVec 4) (s : State) : Outcome :=
  runWalk (.wld yd ya src) s fun s c _ _ st =>
    let n := src.toNat
    if n < 8 then
      (if fmtCount st.fmt n ≤ (st.r ya).toNat then .fault 5
       else match walkElem s c st n (st.r ya).toNat with
        | .error r => r
        | .ok (s, st, v) => .read s (st.set yd (BitVec.ofNat 32 v)))
    else if fmtNlev st.fmt < n % 4 then .fault 5
    else .next (st.set yd (BitVec.ofNat 32 (if n < 12 then fmtDim st.fmt (n % 4) else fmtLtype st.fmt (n % 4))))

/-- The lowest set bit from lo on below hi of an array read as one bit string, line by line; where it has to wait, it goes on
from there. -/
def walkBit (c : Cmd) (src hi : Nat) : Nat → State → WalkSt → Nat → Except WRes (State × WalkSt × Nat)
  | 0, s, st, _ => .ok (s, st, hi)
  | fuel + 1, s, st, lo =>
    if hi ≤ lo then .ok (s, st, hi)
    else
      let va := fmtBase st.fmt src + lo / 8
      match walkLine s c st src va with
      | .error (.hold s st) => .error (.hold s { st with scan := some lo })
      | .error r => .error r
      | .ok (s, st, bs) =>
        let first := 8 * (va % 128) + lo % 8
        let n := min (hi - lo) (1024 - first)
        match (List.range n).find? fun j => bitN (bs.getD ((first + j) / 8) 0#8).toNat ((first + j) % 8) with
        | some j => .ok (s, st, lo + j)
        | none => walkBit c src hi fuel s st (lo + n)

/-- `WBMN`. -/
def execWbmn (yd ya yb : BitVec 4) (src : BitVec 3) (s : State) : Outcome :=
  runWalk (.wbmn yd ya yb src) s fun s c _ _ st =>
    let n := src.toNat
    let hi := (st.r yb).toNat
    let lo := (st.r ya).toNat
    if fmtCount st.fmt n * fmtEsz st.fmt n * 8 < hi then .fault 5
    else match walkBit c n hi ((hi - lo) / 1024 + 2) s st (st.scan.getD lo) with
      | .error r => r
      | .ok (s, st, p) => .read s (({ st with scan := none } : WalkSt).set yd (BitVec.ofNat 32 p))

/-- `WRUN`. -/
def execWrun (yd yb ya : BitVec 4) (src : BitVec 3) (s : State) : Outcome :=
  runWalk (.wrun yd yb ya src) s fun s c _ _ st =>
    let n := src.toNat
    if fmtEsz st.fmt n != 8 || fmtCount st.fmt n ≤ (st.r ya).toNat then .fault 5
    else match walkElem s c st n (st.r ya).toNat with
      | .error r => r
      | .ok (s, st, v) => .read s ((st.set yd (BitVec.ofNat 32 v)).set yb (BitVec.ofNat 32 (v / 2 ^ 32)))

/-- `WEMIT`. -/
def execWemit (ya yb : BitVec 4) (s : State) : Outcome :=
  runWalk (.wemit ya yb) s fun _ _ g t st =>
    let tw := g.tile t
    if tRows tw ≤ st.row.toNat || tCols tw ≤ (st.r ya).toNat then .fault 6
    else
      let n := elemSize (tType tw)
      let a := tileByte tw st.row.toNat (st.r ya).toNat
      .next { st with staged := st.staged.putAll 0#8 ((bytesAt a n).zip (toBytes n (st.r yb).toNat)) }
/-- `WROW`. -/
def execWrow (ya : BitVec 4) (s : State) : Outcome := runWalk (.wrow ya) s fun _ _ _ _ st => .next { st with row := st.r ya }
/-- `WPUSH`. -/
def execWpush (ya : BitVec 4) (s : State) : Outcome :=
  runWalk (.wpush ya) s fun _ _ _ _ st => if 4 ≤ st.stack.length then .fault 4 else .next { st with stack := st.r ya :: st.stack }
/-- `WPOP`. -/
def execWpop (yd : BitVec 4) (s : State) : Outcome :=
  runWalk (.wpop yd) s fun _ _ _ _ st => match st.stack with
    | [] => .fault 4
    | v :: r => .next (({ st with stack := r } : WalkSt).set yd v)
/-- `WSYNC`. -/
def execWsync (s : State) : Outcome := runWalk .wsync s fun _ _ _ _ st => .next { st with bufs := [], fetched := none }

/-- The next word is no instruction: a walker fault with its REASON (R331, R333). -/
def walkFault (cmd reason : Nat) (s : State) : Outcome :=
  match s.cmd? cmd with
  | none => .next s
  | some c =>
    match c.body, s.gang? c.gang with
    | .walk t desc (some st), some g =>
      if walkRuns s c st g then .next (endWalk s c t desc { st with steps := st.steps + 1 } reason st.next) else .next s
    | _, _ => .next s

/-- WALKER_STEP_LIMIT: a 16,777,217th instruction would execute. -/
def execWalkerStepLimit (cmd : Nat) (s : State) : Outcome :=
  match s.cmd? cmd with
  | none => .next s
  | some c =>
    match c.body, s.gang? c.gang with
    | .walk t desc (some st), some g =>
      if c.phase == .running && st.ended.isNone && g.stop.isNone && !g.dying && 2 ^ 24 ≤ st.steps then
        .next (endWalk s c t desc st 7 st.next)
      else .next s
    | _, _ => .next s

/-- WALK_STOP (R337): the gang is to be saved; the walk stops before its next instruction, and starts again after the
restore. -/
def execWalkStop (cmd : Nat) (s : State) : Outcome :=
  match s.cmd? cmd with
  | none => .next s
  | some c =>
    match c.body, s.gang? c.gang with
    | .walk t desc (some st), some g =>
      if c.phase == .running && st.ended.isNone && g.stop.isSome && !g.dying then
        .next (s.updCmd cmd fun d => { d with body := .walk t desc none, phase := .saved, got := [] })
      else .next s
    | _, _ => .next s

end Sys2Proof.Machine
end

