-- ==== Sys2Proof/Machine/Dispatch.lean ====
section
/-! DEFINITION. What every instruction and event does: one arm per constructor, each a call of its meaning. -/

namespace Sys2Proof.Machine

def exec (i : Instr) (s : State) : Host.Outcome State Fault Refusal :=
  match i with
  | .nop m => Sys2Proof.Machine.execNop m s
  | .bra m off => Sys2Proof.Machine.execBra m off s
  | .brc m off inv k => Sys2Proof.Machine.execBrc m off inv k s
  | .bhe m off h => Sys2Proof.Machine.execBhe m off h s
  | .bhn m off h => Sys2Proof.Machine.execBhn m off h s
  | .loop m off n => Sys2Proof.Machine.execLoop m off n s
  | .call m off => Sys2Proof.Machine.execCall m off s
  | .calls m a => Sys2Proof.Machine.execCalls m a s
  | .ret m => Sys2Proof.Machine.execRet m s
  | .apply m off h va nc vb nw => Sys2Proof.Machine.execApply m off h va nc vb nw s
  | .done m => Sys2Proof.Machine.execDone m s
  | .yield m => Sys2Proof.Machine.execYield m s
  | .exit m => Sys2Proof.Machine.execExit m s
  | .horBase m d a b => Sys2Proof.Machine.execHorBase m d a b s
  | .handBase m d a b => Sys2Proof.Machine.execHandBase m d a b s
  | .handnBase m d a b => Sys2Proof.Machine.execHandnBase m d a b s
  | .hxorBase m d a b => Sys2Proof.Machine.execHxorBase m d a b s
  | .hnotBase m d a => Sys2Proof.Machine.execHnotBase m d a s
  | .hmovBase m d a => Sys2Proof.Machine.execHmovBase m d a s
  | .hcntBase m d a => Sys2Proof.Machine.execHcntBase m d a s
  | .hfirstBase m d a => Sys2Proof.Machine.execHfirstBase m d a s
  | .hmembBase m d a b lit => Sys2Proof.Machine.execHmembBase m d a b lit s
  | .hposBase m d a b lit => Sys2Proof.Machine.execHposBase m d a b lit s
  | .iaddBase m d a b lit => Sys2Proof.Machine.execIaddBase m d a b lit s
  | .isubBase m d a b lit => Sys2Proof.Machine.execIsubBase m d a b lit s
  | .andBase m d a b lit => Sys2Proof.Machine.execAndBase m d a b lit s
  | .orBase m d a b lit => Sys2Proof.Machine.execOrBase m d a b lit s
  | .xorBase m d a b lit => Sys2Proof.Machine.execXorBase m d a b lit s
  | .shlBase m d a n lit => Sys2Proof.Machine.execShlBase m d a n lit s
  | .shrBase m d a n lit => Sys2Proof.Machine.execShrBase m d a n lit s
  | .movBase m d a => Sys2Proof.Machine.execMovBase m d a s
  | .saddBase m d a b lit => Sys2Proof.Machine.execSaddBase m d a b lit s
  | .smovBase m d a => Sys2Proof.Machine.execSmovBase m d a s
  | .faddBase m d a b lit => Sys2Proof.Machine.execFaddBase m d a b lit s
  | .fmulBase m d a b lit => Sys2Proof.Machine.execFmulBase m d a b lit s
  | .htest c m x => Sys2Proof.Machine.execHtest c m x s
  | .htesti c m x => Sys2Proof.Machine.execHtesti c m x s
  | .hbit m x => Sys2Proof.Machine.execHbit m x s
  | .horExt x => Sys2Proof.Machine.execHorExt x s
  | .handExt x => Sys2Proof.Machine.execHandExt x s
  | .handnExt x => Sys2Proof.Machine.execHandnExt x s
  | .hxorExt x => Sys2Proof.Machine.execHxorExt x s
  | .hnotExt x => Sys2Proof.Machine.execHnotExt x s
  | .hmovExt x => Sys2Proof.Machine.execHmovExt x s
  | .hcntExt x => Sys2Proof.Machine.execHcntExt x s
  | .hfirstExt x => Sys2Proof.Machine.execHfirstExt x s
  | .hmembExt x => Sys2Proof.Machine.execHmembExt x s
  | .hposExt x => Sys2Proof.Machine.execHposExt x s
  | .hpick x => Sys2Proof.Machine.execHpick x s
  | .hrange x => Sys2Proof.Machine.execHrange x s
  | .hfence x => Sys2Proof.Machine.execHfence x s
  | .iaddExt x => Sys2Proof.Machine.execIaddExt x s
  | .isubExt x => Sys2Proof.Machine.execIsubExt x s
  | .imul x => Sys2Proof.Machine.execImul x s
  | .imulh x => Sys2Proof.Machine.execImulh x s
  | .imad x => Sys2Proof.Machine.execImad x s
  | .imin x => Sys2Proof.Machine.execImin x s
  | .imax x => Sys2Proof.Machine.execImax x s
  | .iabs x => Sys2Proof.Machine.execIabs x s
  | .iset c x => Sys2Proof.Machine.execIset c x s
  | .sel x => Sys2Proof.Machine.execSel x s
  | .andExt x => Sys2Proof.Machine.execAndExt x s
  | .orExt x => Sys2Proof.Machine.execOrExt x s
  | .xorExt x => Sys2Proof.Machine.execXorExt x s
  | .lut3 x => Sys2Proof.Machine.execLut3 x s
  | .shlExt x => Sys2Proof.Machine.execShlExt x s
  | .shrExt x => Sys2Proof.Machine.execShrExt x s
  | .sar x => Sys2Proof.Machine.execSar x s
  | .fshl x => Sys2Proof.Machine.execFshl x s
  | .fshr x => Sys2Proof.Machine.execFshr x s
  | .popc x => Sys2Proof.Machine.execPopc x s
  | .clz x => Sys2Proof.Machine.execClz x s
  | .brev x => Sys2Proof.Machine.execBrev x s
  | .bfe x => Sys2Proof.Machine.execBfe x s
  | .bfi x => Sys2Proof.Machine.execBfi x s
  | .movExt x => Sys2Proof.Machine.execMovExt x s
  | .movi x => Sys2Proof.Machine.execMovi x s
  | .saddExt x => Sys2Proof.Machine.execSaddExt x s
  | .ssub x => Sys2Proof.Machine.execSsub x s
  | .smul x => Sys2Proof.Machine.execSmul x s
  | .sand x => Sys2Proof.Machine.execSand x s
  | .sor x => Sys2Proof.Machine.execSor x s
  | .sxor x => Sys2Proof.Machine.execSxor x s
  | .sshl x => Sys2Proof.Machine.execSshl x s
  | .sshr x => Sys2Proof.Machine.execSshr x s
  | .smin x => Sys2Proof.Machine.execSmin x s
  | .smax x => Sys2Proof.Machine.execSmax x s
  | .smovExt x => Sys2Proof.Machine.execSmovExt x s
  | .smovi x => Sys2Proof.Machine.execSmovi x s
  | .scmp c x => Sys2Proof.Machine.execScmp c x s
  | .kop o x => Sys2Proof.Machine.execKop o x s
  | .shfl o x => Sys2Proof.Machine.execShfl o x s
  | .lred o x => Sys2Proof.Machine.execLred o x s
  | .lscan excl o x => Sys2Proof.Machine.execLscan excl o x s
  | .vbcast x => Sys2Proof.Machine.execVbcast x s
  | .vlane x => Sys2Proof.Machine.execVlane x s
  | .topki k x => Sys2Proof.Machine.execTopki k x s
  | .faddExt x => Sys2Proof.Machine.execFaddExt x s
  | .fsub x => Sys2Proof.Machine.execFsub x s
  | .fmulExt x => Sys2Proof.Machine.execFmulExt x s
  | .ffma x => Sys2Proof.Machine.execFfma x s
  | .fmin x => Sys2Proof.Machine.execFmin x s
  | .fmax x => Sys2Proof.Machine.execFmax x s
  | .fset c x => Sys2Proof.Machine.execFset c x s
  | .fclass x => Sys2Proof.Machine.execFclass x s
  | .frnd x => Sys2Proof.Machine.execFrnd x s
  | .fdiv x => Sys2Proof.Machine.execFdiv x s
  | .fsqrt x => Sys2Proof.Machine.execFsqrt x s
  | .frcp x => Sys2Proof.Machine.execFrcp x s
  | .frsq x => Sys2Proof.Machine.execFrsq x s
  | .fexp2 x => Sys2Proof.Machine.execFexp2 x s
  | .flog2 x => Sys2Proof.Machine.execFlog2 x s
  | .fsin x => Sys2Proof.Machine.execFsin x s
  | .fcos x => Sys2Proof.Machine.execFcos x s
  | .ftanh x => Sys2Proof.Machine.execFtanh x s
  | .cvt src x => Sys2Proof.Machine.execCvt src x s
  | .bfpq x => Sys2Proof.Machine.execBfpq x s
  | .bfpx x => Sys2Proof.Machine.execBfpx x s
  | .fmtw x => Sys2Proof.Machine.execFmtw x s
  | .ld x => Sys2Proof.Machine.execLd x s
  | .st x => Sys2Proof.Machine.execSt x s
  | .lds x => Sys2Proof.Machine.execLds x s
  | .sts x => Sys2Proof.Machine.execSts x s
  | .atom o x => Sys2Proof.Machine.execAtom o x s
  | .sred o x => Sys2Proof.Machine.execSred o x s
  | .pref x => Sys2Proof.Machine.execPref x s
  | .ldo x => Sys2Proof.Machine.execLdo x s
  | .sto x => Sys2Proof.Machine.execSto x s
  | .ldc x => Sys2Proof.Machine.execLdc x s
  | .stp x => Sys2Proof.Machine.execStp x s
  | .smap x => Sys2Proof.Machine.execSmap x s
  | .sflush x => Sys2Proof.Machine.execSflush x s
  | .sinv x => Sys2Proof.Machine.execSinv x s
  | .bld x => Sys2Proof.Machine.execBld x s
  | .bset x => Sys2Proof.Machine.execBset x s
  | .hld x => Sys2Proof.Machine.execHld x s
  | .hst x => Sys2Proof.Machine.execHst x s
  | .fence order scope x => Sys2Proof.Machine.execFence order scope x s
  | .waitc x => Sys2Proof.Machine.execWaitc x s
  | .sbinit x => Sys2Proof.Machine.execSbinit x s
  | .sbexp x => Sys2Proof.Machine.execSbexp x s
  | .sbarv x => Sys2Proof.Machine.execSbarv x s
  | .sbwait x => Sys2Proof.Machine.execSbwait x s
  | .barHand x => Sys2Proof.Machine.execBarHand x s
  | .barGang x => Sys2Proof.Machine.execBarGang x s
  | .tdef x => Sys2Proof.Machine.execTdef x s
  | .trel x => Sys2Proof.Machine.execTrel x s
  | .tstat x => Sys2Proof.Machine.execTstat x s
  | .mma x => Sys2Proof.Machine.execMma x s
  | .mzero x => Sys2Proof.Machine.execMzero x s
  | .mload x => Sys2Proof.Machine.execMload x s
  | .mdrain x => Sys2Proof.Machine.execMdrain x s
  | .cpy x => Sys2Proof.Machine.execCpy x s
  | .cpo x => Sys2Proof.Machine.execCpo x s
  | .gath x => Sys2Proof.Machine.execGath x s
  | .qpost x => Sys2Proof.Machine.execQpost x s
  | .qpop x => Sys2Proof.Machine.execQpop x s
  | .launch x => Sys2Proof.Machine.execLaunch x s
  | .cmpl x => Sys2Proof.Machine.execCmpl x s
  | .rtsend x => Sys2Proof.Machine.execRtsend x s
  | .rtflush x => Sys2Proof.Machine.execRtflush x s
  | .rtrecv x => Sys2Proof.Machine.execRtrecv x s
  | .rtrel x => Sys2Proof.Machine.execRtrel x s
  | .spill x => Sys2Proof.Machine.execSpill x s
  | .fill x => Sys2Proof.Machine.execFill x s
  | .tokw x => Sys2Proof.Machine.execTokw x s
  | .vdec x => Sys2Proof.Machine.execVdec x s
  | .vdstat x => Sys2Proof.Machine.execVdstat x s
  | .auct x => Sys2Proof.Machine.execAuct x s
  | .aust x => Sys2Proof.Machine.execAust x s
  | .fork x => Sys2Proof.Machine.execFork x s
  | .grwd x => Sys2Proof.Machine.execGrwd x s
  | .gbar x => Sys2Proof.Machine.execGbar x s
  | .gcancel x => Sys2Proof.Machine.execGcancel x s
  | .gstat x => Sys2Proof.Machine.execGstat x s
  | .walk x => Sys2Proof.Machine.execWalk x s
  | .mfs x => Sys2Proof.Machine.execMfs x s
  | .mts x => Sys2Proof.Machine.execMts x s
  | .trap x => Sys2Proof.Machine.execTrap x s
  | .bkpt x => Sys2Proof.Machine.execBkpt x s
  | .dmbx x => Sys2Proof.Machine.execDmbx x s
  | .eret x => Sys2Proof.Machine.execEret x s
  | .fpop x => Sys2Proof.Machine.execFpop x s
  | .fres x => Sys2Proof.Machine.execFres x s
  | .tlbi x => Sys2Proof.Machine.execTlbi x s
  | .biasf x => Sys2Proof.Machine.execBiasf x s
  | .ctxs x => Sys2Proof.Machine.execCtxs x s
  | .ctxl x => Sys2Proof.Machine.execCtxl x s
  | .wend => Sys2Proof.Machine.execWend s
  | .wldi yd imm => Sys2Proof.Machine.execWldi yd imm s
  | .wadd yd ya yb imm => Sys2Proof.Machine.execWadd yd ya yb imm s
  | .wsub yd ya yb => Sys2Proof.Machine.execWsub yd ya yb s
  | .wand yd ya yb => Sys2Proof.Machine.execWand yd ya yb s
  | .wshr yd ya n => Sys2Proof.Machine.execWshr yd ya n s
  | .wcmp ya yb => Sys2Proof.Machine.execWcmp ya yb s
  | .wbr t => Sys2Proof.Machine.execWbr t s
  | .wbz ya t => Sys2Proof.Machine.execWbz ya t s
  | .wblt t => Sys2Proof.Machine.execWblt t s
  | .wld yd ya src => Sys2Proof.Machine.execWld yd ya src s
  | .wbmn yd ya yb src => Sys2Proof.Machine.execWbmn yd ya yb src s
  | .wrun yd yb ya src => Sys2Proof.Machine.execWrun yd yb ya src s
  | .wemit ya yb => Sys2Proof.Machine.execWemit ya yb s
  | .wrow ya => Sys2Proof.Machine.execWrow ya s
  | .wpush ya => Sys2Proof.Machine.execWpush ya s
  | .wpop yd => Sys2Proof.Machine.execWpop yd s
  | .wsync => Sys2Proof.Machine.execWsync s
  | .packFormation gang apply => Sys2Proof.Machine.execPackFormation gang apply s
  | .applyJoin gang apply => Sys2Proof.Machine.execApplyJoin gang apply s
  | .handWriteCommit die core => Sys2Proof.Machine.execHandWriteCommit die core s
  | .stageBarrierCredit cmd => Sys2Proof.Machine.execStageBarrierCredit cmd s
  | .matrixCommandPerform cmd => Sys2Proof.Machine.execMatrixCommandPerform cmd s
  | .copyCommandStart cmd => Sys2Proof.Machine.execCopyCommandStart cmd s
  | .enginePortionComplete cmd => Sys2Proof.Machine.execEnginePortionComplete cmd s
  | .commandRetire cmd => Sys2Proof.Machine.execCommandRetire cmd s
  | .completionPostHeld n => Sys2Proof.Machine.execCompletionPostHeld n s
  | .sendListAppend cmd => Sys2Proof.Machine.execSendListAppend cmd s
  | .frameFormation asid route => Sys2Proof.Machine.execFrameFormation asid route s
  | .tokenIdle cmd => Sys2Proof.Machine.execTokenIdle cmd s
  | .decodeStart cmd => Sys2Proof.Machine.execDecodeStart cmd s
  | .decodeFrame cmd => Sys2Proof.Machine.execDecodeFrame cmd s
  | .auctionStart cmd => Sys2Proof.Machine.execAuctionStart cmd s
  | .auctionRound cmd => Sys2Proof.Machine.execAuctionRound cmd s
  | .auctionSave cmd => Sys2Proof.Machine.execAuctionSave cmd s
  | .auctionRestore cmd => Sys2Proof.Machine.execAuctionRestore cmd s
  | .groupRewardPerform n => Sys2Proof.Machine.execGroupRewardPerform n s
  | .groupCancelPerform n => Sys2Proof.Machine.execGroupCancelPerform n s
  | .cancelRedirect gang agent => Sys2Proof.Machine.execCancelRedirect gang agent s
  | .groupDeadline grp => Sys2Proof.Machine.execGroupDeadline grp s
  | .groupAgeWrite grp => Sys2Proof.Machine.execGroupAgeWrite grp s
  | .groupAgePause grp => Sys2Proof.Machine.execGroupAgePause grp s
  | .walkStart cmd => Sys2Proof.Machine.execWalkStart cmd s
  | .walkerStepLimit cmd => Sys2Proof.Machine.execWalkerStepLimit cmd s
  | .walkStop cmd => Sys2Proof.Machine.execWalkStop cmd s
  | .loadDataReturn gang agent n => Sys2Proof.Machine.execLoadDataReturn gang agent n s
  | .pageTableWalk gang va => Sys2Proof.Machine.execPageTableWalk gang va s
  | .missRetry gang agent n => Sys2Proof.Machine.execMissRetry gang agent n s
  | .writePerformAtHome die n => Sys2Proof.Machine.execWritePerformAtHome die n s
  | .memorySideAtomic n => Sys2Proof.Machine.execMemorySideAtomic n s
  | .stashRemoteRequest gang line write => Sys2Proof.Machine.execStashRemoteRequest gang line write s
  | .directoryEvict line => Sys2Proof.Machine.execDirectoryEvict line s
  | .dupCollapse die n => Sys2Proof.Machine.execDupCollapse die n s
  | .dupCollapseAck page die => Sys2Proof.Machine.execDupCollapseAck page die s
  | .biasFlipComplete frame => Sys2Proof.Machine.execBiasFlipComplete frame s
  | .hostCxlMemAccess addr len bytes => Sys2Proof.Machine.execHostCxlMemAccess addr len bytes s
  | .eccUncorrectable loc => Sys2Proof.Machine.execEccUncorrectable loc s
  | .eccCorrected code => Sys2Proof.Machine.execEccCorrected code s
  | .frameRelease desc => Sys2Proof.Machine.execFrameRelease desc s
  | .launchUnitVisit => Sys2Proof.Machine.execLaunchUnitVisit s
  | .gangHandout grid => Sys2Proof.Machine.execGangHandout grid s
  | .stealMessage grid die => Sys2Proof.Machine.execStealMessage grid die s
  | .gangPlace die => Sys2Proof.Machine.execGangPlace die s
  | .engineCommandAccept die core => Sys2Proof.Machine.execEngineCommandAccept die core s
  | .longWaitThreshold gang => Sys2Proof.Machine.execLongWaitThreshold gang s
  | .gangSave gang => Sys2Proof.Machine.execGangSave gang s
  | .watchedCondition gang => Sys2Proof.Machine.execWatchedCondition gang s
  | .rendezvousTimeout gang n => Sys2Proof.Machine.execRendezvousTimeout gang n s
  | .gangComplete gang => Sys2Proof.Machine.execGangComplete gang s
  | .gangKill gang => Sys2Proof.Machine.execGangKill gang s
  | .preemptRequest w => Sys2Proof.Machine.execPreemptRequest w s
  | .preemptTimeout gang => Sys2Proof.Machine.execPreemptTimeout gang s
  | .resumeRequest w => Sys2Proof.Machine.execResumeRequest w s
  | .dataFrame port frame => Sys2Proof.Machine.execDataFrame port frame s
  | .ackFrame port frame => Sys2Proof.Machine.execAckFrame port frame s
  | .returnFrame port frame => Sys2Proof.Machine.execReturnFrame port frame s
  | .resendTimeout port peer => Sys2Proof.Machine.execResendTimeout port peer s
  | .ethernetPacketReceive port packet => Sys2Proof.Machine.execEthernetPacketReceive port packet s
  | .recoveryGo w => Sys2Proof.Machine.execRecoveryGo w s
  | .launchQueueControl q w => Sys2Proof.Machine.execLaunchQueueControl q w s
  | .launchDoorbell q w => Sys2Proof.Machine.execLaunchDoorbell q w s
  | .hostQueuePost w => Sys2Proof.Machine.execHostQueuePost w s
  | .routeSync w => Sys2Proof.Machine.execRouteSync w s
  | .contextSync w => Sys2Proof.Machine.execContextSync w s
  | .tableBaseWrite off w => Sys2Proof.Machine.execTableBaseWrite off w s
  | .registerWrite off w => Sys2Proof.Machine.execRegisterWrite off w s
  | .powerOn => Sys2Proof.Machine.execPowerOn s
  | .moduleReset => Sys2Proof.Machine.execModuleReset s
  | .firmwareUpdate addr len => Sys2Proof.Machine.execFirmwareUpdate addr len s
  | .spdmRequest req => Sys2Proof.Machine.execSpdmRequest req s
  | .fencedCoreMapUpdate map => Sys2Proof.Machine.execFencedCoreMapUpdate map s
  | .izsilConfigSet cfg => Sys2Proof.Machine.execIzsilConfigSet cfg s
  | .powerLimit => Sys2Proof.Machine.execPowerLimit s
  | .thermalThrottle die => Sys2Proof.Machine.execThermalThrottle die s
  | .thermalStop code => Sys2Proof.Machine.execThermalStop code s
  | .powerLoss midWrite => Sys2Proof.Machine.execPowerLoss midWrite s
  | .hostWriteToHostMemory addr bytes => Sys2Proof.Machine.execHostWriteToHostMemory addr bytes s

end Sys2Proof.Machine
end

