-- ==== Sys2Proof/Machine/Moves.lean ====
section
/-! DEFINITION. What can happen next: the enabled moves of agents, engines, memory, distributors, links and the outside,
and which of them a step makes. The spec leaves their order open but for the moves that are due (log entry 1). -/

namespace Sys2Proof.Machine

/-- A move: an agent issues its next instruction, a walk executes its next word, or an event happens. -/
inductive Turn where
  | agent (gang agent : Nat)
  | word (cmd : Nat)
  | event (f : State → Outcome)

/-- Events for the elements of a list that pass a test. -/
def eventsOf {α : Type} (xs : List α) (p : α → Bool) (f : α → State → Outcome) : List Turn :=
  (xs.filter p).map fun x => .event (f x)

/-- A new step begins: a free-value number is used, and every clock advances by a free amount. -/
def tickOn (s : State) : State :=
  let t := s.tick
  { s with
    tick := t + 1
    cur := .none
    dies := (enumFrom 0 s.dies).map fun p => { p.2 with clk := p.2.clk + Config.clockAdvance t p.1 }
    ioClk := (enumFrom 8 s.ioClk).map fun p => p.2 + Config.clockAdvance t p.1
    izsil := { s.izsil with ms := s.izsil.ms + Config.clockAdvance t 10 } }

/-! ### Inputs -/

/-- An 8-byte write to BAR0 (R378). -/
def barWrite (off : Nat) (w : DWord) : State → Outcome :=
  if off = 0x0008 then execRecoveryGo w
  else if 0x1000 ≤ off && off < 0x1400 && off % 0x40 = 8 then execLaunchQueueControl ((off - 0x1000) / 0x40) w
  else if 0x1000 ≤ off && off < 0x1400 && off % 0x40 = 0x10 then execLaunchDoorbell ((off - 0x1000) / 0x40) w
  else if off = 0x2000 then (if w.getLsbD 63 then execPreemptRequest w else execResumeRequest w)
  else if off = 0x2018 then execHostQueuePost w
  else if off = 0x2020 then execRouteSync w
  else if off = 0x2028 || off = 0x2030 || off = 0x2038 then execTableBaseWrite off w
  else if off = 0x2040 then execContextSync w
  else execRegisterWrite off w

/-- What an outside event does (R377, R378, R297). -/
def inputRun (i : Input) : State → Outcome :=
  match i with
  | .write off w => barWrite off w
  | .bar0 off n none => fun s => .next (barRead s off n)
  | .bar0 off _ (some bs) => if bs.length = 8 && off % 8 = 0 then barWrite off (BitVec.ofNat 64 (ofBytes bs)) else .next
  | .cxlMem a n bs => execHostCxlMemAccess a n bs
  | .hostMem a n bs => fun s => match hdmAddr s a n with
    | none => .next s
    | some d => execHostCxlMemAccess d n bs s
  | .cfgSpace off n bs => fun s => .next (cfgAccess s off n bs)
  | .msix n a d k => fun s => .next { s with host := { s.host with msix := s.host.msix.modify n fun v => { v with addr := a, data := d, masked := k } } }
  | .hdm t d => fun s => .next { s with host := { s.host with hdm := s.host.hdm.set t d } }
  | .hostStore a bs => execHostWriteToHostMemory a bs
  | .packet port p => execEthernetPacketReceive port p
  | .frame port bs =>
    if bs.getD 1 0#8 == 0#8 then execDataFrame port bs
    else if bs.getD 1 0#8 == 2#8 then execReturnFrame port bs
    else execAckFrame port bs
  | .eccUncorrectable loc => execEccUncorrectable loc
  | .eccCorrected c => execEccCorrected c
  | .moduleReset => execModuleReset
  | .firmwareUpdate a n => execFirmwareUpdate a n
  | .spdm req => execSpdmRequest req
  | .fencedMap m => execFencedCoreMapUpdate m
  | .config c => execIzsilConfigSet c
  | .powerLimit => execPowerLimit
  | .throttle d => execThermalThrottle d
  | .thermalStop c => execThermalStop c
  | .powerLoss mid => execPowerLoss mid

/-- The path an event comes by: events of one path come in their order; frames of different senders have paths of their own. -/
def Input.path : Input → Nat
  | .packet port p => 3 + frameKey port (ofBytes ((p.payload.drop 12).take 2))
  | .frame port bs => 3 + frameKey port (ofBytes ((bs.drop 12).take 2))
  | .eccUncorrectable _ => 1
  | .eccCorrected _ => 1
  | .write .. => 0
  | .bar0 .. => 0
  | .cxlMem .. => 0
  | .hostMem .. => 0
  | .cfgSpace .. => 0
  | .msix .. => 0
  | .hdm .. => 0
  | .hostStore .. => 0
  | _ => 2

/-- Whether a phase of the module leaves an event its effect: the part is up, or the event reaches the controller, the
host's memory, or comes over the host link; in recovery, where the module exposes BAR0 alone, the controller hears nothing
else (R378, R387, R389). -/
def Input.heard (ph : Phase) : Input → Bool
  | .moduleReset => true
  | .powerLoss _ => true
  | .hostStore .. => true
  | .config _ => ph != .recovery
  | .fencedMap _ => ph != .recovery
  | .spdm _ => ph != .recovery
  | .write .. => ph != .stopped
  | .bar0 .. => ph != .stopped
  | .cxlMem .. => ph != .stopped
  | .hostMem .. => ph != .stopped
  | .cfgSpace .. => ph != .stopped
  | .msix .. => ph != .stopped
  | .hdm .. => ph != .stopped
  | _ => ph == .ready

/-- The first event of every path. -/
def firstInputs : List Input → List Nat → List Input
  | [], _ => []
  | i :: r, seen => if seen.contains i.path then firstInputs r seen else i :: firstInputs r (i.path :: seen)

/-- An outside event arrives. -/
def takeInput (i : Input) (s : State) : Outcome :=
  let s := { s with inputs := s.inputs.erase i }
  if i.heard s.phase then inputRun i s else .next s

def inputMoves (s : State) : List Turn := eventsOf (firstInputs s.inputs []) (fun _ => true) takeInput

/-! ### Moves that are due -/

/-- A clock has reached the moment by which something must have happened (R90, R160, R208, R297, R324, R325, R352). -/
def dueMoves (s : State) : List Turn :=
  eventsOf (s.handQ.map fun w => (w.die, w.core, w.issued)) (fun w => decide (w.2.2 + 8 ≤ (s.die w.1).clk))
      (fun w => execHandWriteCommit w.1 w.2.1) ++
    eventsOf s.gangs (fun g => g.stop.isNone && !g.dying && g.agents.any (waitOver (s.die g.die).clk))
      (fun g => execLongWaitThreshold g.uid) ++
    s.gangs.flatMap (fun g => eventsOf g.rdvs (fun r => r.kind == .apply && !g.dying && decide (r.due ≤ (s.die g.die).clk))
      (fun r => execRendezvousTimeout g.uid r.n)) ++
    eventsOf s.gangs (fun g => !g.dying && stopLate s g) (fun g => execPreemptTimeout g.uid) ++
    eventsOf s.links (fun l => !l.unacked.isEmpty && !l.down && decide (l.advanced + 16384 ≤ portClk s l.port))
      (fun l => execResendTimeout l.port l.peer) ++
    eventsOf s.groups (fun g => g.deadline != 0 && decide (g.deadline ≤ g.now s) && grpStatus s g.pa == 1 && !frozen s g.pa)
      (fun g => execGroupDeadline g.pa) ++
    eventsOf s.groups (fun g => g.deadline != 0 && !g.paused && decide (g.wrote + 65536 ≤ (s.die g.home).clk) && !frozen s g.pa)
      (fun g => execGroupAgeWrite g.pa) ++
    eventsOf s.groups (fun g => !frozen s g.pa && g.paused == residentCtx s g.asid && (g.since.map fun t => decide (t + 256 ≤ (s.die g.home).clk)).getD false)
      (fun g => execGroupAgePause g.pa)

/-! ### An agent's turn -/

/-- The safe-point marker of an instruction. -/
def safePoint (i : Instr) : Bool :=
  match (i.encode).head? with
  | some w => w.getLsbD 3
  | none => false

/-- R323: a notified warp stands ready at a safe point at depth 0; one at a long wait, when that wait has ended. -/
def redirects (s : State) (e : Env) (i : Instr) : Bool :=
  e.a.notice && e.a.depth == 0 && !e.a.isPack && e.a.prog == 0 && e.g.stop.isNone && safePoint i && (!isWaiting e.a || condTrue s e)

/-- What an acquiring `ATOM`, a take, a group read and others have of an acquire comes before the agent's next access (R83,
R84); none while it has to wait. -/
def acquireFirst (s : State) (e : Env) : Option State := match e.a.acq with
  | none => some s
  | some scope => (fence s e 0 scope).map fun s => e.set s fun a => { a with acq := none }

/-- An agent's turn: a trap that waits for its results (R350), or the fetch, and the instruction, whose meaning is exec's. -/
def agentTurn (exec : Instr → State → Outcome) (gang agent : Nat) (s : State) : Outcome :=
  let s := { s with cur := .agent gang agent }
  match s.env? with
  | none => .next s
  | some e =>
    match e.a.pend with
    | some (t, debug) => .next (if debug then takeDebug s e t else takeTrap s e t)
    | none =>
      match acquireFirst s e with
      | none => .next (e.hold s)
      | some s =>
        let e := e.now s
        match fetch s e with
        | (s, .instr i) => if redirects s e i then execCancelRedirect gang agent s else exec i s
        | (s, f) => .next (fetchFailed s e f)

/-! ### Who issues (R154-R156) -/

/-- Whether an agent may issue: a long wait is retried, but in a gang that is to be saved (R160), and nothing comes before
the acceptance of an engine command that the agent has offered (R156), or before the cycle after a `YIELD`'s next one (R204). -/
def mayIssue (s : State) (g : Gang) (a : Agent) : Bool :=
  !g.dying && !a.stopped && decide (a.idle ≤ (s.die g.die).clk) && !(s.cmds.any fun c => c.accepted.isNone && c.gang == g.uid && c.agent == a.id) && match a.st with
    | .runnable => true
    | .waiting _ => g.stop.isNone
    | _ => false

/-- Whether an agent has issued, by what its turn left of it: a turn that stalls leaves it not ready. -/
def hasIssued (gang agent : Nat) (t : State) : Bool := match envOf t gang agent with
  | some e => e.a.ready.isSome
  | none => true

/-- R154: whether an agent's turn would issue its instruction now: nothing that it has to wait for holds it. -/
def wouldIssue (exec : Instr → State → Outcome) (s : State) (g : Gang) (a : Agent) : Bool :=
  match agentTurn exec g.uid a.id (s.updAgent g.uid a.id fun b => { b with ready := some 0 }) with
  | .next t => hasIssued g.uid a.id t
  | _ => true

/-- The agents that are ready, each with the cycle since which it is (R154); an issue does not end that, and a `YIELD` begins
it again (R204). -/
def noteReady (exec : Instr → State → Outcome) (s : State) : State :=
  let note (g : Gang) (a : Agent) : Agent :=
    let now := mayIssue s g a && a.pend.isNone && wouldIssue exec s g a
    { a with ready := if now then some (max (a.ready.getD (s.die g.die).clk) a.idle) else none, stood := if now then a.stood else 0 }
  { s with gangs := s.gangs.map fun g => { g with agents := g.agents.map (note g) } }

/-- The quadrant of a core that an agent's slot lies in. -/
def Gang.quad (g : Gang) (a : Agent) : Nat := g.slotOf a.wg a.place / Config.slotsPerQuadrant

/-- The agents of a quadrant. -/
def quadAgents (s : State) (die core q : Nat) : List (Gang × Agent) :=
  (coreGangs s die core).flatMap fun g => (g.agents.filter fun a => g.quad a == q).map fun a => (g, a)

/-- Whether an agent has issued in this cycle. -/
def Agent.issuedAt (a : Agent) (clk : Nat) : Bool := match a.issued with
  | some p => p.1 == clk
  | none => false

/-- What a quadrant has issued in this cycle: slot and address, so that co-packed warps that issue together count once (R127,
R155). -/
def quadIssued (s : State) (die core q : Nat) : List (Nat × Addr) :=
  ((s.issues.filter fun x => x.die == die && x.core == core && x.quad == q && x.clk == (s.die die).clk).map fun x => (x.slot, x.pc)).eraseDups

/-- The number of issue cycles that an agent has to have stood ready through to be chosen first: 64 earlier ones, where this
cycle is one too once the quadrant has issued in it (R155). -/
def lateAfter (s : State) (die core q : Nat) : Nat := if (quadIssued s die core q).isEmpty then 64 else 65

/-- The order in which a quadrant chooses (R155): those that have stood ready for too long, oldest first; then by PRIO, then
by age. -/
def goesBefore (late : Nat) (x y : Gang × Agent) : Bool :=
  let late (p : Gang × Agent) : Bool := late ≤ p.2.stood
  let age (p : Gang × Agent) : Nat := p.2.ready.getD 0
  if late x then !late y || age x < age y
  else !late y && (y.1.blk.prio < x.1.blk.prio || (x.1.blk.prio == y.1.blk.prio && age x < age y))

/-- R155: whether an agent may take its turn: with no more than a stall to come of it; together with a co-packed warp that has
issued; or where its quadrant has a slot left in this cycle and no ready one goes before it. -/
def mayGo (s : State) (g : Gang) (a : Agent) : Bool :=
  let clk := (s.die g.die).clk
  let q := g.quad a
  let others := (quadAgents s g.die g.core q).filter fun p => !(p.1.uid == g.uid && p.2.id == a.id) && mayIssue s p.1 p.2
  a.ready.isNone || (!a.issuedAt clk &&
    ((quadIssued s g.die g.core q).contains (g.slotOf a.wg a.place, a.pc) || (decide ((quadIssued s g.die g.core q).length < 2) &&
      !others.any fun p => p.2.ready.isSome && !p.2.issuedAt clk && goesBefore (lateAfter s g.die g.core q) p (g, a))))

def agentMoves (s : State) : List Turn :=
  s.gangs.flatMap fun g => (g.agents.filter fun a => mayIssue s g a && mayGo s g a).map fun a => .agent g.uid a.id

/-- Where an agent of a state has issued, its cycle and address are noted, and with the first issue of its quadrant in a
cycle the others that are ready have stood through one more (R155). -/
def noteIssue (s : State) (e : Env) (has : Bool) (t : State) : State :=
  let clk := e.clk s
  let q := e.g.quad e.a
  let first := (quadIssued s e.g.die e.g.core q).isEmpty
  let note (g : Gang) (a : Agent) : Agent :=
    let mine := has && g.uid == e.g.uid && a.id == e.a.id
    let passed := has && first && g.die == e.g.die && g.core == e.g.core && g.quad a == q && a.ready.isSome
    { a with
      stood := if mine then 0 else if passed then a.stood + 1 else a.stood
      issued := if mine then some (clk, e.a.pc) else a.issued }
  let live := t.issues.filter fun x => x.clk == (s.die x.die).clk
  { t with
    gangs := t.gangs.map fun g => { g with agents := g.agents.map (note g) }
    issues := if has then live ++ [⟨e.g.die, e.g.core, q, clk, e.g.slotOf e.a.wg e.a.place, e.a.pc⟩] else live }

/-- An agent's turn as a step makes it. -/
def issueTurn (exec : Instr → State → Outcome) (gang agent : Nat) (s : State) : Outcome :=
  match agentTurn exec gang agent s, envOf s gang agent with
  | .next t, some e => .next (noteIssue s e (hasIssued gang agent t) t)
  | o, _ => o

/-! ### Engines -/

/-- A walk with a word to execute. -/
def Cmd.nextWord (c : Cmd) : Option Word :=
  match c.body with
  | .walk _ _ (some st) => if c.phase == .running && st.ended.isNone then st.prog[st.next]? else none
  | _ => none

/-- A walk's turn: its next word, whose meaning is exec's (R331). -/
def wordTurn (exec : Instr → State → Outcome) (cmd : Nat) (s : State) : Outcome :=
  let s := { s with cur := .walker cmd }
  match (s.cmd? cmd).bind Cmd.nextWord with
  | none => .next s
  | some w =>
    match decodeWalk w with
    | .ok i => exec i s
    | .error reason => walkFault cmd reason s

/-- A walk may execute a word. -/
def walkMoves (s : State) (c : Cmd) (st : WalkSt) : List Turn :=
  match s.gang? c.gang with
  | none => []
  | some g =>
    if walkRuns s c st g then [.word c.id]
    else if c.phase != .running || st.ended.isSome || g.dying then []
    else if g.stop.isSome then [.event (execWalkStop c.id)]
    else if 2 ^ 24 ≤ st.steps then [.event (execWalkerStepLimit c.id)]
    else []

/-- The moves of an engine that works on a command. -/
def bodyMoves (s : State) (c : Cmd) : List Turn :=
  let id := c.id
  match c.phase, c.body with
  | .queued, .copy .. => [.event (execCopyCommandStart id)]
  | .queued, .mzero .. => [.event (execMatrixCommandPerform id)]
  | .queued, .mma .. => [.event (execMatrixCommandPerform id)]
  | .queued, .mload .. => [.event (execMatrixCommandPerform id)]
  | .queued, .mdrain .. => [.event (execMatrixCommandPerform id)]
  | .queued, .auct .. => [.event (execAuctionStart id)]
  | .queued, .walk .. => [.event (execWalkStart id)]
  | .queued, .vdec .. => [.event (execDecodeStart id)]
  | .running, .auct .. => [.event (execAuctionStart id), .event (execAuctionRound id), .event (execAuctionSave id)]
  | .saved, .auct .. => [.event (execAuctionRestore id)]
  | .running, .walk _ _ (some st) => walkMoves s c st
  | .running, .vdec .. => [.event (execDecodeFrame id)]
  | .complete, _ => []
  | _, .sred _ => [.event (execMemorySideAtomic id)]
  | _, .rtsend _ => [.event (execSendListAppend id)]
  | _, .rtflush _ => [.event (execSendListAppend id)]
  | _, .spill .. => [.event (execTokenIdle id)]
  | _, .fill .. => [.event (execTokenIdle id)]
  | _, .fillv .. => [.event (execTokenIdle id)]
  | _, _ => []

/-- A last part of a command's work, once its lines are done: the amax word of a drain, the status of a walk. -/
def Cmd.lastPart (c : Cmd) : Bool :=
  match c.body with
  | .mdrain _ _ _ (some _) => true
  | .walk _ _ (some st) => st.written
  | _ => false

def cmdMoves (s : State) (c : Cmd) : List Turn :=
  if c.accepted.isNone then [.event (execEngineCommandAccept c.die c.core)]
  else
    bodyMoves s c ++ (if c.phase == .running && (!c.portions.isEmpty || c.lastPart) then [.event (execEnginePortionComplete c.id)] else []) ++
      (if c.credits.isEmpty then [] else [.event (execStageBarrierCredit c.id)]) ++
      (if c.phase == .complete then [.event (execCommandRetire c.id)] else [])

def engineMoves (s : State) : List Turn :=
  s.cmds.flatMap (cmdMoves s) ++ eventsOf s.heldPosts (fun _ => true) (fun p => execCompletionPostHeld p.n) ++
    eventsOf ((s.appended.filter fun a => a.flush.isSome).map (fun a => (a.asid, a.route)) ++
      ((s.parked.filter fun p => !p.kitty).map fun p => (p.asid, p.bound)) ++
      ((s.parked.filter fun p => !p.stored).map fun p => (p.asid, p.list)) ++ s.listWork.map fun w => (w.asid, w.route)).eraseDups (fun _ => true) (fun l => execFrameFormation l.1 l.2) ++
    (if s.wire.isEmpty then [] else [.event execPacketTaken]) ++ eventsOf s.grpMsgs (fun m => m.reward.isSome) (fun m => execGroupRewardPerform m.n) ++
    eventsOf s.grpMsgs (fun m => m.reward.isNone) (fun m => execGroupCancelPerform m.n) ++
    eventsOf s.groups (fun g => g.deadline != 0 && !g.paused) (fun g => execGroupAgeWrite g.pa) ++
    eventsOf s.groups (fun g => g.paused == residentCtx s g.asid) (fun g => execGroupAgePause g.pa)

/-! ### Memory -/

/-- The results of an agent that may return, and its rejected requests. -/
def resultMoves (g : Gang) (a : Agent) : List Turn :=
  eventsOf (enumFrom 0 a.outs) (fun o => o.2.rejected == 0 && (o.2.atom.isSome || o.2.reads.any LoadReq.waits || canLand a.outs o.1)) (fun o => execLoadDataReturn g.uid a.id o.1) ++
    eventsOf (enumFrom 0 a.outs) (fun o => o.2.rejected != 0) (fun o => execMissRetry g.uid a.id o.1)

/-- A walk ahead of an agent's fetch. -/
def walkAhead (s : State) (g : Gang) (a : Agent) : Bool :=
  let who : Who := ⟨g.die, g.core, g.uid, 0, g.asid, g.raf, g.ident, g.rafOwn, 0, none⟩
  !who.flat a.pc.toNat && a.st == .runnable &&
    !s.tlb.any fun t => t.die == g.die && t.asid == g.asid && t.va / 2 ^ t.bits == a.pc.toNat / 2 ^ t.bits

def memoryMoves (s : State) : List Turn :=
  eventsOf ((s.handQ.filter fun w => decide (w.issued < (s.die w.die).clk)).map fun w => (w.die, w.core)).eraseDups (fun _ => true) (fun w => execHandWriteCommit w.1 w.2) ++
    s.gangs.flatMap (fun g => g.agents.flatMap (resultMoves g)) ++
    s.gangs.flatMap (fun g => eventsOf g.agents (walkAhead s g) (fun a => execPageTableWalk g.uid a.pc)) ++
    s.gangs.flatMap (fun g => g.wlines.flatMap fun w =>
      [.event (execStashRemoteRequest g.uid w.line false), .event (execStashRemoteRequest g.uid w.line true)]) ++
    eventsOf s.outq (fun p => !p.stuck s) (fun p => execWritePerformAtHome p.die p.n) ++
    eventsOf s.atoms (fun p => p.memSide && !p.stuck s) (fun p => execMemorySideAtomic p.n) ++
    eventsOf s.dir (fun _ => true) (fun d => execDirectoryEvict d.line) ++
    eventsOf s.outq (fun p => p.dup.isSome) (fun p => execDupCollapse p.die p.n) ++
    eventsOf s.atoms (fun p => !p.dups.isEmpty) (fun p => execDupCollapse p.die p.n) ++
    s.collapses.flatMap (fun c => eventsOf (List.range 8) (fun d => !c.acked.contains d) (fun d => execDupCollapseAck c.page.base d)) ++
    eventsOf s.flips (fun _ => true) (fun f => execBiasFlipComplete f.frame) ++
    eventsOf s.freeLists (fun _ => true) execFrameRelease

/-! ### Gangs -/

def gangMoves (s : State) : List Turn :=
  s.gangs.flatMap (fun g => eventsOf g.applies (fun a => !a.formed) (fun a => execPackFormation g.uid a.n) ++
      eventsOf g.applies (fun a => a.formed) (fun a => execApplyJoin g.uid a.n)) ++
    eventsOf s.gangs (fun g => g.stop.isSome && !g.dying && (wantsFrame g || saveReady s g)) (fun g => execGangSave g.uid) ++
    eventsOf s.gangs (fun g => g.stop.isSome) (fun g => execWatchedCondition g.uid) ++
    eventsOf s.saved (fun v => v.swapped && !v.returning) (fun v => execWatchedCondition v.gang.uid) ++
    eventsOf s.gangs (fun g => !g.dying && gangOver s g) (fun g => execGangComplete g.uid) ++
    eventsOf s.gangs (fun g => g.dying) (fun g => execGangKill g.uid) ++
    eventsOf s.saved (fun v => v.gang.dying) (fun v => execGangKill v.gang.uid)

/-! ### Launching, the host -/

def launchMoves (s : State) : List Turn :=
  (if (launchNext s).isSome then [.event execLaunchUnitVisit] else []) ++
    eventsOf s.grids (fun g => !g.blk.spread && g.pending) (fun g => execGangHandout g.n) ++
    s.grids.flatMap (fun g => if g.blk.spread && g.pending then eventsOf (List.range 8) (fun _ => true) (fun d => execStealMessage g.n d) else []) ++
    eventsOf (List.range 8) (fun d => !(waiting s d).isEmpty) execGangPlace ++
    (if s.bar0.done then [] else [.event (execHostQueuePost 0#64)]) ++
    (if s.bar0.sbusy then [.event (execRouteSync 0#64)] else [])

/-! ### The step -/

/-- The moves one of which comes next. -/
def moves (s : State) : List Turn :=
  match s.phase with
  | .booting => .event execPowerOn :: inputMoves s
  | .ready =>
    match dueMoves s with
    | m :: ms => m :: ms
    | [] => agentMoves s ++ engineMoves s ++ memoryMoves s ++ gangMoves s ++ launchMoves s ++ inputMoves s
  | .recovery => inputMoves s
  | .stopped => inputMoves s

/-- What a move does. -/
def Turn.run (exec : Instr → State → Outcome) : Turn → State → Outcome
  | .agent g a => issueTurn exec g a
  | .word c => wordTurn exec c
  | .event f => f

/-- A step begins: what holds until now is noted, the clocks advance, and what follows from that alone is noted. -/
def beginStep (exec : Instr → State → Outcome) (s : State) : State := noteReady exec (tickOn (noteResidency s))

/-- One step: the clocks advance, and one of the moves that can then be made is made, if there is one. -/
def stepWith (exec : Instr → State → Outcome) (s : State) : Outcome :=
  let t := beginStep exec s
  match moves t with
  | [] => .next t
  | [m] => m.run exec t
  | m :: ms => ((m :: ms).getD (Config.pick s.tick % (ms.length + 1)) m).run exec t

end Sys2Proof.Machine
end

