-- ==== Sys2Proof/Machine/Step.lean ====
section
/-! DEFINITION. The step, and the state in which a given instruction is the next one. -/

namespace Sys2Proof.Machine

/-- One step of the machine. -/
def step (s : State) : Host.Outcome State Fault Refusal := stepWith exec s

/-! ### A given instruction as the next one -/

/-- Where its words stand. -/
def fetchAddr : Nat := 0x10000000

/-- A block with one warp of 64 lanes and every register, operand-store line, accumulator and tile of a core. -/
def fetchBlock : Block :=
  { ngang := 1, nwg := 1, preempt := true, prio := 0, persist := true, spread := false, tlw := 4096, ntile := 64, nacc := 16,
    code := BitVec.ofNat 52 fetchAddr, map := 0#52, argp := 0x20000000#52, argsz := 4096, cmpla := 0#52, traph := 0x10001000#52,
    tlbase := 0x30000000#52, qbind := 0, roles := [⟨0, 0, 64, 256, 8192, 0, 1⟩] }

/-- Its gang, of the system context, whose regions map physical memory one to one (R43). -/
def fetchGang (st : AgentSt) : Gang :=
  { uid := 1, grid := 2, idx := 0, asid := 0, blk := fetchBlock, die := 0, core := 0, slot := 0, slots := [0], osFirst := 0,
    osLines := 8192, accNos := List.range 16, tileNos := List.range 64,
    agents := [{ newWarp fetchBlock 0 0 ⟨0, 0, 64, 256, 8192, 0, 1⟩ 2 0 with st := st }],
    wgs := [newWg ⟨0, 0, 64, 256, 8192, 0, 1⟩], raf := (List.range 16).map sysRaf, ident := true, rafOwn := [], os := [], osq := [],
    full := [], osPoison := [], stash := List.replicate 4 default, wlines := [], tiles := [], filled := [], accs := [], rdvs := [],
    applies := [], dbg := 0#64, wp := List.replicate 4 0#64, self := none, stop := none, dying := false }

/-- A walk whose next word it is. -/
def fetchWalk (w : Word) : Cmd :=
  { id := 3, cls := .fw, gang := 1, asid := 0, die := 0, core := 0, wg := 0, place := 0, agent := 2, pc := 0#52, accepted := some 4,
    bar := none, body := .walk 0 none (some (walkInit [0, 0, 0, 0] [w, 0#32] (List.replicate 32 0#64))), phase := .running,
    portions := [], credits := [], tileDone := false, failed := false, flags := 0#5 }

/-- The part is up, and nothing is under way. -/
def calm (s : State) : State :=
  { s with
    phase := .ready, inputs := [], gangs := [], saved := [], cmds := [], holds := [], handQ := [], flips := [], outq := [], atoms := [],
    dir := [], tags := [], scs := [], issues := [], accepts := [], collapses := [], waiters := [], heldPosts := [], grpMsgs := [], groups := [], links := [], parked := [], sent := [], wire := [], listWork := [], filling := [], appended := [], forming := [], dlq := [], reading := [],
    grids := [], waitGangs := [], freeLists := [], memPoison := [], fresh := max s.fresh 16
    bar0 := { s.bar0 with ready := true, done := true, sbusy := false, lq := List.replicate 16 LaunchQ.reset } }

/-- Whether bits are the word of a walker alone. -/
def walkerOnly (bytes : List Byte) (w : Word) : Bool :=
  match decode bytes, decodeWalk w with
  | .error _, .ok _ => true
  | _, _ => false

/-- The state with an instruction placed where the next step fetches it: at the PC of the one ready warp, or, for a word
of the walker alone, as the next word of the one walk. -/
def State.withFetchWord (s : State) (nbits w : Nat) : State :=
  let bytes := natBytes 20 (w % 2 ^ nbits)
  let word := BitVec.ofNat 32 (w % 2 ^ nbits)
  let s := calm s
  if walkerOnly bytes word then { s with gangs := [fetchGang .ended], cmds := [fetchWalk word] }
  else
    { s with
      gangs := [fetchGang .runnable]
      mem := s.mem.putAll memDefault ((bytesAt fetchAddr 20).zip bytes) }

end Sys2Proof.Machine
end

