-- ==== Sys2Proof/Safety.lean ====
section
/-! DEFINITION. The terms the claims use: when an agent's instruction executes, where an instruction with register results
leaves its agent, the operands as bit vectors, the operand store and memory as a reader finds them, and what every state of
the machine has in common. -/

namespace Sys2Proof

/-- The execution markers of an instruction of an agent (R192, R193). -/
def Instr.marks (i : Instr) : Marks :=
  match i with
  | .nop m => m
  | .bra m .. => m
  | .brc m .. => m
  | .bhe m .. => m
  | .bhn m .. => m
  | .loop m .. => m
  | .call m .. => m
  | .calls m .. => m
  | .ret m => m
  | .apply m .. => m
  | .done m => m
  | .yield m => m
  | .exit m => m
  | .horBase m .. => m
  | .handBase m .. => m
  | .handnBase m .. => m
  | .hxorBase m .. => m
  | .hnotBase m .. => m
  | .hmovBase m .. => m
  | .hcntBase m .. => m
  | .hfirstBase m .. => m
  | .hmembBase m .. => m
  | .hposBase m .. => m
  | .iaddBase m .. => m
  | .isubBase m .. => m
  | .andBase m .. => m
  | .orBase m .. => m
  | .xorBase m .. => m
  | .shlBase m .. => m
  | .shrBase m .. => m
  | .movBase m .. => m
  | .saddBase m .. => m
  | .smovBase m .. => m
  | .faddBase m .. => m
  | .fmulBase m .. => m
  | i => match i.ext? with
    | some x => x.m
    | none => ⟨false, false⟩

/-- The words of an instruction of an agent (R180-R183). -/
def Instr.len (i : Instr) : Nat :=
  match i with
  | .apply .. => 3
  | .hmembBase _ _ _ _ lit => Machine.baseWords lit
  | .hposBase _ _ _ _ lit => Machine.baseWords lit
  | .iaddBase _ _ _ _ lit => Machine.baseWords lit
  | .isubBase _ _ _ _ lit => Machine.baseWords lit
  | .andBase _ _ _ _ lit => Machine.baseWords lit
  | .orBase _ _ _ _ lit => Machine.baseWords lit
  | .xorBase _ _ _ _ lit => Machine.baseWords lit
  | .shlBase _ _ _ _ lit => Machine.baseWords lit
  | .shrBase _ _ _ _ lit => Machine.baseWords lit
  | .saddBase _ _ _ _ lit => Machine.baseWords lit
  | .faddBase _ _ _ _ lit => Machine.baseWords lit
  | .fmulBase _ _ _ _ lit => Machine.baseWords lit
  | i => match i.ext? with
    | some x => x.words
    | none => 1

/-- The instructions without a SW bit that wait as if they carried one (R192). -/
def Instr.waitsAlways (i : Instr) : Bool :=
  match i with
  | .yield .. => true
  | .call .. => true
  | .calls .. => true
  | .ret .. => true
  | .apply .. => true
  | .done .. => true
  | .exit .. => true
  | .eret .. => true
  | .ctxs .. => true
  | .ctxl .. => true
  | _ => false

/-- The vector registers that a base form of the vector group names. -/
def Instr.vecRegs (i : Instr) : Option (List Nat) :=
  let two (d a b : BitVec 7) (lit : Option DWord) : Option (List Nat) :=
    some (d.toNat :: a.toNat :: (if lit.isSome then [] else [b.toNat]))
  match i with
  | .iaddBase _ d a b lit => two d a b lit
  | .isubBase _ d a b lit => two d a b lit
  | .andBase _ d a b lit => two d a b lit
  | .orBase _ d a b lit => two d a b lit
  | .xorBase _ d a b lit => two d a b lit
  | .faddBase _ d a b lit => two d a b lit
  | .fmulBase _ d a b lit => two d a b lit
  | .shlBase _ d a _ _ => some [d.toNat, a.toNat]
  | .shrBase _ d a _ _ => some [d.toNat, a.toNat]
  | .movBase _ d a => some [d.toNat, a.toNat]
  | _ => none

/-- A word of the walker (R331, R332). -/
def Instr.walks (i : Instr) : Bool :=
  match i with
  | .wend => true
  | .wldi .. => true
  | .wadd .. => true
  | .wsub .. => true
  | .wand .. => true
  | .wshr .. => true
  | .wcmp .. => true
  | .wbr .. => true
  | .wbz .. => true
  | .wblt .. => true
  | .wld .. => true
  | .wbmn .. => true
  | .wrun .. => true
  | .wemit .. => true
  | .wrow .. => true
  | .wpush .. => true
  | .wpop .. => true
  | .wsync => true
  | _ => false

/-- An instruction of an agent: a word sequence that is not the walker's. -/
def Instr.core (i : Instr) : Bool := !i.encode.isEmpty && !i.walks

/-- The bytes of words, in order (R5). -/
def bytesOf (ws : List Word) : List Byte := ws.flatMap wordBytes

namespace Machine

/-! ### When an instruction executes (R199) -/

/-- Step 1 of R199: a privileged instruction runs in the system context only. -/
def privOk (i : Instr) (e : Env) : Bool := !i.privileged || e.g.ident

/-- The guards of R187. -/
def guardsOk (i : Instr) (e : Env) : Bool := match i.ext? with
  | some x => e.guards x
  | none => true

/-- Step 3 of R199: the role of the instruction (R129). -/
def rolesOk (i : Instr) (e : Env) : Bool := match i.vecRegs with
  | some _ => roleOk .vec e.wg.role
  | none => roleOk (i.fields.getD {}).role e.wg.role

/-- Step 4 of R199: every register lies within the grant. -/
def boundsOk (i : Instr) (e : Env) : Bool :=
  match i with
  | .apply _ _ _ va nc vb nw => (nc == 0#4 || va.toNat + nc.toNat ≤ e.allot) && (nw == 0#4 || vb.toNat + nw.toNat ≤ e.allot)
  | i => match i.vecRegs with
    | some rs => rs.all fun r => r < e.allot
    | none => match i.ext? with
      | some x => e.regsOk (i.fields.getD {}) x (e.regs (i.fields.getD {}) x)
      | none => true

/-- The switch marker lets an instruction issue (R192): no register result is outstanding. -/
def resultsIn (i : Instr) (e : Env) : Bool := !(i.marks.sw || i.waitsAlways) || !e.a.owed

/-- No stop and no cancel notice holds an instruction at a safe point (R193, R158, R323). -/
def passesSafePoint (i : Instr) (e : Env) : Bool :=
  !(i.marks.sp && e.a.prog == 0) || (e.g.stop.isNone && !(e.a.notice && e.a.depth == 0 && !e.a.isPack))

/-- The counter of an engine command is not full (R113, R154). -/
def counterOk (i : Instr) (s : State) (e : Env) : Bool := match Instr.cmdClass i with
  | some c => !e.full s c
  | none => true

/-- Step 2 of R199: the form, and operands that have to be different registers (R246). -/
def formOk (i : Instr) (e : Env) : Bool := i.wellFormed && match i.ext? with
  | some x => Instr.apart i (e.regs (i.fields.getD {}) x)
  | none => true

/-- The current agent, and an instruction that reaches its checks: debug events are off (R358). -/
structure Issues (i : Instr) (s : State) (e : Env) : Prop where
  env : s.env? = some e
  room : counterOk i s e = true
  results : resultsIn i e = true
  safe : passesSafePoint i e = true
  debug : e.dbgOn = false

/-- The current agent, and an instruction that passes every check of R199 and both guards. -/
structure Executes (i : Instr) (s : State) (e : Env) : Prop extends Issues i s e where
  priv : privOk i e = true
  form : formOk i e = true
  guards : guardsOk i e = true
  role : rolesOk i e = true
  bounds : boundsOk i e = true

/-- The registers an extended form names, after indirection (R185). -/
def Env.opsOf (e : Env) (i : Instr) (x : Ext) : Regs := e.regs (i.fields.getD {}) x

/-! ### Where an instruction leaves its agent -/

/-- The agent goes on at an address. -/
def Env.goOn (e : Env) (s : State) (pc : Addr) : State :=
  e.set s fun a => { a with pc := pc, st := .runnable, skipDbg := false, prog := 0, voted := none, dupWait := false }

/-- The address of the next instruction in the text. -/
def Env.pcAfter (e : Env) (i : Instr) : Addr := e.a.pc + BitVec.ofNat 52 (4 * i.len)

/-- An instruction with register results: the agent owes itself the writes, its flags accumulate, and it goes on. Nothing
else changes. -/
def Env.retire (e : Env) (s : State) (i : Instr) (ws : List RegWrite) (f : BitVec 5 := 0#5) : State :=
  e.set s fun a => { a with outs := a.outs ++ [{ writes := ws }], fflags := a.fflags ||| f, pc := e.pcAfter i, st := .runnable,
                            skipDbg := false, prog := 0, voted := none, dupWait := false }

/-! ### Operands as bit vectors -/

/-- A vector register of a lane. -/
def Env.v32 (e : Env) (reg lane : Nat) : BitVec 32 := if e.takesPart lane then e.a.v.look 0#32 (64 * reg + lane) else 0#32
/-- A pair of vector registers of a lane. -/
def Env.v64 (e : Env) (reg lane : Nat) : BitVec 64 := e.v32 (reg + 1) lane ++ e.v32 reg lane
/-- Operand B of a vector instruction: the literal, or the register (R186). -/
def Env.b32 (e : Env) (x : Ext) (reg lane : Nat) : BitVec 32 := match x.lit with
  | some l => l.setWidth 32
  | none => e.v32 reg lane
def Env.b64 (e : Env) (x : Ext) (reg lane : Nat) : BitVec 64 := match x.lit with
  | some l => l
  | none => e.v64 reg lane
/-- Operand B of a base form of the vector group. -/
def Env.bb32 (e : Env) (b : BitVec 7) (lit : Option DWord) (lane : Nat) : BitVec 32 := match lit with
  | some l => l.setWidth 32
  | none => e.v32 b.toNat lane
/-- Operand B of a scalar instruction. -/
def Env.sb (e : Env) (x : Ext) : DWord := match x.lit with
  | some l => l
  | none => e.a.rs x.b.toNat
/-- A bit vector as the number its type reads (R162). -/
def numOf {n : Nat} (signed : Bool) (v : BitVec n) : Int := if signed then v.toInt else (v.toNat : Int)

/-- Each lane that takes part receives one register, or a pair. -/
def Env.each32 (e : Env) (d : Nat) (f : Nat → BitVec 32) : List RegWrite := e.lanes.map fun l => .v d l (f l)
def Env.each64 (e : Env) (d : Nat) (f : Nat → BitVec 64) : List RegWrite :=
  e.lanes.flatMap fun l => [.v d l ((f l).setWidth 32), .v (d + 1) l ((f l).extractLsb' 32 32)]

/-- R218: an exact integer clamped to the type with `.sat`; writing it wraps it. -/
def Ext.clampTo (x : Ext) (n : Nat) (signed : Bool) (v : Int) : Int :=
  if x.sat then (if signed then max (-2 ^ (n - 1)) (min (2 ^ (n - 1) - 1) v) else max 0 (min (2 ^ n - 1) v)) else v

/-- What a vector integer instruction writes: in each lane that takes part, an exact function of the operands, clamped with
`.sat` and wrapped to the type. -/
def Env.intEach (e : Env) (i : Instr) (x : Ext) (f : Int → Int → Int → Int) : List RegWrite :=
  let r := e.opsOf i x
  let sg := signedTy x.ty
  if w64 x.ty then
    e.each64 r.d fun l => BitVec.ofInt 64 (Ext.clampTo x 64 sg
      (f (numOf sg (e.v64 r.a l)) (numOf sg (e.b64 x r.b l)) (numOf sg (e.v64 r.c l))))
  else
    e.each32 r.d fun l => BitVec.ofInt 32 (Ext.clampTo x 32 sg
      (f (numOf sg (e.v32 r.a l)) (numOf sg (e.b32 x r.b l)) (numOf sg (e.v32 r.c l))))

/-- What a bitwise vector instruction writes, at both widths. -/
def Env.bitEach (e : Env) (i : Instr) (x : Ext) (f : (n : Nat) → BitVec n → BitVec n → BitVec n → BitVec n) : List RegWrite :=
  let r := e.opsOf i x
  if w64 x.ty then e.each64 r.d fun l => f 64 (e.v64 r.a l) (e.b64 x r.b l) (e.v64 r.c l)
  else e.each32 r.d fun l => f 32 (e.v32 r.a l) (e.b32 x r.b l) (e.v32 r.c l)

/-- What a float instruction writes and the flags it sets, given each lane's result (R172, R235). -/
def Env.eachF (e : Env) (s : State) (i : Instr) (wide : Bool) (d : Nat) (f : Nat → Nat × BitVec 5) : State :=
  e.retire s i (e.lanes.flatMap fun l => vWrites wide d l (f l).1) (orFlags (e.lanes.map fun l => (f l).2))

/-- An agent with every result it owes itself that needs nothing more in its registers, in order (R191). -/
def Agent.settled (a : Agent) : Agent := a.outs.foldl (fun b o => o.writes.foldl Agent.land b) a

/-! ### Invariants -/

/-- What every step keeps: memory in its canonical form. -/
def State.Inv (s : State) : Prop := Memory.wf s.mem

/-- An agent's vector, scalar and buffer registers in canonical form. -/
def Agent.canon (a : Agent) : Prop := Table.wf 0#32 a.v = true ∧ Table.wf 0#64 a.s = true ∧ Table.wf 0#256 a.b = true

/-- A gang's operand store, tile table, accumulators and registers in canonical form. -/
def Gang.canon (g : Gang) : Prop := Table.wf 0#8 g.os = true ∧ Table.wf 0#64 g.tiles = true ∧ Table.wf 0#32 g.accs = true ∧
  ∀ a ∈ g.agents, a.canon

/-- What every step keeps: the tables of every gang, resident or saved, in canonical form. -/
def State.Canon (s : State) : Prop := (∀ g ∈ s.gangs, g.canon) ∧ ∀ v ∈ s.saved, v.gang.canon

/-! ### Nothing of memory under way -/

/-- No write, atomic or result is under way that the agent could meet, and it has taken no value ahead: what it reads is what
stands at the homes; what its releases have ordered is done; and every table is in canonical form. -/
structure Quiet (s : State) (e : Env) : Prop where
  writes : s.outq = []
  atomics : s.atoms = []
  flips : s.flips = []
  owed : e.a.outs = []
  ahead : e.a.ahead = []
  os : e.g.osq = []
  orders : (∀ m ∈ e.a.before, m.w < s.fresh) ∧ ∀ m ∈ e.a.after, m.w < s.fresh ∧ accessOpen s e.g.uid m.w = false
  mem : s.Inv
  tables : s.Canon

/-- No stash window holds a line. -/
def NoWindows (s : State) : Prop := (∀ g ∈ s.gangs, g.wlines = []) ∧ ∀ v ∈ s.saved, v.gang.wlines = []

/-- The agent of a state with every result it owes itself landed (R191). -/
def Env.landed (e : Env) (t : State) : Agent := (e.now (e.landAll t)).a

/-- The agent as an instruction without register results leaves it. -/
def Agent.past (a : Agent) (pc : Addr) : Agent := { a with pc := pc, st := .runnable, skipDbg := false, prog := 0, voted := none, dupWait := false }

/-- What memory holds of a lane's pieces, as a number; 0 for kinds NONE and OUT (R27). -/
def laneValue (s : State) (p : Nat × Option (List Piece)) : Nat := match p.2 with
  | some ps => ofBytes ((readBytesOf ps).map (homeByte s))
  | none => 0

/-- The bytes that lanes' data bring to their homes, in lane order (R28). -/
def storedBytes (w : Nat) (data : Nat → Nat) (l : List (Nat × Option (List Piece))) : List (Nat × Byte) :=
  l.flatMap fun p => match p.2 with
    | some ps => (homeBytesOf ps).zip (toBytes w (data p.1))
    | none => []
/-- The byte at an address once bytes are written in order: a later one wins. -/
def lastByte (ws : List (Nat × Byte)) (a : Nat) (old : Byte) : Byte := match ws.reverse.find? fun b => b.1 == a with
  | some b => b.2
  | none => old

/-- A vector register of a lane after a load of w bytes: extended to 32 bits, or word j of 8 bytes. -/
def loadedWord (ty : BitVec 5) (v j : Nat) : BitVec 32 :=
  let w := accWidth ty.toNat
  if w ≤ 4 then (if accSigned ty.toNat then ((BitVec.ofNat (8 * w) v).signExtend 32) else BitVec.ofNat 32 v)
  else (BitVec.ofNat 64 v).extractLsb' (32 * j) 32

/-- An engine command issues: it stands last among the commands, not yet accepted, with its class, the barrier it names and
its body, counted at its issuer's place; the agent goes on, and memory is as before (R109, R112, R113). -/
def Issued (i : Instr) (s : State) (e : Env) (cls : CmdClass) (bar : Option Nat) (body : CmdBody) : Prop :=
  ∃ t c b, exec i s = .next t ∧ t.cmds = s.cmds ++ [c] ∧ t.mem = s.mem ∧ t.handQ = s.handQ ∧
    c.id = s.fresh ∧ c.cls = cls ∧ c.bar = bar ∧ c.body = body ∧ c.gang = e.g.uid ∧ c.die = e.g.die ∧ c.core = e.g.core ∧ c.wg = e.a.wg ∧
    c.place = e.a.place ∧ c.agent = e.a.id ∧ c.pc = e.a.pc ∧ c.phase = .queued ∧ c.accepted = none ∧ c.flags = 0#5 ∧ c.credits = [] ∧
    envOf t e.g.uid e.a.id = some b ∧ b.a = e.a.past (e.pcAfter i)

/-- The trap that an instruction's own check raises (R199 step 5). -/
def Traps (i : Instr) (s : State) (e : Env) (words cause lane : Nat) (detail : Option Nat) : Prop :=
  exec i s = .next (takeTrap s e ⟨⟨cause, lane, detail⟩, 5, 0, words, e.a.pc⟩)

/-- The agent is at a long wait at its instruction (R159). -/
def Waits (i : Instr) (s : State) (e : Env) : Prop := ∃ t b, exec i s = .next t ∧ envOf t e.g.uid e.a.id = some b ∧ b.a.pc = e.a.pc ∧
  ∃ due, b.a.st = .waiting due

end Machine

end Sys2Proof
end

