-- ==== Sys2Proof/Certificates/Slice0/Obligations.lean ====
section
/-! DEFINITION. The statements for the provers. -/

open Sys2Proof Sys2Proof.Machine

/-- FORK, GRWD, GBAR, GCANCEL, GSTAT and the steps of the group unit (R320, R322, R323, R324, R325, R326). Derived.
Beside the spec it rests on readings and choices of the model: log entry 51 (DEDUCED). -/
def Obligations.SampleGroups : Prop :=
  ∀ (x : Ext) (s : State) (e : Env), s.outq = [] → s.atoms = [] → s.flips = [] → s.waiters = [] → s.memPoison = [] → s.Inv →
    NoWindows s →
    let goes (i : Instr) (t : State) (os : List Out) : Prop := exec i s = .next t ∧ t.mem = s.mem ∧ ∃ b, envOf t e.g.uid e.a.id = some b ∧
      b.a.pc = e.pcAfter i ∧ b.a.st = .runnable ∧ b.a.outs = os ∧ b.a.s = e.a.s
    let val (i : Instr) (f : Regs → Nat) : Nat := (e.a.rs (f (e.opsOf i x))).toNat
    let N (t : State) (a n : Nat) : Nat := homeNat t a n
    let upd (w lo n v : Nat) : Nat := w - w / 2 ^ lo % 2 ^ n * 2 ^ lo + v * 2 ^ lo
    let age (g : GrpAge) : Nat :=
      let clk := (s.die g.home).clk
      let run := match g.paused, g.since with
        | true, none => 0
        | true, some t => clk - max (t + 256) g.changed
        | false, none => clk - g.changed
        | false, some t => min clk (t + 256) - g.changed
      let n := (g.age + run) % 2 ^ 48
      if g.deadline = 0 then n else min n g.deadline
    let d (r : Regs) : Nat := r.d
    let a (r : Regs) : Nat := r.a
    (Executes (.fork x) s e → Quiet s e →
      let i := Instr.fork x
      let g := val i d
      let n := val i a
      let ent := val i fun r => r.b
      let ctx := val i fun r => r.c
      let entry (k : Nat) : List Byte := toBytes 8 (ent + 2 ^ 48) ++ toBytes 8 ctx ++ toBytes 8 g ++ toBytes 8 k
      let fits : Prop := 2 ≤ n ∧ n ≤ 64 ∧ ent % 4 = 0 ∧ ent < 2 ^ 32 ∧ ctx < 2 ^ 52
      (g % 1024 ≠ 0 → Traps i s e x.words 6 0 (some 1)) ∧ (g % 1024 = 0 → ¬ fits → Traps i s e x.words 5 0 (some 2)) ∧
      (g % 1024 = 0 → fits → e.a.prog = n + 1 → goes i (e.goOn s (e.pcAfter i)) []) ∧
      (∀ k u q, g % 1024 = 0 → fits → e.a.prog = k + 1 → k < n → pickShard s e.unit ctx (clusterOf e.g.die e.g.core) = .ok (s, some u) →
        readQ s e.unit u = .ok (s, some q) →
        (q.size ≤ q.count → exec i s = .next (e.set s Agent.unwait)) ∧
        (∀ ras das, q.count < q.size → uWriteAddrs s e.unit (q.ring + 32 * (q.posted % q.size)) 32 = .ok ras → uWriteAddrs s e.unit (q.va + 24) 4 = .ok das →
          ∃ s1, postQ s e.unit u (entry k) = .ok (s1, true) ∧
            s1.mem = s.mem.putAll memDefault (ras.zip (entry k) ++ das.zip (toBytes 4 (q.posted + 1))) ∧
            (k + 1 = n → ∃ t b, exec i s = .next t ∧ envOf t e.g.uid e.a.id = some b ∧ b.a.pc = e.pcAfter i ∧ t.mem = s1.mem) ∧
            (k + 1 < n → let s2 := e.set s1 fun a => { a with prog := k + 2 }
              ∀ u' q', pickShard s2 e.unit ctx (clusterOf e.g.die e.g.core) = .ok (s2, some u') → readQ s2 e.unit u' = .ok (s2, some q') →
                (q'.size ≤ q'.count → exec i s = .next (e.set s2 Agent.unwait)) ∧
                (∀ ras das, k + 2 = n → q'.count < q'.size → uWriteAddrs s2 e.unit (q'.ring + 32 * (q'.posted % q'.size)) 32 = .ok ras →
                  uWriteAddrs s2 e.unit (q'.va + 24) 4 = .ok das →
                  ∃ t b, exec i s = .next t ∧ envOf t e.g.uid e.a.id = some b ∧ b.a.pc = e.pcAfter i ∧
                    t.mem = s1.mem.putAll memDefault (ras.zip (entry (k + 1)) ++ das.zip (toBytes 4 (q'.posted + 1))))))) ∧
      (∀ s1 s2 pc u q, g % 1024 = 0 → fits → e.a.prog = 0 → groupAt e s .store true true (g % 2 ^ 52) = .ok (s1, pc) →
        ((fence s1 e 1 3).bind fun s => rmwFirst s e.who (bytesAt pc.pa 1024)) = some s2 → forkBad s2 pc.pa n = false →
        (∃ k, firstQ s2 e.unit ((List.range 64).map shardQ) = .ok (s2, some k)) → s.groups = [] →
        let pa := pc.pa
        let made := { forkRecord s2 pa n e.g.die ctx with groups := [⟨pa, e.g.asid, e.g.die, N s (pa + 8) 8 % 2 ^ 48, 0, false, e.clk s, e.clk s, none⟩] }
        let s3 := e.set made fun a => { a with prog := 1 }
        (pickShard s3 e.unit ctx (clusterOf e.g.die e.g.core) = .ok (s3, some u) → readQ s3 e.unit u = .ok (s3, some q) → q.size ≤ q.count →
          exec i s = .next (e.set s3 Agent.unwait)) ∧
        N s3 pa 8 = upd (N s pa 8) 0 7 n ∧ N s3 (pa + 0x10) 8 = 0 ∧ N s3 (pa + 0x18) 8 = (1 + e.g.die * 2 ^ 32) % 2 ^ 64 ∧ N s3 (pa + 0x20) 8 = ctx ∧
        ∀ k, 0x30 ≤ k ∧ k < 0x40 ∨ 0x80 ≤ k ∧ k < 0x400 → homeByte s3 (pa + k) = 0#8)) ∧
    (∀ p ∈ ([(.grwd x, some ((e.sb x).setWidth 32)), (.gcancel x, none)] : List (Instr × Option Word)), Executes p.1 s e → Quiet s e →
      (val p.1 d % 1024 ≠ 0 → Traps p.1 s e x.words 6 0 none) ∧ (val p.1 d % 1024 = 0 → 64 ≤ val p.1 a → Traps p.1 s e x.words 5 0 none) ∧
      (∀ s1 pc, val p.1 d % 1024 = 0 → val p.1 a < 64 → groupAt e s .atomic false false (val p.1 d % 2 ^ 52) = .ok (s1, pc) → ∃ t, goes p.1 t [] ∧
        t.grpMsgs = s.grpMsgs ++ [⟨s.fresh, e.g.asid, pc.pa, val p.1 d % 2 ^ 52, val p.1 a, p.2, e.g.uid, e.a.id, [], []⟩])) ∧
    (∀ i ∈ [Instr.gbar x, .gstat x], Executes i s e → Quiet s e → (val i a % 1024 ≠ 0 → Traps i s e x.words 6 0 none) ∧
      ∀ s1 pc, val i a % 1024 = 0 → groupAt e s .load true true (val i a % 2 ^ 52) = .ok (s1, pc) →
        let w := N s (pc.rd + 0x18) 8
        let ends (v : Nat) : Prop := ∃ t b, goes i t [{ writes := [.s (e.opsOf i x).d (BitVec.ofNat 64 v)] }] ∧
          envOf t e.g.uid e.a.id = some b ∧ b.a.acq = some 3
        let k := x.imm.toNat
        (i = .gbar x → (w % 16 = 0 ∨ 5 ≤ w % 16) → Traps i s e x.words 5 0 none) ∧ (i = .gbar x → w % 16 = 1 → Waits i s e) ∧
        (i = .gbar x → 2 ≤ w % 16 → w % 16 ≤ 4 → ends w) ∧
        (i = .gstat x → ends (match s.grp? pc.pa with
          | some g => if k = 2 then age g else N s (pc.rd + 8 * k) 8
          | none => N s (pc.rd + 8 * k) 8))) ∧
    (∀ m : GrpMsg, s.grpMsgs = [m] → (∀ y ∈ m.after, accessOpen s m.gang y.w = false) →
      let i := if m.reward.isSome then Instr.groupRewardPerform m.n else .groupCancelPerform m.n
      let sib (t : State) (k : Nat) : Nat := N t (m.pa + 0x280 + 4 * k) 4
      let w := N s (m.pa + 0x18) 8
      let n := N s m.pa 8 % 128
      let out (k : Nat) : Bool := sib s k % 4 == 0
      let lo := if m.reward.isSome then 16 else 24
      let w' := upd w lo 7 ((w / 2 ^ lo % 128 + 1) % 128)
      let arr := (List.range n).filter fun k => sib s k % 2 == 1 || (m.reward.isSome && k == m.sibling)
      let st := groupStats (arr.map fun k => (if k = m.sibling then m.reward.map (BitVec.toNat ·) else none).getD (N s (m.pa + 0x80 + 4 * k) 4))
        (N s m.pa 8 / 2 ^ 16 % 128) (N s m.pa 8 / 2 ^ 32)
      (w % 16 = 1 → m.sibling < n → n ≤ 64 → out m.sibling = true → ∃ t, exec i s = .next t ∧ t.grpMsgs = [] ∧
        sib t m.sibling = sib s m.sibling + (if m.reward.isSome then 1 else 2) ∧
        ((∃ k, k < n ∧ k ≠ m.sibling ∧ out k = true) → N t (m.pa + 0x18) 8 = w' ∧ t.groups = s.groups) ∧
        ((∀ k, k < n → k ≠ m.sibling → out k = false) →
          N t (m.pa + 0x18) 8 = upd (upd w' 0 4 st.status) 6 1 (if st.zv then 1 else 0) ∧ t.groups = s.groups.filter (fun g => g.pa != m.pa) ∧
          (∀ g, s.groups.find? (fun g => g.pa == m.pa) = some g → N t (m.pa + 0x10) 8 = age g) ∧
          (st.status = 2 → N t (m.pa + 0x30) 8 = st.mean % 2 ^ 64 ∧ N t (m.pa + 0x38) 8 = st.var % 2 ^ 64 ∧
            ∀ j k, arr[j]? = some k → st.adv ≠ [] → N t (m.pa + 0x180 + 4 * k) 4 = st.adv.getD j 0 % 2 ^ 32)) ∧
        (∀ v, m.reward = some v → N t (m.pa + 0x80 + 4 * m.sibling) 4 = v.toNat ∧ t.gangs = s.gangs) ∧
        (m.reward = none → t.gangs.length = s.gangs.length ∧ ∀ (j : Nat) (g : Gang), s.gangs[j]? = some g → ∃ g' : Gang, t.gangs[j]? = some g' ∧
          g'.agents = g.agents.map fun b => { b with notice := b.notice || (match b.bind with
            | some q => q.group == m.pa && q.sibling == m.sibling
            | none => false) })) ∧
      (w % 16 = 1 → m.sibling < n → out m.sibling = false → ∃ tg, exec i s = .next { s with grpMsgs := [], tags := tg }) ∧
      (n ≤ m.sibling → ∃ t, exec i s = .next t ∧ t.grpMsgs = [] ∧ N t (m.pa + 0x18) 8 = upd w 8 1 1)) ∧
    (∀ gang id b, envOf s gang id = some e → e.a.bind = some b → e.a.notice = true → e.a.depth = 0 → e.a.isPack = false → e.a.outs = [] →
      exec (.cancelRedirect gang id) s = .next (e.set s fun a =>
        { a with pc := b.qpop, bind := none, notice := false, rcnt := 0, rcache := [], st := .runnable, prog := 0 })) ∧
    (∀ g : GrpAge, s.groups = [g] →
      let now := age g
      let w := N s (g.pa + 0x18) 8
      let res : Bool := s.gangs.any fun q => q.asid == g.asid
      let arr := (List.range (N s g.pa 8 % 128)).filter fun k => N s (g.pa + 0x280 + 4 * k) 4 % 2 == 1
      let st := groupStats (arr.map fun k => N s (g.pa + 0x80 + 4 * k) 4) (N s g.pa 8 / 2 ^ 16 % 128) (N s g.pa 8 / 2 ^ 32)
      (∃ t, exec (.groupAgeWrite g.pa) s = .next t ∧ N t (g.pa + 0x10) 8 = now ∧
        t.groups = [{ g with age := now, changed := (s.die g.home).clk, wrote := (s.die g.home).clk }]) ∧
      (g.paused = res → ∃ t, exec (.groupAgePause g.pa) s = .next t ∧ N t (g.pa + 0x18) 8 = upd w 5 1 (if res then 0 else 1) ∧
        t.groups = [{ g with age := now, changed := (s.die g.home).clk, paused := !res, since := none }] ∧ (res = false → N t (g.pa + 0x10) 8 = now)) ∧
      (g.deadline ≠ 0 → g.deadline ≤ now → w % 16 = 1 → N s g.pa 8 % 128 ≤ 64 → ∃ t, exec (.groupDeadline g.pa) s = .next t ∧ t.groups = [] ∧
        N t (g.pa + 0x18) 8 % 256 = w / 16 % 4 * 16 + 128 + (if st.zv then 64 else 0) + st.status ∧ N t (g.pa + 0x10) 8 = g.deadline % 2 ^ 48 ∧
        (st.status = 2 → N t (g.pa + 0x30) 8 = st.mean % 2 ^ 64 ∧ N t (g.pa + 0x38) 8 = st.var % 2 ^ 64 ∧
          ∀ j k, arr[j]? = some k → st.adv ≠ [] → N t (g.pa + 0x180 + 4 * k) 4 = st.adv.getD j 0 % 2 ^ 32))) ∧
    ∀ (rs : List Nat) (quorum eps : Nat),
      (rs.length < quorum → (groupStats rs quorum eps).status = 3) ∧
      (quorum ≤ rs.length → (∃ r ∈ rs, finite32 r = false) → (groupStats rs quorum eps).status = 4) ∧
      (quorum ≤ rs.length → (∀ r ∈ rs, finite32 r = true) → (groupStats rs quorum eps).status = 2 ∧
        (groupStats rs quorum eps).mean = div64 ((rs.map widen64).foldl add64 0) (cvtIF .f64 0 false rs.length).1)

/-- QPOST, QPOP, LAUNCH, CMPL and the held post of a completion record (R288, R142, R289, R290, R291, R141, R143,
R139, R140, R321). Derived. Beside the spec it rests on readings and choices of the model: log entries 30 (DEDUCED),
63 (DESIGN CHOICE). -/
def Obligations.QueuesAndCompletionRecords : Prop :=
  ∀ (x : Ext) (s : State) (e : Env), Quiet s e → s.waiters = [] → s.heldPosts = [] → NoWindows s →
    let goes (i : Instr) (t : State) (ws : List RegWrite) : Prop := exec i s = .next t ∧ ∃ b, envOf t e.g.uid e.a.id = some b ∧
      b.a.pc = e.pcAfter i ∧ b.a.st = .runnable ∧ b.a.outs = [{ writes := ws }] ∧ b.a.s = e.a.s ∧ b.a.v = e.a.v ∧ b.a.k = e.a.k
    let put (t : State) (bs : List (Nat × Byte)) : Prop := t.mem = s.mem.putAll memDefault bs
    let rc (i : Instr) : Nat := (e.a.b.look 0#256 (e.opsOf i x).a).toNat
    let idx (i : Instr) : Nat := e.sIndex (e.opsOf i x).b x.offset
    (Executes (.qpost x) s e → 3 ≤ recEsz (rc (.qpost x)) → recBad (rc (.qpost x)) = false → ∀ l ts s1,
      access s e.who .load (rc (.qpost x)) 32 32 [(0, idx (.qpost x))] = .ok l ts → poisonLane s e.who l = none →
      let r := e.opsOf (.qpost x) x
      let as := readBytesOf (allPieces l)
      let bs := as.map (homeByte s)
      (as = [] → Traps (.qpost x) s e x.words 5 0 none) ∧
      (as ≠ [] → 256 < (e.a.rs r.d).toNat → Traps (.qpost x) s e x.words 5 0 none) ∧
      (as ≠ [] → (e.a.rs r.d).toNat ≤ 256 → entryBad bs = true → Traps (.qpost x) s e x.words 5 0 (some 15)) ∧
      (as ≠ [] → (e.a.rs r.d).toNat ≤ 256 → entryBad bs = false → fence (noteRead (noteTlb s e.who ts) e.who as) e 1 3 = some s1 → ∀ u q,
        postTarget s1 e.unit (e.a.rs r.d).toNat bs (clusterOf e.g.die e.g.core) = .ok (s1, some u) → readQ s1 e.unit u = .ok (s1, some q) →
        (q.size ≤ q.count → ∃ t, goes (.qpost x) t [.k r.c false] ∧ t.mem = s.mem) ∧
        (∀ ras das, q.count < q.size → uWriteAddrs s1 e.unit (q.ring + 32 * (q.posted % q.size)) 32 = .ok ras →
          uWriteAddrs s1 e.unit (q.va + 24) 4 = .ok das →
          ∃ t, goes (.qpost x) t [.k r.c true] ∧ put t (ras.zip bs ++ das.zip (toBytes 4 (q.posted + 1)))))) ∧
    (Executes (.qpop x) s e →
      let qb := e.g.blk.qbind
      let own := 8 * e.g.die + e.g.core / 4
      let shards := (own :: ((List.range 8).map (8 * e.g.die + ·)).filter (· != own) ++
        (List.range 7).flatMap fun j => (List.range 8).map (8 * ((e.g.die + 1 + j) % 8) + ·)).map (256 + ·)
      let order := if qb = 256 then shards else [qb]
      let s1 := e.setGang s fun g => g.updAgent e.placeHolder fun a => { a with bind := none, notice := false }
      let gives (bs : List Byte) (t : State) : Prop :=
        let w (k : Nat) : Nat := ofBytes ((bs.drop (8 * k)).take 8)
        goes (.qpop x) t [.s 1 (e.g.blk.code.setWidth 64 + BitVec.ofNat 64 (w 0 % 2 ^ 32)), .s 2 (BitVec.ofNat 64 (w 0 / 2 ^ 32 % 2 ^ 32)),
          .s 3 (BitVec.ofNat 64 (w 2)), .s 4 (BitVec.ofNat 64 (w 3)), .s 5 (BitVec.ofNat 64 (w 1)), .k 1 true] ∧
          ∃ b, envOf t e.g.uid e.a.id = some b ∧ b.a.acq = some 3
      let sleeps (u : Nat) (m : Table Byte) : Prop := ∃ t b due, exec (.qpop x) s = .next t ∧ t.mem = m ∧ envOf t e.g.uid e.a.id = some b ∧
        b.a.pc = e.a.pc ∧ b.a.st = .waiting due ∧ b.a.outs = [] ∧ t.waiters = [⟨e.g.asid, u, e.g.uid, e.a.id⟩]
      let at' (t : State) (k : Nat) (q : QDesc) : Prop := readQ t e.unit k = .ok (t, some q)
      (qb = 511 → Traps (.qpop x) s e x.words 5 0 none) ∧
      (qb ≤ 256 → (∀ k ∈ order, readQ s e.unit k = .ok (s, none)) → Traps (.qpop x) s e x.words 5 0 none) ∧
      (∀ u, qb ≤ 256 → firstQ s e.unit order = .ok (s, some u) →
        ((∀ k ∈ order, readQ s1 e.unit k = .ok (s1, none) ∨ ∃ q, at' s1 k q ∧ (qb < 256 → q.closed = false) ∧ q.count = 0) → sleeps u s.mem) ∧
        (∀ q, qb < 256 → at' s1 qb q → q.closed = true → ∃ t, goes (.qpop x) t [.k 1 false] ∧ t.mem = s.mem) ∧
        ∀ pre k post q bs, order = pre ++ k :: post → (∀ j ∈ pre, readQ s1 e.unit j = .ok (s1, none) ∨ ∃ q, at' s1 j q ∧ q.count = 0) →
          at' s1 k q → (qb < 256 → q.closed = false) → q.count ≠ 0 → uRead s1 e.unit (q.ring + 32 * (q.taken % q.size)) 32 = .ok (s1, bs) →
          let w (k : Nat) : Nat := ofBytes ((bs.drop (8 * k)).take 8)
          let close := bitN (w 0) 49 && decide (qb < 256)
          (∀ as, close = false → bitN (w 0) 48 = false → uWriteAddrs s1 e.unit (q.va + 28) 4 = .ok as →
            ∃ t, gives bs t ∧ put t (as.zip (toBytes 4 (q.taken + 1)))) ∧
          (∀ b as, close = true → uRead s1 e.unit (q.va + 16) 1 = .ok (s1, [b]) → uWriteAddrs s1 e.unit (q.va + 16) 1 = .ok as →
            ∃ t, goes (.qpop x) t [.k 1 false] ∧ put t (as.zip [b ||| 0x20#8])) ∧
          (close = false → bitN (w 0) 48 = true →
            let g := w 2
            let i := w 3
            let bad : Prop := g % 1024 ≠ 0 ∨ 2 ^ 52 ≤ g ∨ 64 ≤ i
            let passes (v : State) : Prop := ∀ s2, uWrite v e.unit (q.va + 28) (toBytes 4 (q.taken + 1)) = .ok s2 → ∀ q',
              (qb < 256 → at' s2 qb q' → q'.closed = false → q'.count = 0 → sleeps u s2.mem) ∧
              (∀ bs' as, at' s2 k q' → (qb < 256 → q'.closed = false) → q'.count ≠ 0 →
                uRead s2 e.unit (q'.ring + 32 * (q'.taken % q'.size)) 32 = .ok (s2, bs') → ofBytes (bs'.take 8) / 2 ^ 48 % 4 = 0 →
                uWriteAddrs s2 e.unit (q'.va + 28) 4 = .ok as →
                ∃ t, gives bs' t ∧ t.mem = s2.mem.putAll memDefault (as.zip (toBytes 4 (q'.taken + 1))))
            (bad → passes (logEvent s1 .post [g, i])) ∧
            (∀ hd st, ¬ bad → uRead s1 e.unit g 32 = .ok (s1, hd) → uReadNat s1 e.unit (g + 0x280 + 4 * i) 4 = .ok (s1, st) →
              let n := ofBytes (hd.take 8) % 128
              let status := ofBytes ((hd.drop 24).take 8) % 16
              (n ≤ i → passes (logEvent s1 .post [g, i])) ∧ (i < n → (status ≠ 1 ∨ st / 2 % 2 = 1) → passes s1) ∧
              (i < n → status = 1 → st / 2 % 2 = 0 → ∀ s2 sas as, uWriteAddrs s1 e.unit (g + 0x280 + 4 * i) 4 = .ok sas →
                uWrite s1 e.unit (g + 0x280 + 4 * i) (toBytes 4 (st ||| 4)) = .ok s2 → uWriteAddrs s2 e.unit (q.va + 28) 4 = .ok as →
                ∃ t b, gives bs t ∧ put t (sas.zip (toBytes 4 (st ||| 4)) ++ as.zip (toBytes 4 (q.taken + 1))) ∧
                  envOf t e.g.uid e.placeHolder = some b ∧ b.a.bind = some ⟨(uHomes s2 e.unit g 1).headD 0, i, e.a.pc⟩ ∧ b.a.notice = false))))) ∧
    (Executes (.launch x) s e →
      let r := e.opsOf (.launch x) x
      let a := (e.a.rs r.a).toNat
      (a % 256 ≠ 0 → Traps (.launch x) s e x.words 6 0 none) ∧ (a % 256 = 0 → 2 ^ 52 ≤ a → Traps (.launch x) s e x.words 5 0 none) ∧
      (a % 256 = 0 → a < 2 ^ 52 → 4096 ≤ s.dlq.length → exec (.launch x) s = .next (e.retire s (.launch x) [.k r.c false])) ∧
      (a % 256 = 0 → a < 2 ^ 52 → s.dlq.length < 4096 → ∃ t, goes (.launch x) t [.k r.c true] ∧ t.dlq = s.dlq ++ [(e.g.asid, a)] ∧ t.mem = s.mem)) ∧
    (Executes (.cmpl x) s e → 3 ≤ recEsz (rc (.cmpl x)) → recBad (rc (.cmpl x)) = false → ∀ l ts,
      access s e.who .atomic (rc (.cmpl x)) 16 16 [(0, idx (.cmpl x))] = .ok l ts → poisonLane s e.who l = none → (∀ p ∈ allPieces l, p.dup = none) →
      let d := (e.opsOf (.cmpl x) x).d
      let as := homeBytesOf (allPieces l)
      let w := ofBytes (as.map (homeByte s))
      let count := w % 2 ^ 32
      let qent := w / 2 ^ 64 % 2 ^ 52
      ownBlocked s e as = false →
      (as = [] → ∃ t, goes (.cmpl x) t [.s d 0#64] ∧ t.mem = s.mem) ∧
      (as ≠ [] → count = 0 → ∃ t, goes (.cmpl x) t [.s d 0#64] ∧
        put t [(as.getD 4 0, homeByte s (as.getD 4 0) ||| 1#8), (as.getD 5 0, 6#8)] ∧ t.heldPosts = [] ∧ t.dlq = s.dlq) ∧
      (as ≠ [] → 0 < count → (count ≠ 1 ∨ qent = 0 ∨ (w / 2 ^ 55 % 2 ^ 9 = 257 ∧ qent % 256 = 0 ∧ s.dlq.length < 4096)) →
        ∃ t, goes (.cmpl x) t [.s d (BitVec.ofNat 64 count)] ∧ put t ((as.take 4).zip (toBytes 4 (count - 1))) ∧ t.heldPosts = [] ∧
          t.dlq = s.dlq ++ (if count = 1 ∧ qent ≠ 0 then [(e.g.asid, qent)] else []))) ∧
    ∀ (p : HeldPost), let h := { s with heldPosts := [p] }
      (p.qsel = 257 → p.qent % 256 = 0 → s.dlq.length < 4096 → exec (.completionPostHeld p.n) h = .next { s with dlq := s.dlq ++ [(p.asid, p.qent)] }) ∧
      (p.qsel = 257 → p.qent % 256 = 0 → 4096 ≤ s.dlq.length → exec (.completionPostHeld p.n) h =
        .next { s with heldPosts := [{ p with entry := none, target := some deviceQ }] }) ∧
      (∀ bs u q, p.qsel ≤ 256 → p.qent % 32 = 0 → p.entry = some bs →
        let a : Acc := ⟨unitWho h p.asid (homeDie (p.record.headD 0)), .post p.n, 0#52⟩
        let h' := { s with heldPosts := [{ p with entry := some bs, target := some u }] }
        (p.target = some u ∨ p.target = none ∧ postTarget h a p.qsel bs p.shard = .ok (h, some u)) → readQ h' a u = .ok (h', some q) →
        (q.size ≤ q.count → exec (.completionPostHeld p.n) h = .next h') ∧
        (∀ ras das, q.count < q.size → uWriteAddrs h' a (q.ring + 32 * (q.posted % q.size)) 32 = .ok ras →
          uWriteAddrs h' a (q.va + 24) 4 = .ok das →
          ∃ t, exec (.completionPostHeld p.n) h = .next t ∧ t.heldPosts = [] ∧ put t (ras.zip bs ++ das.zip (toBytes 4 (q.posted + 1)))))

/-- RTRECV, RTREL, VDSTAT, AUST and the routing engine’s steps (R292, R293, R294, R296, R297, R298, R299, R300, R301,
R382, R307, R315). Derived. Beside the spec it rests on readings and choices of the model: log entries 11 (DEDUCED),
18 (DESIGN CHOICE), 36 (DEDUCED), 66 (DESIGN CHOICE), 78 (DESIGN CHOICE). -/
def Obligations.RoutingAndStatusEntries : Prop :=
  ∀ (x : Ext) (s : State) (e : Env), s.outq = [] → s.atoms = [] → s.flips = [] → s.memPoison = [] → s.Inv → NoWindows s →
    let val (i : Instr) (f : Regs → Nat) : Nat := (e.a.rs (f (e.opsOf i x))).toNat
    let own (q : Nat) : Prop := q < 4096 ∧ (ringOf s q).v = true ∧ (ringOf s q).asid = e.g.asid
    (Executes (.rtrecv x) s e → Quiet s e →
      let i := Instr.rtrecv x
      let q := val i fun r => r.a
      let g := ringOf s q
      let n := min e.lanes.length g.present
      let slot (j : Nat) : Nat := (g.popAt + j) % g.cap
      let d := (e.opsOf i x).d
      (¬ own q → Traps i s e x.words 5 0 none) ∧
      (own q → g.present = 0 → x.imm.getLsbD 0 = false → exec i s = .next (e.set s Agent.unwait)) ∧
      (own q → (g.present ≠ 0 ∨ x.imm.getLsbD 0 = true) → ∀ row : Nat → RingRow,
        g.cap ≠ 0 → (∀ j, j < n → (row j).src < 2 ^ 16 ∧ s.ringRows.find? (fun w => w.queue == q && w.slot == slot j) = some (row j)) →
        ∃ t b, exec i s = .next t ∧ envOf t e.g.uid e.a.id = some b ∧ b.a.pc = e.pcAfter i ∧ b.a.acq = some 3 ∧ b.a.outs = [{ writes :=
            ((enumFrom 0 e.lanes).flatMap fun p =>
              let va := BitVec.ofNat 64 (g.slotVa (g.popAt + p.1))
              let words : List Word := if p.1 < n then [va.setWidth 32, va.extractLsb' 32 32, BitVec.ofNat 32 (slot p.1 + (row p.1).src * 2 ^ 16), (row p.1).tag]
                else [0#32, 0#32, 0#32, 0#32]
              (enumFrom d words).map fun w => RegWrite.v w.1 p.2 w.2) ++ [.s (e.opsOf i x).c (BitVec.ofNat 64 n)] }] ∧
          (∀ k, homeByte t k = if g.pa + 24 ≤ k ∧ k < g.pa + 28 then (toBytes 4 (g.popped + n)).getD (k - (g.pa + 24)) 0#8 else homeByte s k))) ∧
    (Executes (.rtrel x) s e → Quiet s e → s.links = [] → s.parked = [] →
      let i := Instr.rtrel x
      let q := val i fun r => r.a
      let k := val i fun r => r.b
      let g := ringOf s q
      let popped : Prop := k < g.cap ∧ (k + g.cap - g.freeAt % g.cap) % g.cap < g.popAt - g.freeAt ∧ (q, k) ∉ s.freed
      (own q → ¬ popped → Traps i s e x.words 5 0 none) ∧ (¬ own q → Traps i s e x.words 5 0 none) ∧
      (own q → popped → (∀ p ∈ s.freed, p.1 ≠ q) → ∃ t b, exec i s = .next t ∧ envOf t e.g.uid e.a.id = some b ∧ b.a = e.a.past (e.pcAfter i) ∧
        (k ≠ g.freeAt % g.cap → t.freed = s.freed ++ [(q, k)] ∧ t.mem = s.mem) ∧
        (k = g.freeAt % g.cap → t.freed = s.freed ∧
          ∀ a, homeByte t a = if g.pa + 20 ≤ a ∧ a < g.pa + 24 then (toBytes 4 (g.freed + 1)).getD (a - (g.pa + 20)) 0#8 else homeByte s a))) ∧
    (∀ i ∈ [Instr.vdstat x, .aust x], Executes i s e → Quiet s e → ∀ l ts,
      let k := (e.a.b.look 0#256 (e.opsOf i x).a).toNat
      recBad k = false → 3 ≤ recEsz k → access s e.who .load k 8 1 [(0, e.sIndex (e.opsOf i x).b x.offset)] = .ok l ts →
      ∃ t p, exec i s = .next t ∧ l = [p] ∧ t.mem = s.mem ∧ (e.landed t).pc = e.pcAfter i ∧
        ∀ n, n < 64 → (e.landed t).rs n = if n = (e.opsOf i x).d ∧ n ≠ 0 then BitVec.ofNat 64 (laneValue s p) else e.a.rs n) ∧
    (∀ (c : Cmd), s.cmd? c.id = some c → routeReady s c = true →
      (∀ ent rest d ras das, c.body = .rtsend (ent :: rest) →
        let a := { listAcc s c.asid ent.pri with pc := c.pc }
        let bytes := toBytes 8 (ent.row % 2 ^ 52) ++ toBytes 4 ent.w2.toNat ++ toBytes 4 ent.w3.toNat
        readList s a c.asid ent.pri = .ok (s, some d) →
        (d.size ≤ d.held → exec (.sendListAppend c.id) s = .next s) ∧
        (d.held < d.size → uWriteAddrs s a (d.lring + 16 * (d.count 36 % d.size)) 16 = .ok ras →
          uWriteAddrs (uPut s a.who (ras.zip bytes)) a (d.va + 36) 4 = .ok das →
          ∃ t q, exec (.sendListAppend c.id) s = .next t ∧ t.mem = (s.mem.putAll memDefault (ras.zip bytes)).putAll memDefault (das.zip (toBytes 4 (d.count 36 + 1))) ∧
            t.appended = s.appended ++ [⟨s.fresh, c.asid, ent.pri, d.count 36, c.gang, c.wg, c.place, none⟩] ∧ t.cmd? c.id = some q ∧
            q.body = .rtsend rest ∧ (rest = [] → q.phase = .complete))) ∧
      (c.body = .rtflush false →
        let mine (a : Appended) : Bool := a.gang == c.gang && a.wg == c.wg && a.place == c.place && a.flush.isNone
        ∃ t q, exec (.sendListAppend c.id) s = .next t ∧ t.cmd? c.id = some q ∧ q.body = .rtflush true ∧
          t.appended = s.appended.map fun a => if mine a = true then { a with flush := some c.id } else a)) ∧
    (∀ asid route, (nextFrame s asid route).length ≤ 16 ∧ (nextFrame s asid route).Pairwise fun p q => p.n ≤ q.n) ∧
    (∀ asid route (ps : List Parked) d (rt : RouteTo), (∀ w ∈ s.listWork, ¬ (w.asid = asid ∧ w.route = route)) →
      readList s (listAcc s asid route) asid route = .ok (s, d) → s.parked.find? (Parked.unstored asid route) = none → nextFrame s asid route ≠ [] →
      readEnts (nextFrame s asid route) s = .ok (ps.map fun p => (p, true)) → routeEntry s route = some rt → rt.dev ≠ s.bar0.dev.toNat →
      (s.link rt.port rt.dev).down = false → route < 4096 →
      let l := s.link rt.port rt.dev
      (unread s ps ≠ [] → ∃ p ∈ unread s ps, exec (.frameFormation asid route) s = .next (readRow s p.1 p.2)) ∧
      (∀ rows : List (List Byte), unread s ps = [] → ps.map (rowBytes s) = rows.map some → (∀ r ∈ rows, r.length = 128) → 1 ≤ rows.length →
        rows.length ≤ 16 → l.txSeq < 2 ^ 32 → l.rxSeq < 2 ^ 32 → ∃ t bs h p, exec (.frameFormation asid route) s = .next t ∧ t.mem = s.mem ∧
        (t.link rt.port rt.dev).unacked = l.unacked ++ [(l.txSeq, rt.dest, bs)] ∧ (t.link rt.port rt.dev).txSeq = (l.txSeq + 1) % 2 ^ 32 ∧
        t.wire = s.wire ++ [p] ∧ p.port = rt.port ∧ p.payload = bs ∧ p.dst = rt.dest.addr ∧ p.dstUdp = rt.dest.udp ∧ p.tc = rt.dest.tc ∧ p.hop = 64 ∧
        frameOf bs = some h ∧ h.kind = 0 ∧
        h.nrow = rows.length ∧ h.seq = l.txSeq ∧ h.ackseq = l.rxSeq ∧ h.src = s.bar0.dev.toNat ∧ h.dst = rt.dev ∧ h.queue = rt.queue ∧ h.route = route ∧
        ∀ k, k < rows.length → (frameRow bs h.nrow k).2 = rows.getD k [] ∧ (frameRow bs h.nrow k).1 = (ps.getD k default).ent.w3 &&& 0xFFFF00FF#32)) ∧
    (∀ port bs h, frameOf bs = some h → h.dst = s.bar0.dev.toNat → s.sent = [] → s.parked = [] →
      let l := s.link port h.src
      let r := ringOf s h.queue
      let rest := match l.unacked with
        | [] => []
        | (q, _) :: _ =>
          let n := (h.ackseq + 2 ^ 32 - q) % 2 ^ 32
          l.unacked.drop (if n ≤ l.unacked.length then n else 0)
      let acks (t : State) (free seq : Nat) : Prop := l.down = false → ∃ k p, frameOf (t.link port h.src).ack = some k ∧ k.kind = 1 ∧
        k.queue = h.queue ∧ k.free = free ∧ k.ackseq = seq % 2 ^ 32 ∧ t.wire = s.wire ++ [p] ∧ p.port = port ∧ p.payload = (t.link port h.src).ack
      let slots (t : State) (rx : Nat) (un : List (Nat × NetDest × List Byte)) : Prop :=
        (t.link port h.src).rxSeq = rx ∧ (t.link port h.src).unacked = un
      let freed := if r.v then min r.free 65535 else 0
      (h.kind = 0 → h.seq ≠ l.rxSeq → ∃ t, exec (.dataFrame port bs) s = .next t ∧ t.mem = s.mem ∧ slots t l.rxSeq l.unacked ∧ acks t freed l.rxSeq) ∧
      (h.kind = 0 → h.seq = l.rxSeq → r.v = false → ∃ t f k, exec (.dataFrame port bs) s = .next t ∧ t.mem = s.mem ∧
        slots t ((l.rxSeq + 1) % 2 ^ 32) (rest ++ [(l.txSeq, l.dest, f)]) ∧ frameOf f = some k ∧ k.kind = 2 ∧ k.free = 0 ∧ k.rseq = h.seq ∧
        k.rmask = 2 ^ h.nrow - 1 ∧ t.ringRows = s.ringRows) ∧
      (∀ places, h.kind = 0 → h.seq = l.rxSeq → r.v = true → h.nrow ≤ r.free → ringSlots s h.queue r r.next h.nrow = .ok (places, none) →
        let key := 16 * h.src + port
        (∀ f ∈ s.filling, f.ring = h.queue → f.key = key) →
        let gs := unfilled s h.queue key (slotGranules r places ((List.range h.nrow).map (frameRow bs h.nrow)))
        (gs ≠ [] → ∃ g ∈ gs, exec (.dataFrame port bs) s =
          .next { fillGranule s (unitWho s r.asid 0) h.queue key g with inputs := .frame port bs :: s.inputs }) ∧
        (gs = [] → ∃ t, exec (.dataFrame port bs) s = .next t ∧ slots t ((l.rxSeq + 1) % 2 ^ 32) rest ∧
          t.ringRows = s.ringRows ++ (List.range h.nrow).map (fun k => ⟨h.queue, (r.next + k) % r.cap, h.src, (frameRow bs h.nrow k).1⟩) ∧
          t.mem = s.mem.putAll memDefault ((bytesAt (r.pa + 28) 4).zip (toBytes 4 (r.filled + h.nrow))) ∧
          acks t (min (r.free - h.nrow) 65535) (l.rxSeq + 1))) ∧
      (h.kind = 1 → h.seq ≠ l.rxSeq → exec (.ackFrame port bs) s = .next s) ∧
      (h.kind = 1 → h.seq = l.rxSeq → ∃ t, exec (.ackFrame port bs) s = .next t ∧ t.mem = s.mem ∧ slots t l.rxSeq rest ∧ t.wire = s.wire) ∧
      (h.kind = 2 → h.seq ≠ l.rxSeq → ∃ t, exec (.returnFrame port bs) s = .next t ∧ t.mem = s.mem ∧ slots t l.rxSeq l.unacked ∧ acks t freed l.rxSeq) ∧
      (h.kind = 2 → h.seq = l.rxSeq → ∃ t, exec (.returnFrame port bs) s = .next t ∧ t.mem = s.mem ∧
        slots t ((l.rxSeq + 1) % 2 ^ 32) rest ∧ acks t freed (l.rxSeq + 1))) ∧
    (∀ port peer, let l := s.link port peer
      l.unacked ≠ [] → l.down = false → l.advanced + 16384 ≤ portClk s port →
      (l.resends ≠ 64 → ∃ ws : List OutPacket, exec (.resendTimeout port peer) s =
          .next { s.putLink { l with resends := l.resends + 1, advanced := portClk s port } with wire := s.wire ++ ws } ∧
        ws.map (fun p => (p.port, p.dst, p.dstUdp, p.tc, p.payload)) = l.unacked.map fun u => (port, u.2.1.addr, u.2.1.udp, u.2.1.tc, u.2.2)) ∧
      (l.resends = 64 → ∃ t, exec (.resendTimeout port peer) s = .next t ∧ t.mem = s.mem ∧ ∀ k, (t.link port k).down = true)) ∧
    ∀ port (p : Packet),
      let heard : Prop := s.phase = .ready ∧ p.dest ∈ s.izsil.net.addrs ∧ p.udp = s.izsil.net.udp ∧ p.checksumOk = true ∧ p.extHeader = false
      (¬ heard → exec (.ethernetPacketReceive port p) s = .next s) ∧
      (∀ h, heard → frameOf p.payload = some h → exec (.ethernetPacketReceive port p) s =
        .next { s.putLink { s.link port h.src with dest := ⟨p.src, p.srcUdp, 0#8⟩ } with inputs := .frame port p.payload :: s.inputs }) ∧
      (heard → frameOf p.payload = none → ∃ t, exec (.ethernetPacketReceive port p) s = .next t ∧ t.inputs = s.inputs ∧ t.mem = s.mem)

/-- Results return, writes and memory-side atomics perform, and coherence events change no byte that is read (R191,
R65, R94, R69, R63, R55, R39, R72, R68, R73, R106, R45). Derived. Beside the spec it rests on readings and choices of
the model: log entries 20 (DEDUCED), 58 (DEDUCED). -/
def Obligations.ResultsWritesAndCoherence : Prop :=
  ∀ (s : State), s.Inv →
    let same (t : State) : Prop := (∀ a, homeByte t a = homeByte s a) ∧
      ∀ uid id, (envOf t uid id).map (fun e => e.a) = (envOf s uid id).map fun e => e.a
    let plain : Prop := ∀ q ∈ s.outq, q.excl = false
    (∀ uid id n e o, envOf s uid id = some e → e.a.outs[n]? = some o → o.atom = none → o.hand = none →
      (canLand e.a.outs n = true → exec (.loadDataReturn uid id n) s = .next (e.set s fun a =>
        { o.values.foldl Agent.land a with outs := a.outs.eraseIdx n })) ∧
      (o.rejected = 0 → (∃ l ∈ o.reads, l.waits = true) → s.outq = [] → s.flips = [] → (∀ l ∈ o.reads, l.os = false) →
        ∃ (take : LoadPart → Bool) (t : State) (b : Env),
          let part (p : LoadPart) : LoadPart := if p.got = none ∧ take p = true then { p with got := some (p.addrs.map (homeByte s)) } else p
          let q : Out := { o with reads := o.reads.map fun l => { l with parts := l.parts.map part } }
          (∃ l ∈ o.reads, ∃ p ∈ l.parts, p.got = none ∧ take p = true) ∧ exec (.loadDataReturn uid id n) s = .next t ∧ t.mem = s.mem ∧
          envOf t uid id = some b ∧
          (canLand (e.a.outs.set n q) n = false → b.a = { e.a with outs := b.a.outs, ahead := b.a.ahead } ∧ b.a.outs[n]? = some q ∧ b.a.outs.length = e.a.outs.length) ∧
          (canLand (e.a.outs.set n q) n = true → b.a = { q.values.foldl Agent.land e.a with outs := b.a.outs, ahead := b.a.ahead } ∧
            b.a.outs.length + 1 = e.a.outs.length))) ∧
    (∀ uid id n e o, envOf s uid id = some e → e.a.outs[n]? = some o → ∃ t b q, exec (.missRetry uid id n) s = .next t ∧ t.mem = s.mem ∧
      envOf t uid id = some b ∧ b.a = { e.a with outs := e.a.outs.set n { o with rejected := q } } ∧ (q = o.rejected ∨ q = o.rejected - 1)) ∧
    (∀ p ∈ s.outq, (∀ q ∈ s.outq, q.excl = false ∧ (q.n = p.n → q = p) ∧
        (q.n ≠ p.n → q.die = p.die → ∀ b ∈ q.bytes, ∀ c ∈ p.bytes, b.1 ≠ c.1)) →
      (p.stuck s = false → NoWindows s → p.win = none → p.need = [] →
        ∃ t, exec (.writePerformAtHome p.die p.n) s = .next t ∧ t.outq = s.outq.filter (fun q => q.n != p.n) ∧
          t.mem = s.mem.putAll memDefault p.bytes) ∧
      (p.stuck s = true → exec (.writePerformAtHome p.die p.n) s = .next s)) ∧
    (∀ (p : PendAtom) (l : AtomLane) e, s.atoms = [p] → p.memSide = true → p.lanes = [l] → p.dups = [] → p.after = [] → s.outq = [] → s.flips = [] → NoWindows s →
      envOf s p.gang p.agent = some e →
      let old := homeNat s l.pa p.w
      let new := atomNew p.op p.ty p.w old l.c l.e
      let ws : List RegWrite := if p.w ≤ 4 then [.v l.reg l.lane (BitVec.ofNat 32 old)]
        else (List.range (p.w / 4)).map fun j => .v (l.reg + j) l.lane (BitVec.ofNat 32 (old / 2 ^ (32 * j)))
      ∃ t b, exec (.memorySideAtomic p.n) s = .next t ∧ t.atoms = [] ∧ envOf t p.gang p.agent = some b ∧
        t.mem = (if new.2 then s.mem.putAll memDefault ((bytesAt l.pa p.w).zip (toBytes p.w new.1)) else s.mem) ∧
        b.a = { e.a with outs := e.a.outs.map fun o => if o.atom = some p.n then { o with writes := o.writes ++ ws, atom := none } else o }) ∧
    (∀ (c : Cmd) (i : RedItem), s.cmds = [c] → c.body = .sred [i] → c.accepted.isSome = true → c.alive s = true → c.open s = true → s.atoms = [] → s.outq = [] →
      s.flips = [] → s.memPoison = [] → NoWindows s → issuerFirst s (c.acc s).who (bytesAt i.pa i.w) = some s →
      ∃ t q, exec (.memorySideAtomic c.id) s = .next t ∧ t.cmd? c.id = some q ∧ q.phase = .complete ∧ t.mem = s.mem.putAll memDefault
        ((bytesAt i.pa i.w).zip (toBytes i.w (atomNew i.op i.ty i.w (homeNat s i.pa i.w) i.val 0).1))) ∧
    (∀ line, ∃ t, exec (.directoryEvict line) s = .next t ∧ same t ∧ (∀ d ∈ t.dir, d.line ≠ line) ∧ (∀ c ∈ t.l1, c.2 ≠ line) ∧
      (∀ g ∈ t.gangs, ∀ w ∈ g.wlines, w.pa ≠ line) ∧ ∀ v ∈ t.saved, ∀ w ∈ v.gang.wlines, w.pa ≠ line) ∧
    (∀ uid line g w, s.gang? uid = some g → g.wline? line = some w →
      (∃ t, exec (.stashRemoteRequest uid line false) s = .next t ∧ same t ∧ t.gangs = s.gangs) ∧
      (∃ t, exec (.stashRemoteRequest uid line true) s = .next t ∧ same t ∧ ∀ g' ∈ t.gangs, ∀ w' ∈ g'.wlines, w'.pa ≠ w.pa)) ∧
    (∀ uid va g q, s.gang? uid = some g → g.ident = false → walkVa s (g.raf.getD (va.toNat / 2 ^ 48) 0#64).toNat va.toNat .load = .ok q →
      ∃ t, exec (.pageTableWalk uid va) s = .next t ∧ same t ∧
        ∃ en ∈ t.tlb, en.die = g.die ∧ en.core = none ∧ en.asid = g.asid ∧ en.va = q.va ∧ en.bits = q.bits ∧ en.pa = q.pa) ∧
    (∀ p d, p ∈ s.outq → p.dup = some d → (∀ q ∈ s.outq, q.n = p.n → q = p) → ∃ t, exec (.dupCollapse p.die p.n) s = .next t ∧ same t ∧
      ∃ c ∈ t.collapses, c.page.base = d.base) ∧
    (∀ (c : Collapse) die, s.collapses = [c] → die < 8 → NoWindows s →
      ((insNat die c.acked).length ≠ 8 → ∃ t, exec (.dupCollapseAck c.page.base die) s = .next t ∧ t.mem = s.mem ∧
        t.collapses = [{ c with acked := insNat die c.acked }]) ∧
      ((insNat die c.acked).length = 8 → frozen s c.page.pte = false → ∃ t, exec (.dupCollapseAck c.page.base die) s = .next t ∧ t.collapses = [] ∧
        (∀ p ∈ t.outq, ∀ d, p.dup = some d → d.base ≠ c.page.base) ∧ (∀ q ∈ t.tlb, ∀ d, q.dup = some d → d.base ≠ c.page.base) ∧
        let cleared (a : Nat) : Byte := if a = c.page.pte + 7 then homeByte s a &&& 0xDF#8 else homeByte s a
        ((∀ p ∈ s.outq, (∀ d, p.dup = some d → d.base ≠ c.page.base) ∧ ∀ b ∈ p.bytes, b.1 < c.page.pte ∨ c.page.pte + 8 ≤ b.1) →
          (∀ p ∈ s.atoms, ∀ d ∈ p.dups, d.base ≠ c.page.base) → ∀ a, homeByte t a = cleared a) ∧
        (∀ p d, s.outq = [p] → s.atoms = [] → s.flips = [] → p.dup = some d → d.base = c.page.base → p.win = none → p.need = [] → p.after = [] →
          t.outq = [] ∧ ∀ a, homeByte t a = lastByte p.bytes a (cleared a)))) ∧
    (∀ line code uid g, (∃ t, exec (.eccUncorrectable (.cleanLine line)) s = .next t ∧ same t ∧ (∀ c ∈ t.l1, c.2 ≠ line) ∧ ∀ c ∈ t.l2, c.1 ≠ line) ∧
      (∃ t, exec (.eccCorrected code) s = .next t ∧ same t ∧ t.izsil.soft = s.izsil.soft + 1) ∧
      (∃ t, exec (.eccUncorrectable (.memLine line)) s = .next t ∧ same t ∧ ∀ k, k ∈ t.memPoison ↔ k = line ∨ k ∈ s.memPoison) ∧
      (s.gang? uid = some g → line < g.osLines → ∃ t g', exec (.eccUncorrectable (.osLine uid line)) s = .next t ∧ t.mem = s.mem ∧
        t.gang? uid = some g' ∧ g'.os = g.os ∧ ∀ k, k ∈ g'.osPoison ↔ k = line ∨ k ∈ g.osPoison)) ∧
    (∀ addr n (bytes : Option (List Byte)), s.phase = .ready → 0 < n → (∀ bs, bytes = some bs → bs.length = n) → paDevice addr = true →
      paDevice (addr + n - 1) = true → NoWindows s → plain →
      let ready : Prop := ∀ f, addr / 4096 ≤ f → f ≤ (addr + n - 1) / 4096 → f ∈ s.hostBias ∧ ∀ p ∈ s.flips, p.frame ≠ f
      (ready → ∃ t, exec (.hostCxlMemAccess addr n bytes) s = .next t ∧ t.flips = s.flips ∧ t.mem = (match bytes with
        | some bs => s.mem.putAll memDefault ((bytesAt addr bs.length).zip bs)
        | none => s.mem) ∧ (bytes = none → t.host.answer = (bytesAt addr n).map (homeByte s))) ∧
      (¬ ready → ∃ t, exec (.hostCxlMemAccess addr n bytes) s = .next t ∧ t.mem = s.mem ∧ t.inputs = .cxlMem addr n bytes :: s.inputs ∧
        ∀ f, addr / 4096 ≤ f → f ≤ (addr + n - 1) / 4096 → f ∉ s.hostBias → ∃ p ∈ t.flips, p.frame = f ∧ p.toHost = true)) ∧
    (∀ addr n, s.phase ≠ .ready → exec (.hostCxlMemAccess addr n none) s =
      .next { s with host := { s.host with answer := List.replicate n 0#8 } }) ∧
    (∀ addr (bs : List Byte), NoWindows s → plain → (0x8000000000000 ≤ addr ∧ addr + bs.length ≤ 2 ^ 52 →
        ∃ t, exec (.hostWriteToHostMemory addr bs) s = .next t ∧ t.mem = s.mem.putAll memDefault ((bytesAt addr bs.length).zip bs)) ∧
      (addr < 0x8000000000000 → exec (.hostWriteToHostMemory addr bs) s = .next s)) ∧
    ∀ desc, NoWindows s → s.flips = [] → (∀ q ∈ s.outq, q.excl = false ∧ ∀ b ∈ q.bytes, b.1 < desc ∨ desc + 8 ≤ b.1) →
      let size := 2 ^ pageBits (homeNat s (desc + 8) 8 % 8)
      let pool := homeNat s (desc + 8) 8 / 4096 % 2 ^ 40 * 4096
      let ring := homeNat s (desc + 24) 8 % 2 ^ 52
      let cons := homeNat s (ring + 8) 8
      let ent := ring + 16 + 8 * (cons % 256)
      let f := homeNat s ent 8 / 4096 % 2 ^ 40 * 4096
      let link := homeNat s (desc + 16) 8 % 2 ^ 52 + 8 * ((f - pool) / size)
      let old := homeNat s desc 8
      let parts : List (Nat × Nat) := [(f, size), (link, 8), (desc, 8), (ent, 8), (ring + 8, 8)]
      homeNat s ent 8 % 2 = 1 → parts.Pairwise (fun p q => p.1 + p.2 ≤ q.1 ∨ q.1 + q.2 ≤ p.1) →
      ∃ t, exec (.frameRelease desc) s = .next t ∧ (∀ a, f ≤ a → a < f + size → homeByte t a = 0#8) ∧ homeNat t ent 8 = 0 ∧
        homeNat t (ring + 8) 8 = (cons + 1) % 2 ^ 64 ∧ homeNat t link 8 = old / 4096 % 2 ^ 40 * 4096 ∧ homeNat t desc 8 = f + (old + 1) % 4096 ∧
        ∀ a, (∀ p ∈ parts, a < p.1 ∨ p.1 + p.2 ≤ a) → homeByte t a = homeByte s a

/-- Acceptance, start, portions, credits and retirement of commands; auction rounds, decoded frames and walks (R156,
R33, R34, R117, R112, R116, R303, R307, R312, R313, R316, R337). Derived. Beside the spec it rests on readings and
choices of the model: log entries 33 (DEDUCED), 35 (DEDUCED), 37 (DEDUCED), 38 (DEDUCED), 73 (DESIGN CHOICE). -/
def Obligations.EngineCommandsRun : Prop :=
  ∀ (s : State) (c : Cmd) (g : Gang), s.cmd? c.id = some c → s.gang? c.gang = some g → g.dying = false →
    let gone (i : Instr) (f : Cmd → Prop) : Prop := ∃ t q, exec i s = .next t ∧ t.cmd? c.id = some q ∧ f q
    let failed (i : Instr) : Prop := c.portions = [] → gone i fun q => q.phase = .complete ∧ q.failed = true ∧ q.portions = []
    let runs (i : Instr) (ps : List Portion) : Prop := gone i fun q => q = { c with phase := .running, portions := ps }
    let body (i : Instr) (b : CmdBody) (ph : CmdPhase) : Prop := gone i fun q => q.body = b ∧ q.phase = ph
    let owes (i : Instr) (b : CmdBody) (l : List (List (Nat × List Byte))) : Prop := gone i fun q => q.body = b ∧ q.phase = .running ∧
      q.todo = l.filter fun g => !g.isEmpty
    let writes (i : Instr) : Prop := ∀ st r, c.todo = st :: r → st ≠ [] → ∃ g ∈ st, ∀ t, uWrite s (c.acc s) g.1 g.2 = .ok t →
      gone i fun q => q.body = c.body ∧ q.phase = c.phase ∧ q.todo = (st.erase g :: r).filter fun g => !g.isEmpty
    let idle : Prop := g.osq = [] ∧ ∀ e, envOf s c.gang c.agent = some e → e.a.outs = []
    (∀ die core,
      let clk := (s.die die).clk
      let ready (d : Cmd) : Prop := d ∈ s.cmds ∧ d.die = die ∧ d.core = core ∧ d.accepted = none ∧ d.offer < clk
      let first (d : Cmd) : Prop := ready d ∧ ∀ k, ready k → k.agent = d.agent → d.id ≤ k.id
      ((die, core, clk) ∈ s.accepts → exec (.engineCommandAccept die core) s = .next s) ∧
      ((∀ d, ¬ ready d) → exec (.engineCommandAccept die core) s = .next s) ∧
      ((die, core, clk) ∉ s.accepts → (∃ d, ready d) → (∀ d ∈ s.cmds, ∀ k ∈ s.cmds, d.id = k.id → d = k) →
        ∃ t d, exec (.engineCommandAccept die core) s = .next t ∧ first d ∧ (∀ k, first k → d.since ≤ k.since) ∧ t.fresh = s.fresh + 1 ∧
          t.cmd? d.id = some { d with accepted := some s.fresh } ∧ (die, core, clk) ∈ t.accepts ∧ ∀ k ∈ s.cmds, k.id ≠ d.id → k ∈ t.cmds)) ∧
    (∀ rec' l, c.gotAll l = none → ∃ p ∈ l, (∀ h ∈ c.got, (h.1, h.2.1) ≠ p) ∧ ∀ t v,
      (if rec' = true then recNat s c p.1 p.2 else uReadNat s (c.acc s) p.1 p.2) = .ok (t, v) →
        readNats s c rec' l = .error (.wait (t.updCmd c.id fun d => { d with got := d.got ++ [(p.1, p.2, v)] }))) ∧
    (∀ op tile raw desc rows swz, c.body = .copy op tile raw desc rows swz → mayStart s c = true →
      let t := g.tile (tile.getD 0)
      (op = .gath → (∀ r ∈ tileRuns t, r.2 ≠ 0 → g.inWindow r.1 r.2 = false) → gathPortions t rows swz ≠ [] →
        runs (.copyCommandStart c.id) (gathPortions t rows swz) ∧
        ((gathPortions t rows swz).map fun p => p.credit).sum = rows.length * tCols t * elemSize (tType t)) ∧
      (op ≠ .gath → desc = none → failed (.copyCommandStart c.id)) ∧
      (∀ vas u, op ≠ .gath → desc = some vas → readWords s c vas = .error (.wait u) → exec (.copyCommandStart c.id) s = .next u) ∧
      (∀ vas s1 ws s2 ext, op ≠ .gath → desc = some vas → readWords s c vas = .ok (s1, ws) →
        (shapeBad ws = true → failed (.copyCommandStart c.id)) ∧
        (shapeBad ws = false → readExts s1 c ws = .ok (s2, ext) →
          let h := shapeOf ws ext
          (copyBad s2 g (tile.map g.tile) raw h = true → failed (.copyCommandStart c.id)) ∧
          (copyBad s2 g (tile.map g.tile) raw h = false → copyPortions s2 op (tile.map g.tile) raw h ≠ [] →
            runs (.copyCommandStart c.id) (copyPortions s2 op (tile.map g.tile) raw h))))) ∧
    (∀ op tile raw desc rows swz (p : Portion), c.body = .copy op tile raw desc rows swz → s.cmds = [c] → c.phase = .running →
      c.portions = [p] → g.canon → idle →
      let i := Instr.enginePortionComplete c.id
      let ds := (p.moves.map fun m => m.dst).eraseDups
      let left (ids : List Nat) : Cmd := { c with portions := [{ p with moves := [], begun := true, ids := p.ids ++ ids }] }
      let ready (mem : Bool) : Prop := p.moves ≠ [] ∧ ∀ m ∈ p.moves, m.toMem = mem ∧ m.val.isSome = true ∧ ∀ n ∈ p.moves, n.dst / 4 = m.dst / 4
      let ends (t : State) : Prop := ∃ q g', exec i s = .next t ∧ t.cmd? c.id = some q ∧ q.portions = [] ∧
        q.credits = c.credits ++ creditParts p.credit ∧ (c.failed = false → q.tileDone = true) ∧ q.phase = .complete ∧ t.gang? c.gang = some g' ∧
        g'.os = g.os ∧ (∀ l, p.line = some l → ∀ k, k ∈ g'.full ↔ k = l ∧ p.begun = true ∨ k ∈ g.full) ∧ (p.line = none → g'.full = g.full) ∧
        ∀ k, k ∈ g'.osPoison ↔ k ∈ g.osPoison ∧ ¬ (p.whole = true ∧ p.mem = none ∧ p.line = some k)
      (∀ m s1 bs, p.moves = [m] → m.toMem = false → m.val = none → uRead s (c.acc s) m.src 1 c.hint = .ok (s1, bs) →
        gone i fun q => q = { c with portions := [{ p with moves := [{ m with val := some (ofBytes bs / 2 ^ m.sb % 2 ^ m.n) }] }], need := q.need }) ∧
      (∀ m, p.moves = [m] → m.toMem = true → m.val = none → g.window? m.src = none → lineOf m.src ∉ g.osPoison →
        gone i fun q => q = { c with portions := [{ p with moves := [{ m with val := some ((g.os.look 0#8 m.src).toNat / 2 ^ m.sb % 2 ^ m.n) }] }] }) ∧
      (ready false → (∀ d ∈ ds, g.window? d = none) → cmdShows s (c.acc s).who = true → ∃ t g', exec i s = .next t ∧ t.cmd? c.id = some (left []) ∧ t.mem = s.mem ∧
        t.gang? c.gang = some g' ∧ g'.full = g.full ∧
        ∀ a, g'.os.look 0#8 a = if a ∈ ds then movedByte p.moves a (g.os.look 0#8 a).toNat else g.os.look 0#8 a) ∧
      (∀ hs, ready true → s.outq = [] → s.atoms = [] → NoWindows s → copyHomes s (c.acc s) ds = .ok hs → ∃ t w, exec i s = .next t ∧ t.mem = s.mem ∧
        t.cmd? c.id = some (left [w.n]) ∧ t.outq = [w] ∧ w.die = c.die ∧ w.core = c.core ∧ w.agent = c.id ∧
        w.dup = hs.findSome? (fun h => h.2) ∧ w.bytes = (ds.zip (hs.map fun h => h.1)).map fun p' => (p'.2, movedByte p.moves p'.1 (homeByte s p'.2).toNat)) ∧
      (p.moves = [] → (p.ids = [] → ∃ t, ends t ∧ t.mem = s.mem) ∧
        ∀ w, s.outq = [w] → p.ids = [w.n] →
          (w.stuck s = true → exec i s = .next s) ∧
          (w.stuck s = false → w.win = none → w.need = [] → w.grp = 0 → NoWindows s → ∃ t, ends t ∧ t.outq = [] ∧ t.mem = s.mem.putAll memDefault w.bytes))) ∧
    (∀ n r, c.credits = n :: r → gone (.stageBarrierCredit c.id) (fun q => q = { c with credits := r }) ∧
      ∀ a, c.bar = some a → g.osq = [] → ∃ t g', exec (.stageBarrierCredit c.id) s = .next t ∧ t.gang? c.gang = some g' ∧ t.mem = s.mem ∧
        g'.os = g.os.putAll 0#8 ((bytesAt a 16).zip (toBytes 16 ((g.sbar a).credit n).word))) ∧
    (c.phase = .complete → c.credits = [] → (c.cls = .tok ∨ ∀ d ∈ s.cmds, d.samePlace c = true → c.id ≤ d.id) →
      ∃ t g', exec (.commandRetire c.id) s = .next t ∧ t.cmds = s.cmds.filter (fun d => d.id != c.id) ∧ t.mem = s.mem ∧ t.gang? c.gang = some g' ∧
        (∀ e, envOf s c.gang c.home = some e → ∃ b, envOf t c.gang c.home = some b ∧ b.a = { e.a with fflags := e.a.fflags ||| c.flags }) ∧
        ((∀ a ∈ g.agents, a.id ≠ c.home) →
          g'.applies = g.applies.map fun q => if c.home ∈ q.packs then { q with flags := q.flags ||| c.flags } else q)) ∧
    (∀ bf16 dst desc st0, c.body = .vdec bf16 dst desc st0 → mayStart s c = true →
      let busy := (s.cmds.filter fun d => d.cls == .vd && d.die == c.die && d.phase == .running && (s.gang? d.gang).isSome).length
      (4 ≤ busy → exec (.decodeStart c.id) s = .next s) ∧ (busy < 4 → desc = none → failed (.decodeStart c.id)) ∧
      ∀ vas s1 ws, busy < 4 → desc = some vas → readWords s c vas = .ok (s1, ws) →
        (decOf ws = none → failed (.decodeStart c.id)) ∧
        ∀ st, decOf ws = some st → (decRegionBad s1 g dst st.outMax = true → failed (.decodeStart c.id)) ∧
          (decRegionBad s1 g dst st.outMax = false → owes (.decodeStart c.id) (.vdec bf16 dst desc (some st)) [granules st.stat (decHeader st)])) ∧
    (∀ bf16 dst desc (st : DecSt), c.body = .vdec bf16 dst desc (some st) → c.phase = .running →
      let i := Instr.decodeFrame c.id
      let now (st' : DecSt) (entry : List (Nat × List Byte)) : Prop := owes i (.vdec bf16 dst desc (some st')) [entry, granules st'.stat (decHeader st')]
      let next : Prop := c.todo = [] ∧ st.pending = none ∧ c.portions = [] ∧ st.ended = 0 ∧ g.stop = none ∧ decTurn s c = true
      writes i ∧ (∀ w, c.todo = [] → st.pending = some w → body i (.vdec bf16 dst desc (some { st with pending := none })) .running) ∧
      (c.todo = [] → st.pending = none → c.portions = [] → st.ended ≠ 0 → body i c.body .complete) ∧
      (next → st.nfr = st.maxf → now { st with ended := 2 } []) ∧
      (∀ s1 n, next → st.nfr ≠ st.maxf → nextAv1 s c st = .finished s1 n → now { st with ended := 1, consumed := n } []) ∧
      (∀ s1 f len, next → st.nfr ≠ st.maxf → nextAv1 s c st = .frame s1 f len →
        let n := av1Tiles f * (if bf16 then 12288 else 6144)
        let st' : DecSt := { st with srcLen := len, nfr := st.nfr + 1, consumed := f.consumed, offs := st.offs + n, pending := some (statEntry f st.offs) }
        (st.outMax < st.offs + n → now { st with srcLen := len, ended := 3 } []) ∧
        (st.offs + n ≤ st.outMax → now st' (granules ((st.stat + 16 * (st.nfr + 1)) % 2 ^ 52) (toBytes 16 (statEntry f st.offs)))))) ∧
    (∀ regs st0, c.body = .auct regs st0 → auctTurn s c = true →
      let d := auctD regs
      let first : AuctSt := ⟨BitVec.ofNat 32 d.e0, 0, 1, [], [], List.replicate d.n .unassigned, 0, 0⟩
      (c.phase = .queued → c.open s = true → owes (.auctionStart c.id) (.auct regs (some first)) (areaStages d first 0 false)) ∧
      (∀ st, c.phase = .running → st0 = some st → st.code = 0 → st.caps = [] → c.open s = true → writes (.auctionStart c.id) ∧
        ∀ s1 vs, c.todo = [] → readNats s c true (d.capVas.map (fun va => (va, 2)) ++ d.priceVas.map fun va => (va, 4)) = .ok (s1, vs) →
          let caps := vs.take d.m
          let ps := vs.drop d.m
          let bad (k : Nat) : Prop := let st' := { st with code := 4, reason := k }
            owes (.auctionStart c.id) (.auct regs (some st')) [granules d.res (toBytes 8 (statusWord st' 4))]
          (0 ∈ caps → bad 1) ∧ (0 ∉ caps → (∃ p ∈ ps, finite32 p = false) → bad 2) ∧
          (0 ∉ caps → (∀ p ∈ ps, finite32 p = true) →
            body (.auctionStart c.id) (.auct regs (some { st with caps := caps, prices := ps.map fun p => BitVec.ofNat 32 p })) .running)) ∧
      (∀ st, c.phase = .running → st0 = some st → st.code = 0 → st.caps ≠ [] → g.stop = none → idle →
        let i := Instr.auctionRound c.id
        let as := roundBytes d st
        let gm := g.mixEarly s.tick c.early as
        let st' := auctRound gm d st
        let round : Prop := (st'.code = 0 → body i (.auct regs (some st')) .running) ∧
          (st'.code ≠ 0 → owes i (.auct regs (some st')) (areaStages d st' st'.code true))
        (scoreBad g d st = true → body i c.body .complete) ∧
        (scoreBad g d st = false → (c.early ≠ none → round) ∧
          (c.early = none → round ∨ gone i fun q => q = { c with early := some (g.readEarly as) })) ∧
        (∀ a, gm.os.look 0#8 a = g.os.look 0#8 a ∨ ∃ m, c.early = some m ∧ gm.os.look 0#8 a = m.look 0#8 a) ∧
        st'.rounds = st.rounds + 1 ∧ (d.limit ≤ st'.rounds → st'.code ≠ 0) ∧
        (∀ j, (holdersOf st.rows j).length ≤ st.caps.getD j 0 → (holdersOf st'.rows j).length ≤ st.caps.getD j 0) ∧
        ∀ j, lt32 (st'.prices.getD j 0#32).toNat (st.prices.getD j 0#32).toNat = false) ∧
      (∀ st, c.phase = .running → st0 = some st → st.code ≠ 0 → st.code ≠ 3 → writes (.auctionRound c.id) ∧
        (c.todo = [] → body (.auctionRound c.id) c.body .complete)) ∧
      (∀ s1 vs s2 caps, c.phase = .saved → g.stop = none → readNats s c false d.areaVas = .ok (s1, vs) →
        readNats s1 c true (d.capVas.map fun va => (va, 2)) = .ok (s2, caps) → 0 ∉ caps →
        body (.auctionRestore c.id) (.auct regs (some ((List.range d.m).foldl keepTop (reloaded d vs caps)))) .running)) ∧
    (∀ regs st, c.body = .auct regs (some st) → c.phase = .running → let i := Instr.auctionSave c.id
      (st.code = 0 → st.caps ≠ [] → g.stop.isSome = true →
        owes i (.auct regs (some { st with code := 3 })) (areaStages (auctD regs) { st with code := 3 } 3 true)) ∧
      (st.code = 3 → writes i ∧ (c.todo = [] → body i (.auct regs none) .saved))) ∧
    (∀ tl desc, c.body = .walk tl desc none → mayStart s c = true → walkTurn s c = true → g.stop = none →
      (∀ r ∈ tileRuns (g.tile tl), r.2 ≠ 0 → g.inWindow r.1 r.2 = false) →
      (desc = none → failed (.walkStart c.id)) ∧
      ∀ vas s1 ws, desc = some vas → readWords s c vas = .ok (s1, ws) → (walkDescBad ws = true → failed (.walkStart c.id)) ∧
        let base := ws.getD 0 0 % 2 ^ 52
        let n := ws.getD 0 0 / 2 ^ 56 % 256 + 1
        let words := (List.range ((base % 8 + 4 * n + 7) / 8)).map fun k => (base - base % 8 + 8 * k, 8)
        let form := (List.range 32).map fun k => ((ws.getD 1 0 % 2 ^ 52 + 8 * k) % 2 ^ 52, 8)
        ∀ s2 vs, walkDescBad ws = false → readNats s1 c false (words ++ form) = .ok (s2, vs) →
          let code := (vs.take words.length).flatMap (toBytes 8)
          let prog := (List.range n).map fun k => BitVec.ofNat 32 (ofBytes ((code.drop (base % 8 + 4 * k)).take 4))
          let fmt := (vs.drop words.length).map fun v => BitVec.ofNat 64 v
          (fmtBad fmt (tType (g.tile tl)) = false → body (.walkStart c.id) (.walk tl desc (some (walkInit ws prog fmt))) .running) ∧
          (fmtBad fmt (tType (g.tile tl)) = true → gone (.walkStart c.id) fun q => ∃ st, q.body = .walk tl desc (some st) ∧ st.ended = some (9, 0))) ∧
    ∀ tl desc (st : WalkSt), c.body = .walk tl desc (some st) → c.phase = .running → st.ended = none →
      (g.stop = none → 2 ^ 24 ≤ st.steps → let st' := { st with ended := some (7, st.next), written := true, staged := [] }
        owes (.walkerStepLimit c.id) (.walk tl desc (some st')) [granules st.stat (toBytes 8 st'.word)]) ∧
      (g.stop.isSome = true → body (.walkStop c.id) (.walk tl desc none) .saved)

/-- The launch unit takes blocks in turn; gangs are handed out, stolen in chunks, placed and restored (R148, R132,
R379, R149, R150, R151, R152, R153, R128, R46, R133, R355). Derived. Beside the spec it rests on readings and choices
of the model: log entries 46 (DEDUCED), 47 (DESIGN CHOICE), 71 (DEDUCED). -/
def Obligations.GridsAreLaunchedAndPlaced : Prop :=
  ∀ (s : State), s.Inv → s.Canon → NoWindows s → s.bar0.lq.length = 16 →
    let rd (a : Acc) (va n v : Nat) : Prop := uReadNat s a va n = .ok (s, v)
    let logged (t : State) : Prop := t.izsil.logSeq = s.izsil.logSeq + 1
    let errAt (as : List Nat) (code : Nat) : Table Byte :=
      s.mem.putAll memDefault [(as.getD 4 0, homeByte s (as.getD 4 0) ||| 1#8), (as.getD 5 0, BitVec.ofNat 8 code)]
    let sound (as : List Nat) : Prop := as ≠ [] ∧ s.outq = [] ∧ ∀ k ∈ as, poisoned s k = false
    let turn (q : Nat) : Prop := s.reading = [] ∧ launchable s q = true ∧ ∃ j, j < 17 ∧ q = (s.lastVisit + 1 + j) % 17 ∧
      ∀ i, i < j → launchable s ((s.lastVisit + 1 + i) % 17) = false
    let took (q : Nat) (t : State) : Prop := t.lastVisit = q ∧ t.reading = [] ∧ (q = 16 → t.dlq = s.dlq.tail) ∧
      (q < 16 → t.dlq = s.dlq ∧ t.bar0.lq = s.bar0.lq.set q { lqOf s q with head := (lqOf s q).head + 1#32 })
    let visit (P : State → Prop) : Prop := ∃ t, exec .launchUnitVisit s = .next t ∧ P t
    let failed (q asid : Nat) (ws : List Nat) (code : Nat) : Prop :=
      let c := ws.getD 6 0
      let record : Prop := c ≠ 0 ∧ c < 2 ^ 52 ∧ c % 16 = 0
      (¬ record → visit fun t => took q t ∧ t.mem = s.mem ∧ t.grids = s.grids ∧ s.izsil.logSeq < t.izsil.logSeq) ∧
      ∀ as, record → sound as → uWriteAddrs s ⟨unitWho s asid 0, .launch q, 0#52⟩ c 16 = .ok as →
        visit fun t => took q t ∧ t.mem = errAt as code ∧ t.grids = s.grids
    let reads (q asid va : Nat) (ws : List Nat) : Prop :=
      let a : Acc := ⟨unitWho s asid 0, .launch q, 0#52⟩
      let at' := va + 8 * ws.length
      ws.length < 32 → (∀ s', uReadNat s a at' 8 = .error (.wait s') → exec .launchUnitVisit s = .next { s' with reading := [(q, va :: ws)] }) ∧
      (∀ s' c, uReadNat s a at' 8 = .error (.fail s' c) → failed q asid ws 5) ∧
      ∀ w, rd a at' 8 w → (ws.length < 31 → exec .launchUnitVisit s = .next { s with reading := [(q, va :: (ws ++ [w]))] }) ∧
        (ws.length = 31 → (∀ code, blockError s (ws ++ [w]) = some code → failed q asid (ws ++ [w]) code) ∧
          (blockError s (ws ++ [w]) = none → visit fun t => took q t ∧ t.mem = s.mem ∧
            (asid ∈ s.deadCtx → t.grids = s.grids ∧ logged t) ∧
            (asid ∉ s.deadCtx → ∃ g, t.grids = s.grids ++ [g] ∧ g.n = s.fresh ∧ g.asid = asid ∧ g.blk = blockOf (ws ++ [w]) ∧ g.next = 0 ∧
              g.ended = false ∧ ∀ d, d < 8 → ∀ c, c ∈ g.chunks.getD d [] ↔ g.blk.spread = true ∧ 64 * c < g.blk.ngang ∧ c % 8 = d)))
    (s.reading = [] → (∀ q, q < 17 → launchable s q = false) → exec .launchUnitVisit s = .next s) ∧
    (∀ q va ws rest, s.reading = (q, va :: ws) :: rest → reads q (if q = 16 then (s.dlq.headD (0, 0)).1 else (lqOf s q).asid.toNat) va ws) ∧
    (∀ asid va rest, turn 16 → s.dlq = (asid, va) :: rest → reads 16 asid va []) ∧
    (∀ q, q < 16 → turn q →
      let l := lqOf s q
      let asid := l.asid.toNat
      let a : Acc := ⟨unitWho s asid 0, .launch q, 0#52⟩
      let at' := (l.base.toNat + 8 * (l.head.toNat % 2 ^ l.lsz.toNat)) % 2 ^ 52
      (ctxValid s asid = false → ∃ t, exec .launchUnitVisit s = .next t ∧ took q t ∧ logged t ∧ t.grids = s.grids ∧ t.mem = s.mem) ∧
      (∀ s' c, ctxValid s asid = true → uReadNat s a at' 8 = .error (.fail s' c) → ∃ t, exec .launchUnitVisit s = .next t ∧
        (lqOf t q).en = false ∧ (lqOf t q).err = true ∧ (lqOf t q).head = l.head ∧ t.grids = s.grids ∧ t.mem = s.mem) ∧
      (∀ v, ctxValid s asid = true → rd a at' 8 v → (2 ^ 52 ≤ v ∨ v % 256 ≠ 0) →
        ∃ t, exec .launchUnitVisit s = .next t ∧ took q t ∧ logged t ∧ t.grids = s.grids ∧ t.mem = s.mem) ∧
      ∀ v, ctxValid s asid = true → rd a at' 8 v → v < 2 ^ 52 → v % 256 = 0 → reads q asid v []) ∧
    (∀ n g, s.grid? n = some g → g.blk.spread = false → g.pending = true →
      let a : Acc := ⟨unitWho s g.asid 0, .map n, 0#52⟩
      let at' := (g.blk.map.toNat + g.next) % 2 ^ 52
      let handed (t : State) (d : Nat) : Prop := t.waitGangs = s.waitGangs ++ [⟨d, n, g.next, none, g.blk.prio, s.fresh, 0⟩] ∧
        t.grids = updWhere (fun h => h.n == n) (fun h => { h with next := h.next + 1 }) s.grids ∧ t.gangs = s.gangs
      let freest (d : Nat) : Prop := d < 8 ∧ ∀ k, k < 8 → dieFree s k < dieFree s d ∨ dieFree s k = dieFree s d ∧ d ≤ k
      (∀ b, rd a at' 1 b → b < 8 → ∃ t, exec (.gangHandout n) s = .next t ∧ handed t b ∧ t.mem = s.mem) ∧
      (rd a at' 1 255 → ∃ t d, exec (.gangHandout n) s = .next t ∧ freest d ∧ handed t d ∧ t.mem = s.mem) ∧
      (∀ b as, rd a at' 1 b → 8 ≤ b → b < 255 → g.blk.cmpla ≠ 0#52 → sound as → uWriteAddrs s a g.blk.cmpla.toNat 16 = .ok as →
        ∃ t d, exec (.gangHandout n) s = .next t ∧ freest d ∧ handed t d ∧ t.mem = errAt as 1) ∧
      ∀ s' c as, uReadNat s a at' 1 = .error (.fail s' c) → g.blk.cmpla ≠ 0#52 → sound as → uWriteAddrs s' a g.blk.cmpla.toNat 16 = .ok as →
        ∃ t, exec (.gangHandout n) s = .next t ∧ t.mem = errAt as 5 ∧ t.waitGangs = s.waitGangs ∧ t.gangs = s.gangs ∧
          ∀ h ∈ t.grids, h.n = n → h.ended = true) ∧
    (∀ n g die, s.grid? n = some g → g.blk.spread = true → die < 8 → g.chunks.length = 8 → g.victim.length = 8 → g.dry.length = 8 →
      g.chunks.getD die [] = [] → gridWaits s n (some die) = false → g.dry.getD die 0 < 7 → (coreFor s die g.blk).isSome = true →
      let vic := g.victim.getD die 0
      let theirs := g.chunks.getD vic []
      let keep := theirs.length / 2
      (g.ownFirst s vic = true → exec (.stealMessage n die) s = .next s) ∧
      (g.ownFirst s vic = false → vic < 8 → vic ≠ die → theirs.Pairwise (· < ·) → ∃ (t : State) (h : Grid), exec (.stealMessage n die) s = .next t ∧ t.grid? n = some h ∧
        h.chunks.getD die [] = theirs.drop keep ∧ h.chunks.getD vic [] = theirs.take keep ∧
        (∀ d, d ≠ die → d ≠ vic → h.chunks.getD d [] = g.chunks.getD d []) ∧
        h.victim.getD die 0 = (if (vic + 1) % 8 = die then (vic + 2) % 8 else (vic + 1) % 8) ∧
        h.dry.getD die 0 = (if theirs = [] then g.dry.getD die 0 + 1 else 0) ∧ (∀ c ∈ theirs.drop keep, h.order c = s.fresh) ∧ t.gangs = s.gangs ∧ t.mem = s.mem)) ∧
    (∀ die, (waiting s die).Pairwise (fun a b => b.prio < a.prio ∨ b.prio = a.prio ∧ (a.frame.isSome = true ∧ b.frame = none ∨
      a.frame.isSome = b.frame.isSome ∧ (a.order < b.order ∨ a.order = b.order ∧ a.idx ≤ b.idx)))) ∧
    (∀ die, placeNext s die = none → exec (.gangPlace die) s = .next s) ∧
    (∀ die w core f g, placeNext s die = some (w, core, f) → savedFor s w = none → waitBlock s w = some g.blk → s.grid? w.grid = some g →
      let free (c : Nat) : Nat := freeSlots s die c
      let others : List Gang := s.gangs.filter fun h => h.die == die && h.core == core
      (∃ p r, waiting s die = p ++ w :: r ∧ ∀ w' ∈ p, waitBlock s w' = none ∨ heldBack (waiting s die) w' = true ∨
        ∃ b, waitBlock s w' = some b ∧ coreFor s die b = none) ∧
      core < 32 ∧ 32 * die + core ∉ s.fenced ∧
      (∀ c, c < 32 → 32 * die + c ∉ s.fenced → fitWith (coreGangs s die c) g.blk ≠ none → free c < free core ∨ free c = free core ∧ core ≤ c) ∧
      ∃ (t : State) (n : Gang), exec (.gangPlace die) s = .next t ∧ t.mem = s.mem ∧ t.gangs = s.gangs ++ [n] ∧ (w ∈ s.waitGangs → w ∉ t.waitGangs) ∧
        n.die = die ∧ n.core = core ∧ n.grid = w.grid ∧ n.idx = w.idx ∧ n.asid = g.asid ∧ n.blk = g.blk ∧ n.raf = ctxRaf s g.asid ∧
        n.osLines = (g.blk.roles.map fun r => r.osl).sum ∧ n.accNos.length = g.blk.nacc ∧ n.tileNos.length = g.blk.ntile ∧
        (n.osLines ≠ 0 → n.osFirst + n.osLines ≤ 8192 ∧ ∀ h ∈ others, h.osLines = 0 ∨ h.osFirst + h.osLines ≤ n.osFirst ∨
          n.osFirst + n.osLines ≤ h.osFirst) ∧
        (∀ k ∈ n.accNos, k < 16 ∧ ∀ h ∈ others, k ∉ h.accNos) ∧ (∀ k ∈ n.tileNos, k < 64 ∧ ∀ h ∈ others, k ∉ h.tileNos) ∧
        n.os = [] ∧ n.full = [] ∧ n.tiles = [] ∧ n.accs = [] ∧ n.stop = none ∧ n.dbg = 0#64 ∧
        n.agents.length = (g.blk.roles.map fun r => (r.grp + 1) * r.warps).sum ∧
        (∀ h ∈ n.wgs, ∀ r, r < 1024 → (h.hands.getD 0 0#1024).getLsbD r = decide (r < h.warps * h.g)) ∧
        ∀ a ∈ n.agents, ∃ r ∈ g.blk.roles, a.pc = g.blk.code + BitVec.ofNat 52 r.entry ∧ a.place < r.warps ∧ a.pk = r.g ∧ a.depth = 0 ∧
          a.isPack = false ∧ a.st = .runnable ∧ a.v = [] ∧ a.rs 1 = g.blk.argp.setWidth 64 ∧ (∀ k, k ≠ 1 → a.rs k = 0#64) ∧ a.k = 1#8 ∧
          a.i = 0#32 ∧ a.fflags = 0#5 ∧ a.trap = 0#64 ∧ a.rcnt = 0 ∧ a.outs = [] ∧ (∀ k, k < 14 → a.b.look 0#256 k = 0#256) ∧
          a.b.look 0#256 14 = BitVec.ofNat 256 (g.blk.argp.toNat + g.blk.argsz / 8 * 2 ^ 64 + 8 * 2 ^ 96 + 3 * 2 ^ 120 + 2 ^ 127) ∧
          a.b.look 0#256 15 = BitVec.ofNat 256 ((g.blk.tlbase.toNat + (w.idx * g.blk.nwg + a.wg) * 4096 * g.blk.tlw) % 2 ^ 52 +
            1024 * g.blk.tlw * 2 ^ 64 + 4 * 2 ^ 96 + 2 * 2 ^ 120 + 2 ^ 127)) ∧
    ∀ die w core f v, placeNext s die = some (w, core, f) → savedFor s w = some v → s.flips = [] → v.pool = none →
      ∃ (t : State) (n : Gang), exec (.gangPlace die) s = .next t ∧ t.gangs = s.gangs ++ [n] ∧ (∀ u ∈ t.saved, u.frame ≠ v.frame) ∧ n.uid = v.gang.uid ∧
        n.die = v.gang.die ∧ n.core = core ∧ n.idx = v.gang.idx ∧ n.os = v.gang.os ∧ n.full = v.gang.full ∧ n.tiles = v.gang.tiles ∧
        n.accs = v.gang.accs ∧ n.wgs = v.gang.wgs ∧ n.raf = ctxRaf s v.gang.asid ∧ n.agents.length = v.gang.agents.length ∧
        ∀ (k : Nat) (a0 : Agent), v.gang.agents[k]? = some a0 → ∃ a : Agent, n.agents[k]? = some a ∧ a.id = a0.id ∧ a.v = a0.v ∧ a.b = a0.b ∧ a.k = a0.k ∧
          a.stopped = false ∧ a.pc = BitVec.ofNat 52 (homeNat s (v.frame + 0x1000 + 1280 * k) 8) ∧ ∀ j, 0 < j → j < 64 →
            a.rs j = BitVec.ofNat 64 (homeNat s (v.frame + 0x1000 + 1280 * k + 0xC0 + 8 * j) 8)

/-- Long waits and pre-emption mark a gang, a marked gang is saved or killed, and a gang ends with its record (R159,
R160, R161, R208, R352, R353, R378, R354, R356, R134, R143, R357). Derived. Beside the spec it rests on readings and
choices of the model: log entries 40 (DEDUCED), 21 (UNVERIFIED). -/
def Obligations.GangsStopAreSavedAndEnd : Prop :=
  ∀ (s : State), s.Inv → NoWindows s → s.outq = [] → s.flips = [] → s.memPoison = [] →
    let clk (g : Gang) : Nat := (s.die g.die).clk
    let yields (p : Stop) : Prop := p.cause = .longWait ∨ p.cause = .pageFault
    let back (t : State) (v : Saved) : Prop := t.waitGangs =
      s.waitGangs ++ [⟨v.gang.die, v.gang.grid, v.gang.idx, some v.frame, v.gang.blk.prio, s.fresh, 0⟩]
    (∀ uid g, s.gang? uid = some g → g.dying = false → g.stop = none →
      ((∃ a ∈ g.agents, ∃ due, a.st = .waiting due ∧ due < clk g) → ∃ t, exec (.longWaitThreshold uid) s = .next t ∧ t.mem = s.mem ∧
        t.gang? uid = some { g with stop := some ⟨.longWait, clk g, false, none, none⟩ }) ∧
      ((∀ a ∈ g.agents, ∀ due, a.st = .waiting due → clk g ≤ due) → exec (.longWaitThreshold uid) s = .next s)) ∧
    (∀ uid n id g r e, s.gang? uid = some g → (g.rdvs.find? fun q => q.n == n) = some r → r.kind = .apply →
      (clk g < r.due → exec (.rendezvousTimeout uid n) s = .next s) ∧ (r.due ≤ clk g → r.arrived = [id] →
      let drop := s.updGang uid fun g => { g.noteHit with rdvs := g.rdvs.filter fun q => q.n != n }
      envOf drop uid id = some e → exec (.rendezvousTimeout uid n) s = .next (takeTrap drop e ⟨⟨10, 0, none⟩, 5, 0, 3, e.a.pc⟩))) ∧
    (∀ w : DWord, w.getLsbD 62 = false → ∃ t, exec (.preemptRequest w) s = .next t ∧ t.mem = s.mem ∧ t.saved = s.saved ∧
      t.bar0.preAsid = w.extractLsb' 0 16 ∧ (t.bar0.busy = true ↔ ∃ g ∈ t.gangs, ∃ p, g.stop = some p ∧ p.cause = .preempt) ∧
      ∀ (j : Nat) (g : Gang), s.gangs[j]? = some g →
        let free : Prop := g.stop = none ∨ ∃ p, g.stop = some p ∧ yields p
        let due := clk g + (s.die g.die).pretime.toNat
        let named : Prop := w.getLsbD 63 = true ∧ g.asid = (w.extractLsb' 0 16).toNat ∧ g.blk.preempt = true
        (named → g.stop = none → t.gangs[j]? = some { g with stop := some ⟨.preempt, due, false, none, none⟩ }) ∧
        (∀ p, named → g.stop = some p → yields p → t.gangs[j]? = some { g with stop := some { p with cause := .preempt, due := due, hit := false } }) ∧
        (¬ (named ∧ free) → t.gangs[j]? = some g)) ∧
    (∀ w : DWord, (w.getLsbD 62 = false → exec (.resumeRequest w) s = .next { s with bar0 := { s.bar0 with preAsid := w.extractLsb' 0 16 } }) ∧
      ∀ v, w.getLsbD 62 = true → s.saved = [v] → v.gang.asid = (w.extractLsb' 0 16).toNat → v.cause = .preempt → v.returning = false →
        ∃ t, exec (.resumeRequest w) s = .next t ∧ back t v ∧ t.saved = [{ v with returning := true }] ∧ t.mem = s.mem) ∧
    (∀ uid g p, s.gang? uid = some g → g.stop = some p →
      let late : Prop := p.due ≤ clk g ∧ p.since = none ∧ ¬ (gangStopped g = true ∧ enginesSettled s g = true) ∧ ¬ yields p
      (late → exec (.preemptTimeout uid) s = .next (s.updGang uid fun g => { g with dying := true })) ∧
      (¬ late → exec (.preemptTimeout uid) s = .next s)) ∧
    (∀ uid g p, s.gang? uid = some g → g.stop = some p → g.dying = false → gangStopped g = true →
      let kept (v : Saved) : Prop := v.gang.uid = uid ∧ v.gang.os = g.os ∧ v.gang.full = g.full ∧ v.gang.tiles = g.tiles ∧ v.gang.accs = g.accs ∧
        v.gang.wgs = g.wgs ∧ v.gang.stop = none ∧ v.gang.agents.length = g.agents.length ∧ ∀ (j : Nat) (a : Agent), g.agents[j]? = some a →
          ∃ b : Agent, v.gang.agents[j]? = some b ∧ b.pc = a.pc ∧ b.st = a.st ∧ b.v = a.v ∧ b.s = a.s ∧ b.b = a.b ∧ b.k = a.k ∧ b.rcache = a.rcache
      let desc := g.die * 0xC00000000 + 0x40
      let f := homeNat s desc 8 / 4096 % 2 ^ 40 * 4096
      let pool : Prop := yields p ∨ p.cause = .preempt ∨ g.self = none ∧ ∃ a c, p.cause = .halt a c
      let ready : Prop := saveReady s g = true ∧ g.osq = []
      let stays (q : Stop) : Gang := { g with stop := some q }
      (pool → p.frame = none → f ≠ 0 → ∃ t, exec (.gangSave uid) s = .next t ∧
        t.gang? uid = some (stays { p with frame := some f, since := none, due := p.due + (clk g - p.since.getD (clk g)) }) ∧
        ∀ b, (b < desc ∨ desc + 8 ≤ b) → homeByte t b = homeByte s b) ∧
      (yields p → p.frame = none → f = 0 → s.cmds = [] → exec (.gangSave uid) s = .next (s.updGang uid fun g =>
        { g with stop := none, agents := g.agents.map wakeAgent })) ∧
      (pool → ¬ yields p → p.frame = none → f = 0 → exec (.gangSave uid) s = .next (s.updGang uid fun g =>
        { g with stop := some { p with since := some (p.since.getD (clk g)) } })) ∧
      (∀ fr q a k, ready → p.cause = .ctxs fr q a k → p.frame = none → let img := frameImage s g fr
        ∃ (t : State) (v : Saved), exec (.gangSave uid) s = .next t ∧ (∀ h ∈ t.gangs, h.uid ≠ uid) ∧ v ∈ t.saved ∧ v.frame = fr ∧ v.cause = .ctxs ∧
          v.pool = none ∧ kept v ∧ t.mem = s.mem.putAll memDefault ((bytesAt fr img.length).zip img) ∧
          ∀ e, q ≠ uid → envOf s q a = some e → ∃ b, envOf t q a = some b ∧ b.a = { e.a with prog := 2 }) ∧
      ∀ h, ready → pool → p.frame = some h → ∃ (t : State) (v : Saved), exec (.gangSave uid) s = .next t ∧
        t.gangs = s.gangs.filter (fun h => h.uid != uid) ∧ v ∈ t.saved ∧ v.frame = h ∧ v.pool = some g.die ∧ kept v ∧
        (∀ b, (b < h ∨ h + g.layout.size ≤ b) → homeByte t b = homeByte s b) ∧
        (p.hit = true → (yields p ∨ p.cause = .preempt) → v.returning = true) ∧ (p.hit = false → ¬ yields p → v.returning = false) ∧
        (v.returning = true → ∃ w ∈ t.waitGangs, w.frame = some h ∧ w.die = g.die) ∧ (v.returning = false → t.waitGangs = s.waitGangs) ∧
        ∀ a c (k : Nat) (r : Agent), p.cause = .halt a c → g.agents[k]? = some r → r.id = a → (∀ j, j < k → ∀ q, g.agents[j]? = some q → q.id ≠ a) →
          homeNat t (h + 8) 8 = 2 ^ 63 + k % 2 ^ 16 * 2 ^ 32 + c % 32 ∧
          ∃ m ∈ t.mail, m.die = g.die ∧ m.core = g.core ∧ m.entries.getLast? = some (BitVec.ofNat 64 h)) ∧
    (∀ uid g p, s.gang? uid = some g → g.stop = some p → yields p → p.hit = false →
      (gangCond s g = true → ∃ t g', exec (.watchedCondition uid) s = .next t ∧ t.gang? uid = some g' ∧ g' = { g with stop := some { p with hit := true } } ∧
        t.mem = s.mem) ∧
      (gangCond s g = false → exec (.watchedCondition uid) s = .next s)) ∧
    (∀ uid v, s.gang? uid = none → s.saved = [v] → v.gang.uid = uid → (v.cause = .longWait ∨ v.cause = .pageFault) → v.returning = false →
      (gangCond s v.gang = true → comesBack s v.gang = true) ∧
      (comesBack s v.gang = true → ∃ t, exec (.watchedCondition uid) s = .next t ∧ back t v ∧ t.saved = [{ v with returning := true }]) ∧
      (comesBack s v.gang = false → exec (.watchedCondition uid) s = .next s)) ∧
    ∀ uid g, s.gang? uid = some g → s.cmds = [] → s.appended = [] → s.parked = [] → g.osq = [] → (∀ p, g.stop = some p → p.frame = none) →
      let gone (t : State) : Prop := t.gangs = s.gangs.filter (fun h => h.uid != uid) ∧ ∀ w ∈ t.waiters, w.gang ≠ uid
      (g.dying = false → gangOver s g = true → g.blk.cmpla = 0#52 → ∃ t, exec (.gangComplete uid) s = .next t ∧ gone t ∧ t.mem = s.mem) ∧
      (g.dying = false → gangOver s g = false → exec (.gangComplete uid) s = .next s) ∧
      (g.dying = false → exec (.gangKill uid) s = .next s) ∧
      (g.dying = true → (∀ v ∈ s.saved, v.gang.uid ≠ uid) → g.blk.cmpla = 0#52 → g.die < s.dies.length → ∃ t, exec (.gangKill uid) s = .next t ∧
        gone t ∧ t.mem = s.mem ∧ (g.isFault = true → (t.die g.die).noService = true)) ∧
      ∀ as, uWriteAddrs s ⟨⟨g.die, 32, uid, 0, g.asid, g.raf, g.ident, g.rafOwn, 0, none⟩, .exit uid, 0#52⟩ g.blk.cmpla.toNat 16 = .ok as → as.length = 16 →
        as.Nodup → g.blk.cmpla ≠ 0#52 →
        let w := ofBytes (as.map (homeByte s))
        let count := w % 2 ^ 32
        let less := (as.take 4).zip (toBytes 4 (count - 1))
        0 < count → (count ≠ 1 ∨ w / 2 ^ 64 % 2 ^ 52 = 0) →
        (g.dying = false → gangOver s g = true → ∃ t, exec (.gangComplete uid) s = .next t ∧ gone t ∧ t.mem = s.mem.putAll memDefault less) ∧
        (g.dying = true → (∀ v ∈ s.saved, v.gang.uid ≠ uid) → ∃ t, exec (.gangKill uid) s = .next t ∧ gone t ∧
          t.mem = s.mem.putAll memDefault ([(as.getD 4 0, homeByte s (as.getD 4 0) ||| 1#8), (as.getD 5 0, 7#8)] ++ less))

/-- The image that a save writes: header, agent records, hands, tiles, accumulators and operand store (R354, R355,
R356). Derived. -/
def Obligations.FramesHoldTheGang : Prop :=
  ∀ (s : State) (g : Gang) (f : Nat),
    let img := frameImage s g f
    let at' (off n : Nat) : Nat := ofBytes ((img.drop off).take n)
    let nag := g.agents.length
    let hoff := at' 0x48 8
    let toff := at' 0x50 8
    let moff := at' 0x58 8
    let voff := at' 0x60 8
    let ooff := at' 0x68 8
    let regs := (g.wgs.map fun w => (w.warps * w.g + 63) / 64 * w.vregs).sum
    img.length = 4096 + 1280 * nag + 2048 * g.wgs.length + 1024 + 16384 * g.accNos.length + 256 * regs + 128 * g.osLines + 256 * g.aside ∧
    (img.length < 2 ^ 32 → nag < 2 ^ 16 →
      at' 0 8 = img.length + nag * 2 ^ 32 + 2 ^ 48 ∧ at' 8 8 = 0 ∧ at' 0x10 8 = g.dbg.toNat ∧ (∀ k, k < 4 → at' (0x18 + 8 * k) 8 = (g.wp.getD k 0#64).toNat) ∧
      at' 0x38 8 = f % 2 ^ 64 ∧ at' 0x40 8 = 0x1000 ∧ hoff = 0x1000 + 1280 * nag ∧ toff = hoff + 2048 * g.wgs.length ∧ moff = toff + 1024 ∧
      voff = moff + 16384 * g.accNos.length ∧ ooff = voff + 256 * regs ∧ at' 0x70 8 = (if g.aside = 0 then 0 else ooff + 128 * g.osLines) ∧
      (∀ (k : Nat) (a : Agent), g.agents[k]? = some a →
        let r (off n : Nat) : Nat := at' (0x1000 + 1280 * k + off) n
        r 0 8 % 2 ^ 60 = a.pc.toNat ∧ (a.st = .runnable → r 0 8 / 2 ^ 60 = 0) ∧ (∀ due, a.st = .waiting due → r 0 8 / 2 ^ 60 = 1) ∧
        (a.st = .ended → r 0 8 / 2 ^ 60 = 3) ∧ r 8 8 = a.trap.toNat ∧ r 0x10 8 = a.tepc.toNat ∧ r 0x18 8 = a.tinfo.toNat ∧ r 0x20 8 = a.fflags.toNat ∧
        (∀ n, n < 8 → (∀ c ∈ [CmdClass.cp, .mx, .rd, .rt, .au, .fw, .vd], Env.counter ⟨g, a, g.wgs.getD a.wg default⟩ s c < 2 ^ 8) →
          (bitN (r 0x28 8) (56 + n) = a.rk n)) ∧
        r 0x30 4 = a.i.toNat ∧ (a.rcnt < 128 → r 0x34 1 = a.rcnt ∧ ∀ n, n < 16 → bitN (r 0x36 2) n = (a.tokens.getD n .idle == .busy)) ∧
        (∀ n, n < 16 → r (0x40 + 8 * n) 8 = (a.rcache.getD n 0#64).toNat) ∧ (∀ n, n < 64 → r (0xC0 + 8 * n) 8 = (a.rs n).toNat) ∧
        ∀ n, n < 16 → r (0x2C0 + 32 * n) 32 = (a.b.look 0#256 n).toNat) ∧
      (∀ (w : Nat) (h : Wg) (n : Nat), g.wgs[w]? = some h → n < 16 → n ≠ 1 → at' (hoff + 2048 * w + 128 * n) 128 = (h.hands.getD n 0#1024).toNat) ∧
      (∀ k, k < 64 → at' (toff + 8 * k) 8 % 2 ^ 62 = (g.tiles.look 0#64 k).toNat % 2 ^ 62) ∧
      (∀ m w, m < g.accNos.length → w < 4096 → at' (moff + 16384 * m + 4 * w) 4 = (g.accs.look 0#32 (4096 * m + w)).toNat) ∧
      ∀ k, k < 128 * g.osLines → at' (ooff + k) 1 = (g.os.look 0#8 k).toNat)

/-- Writes of the host to BAR0, and the Izsil controller: boot, reset, firmware, settings, power, log (R378, R379,
R380, R383, R381, R384, R385, R386, R387, R388, R389, R382). Derived. Beside the spec it rests on readings and choices
of the model: log entries 9 (DESIGN CHOICE), 10 (DESIGN CHOICE), 48 (DEDUCED), 49 (DEDUCED). -/
def Obligations.HostRegistersAndController : Prop :=
  ∀ (s : State) (w : DWord) (q : Nat), q < 16 → s.bar0.lq.length = 16 → s.Inv → NoWindows s → s.outq = [] → s.atoms = [] → s.waiters = [] →
    let l := s.bar0.lq.getD q LaunchQ.reset
    let withLq (v : LaunchQ) : State := { s with bar0 := { s.bar0 with lq := s.bar0.lq.set q v } }
    let bar (b : Bar0) : State := { s with bar0 := b }
    let logged (t u : State) : Prop := ∃ ev data, t = logEvent u ev data
    let b := s.bar0
    let imgAt (a n : Nat) : List Byte := (List.range n).map fun j => homeByte s (a + j)
    let good (img : List Byte) : Prop := Config.imageSigned img = true ∧ s.izsil.rollback ≤ Config.imageVersion img
    let flashed (img : List Byte) : State := { s with izsil := { s.izsil with image := img, imageOk := true, version := Config.imageVersion img } }
    let again (u t : State) : Prop := (∀ a, t.mem.look memDefault a = if Config.hostBase ≤ a then u.mem.look memDefault a else memDefault) ∧
      t.gangs = [] ∧ t.saved = [] ∧ t.cmds = [] ∧ t.phase = .booting ∧ t.bar0 = State.reset.bar0 ∧ t.dies = State.reset.dies ∧ t.outq = [] ∧
      t.izsil = { u.izsil with ms := 0 }
    (exec (.launchQueueControl q w) s = .next (withLq { l with
      err := l.err && !w.getLsbD 62, en := w.getLsbD 63, asid := if l.en then l.asid else w.extractLsb' 32 16,
      lsz := if l.en then l.lsz else w.extractLsb' 0 5 })) ∧
    (exec (.registerWrite (0x1000 + 0x40 * q) w) s = .next (withLq (if l.en then l else { l with base := w.setWidth 52 }))) ∧
    (exec (.registerWrite 0x2010 w) s = .next (bar { b with uqaddr := w.setWidth 52 })) ∧
    (∀ off, off ≠ 0x2010 → (∀ k, k < 16 → off ≠ 0x1000 + 0x40 * k) → exec (.registerWrite off w) s = .next s) ∧
    (s.phase ≠ .ready → exec (.launchDoorbell q w) s = .next s) ∧
    (s.phase = .ready →
      let v := { l with tail := w.setWidth 32 }
      let full : Prop := l.en = true ∧ 2 ^ l.lsz.toNat < (w.setWidth 32 - l.head).toNat
      (¬ full → exec (.launchDoorbell q w) s = .next (withLq v)) ∧
      (full → ∃ t, exec (.launchDoorbell q w) s = .next t ∧ logged t (withLq { v with en := false, err := true }))) ∧
    (let post := { b with done := false, full := false, uq := w.extractLsb' 32 9, uqAsid := w.extractLsb' 0 16 }
     let asid := (w.extractLsb' 0 16).toNat
     let u := (w.extractLsb' 32 9).toNat
     let h := bar post
     let a : Acc := ⟨unitWho h asid 0, .host, 0#52⟩
     b.done = true →
      ((ctxValid s asid = false ∨ 256 < u) → ∃ t, exec (.hostQueuePost w) s = .next t ∧ logged { t with bar0 := b } s ∧
        t.bar0 = { post with done := true }) ∧
      ∀ bs k qu, ctxValid s asid = true → u ≤ 256 → b.uqaddr.toNat % 32 = 0 → uRead h a b.uqaddr.toNat 32 = .ok (h, bs) → entryBad bs = false →
        postTarget h a u bs 0 = .ok (h, some k) → readQ h a k = .ok (h, some qu) →
        (qu.size ≤ qu.count → exec (.hostQueuePost w) s = .next (bar { post with done := true, full := true })) ∧
        ∀ ras das, qu.count < qu.size → uWriteAddrs h a (qu.ring + 32 * (qu.posted % qu.size)) 32 = .ok ras →
          uWriteAddrs h a (qu.va + 24) 4 = .ok das → s.memPoison = [] → ∃ t, exec (.hostQueuePost w) s = .next t ∧
            t.bar0 = { post with done := true } ∧ t.mem = s.mem.putAll memDefault (ras.zip bs ++ das.zip (toBytes 4 (qu.posted + 1)))) ∧
    (b.sbusy = false → exec (.routeSync w) s = .next (if w.getLsbD 63 then bar { b with sbusy := true } else s)) ∧
    (b.sbusy = true → ∃ t, exec (.routeSync w) s = .next t ∧ t.bar0 = { b with sbusy := false } ∧ ∀ r, r ∈ t.routeV ↔ r < 4096 ∧ tableV s r = true) ∧
    (∀ asid, w.extractLsb' 0 16 = asid → asid ≠ 0#16 → (∀ g ∈ s.gangs, ∀ a ∈ g.agents, a.outs = []) → (∀ c ∈ s.cmds, c.items = []) →
      s.grpMsgs = [] → ∃ t, exec (.contextSync w) s = .next t ∧
      t.bar0 = { b with cbusy := false } ∧ t.mem = s.mem ∧ (∀ e, e ∈ t.tlb ↔ e ∈ s.tlb ∧ e.asid ≠ asid.toNat) ∧
      ∀ (j : Nat) (g : Gang), s.gangs[j]? = some g → ∃ g' : Gang, t.gangs[j]? = some g' ∧ g' = if g.asid = asid.toNat then { g with raf := ctxRaf s asid.toNat } else g) ∧
    (let a : Addr := w.setWidth 52
     let busy := b.lq.any fun l => l.en
     ∀ p ∈ ([(0x2028, 17, false, { b with rtbase := a }), (0x2030, 17, busy, { b with eqtbase := a }), (0x2038, 24, busy, { b with ctxtbase := a })] :
       List (Nat × Nat × Bool × Bar0)),
      (a.toNat % 2 ^ p.2.1 = 0 → p.2.2.1 = false → exec (.tableBaseWrite p.1 w) s = .next (bar p.2.2.2)) ∧
      ((a.toNat % 2 ^ p.2.1 ≠ 0 ∨ p.2.2.1 = true) → ∃ t, exec (.tableBaseWrite p.1 w) s = .next t ∧ logged t s)) ∧
    (∃ t, exec .moduleReset s = .next t ∧ again s t) ∧
    (s.phase ≠ .booting → exec .powerOn s = .next s) ∧
    (s.phase = .booting → s.izsil.imageOk = false → ∃ t, exec .powerOn s = .next t ∧ t.phase = .recovery ∧ t.bar0 = { b with recov := true } ∧
      t.mem = s.mem ∧ t.gangs = s.gangs) ∧
    (s.phase = .booting → s.izsil.imageOk = true → s.gangs = [] → ∃ t, exec .powerOn s = .next t ∧ t.phase = .ready ∧
      t.bar0 = { b with ready := true, dev := s.izsil.net.dev } ∧ t.fenced = s.izsil.fenced ∧
      (∀ g ∈ t.gangs, g.die < 8 ∧ 32 * g.die + g.core ∉ t.fenced) ∧
      ∀ d c, d < 8 → c < 32 → 32 * d + c ∉ t.fenced → (∀ k, k < c → 32 * d + k ∈ t.fenced) → ∃ g ∈ t.gangs, (∀ h ∈ t.gangs, h.die = d → h = g) ∧
        g.die = d ∧ g.core = c ∧ g.asid = 0 ∧ g.ident = true ∧ g.isFault = true ∧ g.agents.length = 2 ∧ g.raf = ctxRaf s 0) ∧
    (∀ addr n, let img := imgAt addr n
      (s.phase = .ready → good img → (∀ g ∈ s.gangs, g.isFault = true) → ∃ t, exec (.firmwareUpdate addr n) s = .next t ∧ logged t (flashed img)) ∧
      ((s.phase ≠ .ready ∨ ¬ good img ∨ ∃ g ∈ s.gangs, g.isFault = false) → ∃ t, exec (.firmwareUpdate addr n) s = .next t ∧ logged t s)) ∧
    (let n := (w.setWidth 32).toNat
     let h := bar { b with rlen := w.setWidth 32 }
     let img := imgAt 0 n
     let taken : Prop := 0 < n ∧ n ≤ 2 ^ 26 ∧ good img
     ((w.getLsbD 63 = false ∨ s.phase ≠ .recovery) → exec (.recoveryGo w) s = .next h) ∧
     (w.getLsbD 63 = true → s.phase = .recovery → taken → ∃ t, exec (.recoveryGo w) s = .next t ∧ again (flashed img) t) ∧
     (w.getLsbD 63 = true → s.phase = .recovery → ¬ taken → ∃ t, exec (.recoveryGo w) s = .next t ∧ logged t h)) ∧
    (∀ req,
      let n := s.izsil.net
      let settings := toBytes 8 b.rtbase.toNat ++ toBytes 2 n.dev.toNat ++ (n.addrs.flatMap fun a => toBytes 16 a.toNat) ++ toBytes 2 n.udp.toNat ++
        n.macs.flatMap fun a => toBytes 6 a.toNat
      let of (m : List Byte) : List Byte := Config.shake256 m 64
      let ms := of Config.bootRom ++ of s.izsil.image ++ of Config.fabricConfig ++ of (s.fenced.flatMap fun c => toBytes 2 c) ++ of settings
      let body := Config.spdmBody ms (toBytes 64 Config.identityKey) req
      let signed := body ++ toBytes 29792 (Config.identitySign body)
      exec (.spdmRequest req) s = .next { s with izsil := { s.izsil with answer := if Config.spdmSigned req then signed else body } }) ∧
    (∀ off n, n ≠ 8 ∨ off % 8 ≠ 0 → (barRead s off n).host.answer = List.replicate n 0#8) ∧
    (let reads (off v : Nat) : Prop := (barRead s off 8).host.answer = toBytes 8 v
     reads 0 (bitAt b.ready 63 + bitAt b.recov 62 + b.dev.toNat) ∧ reads 0x2018 (bitAt b.done 63 + bitAt b.full 62 + b.uq.toNat * 2 ^ 32 + b.uqAsid.toNat) ∧
      reads (0x1000 + 0x40 * q) l.base.toNat ∧ reads (0x1008 + 0x40 * q) (bitAt l.en 63 + bitAt l.err 62 + l.asid.toNat * 2 ^ 32 + l.lsz.toNat) ∧
      reads (0x1018 + 0x40 * q) l.head.toNat) ∧
    (∀ map, ∃ t, exec (.fencedCoreMapUpdate map) s = .next t ∧ t.fenced = s.fenced ∧ t = { s with izsil := { s.izsil with fenced := t.izsil.fenced } } ∧
      ∀ c, c ∈ t.izsil.fenced ↔ c < 256 ∧ c ∈ map) ∧
    (∀ cfg, exec (.izsilConfigSet cfg) s = .next { s with
      izsil := { s.izsil with net := cfg }, bar0 := { b with dev := if s.phase = .ready then cfg.dev else b.dev } }) ∧
    (exec .powerLimit s = .next { s with dies := s.dies.map fun d => { d with slow := true } }) ∧
    (∀ d, ∃ t, exec (.thermalThrottle d) s = .next t ∧ t = { s with dies := t.dies } ∧ (d < s.dies.length → (t.die d).slow = true) ∧
      ∀ k, k ≠ d → t.die k = s.die k) ∧
    (∀ c, ∃ t, exec (.thermalStop c) s = .next t ∧ logged t { s with phase := .stopped }) ∧
    (∀ mid, ∃ t, exec (.powerLoss mid) s = .next t ∧ again { s with izsil := { s.izsil with imageOk := s.izsil.imageOk && !mid } } t) ∧
    ∀ ev data, let t := logEvent s ev data
      let d := ((data.map fun n => BitVec.ofNat 64 n) ++ List.replicate 5 0#64).take 5
      let body := toBytes 8 s.izsil.logSeq ++ toBytes 8 s.izsil.ms ++ toBytes 8 (1 + ev.code * 2 ^ 16) ++ d.flatMap fun v => toBytes 8 v.toNat
      t.izsil.logSeq = s.izsil.logSeq + 1 ∧ t.izsil.logHash = Config.shake256 (s.izsil.logHash ++ body) 32 ∧ t.izsil.log.length ≤ 4096 ∧
        (∃ en, t.izsil.log.getLast? = some en ∧ en.seq = s.izsil.logSeq ∧ en.ms = s.izsil.ms ∧ en.data = d ∧ en.hash = t.izsil.logHash) ∧ t.mem = s.mem

/-- The machine right after reset, in canonical form (R378, R340, R389, R3). Derived. Beside the spec it rests on
readings and choices of the model: log entries 2 (DESIGN CHOICE), 4 (DESIGN CHOICE), 52 (DESIGN CHOICE). -/
def Obligations.MachineAfterReset : Prop :=
  let s := State.reset
  s.phase = .booting ∧ (∀ a, homeByte s a = 0#8) ∧ s.gangs = [] ∧ s.saved = [] ∧ s.cmds = [] ∧ s.outq = [] ∧ s.atoms = [] ∧ s.handQ = [] ∧
    s.tlb = [] ∧ s.dir = [] ∧ s.l1 = [] ∧ s.l2 = [] ∧ s.parked = [] ∧ s.ringRows = [] ∧ s.reading = [] ∧ s.dlq = [] ∧ s.grids = [] ∧ s.waitGangs = [] ∧ s.waiters = [] ∧ s.groups = [] ∧ s.links = [] ∧
    s.scs = [] ∧ s.sent = [] ∧ s.wire = [] ∧ s.listWork = [] ∧ s.filling = [] ∧ s.grpMsgs = [] ∧ s.heldPosts = [] ∧
    s.memPoison = [] ∧ s.flips = [] ∧ s.mail = [] ∧ s.deadCtx = [] ∧ s.bar0.ready = false ∧ s.bar0.recov = false ∧ s.bar0.dev = 0#16 ∧
    s.bar0.done = true ∧ s.bar0.full = false ∧ s.bar0.busy = false ∧ s.bar0.sbusy = false ∧ s.bar0.cbusy = false ∧ s.bar0.rtbase = 0#52 ∧
    s.bar0.eqtbase = 0#52 ∧ s.bar0.ctxtbase = 0#52 ∧ s.bar0.uqaddr = 0#52 ∧ s.bar0.lq.length = 16 ∧
    (∀ q ∈ s.bar0.lq, q.en = false ∧ q.err = false ∧ q.head = 0#32 ∧ q.tail = 0#32 ∧ q.base = 0#52 ∧ q.asid = 0#16 ∧ q.lsz = 0#5) ∧
    s.dies.length = 8 ∧ (∀ d ∈ s.dies, d.clk = 0 ∧ d.swapthr = 65536#64 ∧ d.rdvto = 1000000#64 ∧ d.pretime = 100000#64 ∧ d.faultQ = []) ∧
    s.Inv ∧ s.Canon

/-- Every step keeps memory in its canonical form (section 02 (R23), section 05 (R94)). Derived. -/
def Obligations.StepKeepsMemoryCanonical : Prop :=
  ∀ s t : State, s.Inv → step s = .next t → t.Inv

/-- Every step keeps the operand stores, tiles, accumulators and registers of every gang in canonical form (section 03
(R49, R59), section 07 (R133, R138)). Derived. -/
def Obligations.StepKeepsTablesCanonical : Prop :=
  ∀ s t : State, s.Canon → step s = .next t → t.Canon

/-- A step makes one of the moves: an agent or a walk runs the instruction decoded at its place (section 08 (R154,
R155), section 10 (R180, R199), section 11 (R204), section 20 (R331), section 24 (R350), log entry 1). Derived. Beside
the spec it rests on readings and choices of the model: log entry 1 (DESIGN CHOICE). -/
def Obligations.AStepRunsTheDecodedInstruction : Prop :=
  ∀ (s : State),
    let b := beginStep exec s
    let bare (a : Agent) : Agent := { a with ready := none, stood := 0 }
    (∀ m : Turn, (moves b)[Config.pick s.tick % (moves b).length]? = some m →
      (∀ gang agent, m = .agent gang agent →
        let u := { b with cur := .agent gang agent }
        ∀ e0 e, envOf b gang agent = some e0 → u.env? = some e →
          let noted (o : Outcome) : Outcome := match o with
            | .next t => .next (noteIssue b e0 (hasIssued gang agent t) t)
            | o => o
          (∀ x, e.a.pend = some (x, false) → step s = noted (.next (takeTrap u e x))) ∧ (∀ x, e.a.pend = some (x, true) → step s = noted (.next (takeDebug u e x))) ∧
          (e.a.acq = none → acquireFirst u e = some u) ∧ (e.a.pend = none →
          (acquireFirst u e = none → step s = noted (.next (e.hold u))) ∧
          ∀ v, acquireFirst u e = some v →
            (∀ t i, fetch v (e.now v) = (t, .instr i) → redirects t (e.now v) i = false → step s = noted (exec i t)) ∧
            (∀ t i, fetch v (e.now v) = (t, .instr i) → redirects t (e.now v) i = true → step s = noted (exec (.cancelRedirect gang agent) t)) ∧
            (∀ t w, fetch v (e.now v) = (t, .bad w) → step s = noted (.next (issueBad t (e.now v) w))) ∧
            ∀ i rest, (e.now v).g.ident = true → (e.now v).g.rafOwn = [] → (e.now v).a.pc.toNat + 20 ≤ 0x6000000000 → v.outq = [] →
              (∀ a, poisoned v a = false) → v.flips = [] →
              decode ((List.range 20).map fun j => homeByte v ((e.now v).a.pc.toNat + j)) = .ok (i, rest) →
              ∃ t, fetch v (e.now v) = (t, .instr i) ∧ t = { v with l1 := t.l1, l2 := t.l2, dir := t.dir })) ∧
      (∀ cmd w, m = .word cmd →
        let u := { b with cur := .walker cmd }
        (u.cmd? cmd).bind Cmd.nextWord = some w →
          (∀ i, decodeWalk w = .ok i → step s = exec i u) ∧ ∀ r, decodeWalk w = .error r → step s = walkFault cmd r u) ∧
      (∀ f, m = .event f → step s = f b)) ∧
    (moves b = [] → step s = .next b) ∧
    (let age (p : Gang × Agent) : Nat := p.2.ready.getD 0
     let before (n : Nat) (x y : Gang × Agent) : Prop := (n ≤ x.2.stood ∧ (y.2.stood < n ∨ age x < age y)) ∨
       (x.2.stood < n ∧ y.2.stood < n ∧ (y.1.blk.prio < x.1.blk.prio ∨ x.1.blk.prio = y.1.blk.prio ∧ age x < age y))
     ∀ uid id, Turn.agent uid id ∈ agentMoves b → ∃ g ∈ b.gangs, ∃ a ∈ g.agents, g.uid = uid ∧ a.id = id ∧ mayIssue b g a = true ∧ a.idle ≤ (b.die g.die).clk ∧
       let now := (b.die g.die).clk
       let rival (p : Gang × Agent) : Prop := p ∈ quadAgents b g.die g.core (g.quad a) ∧ ¬ (p.1.uid = uid ∧ p.2.id = id) ∧ mayIssue b p.1 p.2 = true
       let done := quadIssued b g.die g.core (g.quad a)
       (a.ready.isSome = true → a.issuedAt now = false ∧ ((g.slotOf a.wg a.place, a.pc) ∈ done ∨ done.length < 2 ∧
         ∀ p, rival p → p.2.ready.isSome = true → p.2.issuedAt now = false → ¬ before (if done = [] then 64 else 65) p (g, a)))) ∧
    b.tick = s.tick + 1 ∧ b.mem = s.mem ∧ b.cmds = s.cmds ∧ b.outq = s.outq ∧ b.saved = s.saved ∧
    (b.gangs.map fun g => { g with agents := g.agents.map bare }) = s.gangs.map fun g => { g with agents := g.agents.map bare }

/-- Words that the manual works out decode to the instructions they stand for (section 10 (worked encodings), section
11 (R215), section 12 (R227), section 15, section 16). Derived. -/
def Obligations.WorkedWordsDecode : Prop :=
  let d (ws : List Word) : Option Instr := match decode (bytesOf ws) with
    | .ok (i, _) => some i
    | .error _ => none
  let bad (ws : List Word) : Option BadKind := match decode (bytesOf ws) with
    | .ok _ => none
    | .error b => some b.kind
  let x : Ext := { m := ⟨false, false⟩, hint := 0#3, ty := 0#5, d := 0#8, a := 0#8, b := 0#8, c := 0#8, imm := 0#8, mod := 0#4, sat := false, rnd := 0#3, g2 := 0#4, g1 := 0#4, e := 0#8, lit := none }
  d [0x04041C04#32] = some (.faddBase ⟨false, true⟩ 3#7 1#7 2#7 none) ∧
    d [0x00280203#32, 0x000007C8#32, 0x0008D300#32, 0x000186A0#32, 0#32] =
      some (.iaddExt { x with ty := 5#5, d := 200#8, a := 7#8, sat := true, g2 := 0xD#4, g1 := 3#4, lit := some 100000#64 }) ∧
    d [0x00005B81#32, 0x00000002#32, 0x0A000000#32] = some (.smovi { x with d := 2#8, imm := 10#8 }) ∧
    d [0x040C1B84#32] = some (.saddBase ⟨false, true⟩ 3#6 3#6 2#6 none) ∧
    d [0x00005381#32, 0x00000541#32, 0#32] = some (.smovExt { x with d := 65#8, a := 5#8 }) ∧
    d [0x0009D09A#32, 0x00101101#32, 0#32] = some (.apply ⟨true, false⟩ 19#17 10#4 1#8 1#4 1#8 1#4) ∧
    d [0x00241111#32, 0x05000302#32, 0x04000000#32] = some (.htesti .lt true { x with ty := 4#5, d := 2#8, a := 3#8, c := 5#8, imm := 4#8 }) ∧
    d [0x00780125#32, 0x01020704#32, 0x00000100#32] =
      some (.hbit false { x with m := ⟨false, true⟩, ty := 15#5, d := 4#8, a := 7#8, b := 2#8, c := 1#8, g1 := 1#4 }) ∧
    d [0x00000161#32, 0#32, 0#32] = some (.hfence x) ∧
    d [0x00500CB1#32, 0x00000405#32, 0#32] = some (.frsq { x with ty := 10#5, d := 5#8, a := 4#8 }) ∧
    d [0x006054C1#32, 0x00000203#32, 0x00080000#32] = some (.cvt 10#5 { x with ty := 12#5, d := 3#8, a := 2#8, sat := true }) ∧
    d [0x00500585#32, 0x00000101#32, 0#32] = some (.ld { x with m := ⟨false, true⟩, ty := 10#5, d := 1#8, a := 1#8 }) ∧
    d [0x000006C1#32, 0#32, 0#32] = some (.mzero x) ∧
    d [0x000006D1#32, 0x03000E00#32, 0x80000000#32] = some (.cpy { x with a := 14#8, c := 3#8, imm := 0x80#8 }) ∧
    d [0x00500401#32, 0x000A0904#32, 0x000000A0#32] = some (.faddExt { x with ty := 10#5, d := 4#8, a := 9#8, b := 10#8, e := 0xA0#8 }) ∧
    bad [0x000000D0#32] = some .illop ∧ bad [0x00000220#32] = some .illop ∧
    bad [0x00500401#32, 0x000A0904#32, 0x000000A4#32] = some .illenc ∧ bad [0x00004131#32, 0#32, 0#32] = some .illop ∧
    bad [0x00000131#32, 0x01000302#32, 0#32] = some .illenc ∧ decodeWalk 0x00000012#32 = .error 1 ∧ decodeWalk 0x00040000#32 = .error 2

/-- Decoding what the encoder writes gives the instruction back, and every decoded word sequence is the encoder’s
(section 10 (R180-R199), section 20 (R331, R332)). Derived. -/
def Obligations.DecodeAndEncodeAgree : Prop :=
  (∀ (i : Instr) (rest : List Byte), i.core = true → i.wellFormed = true → decode (bytesOf i.encode ++ rest) = .ok (i, rest)) ∧
    (∀ i : Instr, i.walks = true → i.wellFormed = true → ∃ w, i.encode = [w] ∧ decodeWalk w = .ok i) ∧
    (∀ (bs rest : List Byte) (i : Instr), decode bs = .ok (i, rest) → i.core = true ∧ i.wellFormed = true ∧ bs = bytesOf i.encode ++ rest) ∧
    ∀ (w : Word) (i : Instr), decodeWalk w = .ok i → i.walks = true ∧ i.wellFormed = true ∧ i.encode = [w]

/-- Every instruction is checked in the order of R199, whatever it does (R199, R129, R187, R192, R193, R154, R206).
Derived. Beside the spec it rests on readings and choices of the model: log entry 54 (DEDUCED). -/
def Obligations.ChecksComeInOrder : Prop :=
  ∀ (i : Instr) (s : State) (e : Env), i.core = true →
    let own : Bool := match i with
      | .apply .. => true
      | _ => false
    let detail (k : Nat) : Option Nat := if own && k != 3 then some (if k = 4 then 3 else k) else none
    let trap (cause step : Nat) : Prop := exec i s = .next (takeTrap s e ⟨⟨cause, 0, detail step⟩, step, 0, i.len, e.a.pc⟩)
    let stops : Prop := i.marks.sp = true ∧ e.a.prog = 0 ∧ e.g.stop.isSome = true
    (s.env? = some e → stops → exec i s = .next (e.set s fun a => { a.hold with stopped := true })) ∧
    (s.env? = some e → ¬ stops → resultsIn i e = false → exec i s = .next (e.hold s)) ∧
    (s.env? = some e → ¬ stops → counterOk i s e = false → exec i s = .next (e.hold s)) ∧
    (Issues i s e →
      (privOk i e = false → trap 1 1) ∧
      (privOk i e = true → formOk i e = false → trap 2 2) ∧
      (privOk i e = true → formOk i e = true → guardsOk i e = false → exec i s = .next (e.goOn s (e.pcAfter i))) ∧
      (privOk i e = true → formOk i e = true → guardsOk i e = true → rolesOk i e = false → trap 3 3) ∧
      (privOk i e = true → formOk i e = true → guardsOk i e = true → rolesOk i e = true → boundsOk i e = false → trap 4 4))

/-- Vector integer arithmetic: each lane receives the exact result, clamped with .sat and wrapped to the type (R218).
-/
def Obligations.VectorIntegerArithmetic : Prop :=
  ∀ (x : Ext) (s : State) (e : Env),
    let all : List (BitVec 5) := [4#5, 5#5, 6#5, 7#5]
    (∀ p ∈ ([(.iaddExt x, fun a b _ => a + b), (.isubExt x, fun a b _ => a - b), (.imul x, fun a b _ => a * b),
        (.imulh x, fun a b _ => a * b / 2 ^ bitsOf x.ty), (.imad x, fun a b c => a * b + c), (.imin x, fun a b _ => min a b),
        (.imax x, fun a b _ => max a b), (.iabs x, fun a _ _ => |a|)] : List (Instr × (Int → Int → Int → Int))),
      Executes p.1 s e → exec p.1 s = .next (e.retire s p.1 (e.intEach p.1 x p.2))) ∧
    (∀ p ∈ ([(.iaddExt x, all, true), (.isubExt x, all, true), (.imul x, all, true), (.imulh x, all, false), (.imad x, all, true),
        (.imin x, all, false), (.imax x, all, false), (.iabs x, [5#5, 7#5], true)] : List (Instr × List (BitVec 5) × Bool)),
      p.1.wellFormed = true → x.ty ∈ p.2.1 ∧ (x.sat = true → p.2.2 = true)) ∧
    ∀ (m : Marks) (d a b : BitVec 7) (lit : Option DWord),
      ∀ p ∈ ([(.iaddBase m d a b lit, fun u v => u + v), (.isubBase m d a b lit, fun u v => u - v)] :
          List (Instr × (BitVec 32 → BitVec 32 → BitVec 32))),
        Executes p.1 s e → exec p.1 s =
          .next (e.retire s p.1 (e.each32 d.toNat fun l => p.2 (e.v32 a.toNat l) (e.bb32 b lit l))) ∧
        decode (wordBytes 0x02041200#32) = .ok (.iaddBase ⟨false, false⟩ 2#7 1#7 1#7 none, [])

/-- AND, OR, XOR and LUT3 work bit by bit on registers or pairs (R220). -/
def Obligations.VectorLogic : Prop :=
  ∀ (x : Ext) (s : State) (e : Env),
    let row (k : Nat) (n : Nat) (v : BitVec n) : BitVec n := if bitN x.byteImm k then v else 0#n
    ∀ p ∈ ([(.andExt x, fun _ a b _ => a &&& b), (.orExt x, fun _ a b _ => a ||| b), (.xorExt x, fun _ a b _ => a ^^^ b)] :
        List (Instr × ((n : Nat) → BitVec n → BitVec n → BitVec n → BitVec n))),
      (Executes p.1 s e → exec p.1 s = .next (e.retire s p.1 (e.bitEach p.1 x p.2))) ∧
      (Executes (.lut3 x) s e → exec (.lut3 x) s = .next (e.retire s (.lut3 x)
        (let r := e.opsOf (.lut3 x) x
         let f (n : Nat) (a b c : BitVec n) : BitVec n :=
           row 7 n (a &&& b &&& c) ||| row 6 n (a &&& b &&& ~~~c) ||| row 5 n (a &&& ~~~b &&& c) ||| row 4 n (a &&& ~~~b &&& ~~~c) |||
           row 3 n (~~~a &&& b &&& c) ||| row 2 n (~~~a &&& b &&& ~~~c) ||| row 1 n (~~~a &&& ~~~b &&& c) |||
           row 0 n (~~~a &&& ~~~b &&& ~~~c)
         if w64 x.ty then e.each64 r.d fun l => f 64 (e.v64 r.a l) (e.v64 r.b l) (e.v64 r.c l)
         else e.each32 r.d fun l => f 32 (e.v32 r.a l) (e.v32 r.b l) (e.v32 r.c l)))) ∧
      (∀ i ∈ [Instr.andExt x, .orExt x, .xorExt x, .lut3 x], i.wellFormed = true → x.ty = 15#5 ∨ x.ty = 16#5) ∧
      (x.byteImm = match x.lit with
        | some l => (l.setWidth 8).toNat
        | none => x.imm.toNat) ∧
      ∀ (m : Marks) (d a b : BitVec 7) (lit : Option DWord),
        ∀ q ∈ ([(.andBase m d a b lit, fun u v => u &&& v), (.orBase m d a b lit, fun u v => u ||| v),
            (.xorBase m d a b lit, fun u v => u ^^^ v)] : List (Instr × (BitVec 32 → BitVec 32 → BitVec 32))),
          Executes q.1 s e → exec q.1 s = .next (e.retire s q.1 (e.each32 d.toNat fun l => q.2 (e.v32 a.toNat l) (e.bb32 b lit l)))

/-- Shifts by any count, and funnel shifts by the count modulo 32 (R221, R222). -/
def Obligations.VectorShifts : Prop :=
  ∀ (x : Ext) (s : State) (e : Env),
    (∀ p ∈ ([(.shlExt x, fun n a k => if k < n then a <<< k else 0#n), (.shrExt x, fun n a k => if k < n then a >>> k else 0#n),
        (.sar x, fun n a k => a.sshiftRight (min k (n - 1)))] :
        List (Instr × ((n : Nat) → BitVec n → Nat → BitVec n))),
      Executes p.1 s e → exec p.1 s = .next (e.retire s p.1
        (let r := e.opsOf p.1 x
         if w64 x.ty then e.each64 r.d fun l => p.2 64 (e.v64 r.a l) (e.b32 x r.b l).toNat
         else e.each32 r.d fun l => p.2 32 (e.v32 r.a l) (e.b32 x r.b l).toNat))) ∧
    (∀ p ∈ ([(.fshl x, fun c k => (c <<< k).extractLsb' 32 32), (.fshr x, fun c k => (c >>> k).setWidth 32)] :
        List (Instr × (BitVec 64 → Nat → BitVec 32))),
      Executes p.1 s e → exec p.1 s = .next (e.retire s p.1
        (let r := e.opsOf p.1 x
         e.each32 r.d fun l => p.2 (e.v32 r.a l ++ e.b32 x r.b l)
           (if x.imm.getLsbD 7 then x.imm.toNat % 32 else (e.v32 r.c l).toNat % 32)))) ∧
    (∀ p ∈ ([(.shlExt x, [4#5, 5#5, 6#5, 7#5]), (.shrExt x, [4#5, 6#5]), (.sar x, [5#5, 7#5]), (.fshl x, [15#5]), (.fshr x, [15#5])] :
      List (Instr × List (BitVec 5))), p.1.wellFormed = true → x.ty ∈ p.2) ∧
    (∀ i ∈ [Instr.fshl x, .fshr x], i.wellFormed = true → if x.imm.getLsbD 7 then x.imm.extractLsb' 5 2 = 0#2 ∧ x.c = 0#8
      else x.imm = 0#8) ∧
    (∀ (m : Marks) (d a : BitVec 7) (n : BitVec 5) (lit : Option DWord),
      ∀ p ∈ ([(.shlBase m d a n lit, fun u k => if k < 32 then u <<< k else 0#32),
          (.shrBase m d a n lit, fun u k => if k < 32 then u >>> k else 0#32)] : List (Instr × (BitVec 32 → Nat → BitVec 32))),
        Executes p.1 s e → exec p.1 s = .next (e.retire s p.1 (e.each32 d.toNat fun l => p.2 (e.v32 a.toNat l)
          (match lit with
            | some l => (l.setWidth 32).toNat
            | none => n.toNat)))) ∧
    (∀ (n d a : BitVec 7) (sp sw : Bool), ∀ p ∈ ([(0x2E#7, fun m k => .shlBase m d a k none), (0x2F#7, fun m k => .shrBase m d a k none)] :
      List (BitVec 7 × (Marks → BitVec 5 → Instr))),
      let out := decode (wordBytes (n ++ a ++ d ++ p.1 ++ BitVec.ofBool sp ++ BitVec.ofBool sw ++ 0#2 : BitVec 32))
      (n.toNat < 32 → out = .ok (p.2 ⟨sp, sw⟩ (n.setWidth 5), [])) ∧
      (32 ≤ n.toNat → ∃ b, out = .error b ∧ b.kind = .illenc)) ∧
    decode (wordBytes 0x040412E4#32) = .ok (.shlBase ⟨false, true⟩ 2#7 1#7 2#5 none, [])

/-- POPC, CLZ, BREV, BFE and BFI compute the counts, the reversal and the fields (R223, R224). -/
def Obligations.VectorBitFields : Prop :=
  ∀ (x : Ext) (s : State) (e : Env),
    (Executes (.popc x) s e → exec (.popc x) s = .next (e.retire s (.popc x)
      (let r := e.opsOf (.popc x) x
       e.each32 r.d fun l => BitVec.ofNat 32 (if w64 x.ty then (List.range 64).countP (e.v64 r.a l).getLsbD
         else (List.range 32).countP (e.v32 r.a l).getLsbD)))) ∧
    (Executes (.clz x) s e → exec (.clz x) s = .next (e.retire s (.clz x)
      (let r := e.opsOf (.clz x) x
       let zeros (n : Nat) (v : BitVec n) : Nat := ((List.range n).reverse.takeWhile fun k => !v.getLsbD k).length
       e.each32 r.d fun l => BitVec.ofNat 32 (if w64 x.ty then zeros 64 (e.v64 r.a l) else zeros 32 (e.v32 r.a l))))) ∧
    (Executes (.brev x) s e → exec (.brev x) s = .next (e.retire s (.brev x)
      (let r := e.opsOf (.brev x) x
       if w64 x.ty then e.each64 r.d fun l => (e.v64 r.a l).reverse else e.each32 r.d fun l => (e.v32 r.a l).reverse))) ∧
    (Executes (.bfe x) s e → exec (.bfe x) s = .next (e.retire s (.bfe x)
      (let r := e.opsOf (.bfe x) x
       e.each32 r.d fun l =>
         let b := e.b32 x r.b l
         let f := (e.v32 r.a l).extractLsb' (fieldPos b.toNat) (fieldLen b.toNat)
         if signedTy x.ty then f.signExtend 32 else f.setWidth 32))) ∧
    (Executes (.bfi x) s e → exec (.bfi x) s = .next (e.retire s (.bfi x)
      (let r := e.opsOf (.bfi x) x
       e.each32 r.d fun l =>
         let b := e.b32 x r.b l
         let mask := (BitVec.allOnes (fieldLen b.toNat)).setWidth 32 <<< fieldPos b.toNat
         (e.v32 r.c l &&& ~~~mask) ||| ((e.v32 r.a l <<< fieldPos b.toNat) &&& mask)))) ∧
    (∀ p ∈ ([(.popc x, [15#5, 16#5]), (.clz x, [15#5, 16#5]), (.brev x, [15#5, 16#5]), (.bfe x, [4#5, 5#5]), (.bfi x, [15#5])] :
      List (Instr × List (BitVec 5))), p.1.wellFormed = true → x.ty ∈ p.2) ∧
    ∀ b : BitVec 32, fieldPos b.toNat = min (b.extractLsb' 0 8).toNat 32 ∧
      fieldLen b.toNat = min (b.extractLsb' 8 8).toNat (32 - fieldPos b.toNat)

/-- ISET, SEL, MOV, MOVI, VBCAST and FMTW (R219, R225, R233, R248, R174). Derived. -/
def Obligations.VectorCompareSelectMove : Prop :=
  ∀ (c : Cond) (x : Ext) (s : State) (e : Env),
    (Executes (.iset c x) s e → exec (.iset c x) s = .next (e.retire s (.iset c x)
      (let r := e.opsOf (.iset c x) x
       let sg := signedTy x.ty
       e.each32 r.d fun l =>
         if condI c (if w64 x.ty then numOf sg (e.v64 r.a l) else numOf sg (e.v32 r.a l))
             (if w64 x.ty then numOf sg (e.b64 x r.b l) else numOf sg (e.b32 x r.b l)) then BitVec.allOnes 32 else 0#32))) ∧
    (Executes (.sel x) s e → exec (.sel x) s = .next (e.retire s (.sel x)
      (let r := e.opsOf (.sel x) x
       if w64 x.ty then e.each64 r.d fun l => if e.v32 r.c l ≠ 0#32 then e.v64 r.a l else e.b64 x r.b l
       else e.each32 r.d fun l => if e.v32 r.c l ≠ 0#32 then e.v32 r.a l else e.b32 x r.b l))) ∧
    (Executes (.movExt x) s e → exec (.movExt x) s = .next (e.retire s (.movExt x) (e.bitEach (.movExt x) x fun _ a _ _ => a))) ∧
    (∀ (m : Marks) (d a : BitVec 7), Executes (.movBase m d a) s e → exec (.movBase m d a) s =
      .next (e.retire s (.movBase m d a) (e.each32 d.toNat fun l => e.v32 a.toNat l))) ∧
    (Executes (.movi x) s e → exec (.movi x) s = .next (e.retire s (.movi x)
      (let r := e.opsOf (.movi x) x
       let v (n : Nat) : BitVec n := match x.lit with
         | some l => l.setWidth n
         | none => x.imm.signExtend n
       if w64 x.ty then e.each64 r.d fun _ => v 64 else e.each32 r.d fun _ => v 32))) ∧
    (Executes (.vbcast x) s e → exec (.vbcast x) s = .next (e.retire s (.vbcast x)
      (let r := e.opsOf (.vbcast x) x
       let j := (e.sb x).toNat
       if w64 x.ty then e.each64 r.d fun _ =>
         if x.imm = 1#8 then e.a.rs x.a.toNat else if j < e.wg.g then e.v64 r.a j else 0#64
       else e.each32 r.d fun _ =>
         if x.imm = 1#8 then (e.a.rs x.a.toNat).setWidth 32 else if j < e.wg.g then e.v32 r.a j else 0#32))) ∧
    (Executes (.fmtw x) s e → exec (.fmtw x) s = .next (e.retire s (.fmtw x)
      (e.each32 (e.opsOf (.fmtw x) x).d fun _ =>
        (0#12 ++ x.imm.extractLsb' 0 1 ++ BitVec.ofBool x.sat ++ x.rnd.extractLsb' 0 2 ++ x.c.extractLsb' 0 2 ++
          x.b.extractLsb' 4 3 ++ x.a.extractLsb' 4 3 ++ x.b.extractLsb' 0 4 ++ x.a.extractLsb' 0 4 : BitVec 32))))

/-- Scalar arithmetic: one 64-bit result, clamped with .sat, written to sD (R226, R182). Derived. -/
def Obligations.ScalarArithmetic : Prop :=
  ∀ (m : Marks) (d a b : BitVec 6) (lit : Option DWord) (x : Ext) (s : State) (e : Env),
    let sg := x.ty == 7#5
    let va := e.a.rs x.a.toNat
    let vb := e.sb x
    (Executes (.saddBase m d a b lit) s e → exec (.saddBase m d a b lit) s = .next (e.retire s (.saddBase m d a b lit)
      [.s d.toNat (e.a.rs a.toNat + match lit with
        | some l => l
        | none => e.a.rs b.toNat)])) ∧
    ∀ p ∈ ([(.saddExt x, BitVec.ofInt 64 (Ext.clampTo x 64 sg (numOf sg va + numOf sg vb))),
        (.ssub x, BitVec.ofInt 64 (Ext.clampTo x 64 sg (numOf sg va - numOf sg vb))),
        (.smul x, BitVec.ofInt 64 (Ext.clampTo x 64 sg (numOf sg va * numOf sg vb))),
        (.sand x, va &&& vb), (.sor x, va ||| vb), (.sxor x, va ^^^ vb), (.sshl x, if vb.toNat < 64 then va <<< vb.toNat else 0#64),
        (.sshr x, if sg then va.sshiftRight (min vb.toNat 63) else if vb.toNat < 64 then va >>> vb.toNat else 0#64),
        (.smin x, if numOf sg vb < numOf sg va then vb else va), (.smax x, if numOf sg va < numOf sg vb then vb else va)] :
        List (Instr × BitVec 64)),
      Executes p.1 s e → exec p.1 s = .next (e.retire s p.1 [.s x.d.toNat p.2])

/-- SMOV, SMOVI, SCMP, KOP and VLANE (R226, R227, R228, R229, R233). Derived. -/
def Obligations.ScalarMovesAndPredicates : Prop :=
  ∀ (m : Marks) (d a : BitVec 6) (c : Cond) (o : KOp) (x : Ext) (s : State) (e : Env),
    let si (n : Nat) (v : DWord) : RegWrite := if n < 64 then .s n v else .i (n - 64) (v.setWidth 8)
    let rd (n : Nat) : DWord := if n < 64 then e.a.rs n else (e.a.i.extractLsb' (8 * (n - 64)) 8).setWidth 64
    let sg := x.ty == 7#5
    (Executes (.smovBase m d a) s e → exec (.smovBase m d a) s = .next (e.retire s (.smovBase m d a) [.s d.toNat (e.a.rs a.toNat)])) ∧
    (Executes (.smovExt x) s e → exec (.smovExt x) s = .next (e.retire s (.smovExt x) [si x.d.toNat (rd x.a.toNat)])) ∧
    (Executes (.smovi x) s e → exec (.smovi x) s = .next (e.retire s (.smovi x) [si x.d.toNat (match x.lit with
      | some l => l
      | none => x.imm.signExtend 64)])) ∧
    (Executes (.scmp c x) s e → exec (.scmp c x) s = .next (e.retire s (.scmp c x)
      [.k x.d.toNat (condI c (numOf sg (e.a.rs x.a.toNat)) (numOf sg (e.sb x)))])) ∧
    (Executes (.kop o x) s e → exec (.kop o x) s = .next (e.retire s (.kop o x)
      [.k x.d.toNat (match o with
        | .and => e.a.rk x.a.toNat && e.a.rk x.b.toNat
        | .or => e.a.rk x.a.toNat || e.a.rk x.b.toNat
        | .xor => xor (e.a.rk x.a.toNat) (e.a.rk x.b.toNat)
        | .andn => e.a.rk x.a.toNat && !e.a.rk x.b.toNat
        | .not => !e.a.rk x.a.toNat
        | .mov => e.a.rk x.a.toNat)])) ∧
    (Executes (.vlane x) s e → exec (.vlane x) s = .next (e.retire s (.vlane x)
      [.s x.d.toNat (let r := e.opsOf (.vlane x) x
        let j := (e.sb x).toNat
        if j < e.wg.g then (if w64 x.ty then e.v64 r.a j else (e.v32 r.a j).setWidth 64) else 0#64)]))

/-- SHFL, LRED, LSCAN and TOPKI over the lanes of an agent (section 12 (R230-R234)). Derived. -/
def Obligations.CrossLaneOperations : Prop :=
  ∀ (m : ShflMode) (o : RedOp) (excl : Bool) (k : BitVec 2) (x : Ext) (s : State) (e : Env),
    (Executes (.shfl m x) s e → exec (.shfl m x) s = .next (e.retire s (.shfl m x)
      (let r := e.opsOf (.shfl m x) x
       let from' (l : Nat) : Nat :=
         let b : Int := (e.b32 x r.b l).toNat
         let j : Int := match m with
           | .idx => b
           | .up => l - b
           | .down => l + b
           | .xor => (l ^^^ b.toNat : Nat)
         if 0 ≤ j ∧ j < e.wg.g then j.toNat else l
       if w64 x.ty then e.each64 r.d fun l => e.v64 r.a (from' l) else e.each32 r.d fun l => e.v32 r.a (from' l)))) ∧
    (Executes (.lred o x) s e → exec (.lred o x) s =
      (let r := e.opsOf (.lred o x) x
       let t := redTree o x.ty x.rnd.toNat 6
         ((List.range e.wg.g).map fun l => if e.takesPart l then some (e.src (w64 x.ty) r.a l) else none) 0#5
       .next (match t.1 with
         | none => e.retire s (.lred o x) []
         | some v => e.retire s (.lred o x) (e.lanes.flatMap fun l => vWrites (w64 x.ty) r.d l v) t.2))) ∧
    (Executes (.lscan excl o x) s e → exec (.lscan excl o x) s =
      (let r := e.opsOf (.lscan excl o x) x
       let t := scanAll o x.ty x.rnd.toNat 6 1 ((List.range e.a.pk).map fun l => e.src (w64 x.ty) r.a l) 0#5
       .next (e.retire s (.lscan excl o x) (e.lanes.flatMap fun l => vWrites (w64 x.ty) r.d l
         (if excl then (if l = 0 then redIdentity o x.ty else t.1.getD (l - 1) 0) else t.1.getD l 0)) t.2))) ∧
    (Executes (.topki k x) s e → exec (.topki k x) s =
      .next (e.retire s (.topki k x) (e.lanes.flatMap fun l => topLane e x (e.opsOf (.topki k x) x) (2 ^ k.toNat) l)))

/-- LRED of integers is the sum, least, greatest or bitwise combination of the lanes that take part (section 12
(R231)). Derived. -/
def Obligations.LaneReductionOfIntegers : Prop :=
  ∀ (ty : BitVec 5) (mode n : Nat) (xs : List (Option Nat)), n ≤ 6 → xs.length = 2 ^ n →
    (∀ v ∈ xs.filterMap id, v < 2 ^ bitsOf ty) → floatTy ty = false →
      (redTree .add ty mode 6 xs 0#5 =
        (if xs.filterMap id = [] then none else some ((xs.filterMap id).sum % 2 ^ bitsOf ty), 0#5)) ∧
      ∀ p ∈ ([(.and, fun a b => a &&& b), (.or, fun a b => a ||| b), (.xor, fun a b => a ^^^ b),
          (.min, fun a b => if asInt ty b < asInt ty a then b else a),
          (.max, fun a b => if asInt ty a < asInt ty b then b else a)] : List (RedOp × (Nat → Nat → Nat))),
        redTree p.1 ty mode 6 xs 0#5 = ((match xs.filterMap id with
          | [] => none
          | v :: vs => some (vs.foldl p.2 v)), 0#5)

/-- NOP, YIELD, the branches and LOOP: where the agent goes on (R200, R201, R204). Derived. -/
def Obligations.BranchesAndPlainIssue : Prop :=
  ∀ (m : Marks) (o21 : BitVec 21) (o17 : BitVec 17) (o15 : BitVec 15) (inv : Bool) (k : BitVec 3) (h : BitVec 4) (n : BitVec 6)
    (s : State) (e : Env),
    (Executes (.nop m) s e → exec (.nop m) s = .next (e.goOn s (e.a.pc + 4#52))) ∧
    (Executes (.yield m) s e →
      let t := e.goOn (e.set s fun a => { a with idle := (s.die e.g.die).clk + 2 }) (e.a.pc + 4#52)
      exec (.yield m) s = .next t ∧ ∀ u g a, (∀ d, (u.die d).clk ≤ (s.die d).clk + 1) → g.die = e.g.die → a.idle = (s.die e.g.die).clk + 2 →
        mayIssue u g a = false) ∧
    (∀ p ∈ ([(.bra m o21, true, o21.signExtend 52), (.brc m o17 inv k, xor (e.a.rk k.toNat) inv, o17.signExtend 52),
        (.bhe m o17 h, decide (e.hand s h.toNat &&& e.hand s 0 = 0#1024), o17.signExtend 52),
        (.bhn m o17 h, decide (e.hand s h.toNat &&& e.hand s 0 ≠ 0#1024), o17.signExtend 52)] : List (Instr × Bool × Addr)),
      Executes p.1 s e → exec p.1 s = .next (e.goOn s (if p.2.1 then e.a.pc + 4#52 * p.2.2 else e.a.pc + 4#52))) ∧
    (Executes (.loop m o15 n) s e → exec (.loop m o15 n) s = .next (
      let v := e.a.rs n.toNat - 1#64
      e.goOn (e.addOut s { writes := [.s n.toNat v] })
        (if v ≠ 0#64 then e.a.pc + 4#52 * o15.signExtend 52 else e.a.pc + 4#52)))

/-- CALL, CALLS and RET: the return stack, its 64 entries, and the words beyond the sixteenth (R202, R203, R24).
Derived. -/
def Obligations.CallsAndReturns : Prop :=
  ∀ (m : Marks) (off : BitVec 21) (n : BitVec 6) (s : State) (e : Env),
    let ret := (e.a.pc + 4#52).setWidth 64
    let push (t : State) : State := e.set t fun a => { a with rcnt := a.rcnt + 1, rcache := (ret :: a.rcache).take 16 }
    let calls : List (Instr × Bool × Addr) := [(.call m off, true, e.a.pc + 4#52 * off.signExtend 52),
      (.calls m n, decide ((e.a.rs n.toNat).toNat % 4 = 0), (e.a.rs n.toNat).setWidth 52)]
    (∀ p ∈ calls, Executes p.1 s e →
      (e.a.rcnt < 16 → p.2.1 = true → exec p.1 s = .next (e.goOn (push s) p.2.2)) ∧
      (16 ≤ e.a.rcnt → e.a.rcnt < 64 → p.2.1 = true → 480 ≤ e.g.blk.tlw + 96 * e.a.depth + 2 * (e.a.rcnt - 16) →
        ∀ l ts, let k := e.g.blk.tlw + 96 * e.a.depth + 2 * (e.a.rcnt - 16) - 480
          access s e.who .store (e.a.b.look 0#256 15).toNat 4 1 [(0, 1024 * k + e.rank 0), (0, 1024 * (k + 1) + e.rank 0)] = .ok l ts →
          ownBlocked s e (homeBytesOf (allPieces l)) = false →
          exec p.1 s = .next (e.goOn (push (startStore s e (splitPieces (allPieces l)
            (toBytes 8 (e.a.rcache.getD 15 0#64).toNat)) ts)) p.2.2)) ∧
      (e.a.rcnt = 64 → exec p.1 s = .next (takeTrap s e ⟨⟨cRET, 0, none⟩, 5, 0, 1, e.a.pc⟩)) ∧
      (e.a.rcnt < 64 → p.2.1 = false → exec p.1 s = .next (takeTrap s e ⟨⟨cMISALIGN, 0, none⟩, 5, 0, 1, e.a.pc⟩))) ∧
    (Executes (.ret m) s e →
      (1 ≤ e.a.rcnt → e.a.rcnt ≤ 16 → exec (.ret m) s = .next (e.goOn (e.set s fun a =>
        { a with rcnt := a.rcnt - 1, rcache := a.rcache.tail }) ((e.a.rcache.headD 0#64).setWidth 52))) ∧
      (17 ≤ e.a.rcnt → e.a.rcnt ≤ 64 → 480 ≤ e.g.blk.tlw + 96 * e.a.depth + 2 * (e.a.rcnt - 17) →
        ∀ l ts, let k := e.g.blk.tlw + 96 * e.a.depth + 2 * (e.a.rcnt - 17) - 480
          access s e.who .load (e.a.b.look 0#256 15).toNat 4 1 [(0, 1024 * k + e.rank 0), (0, 1024 * (k + 1) + e.rank 0)] = .ok l ts →
          poisonLane s e.who l = none → readBlocked s e (homeBytesOf (allPieces l)) (readBytesOf (allPieces l)) = false →
          ∃ t b v, exec (.ret m) s = .next t ∧ envOf t e.g.uid e.a.id = some b ∧ b.a.pc = (e.a.rcache.headD 0#64).setWidth 52 ∧
            b.a.rcnt = e.a.rcnt - 1 ∧ b.a.rcache = e.a.rcache.tail ++ [v] ∧ b.a.s = e.a.s ∧ b.a.v = e.a.v ∧
            (s.outq = [] → s.atoms = [] → v = BitVec.ofNat 64 (ofBytes ((readBytesOf (allPieces l)).map (homeByte s))))) ∧
      (e.a.rcnt = 0 → exec (.ret m) s = .next (takeTrap s e ⟨⟨cRET, 0, none⟩, 5, 0, 1, e.a.pc⟩)))

/-- HTEST, HTESTI and HBIT write a true hand and a false hand over the ranks tested (R210, R211, R196). Derived. -/
def Obligations.HandTests : Prop :=
  ∀ (c : Cond) (m : Bool) (x : Ext) (s : State) (e : Env),
    let lanes := (List.range e.a.pk).filter fun l => (e.hand s x.b.toNat &&& e.hand s 0).getLsbD (e.rank l)
    let mask := if m then handOf ((List.range e.a.pk).map e.rank) else BitVec.allOnes 1024
    let wide := w64 x.ty
    let after (i : Instr) (cond : Nat → Bool) (f : BitVec 5) : State :=
      e.goOn (e.addFlags (e.pushHand (e.pushHand s x.d.toNat mask (handOf ((lanes.filter cond).map e.rank)))
        x.a.toNat mask (handOf ((lanes.filter fun l => !cond l).map e.rank))) f) (e.pcAfter i)
    let cR := (e.opsOf (.htest c m x) x).c
    let cI := (e.opsOf (.htesti c m x) x).c
    let cB := (e.opsOf (.hbit m x) x).c
    (Executes (.htest c m x) s e →
      (floatTy x.ty = false → exec (.htest c m x) s = .next (after (.htest c m x) (fun l =>
        if wide then condI c (numOf (signedTy x.ty) (e.v64 cR l)) (numOf (signedTy x.ty) (e.v64 x.e.toNat l))
        else condI c (numOf (signedTy x.ty) (e.v32 cR l)) (numOf (signedTy x.ty) (e.v32 x.e.toNat l))) 0#5)) ∧
      (floatTy x.ty = true →
        let t (l : Nat) := fcondV c ((fmtOf x.ty.toNat).read (e.src wide cR l)) ((fmtOf x.ty.toNat).read (e.src wide x.e.toNat l))
        exec (.htest c m x) s = .next (after (.htest c m x) (fun l => (t l).1) (orFlags (lanes.map fun l => (t l).2))))) ∧
    (Executes (.htesti c m x) s e → floatTy x.ty = false →
      let imm (n : Nat) : BitVec n := match x.lit with
        | some l => l.setWidth n
        | none => if signedTy x.ty then x.imm.signExtend n else x.imm.setWidth n
      exec (.htesti c m x) s = .next (after (.htesti c m x) (fun l =>
        if wide then condI c (numOf (signedTy x.ty) (e.v64 cI l)) (numOf (signedTy x.ty) (imm 64))
        else condI c (numOf (signedTy x.ty) (e.v32 cI l)) (numOf (signedTy x.ty) (imm 32))) 0#5)) ∧
    (Executes (.hbit m x) s e → exec (.hbit m x) s = .next (after (.hbit m x) (fun l =>
      if wide then (e.v64 cB l).getLsbD x.byteImm else (e.v32 cB l).getLsbD x.byteImm) 0#5))

/-- HOR, HAND, HANDN, HXOR, HNOT and HMOV write one hand over all ranks (R212, R182). Derived. -/
def Obligations.HandAlgebra : Prop :=
  ∀ (m : Marks) (d a b : BitVec 4) (x : Ext) (s : State) (e : Env),
    let ha := e.hand s a.toNat
    let hb := e.hand s b.toNat
    let xa := e.hand s x.a.toNat
    let xb := e.hand s x.b.toNat
    ∀ p ∈ ([(.horBase m d a b, d.toNat, ha ||| hb), (.handBase m d a b, d.toNat, ha &&& hb), (.handnBase m d a b, d.toNat, ha &&& ~~~hb),
        (.hxorBase m d a b, d.toNat, ha ^^^ hb), (.hnotBase m d a, d.toNat, e.hand s 0 &&& ~~~ha), (.hmovBase m d a, d.toNat, ha),
        (.horExt x, x.d.toNat, xa ||| xb), (.handExt x, x.d.toNat, xa &&& xb), (.handnExt x, x.d.toNat, xa &&& ~~~xb),
        (.hxorExt x, x.d.toNat, xa ^^^ xb), (.hnotExt x, x.d.toNat, e.hand s 0 &&& ~~~xa), (.hmovExt x, x.d.toNat, xa)] :
        List (Instr × Nat × Hand)),
      Executes p.1 s e → exec p.1 s = .next (e.goOn (e.pushHand s p.2.1 (BitVec.allOnes 1024) p.2.2) (e.pcAfter p.1))

/-- HCNT, HFIRST, HMEMB and HPOS count, find, test and place ranks of a hand (R213, R182). Derived. -/
def Obligations.HandQueries : Prop :=
  ∀ (m : Marks) (d b : BitVec 6) (a : BitVec 4) (lit : Option DWord) (x : Ext) (s : State) (e : Env),
    let baseB : DWord := match lit with
      | some l => l
      | none => e.a.rs b.toNat
    let first (h : Hand) : DWord := match (List.range 1024).find? h.getLsbD with
      | some r => BitVec.ofNat 64 r
      | none => BitVec.allOnes 64
    let count (h : Hand) (n : Nat) : DWord := BitVec.ofNat 64 ((List.range 1024).countP fun r => decide (r < n) && h.getLsbD r)
    let member (h : Hand) (n : Nat) : DWord := if h.getLsbD n then 1#64 else 0#64
    let ha := e.hand s a.toNat
    let xa := e.hand s x.a.toNat
    ∀ p ∈ ([(.hcntBase m d a, d.toNat, count ha 1024), (.hfirstBase m d a, d.toNat, first ha),
        (.hmembBase m d a b lit, d.toNat, member ha baseB.toNat), (.hposBase m d a b lit, d.toNat, count ha baseB.toNat),
        (.hcntExt x, x.d.toNat, count xa 1024), (.hfirstExt x, x.d.toNat, first xa),
        (.hmembExt x, x.d.toNat, member xa (e.sb x).toNat), (.hposExt x, x.d.toNat, count xa (e.sb x).toNat)] :
        List (Instr × Nat × DWord)),
      Executes p.1 s e → exec p.1 s = .next (e.retire s p.1 [.s p.2.1 p.2.2])

/-- HPICK takes members by position, HRANGE makes a range of ranks, HFENCE waits for hand writes (R214, R215, R92).
Derived. -/
def Obligations.MakingHands : Prop :=
  ∀ (x : Ext) (s : State) (e : Env),
    (Executes (.hpick x) s e → ∃ h : Hand,
      (∀ r, r < 1024 → h.getLsbD r =
        (let ha := e.hand s x.a.toNat
         let below := (List.range r).countP ha.getLsbD
         ha.getLsbD r && decide ((e.sb x).toNat ≤ below) && decide (below < (e.sb x).toNat + (e.a.rs x.c.toNat).toNat))) ∧
      exec (.hpick x) s = .next (e.goOn (e.pushHand s x.d.toNat (BitVec.allOnes 1024) h) (e.pcAfter (.hpick x)))) ∧
    (Executes (.hrange x) s e → ∃ h : Hand,
      (∀ r, r < 1024 → h.getLsbD r =
        (decide ((e.a.rs x.a.toNat).toNat ≤ r) && decide (r < (e.a.rs x.a.toNat).toNat + (e.sb x).toNat))) ∧
      exec (.hrange x) s = .next (e.goOn (e.pushHand s x.d.toNat (BitVec.allOnes 1024) h) (e.pcAfter (.hrange x)))) ∧
    (Executes (.hfence x) s e → exec (.hfence x) s = .next (
      if s.handQ.all (fun w => w.agent != e.a.id) then e.goOn s (e.pcAfter (.hfence x)) else e.set s Agent.unwait))

/-- A hand read sees the agent’s own writes, and HAND_WRITE_COMMIT lands the oldest writes of a core (R89, R90, R91).
Derived. -/
def Obligations.HandReadsAndCommits : Prop :=
  ∀ (s : State) (e : Env) (h die core : Nat),
    let order (a b : HandWrite) : Prop := a.issued < b.issued ∨ a.issued = b.issued ∧ (a.slot < b.slot ∨ a.slot = b.slot ∧ a.place ≤ b.place)
    e.hand s 1 = handOf e.a.members ∧
    (h ≠ 1 →
      let ws := s.handQ.filter fun w => w.gang == e.g.uid && w.wg == e.a.wg && w.reg == h
      let base := e.wg.hands.getD h 0#1024
      (ws = [] → e.hand s h = base) ∧
      ((ws.getLast?.map fun w => w.agent) = some e.a.id →
        ∃ us : List HandWrite, us.Perm ws ∧ us.Pairwise order ∧ (ws.Pairwise order → us = ws) ∧
          e.hand s h = us.foldl (fun b w => (b &&& ~~~w.mask) ||| (w.val &&& w.mask)) base)) ∧
    ∀ (w : HandWrite) (g : Gang), (s.handQ.filter fun v => v.die == die && v.core == core) = [w] → s.gang? w.gang = some g →
      ((s.die die).clk ≤ w.issued → exec (.handWriteCommit die core) s = .next s) ∧
      (w.issued < (s.die die).clk → g.rdvs = [] → w.wg < g.wgs.length → w.reg < 16 → (∀ u ∈ g.wgs, u.hands.length = 16) →
      ∃ t g', exec (.handWriteCommit die core) s = .next t ∧ t.gang? w.gang = some g' ∧
        t.handQ = s.handQ.filter (fun v => !(v.die == die && v.core == core)) ∧
        ∀ k r, k < g.wgs.length → r < 16 → (g'.wgs.getD k default).hands.getD r 0#1024 =
          (let old := (g.wgs.getD k default).hands.getD r 0#1024
           if k = w.wg ∧ r = w.reg then (old &&& ~~~w.mask) ||| (w.val &&& w.mask) else old))

/-- APPLY, BAR and BAR.gang with every party arrived, with one missing, and with no member of the hand (R206, R207,
R266, R84). Derived. -/
def Obligations.RendezvousAndBarrier : Prop :=
  ∀ (m : Marks) (off : BitVec 17) (h : BitVec 4) (va vb : BitVec 8) (nc nw : BitVec 4) (x : Ext) (s : State) (e : Env),
    let i := Instr.apply m off h va nc vb nw
    let hand (n : Nat) : Hand :=
      let m := e.hand s n &&& e.hand s 0
      match e.a.apply with
      | none => m
      | some k => match e.g.applies.find? fun a => a.n == k with
        | some a => m &&& handOf a.members
        | none => 0#1024
    let self (n : Nat) : Option Nat := if n = 1 then some e.a.id else none
    let key (kind : RdvKind) (n : Nat) : Rdv :=
      { (default : Rdv) with kind := kind, wg := e.a.wg, inside := e.a.apply, addr := e.a.pc, hand := n, self := self n }
    let opened (k q : Rdv) : Prop := openRdv e k = some q ∧ (∀ p ∈ e.g.rdvs, p.n = q.n → p = q) ∧ k.self = none ∧
      ∀ id ∈ q.arrived, ∃ b, envOf s e.g.uid id = some b ∧ (k.kind = .barGang ∨ b.a.wg = e.a.wg)
    let opens (k : Rdv) : Prop := openRdv e k = none ∧ ∀ p ∈ e.g.rdvs, p.n ≠ s.fresh
    let arrived (k : Rdv) : List Nat := match openRdv e k with
      | some q => e.a.id :: q.arrived
      | none => [e.a.id]
    let level (b : Agent) : Prop := b.wg = e.a.wg ∧ b.isPack = e.a.isPack ∧ (b.isPack = true → b.apply = e.a.apply)
    let party (k : Rdv) (b : Agent) : Prop := if k.kind = .barGang then b.isPack = false ∧ b.st ≠ .ended else
      level b ∧ (b.isPack = true ∨ b.st ≠ .ended) ∧ Agent.hasRank b (hand k.hand) = true
    let all (k : Rdv) : Prop := k.self.isSome ∨ ∀ b ∈ e.g.agents, party k b → b.id ∈ arrived k
    let onward (t : State) (ids : List Nat) : Prop := ∀ id ∈ ids, ∀ b, envOf s e.g.uid id = some b →
      ∃ b', envOf t e.g.uid id = some b' ∧ b'.a.st = .runnable ∧ b'.a.pc = b.a.pc + 12#52
    let bar (i : Instr) (k : Rdv) : Prop := (opens k ∨ ∃ q, opened k q) →
      (all k → ∃ t, exec i s = .next t ∧ onward t (arrived k)) ∧ (¬ all k → Waits i s e)
    e.a.isPack = e.a.apply.isSome → e.a.st = .runnable → (e.g.agents.map fun b => b.id).Nodup → e.g.dbg.getLsbD 1 = false →
    s.handQ = [] → s.outq = [] → s.atoms = [] → e.g.osq = [] →
    (∀ b ∈ e.g.agents, ∀ o ∈ b.outs, o.reads.any LoadReq.waits = false) → e.g.waitsIn e.a.id = false →
    (Executes i s e → e.a.depth < 4 →
      let k := key .apply h.toNat
      (Agent.hasRank e.a (hand h.toNat) = false → exec i s = .next (e.goOn s (e.a.pc + 12#52))) ∧
      ∀ q, Agent.hasRank e.a (hand h.toNat) = true → (opened k q ∨ opens k ∧ q = { k with
          block := e.a.pc + 4#52 * off.signExtend 52, va := va.toNat, nc := nc.toNat, vb := vb.toNat, nw := nw.toNat }) →
        (all k → ∃ t g ap, exec i s = .next t ∧ t.gang? e.g.uid = some g ∧ ap ∈ g.applies ∧ ap.members = handRanks (hand h.toNat) ∧
          ap.formed = false ∧ ap.ret = e.a.pc + 12#52 ∧ ap.wg = e.a.wg ∧ ap.inside = e.a.apply ∧
          ap.block = q.block ∧ ap.va = q.va ∧ ap.nc = q.nc ∧ ap.vb = q.vb ∧ ap.nw = q.nw ∧
          (∀ b ∈ e.g.agents, b.id ∈ ap.donors ↔ b.id ∈ arrived k ∧ Agent.hasRank b (hand h.toNat) = true) ∧
          (∀ b ∈ g.agents, b.id ∈ ap.donors → b.st = .donor ap.n) ∧
          ∀ id ∈ arrived k, id ∉ ap.donors → onward t [id]) ∧
        (¬ all k → Waits i s e ∧ ∀ t g, exec i s = .next t → t.gang? e.g.uid = some g → g.applies = e.g.applies)) ∧
    (Executes i s e → e.a.depth = 4 → exec i s = .next (takeTrap s e ⟨⟨cRDV, 0, some 4⟩, 5, 0, 3, e.a.pc⟩)) ∧
    (Executes (.barHand x) s e →
      (Agent.hasRank e.a (hand x.a.toNat) = false → exec (.barHand x) s = .next (e.goOn s (e.a.pc + 12#52))) ∧
      (Agent.hasRank e.a (hand x.a.toNat) = true → bar (.barHand x) (key .bar x.a.toNat))) ∧
    (Executes (.barGang x) s e →
      (e.a.isPack = false → bar (.barGang x) (key .barGang 0)) ∧
      (e.a.isPack = true → exec (.barGang x) s = .next (takeTrap s e ⟨⟨cILLOP, 0, none⟩, 5, 0, 3, e.a.pc⟩)))

/-- EXIT and DONE complete: they end an agent to which nothing is owed (R205, R209). Derived. -/
def Obligations.WarpsAndPacksEnd : Prop :=
  ∀ (m : Marks) (s : State) (e : Env), heldTrap e.a = none →
    let dead := e.pushHand s 0 (handOf e.a.members) 0#1024
    let busy : Prop := e.a.outs ≠ [] ∨ (e.a.isPack = true ∧ Token.busy ∈ e.a.tokens)
    let leaves (i : Instr) (u : State) : Prop := ∃ t g, exec i s = .next t ∧ t.gang? e.g.uid = some g ∧ t.mem = s.mem ∧ t.handQ = u.handQ ∧
      t.outq = s.outq ∧ t.cmds = s.cmds ∧ g.wgs = e.g.wgs ∧ g.agents.length = e.g.agents.length ∧
      (∀ (k : Nat) (b : Agent), e.g.agents[k]? = some b → ∃ b', g.agents[k]? = some b' ∧ (b.id ≠ e.a.id → b' = b) ∧ (b.id = e.a.id → b'.st = .ended ∧ b'.id = b.id)) ∧
      (∀ ap ∈ e.g.applies, some ap.n = e.a.apply → ∃ ap' ∈ g.applies, ap'.n = ap.n ∧ ap'.flags = ap.flags ||| e.a.fflags ∧
        ap'.back = ap.back ++ packBack e.a ap ∧ ap'.donors = ap.donors) ∧
      ∀ ap ∈ e.g.applies, some ap.n ≠ e.a.apply → ap ∈ g.applies
    (Executes (.exit m) s e →
      (¬ busy → e.a.isPack = false → exec (.exit m) s = .next (e.set dead fun a => { a with st := .ended, bind := none })) ∧
      (¬ busy → (∀ p ∈ s.atoms, p.agent ≠ e.a.id) → e.a.isPack = true → leaves (.exit m) dead) ∧
      (busy → exec (.exit m) s = .next (e.set s Agent.unwait))) ∧
    (Executes (.done m) s e →
      (¬ busy → (∀ p ∈ s.atoms, p.agent ≠ e.a.id) → e.a.isPack = true → leaves (.done m) s) ∧
      (busy → e.a.isPack = true → exec (.done m) s = .next (e.set s Agent.unwait)) ∧
      (e.a.isPack = false → exec (.done m) s = .next (takeTrap s e ⟨⟨cILLOP, 0, none⟩, 5, 0, 1, e.a.pc⟩)))

/-- PACK_FORMATION packs the members in rank order with their carry-ins, and APPLY_JOIN gives their write-backs home
(R136, R137, R138, R209, R87). Derived. -/
def Obligations.PackFormationAndJoin : Prop :=
  ∀ (gang n : Nat) (s : State) (g : Gang) (ap : ApplyRec), s.gang? gang = some g → (g.applies.find? fun a => a.n == n) = some ap →
    let w := (g.wgs.getD ap.wg default).g
    let live := (g.wgs.getD ap.wg default).hands.getD 0 0#1024
    (∀ q ∈ s.gangs, q.osq = []) → (g.agents.map fun a => a.id).Nodup → g.dbg.getLsbD 1 = false →
    (ap.formed = false → 1 ≤ w → w ≤ 64 → ∃ t g' packs, exec (.packFormation gang n) s = .next t ∧ t.gang? gang = some g' ∧
      g'.agents = g.agents ++ packs ∧ packs.flatMap (fun a => a.members) = ap.members ∧
      (∀ a ∈ packs, a.isPack = true ∧ a.apply = some n ∧ a.depth = ap.depth + 1 ∧ a.pc = ap.block ∧ a.st = .runnable ∧
        a.pk = a.members.length ∧ a.pk ≤ w ∧ a.fflags = 0#5 ∧ a.rcnt = 0 ∧ a.outs = [] ∧
        ∀ j lane rank, j < ap.nc → a.members[lane]? = some rank → ∀ b l, homeOf g ap rank = some (b, l) →
          a.v.look 0#32 (64 * (ap.va + j) + lane) = b.v.look 0#32 (64 * (ap.va + j) + l)) ∧
      (∀ (k : Nat) (a : Agent), packs[k]? = some a → k + 1 < packs.length → a.pk = w)) ∧
    (ap.formed = true → (∀ a ∈ g.agents, a.id ∈ ap.packs → a.st = .ended) → (∀ d ∈ ap.donors, d ∉ ap.packs) → (∀ v ∈ s.handQ, v.agent ∉ ap.packs) →
      let stay := g.agents.filter fun a => !ap.packs.contains a.id
      ∃ t g', exec (.applyJoin gang n) s = .next t ∧ t.gang? gang = some g' ∧ g'.applies = g.applies.filter (fun a => a.n != n) ∧
        g'.agents.length = stay.length ∧ ∀ (k : Nat) (a : Agent), stay[k]? = some a → ∃ a' : Agent, g'.agents[k]? = some a' ∧
          (a.id ∉ ap.donors → a' = a) ∧ (a.id ∈ ap.donors → a'.fflags = a.fflags ||| ap.flags ∧
            (a.st ≠ .ended → a'.pc = ap.ret ∧ a'.st = .runnable) ∧ a'.s = a.s ∧ a'.k = a.k ∧
            a'.v = Table.putAll 0#32 a.v (ap.back.filterMap fun b =>
              if live.getLsbD b.1 then (a.members.idxOf? b.1).map fun l => (64 * (ap.vb + b.2.1) + l, b.2.2) else none)))

/-- The float instructions give each lane one rounded result, and their flags accumulate (section 13 (R235-R242),
R189, R166, R172). Derived. -/
def Obligations.FloatInstructions : Prop :=
  ∀ (c : Cond) (m : Marks) (d a b : BitVec 7) (lit : Option DWord) (x : Ext) (s : State) (e : Env),
    let f := fmtOf x.ty.toNat
    let wide := w64 x.ty
    let md := x.rnd.toNat
    let two (i : Instr) (op : Nat → Nat → Nat × BitVec 5) (l : Nat) : Nat × BitVec 5 := onElems x.ty fun el =>
      op (signMod f (x.mod.getLsbD 0) (x.mod.getLsbD 1) (el (e.src wide (e.opsOf i x).a l)))
        (signMod f (x.mod.getLsbD 2) (x.mod.getLsbD 3) (el (if wide then (e.b64 x (e.opsOf i x).b l).toNat else (e.b32 x (e.opsOf i x).b l).toNat)))
    let one (i : Instr) (op : Nat → Nat × BitVec 5) (l : Nat) : Nat × BitVec 5 := op (e.src wide (e.opsOf i x).a l % 2 ^ f.width)
    (∀ p ∈ ([(.faddExt x, wide, fun u v => faddV f md (f.read u) (f.read v)), (.fsub x, wide, fun u v => faddV f md (f.read u) (f.read v).neg),
        (.fmulExt x, wide, fun u v => fmulV f md (f.read u) (f.read v)), (.fmin x, wide, fminmax f false), (.fmax x, wide, fminmax f true),
        (.fset c x, false, fun u v => let r := fcondV c (f.read u) (f.read v); (if r.1 then 2 ^ 32 - 1 else 0, r.2))] :
        List (Instr × Bool × (Nat → Nat → Nat × BitVec 5))),
      Executes p.1 s e → exec p.1 s = .next (e.eachF s p.1 p.2.1 (e.opsOf p.1 x).d (two p.1 p.2.2))) ∧
    (∀ p ∈ ([(.fclass x, false, fun u => (fclassV f u, 0#5)), (.frnd x, wide, frndV f md), (.fsqrt x, wide, fun u => fsqrtV f md (f.read u))] :
        List (Instr × Bool × (Nat → Nat × BitVec 5))),
      Executes p.1 s e → exec p.1 s = .next (e.eachF s p.1 p.2.1 (e.opsOf p.1 x).d (one p.1 p.2.2))) ∧
    (Executes (.fdiv x) s e → exec (.fdiv x) s = .next (e.eachF s (.fdiv x) wide (e.opsOf (.fdiv x) x).d fun l =>
      fdivV f md (f.read (e.src wide (e.opsOf (.fdiv x) x).a l))
        (f.read (if wide then (e.b64 x (e.opsOf (.fdiv x) x).b l).toNat else (e.b32 x (e.opsOf (.fdiv x) x).b l).toNat)))) ∧
    (Executes (.ffma x) s e → exec (.ffma x) s = .next (e.eachF s (.ffma x) wide (e.opsOf (.ffma x) x).d fun l => onElems x.ty fun el =>
      let r := e.opsOf (.ffma x) x
      ffmaV f md (f.read (signMod f (x.mod.getLsbD 0) (x.mod.getLsbD 1) (el (e.src wide r.a l))))
        (f.read (signMod f (x.mod.getLsbD 2) (x.mod.getLsbD 3) (el (if wide then (e.b64 x r.b l).toNat else (e.b32 x r.b l).toNat))))
        (f.read (signMod f (x.imm.getLsbD 0) (x.imm.getLsbD 1) (el (e.src wide r.c l)))))) ∧
    ∀ p ∈ ([(.faddBase m d a b lit, faddV .f32 0), (.fmulBase m d a b lit, fmulV .f32 0)] : List (Instr × (FVal → FVal → Nat × BitVec 5))),
      Executes p.1 s e → exec p.1 s = .next (e.eachF s p.1 false d.toNat fun l =>
        p.2 (Fmt.f32.read (e.v32 a.toNat l).toNat) (Fmt.f32.read (e.bb32 b lit l).toNat))

/-- Rounding gives the nearest value of the format, or the nearest one on the mode’s side (R169, R164, R170). Derived.
-/
def Obligations.RoundingIsCorrect : Prop :=
  ∀ f ∈ [Fmt.f64, .f32, .f16, .bf16, .e4m3, .e5m2],
    let val (n : Bool) (m : Nat) (e : Int) : ℚ := (if n then -1 else 1) * (m : ℚ) * 2 ^ e
    (∀ (n : Bool) (m : Nat) (e : Int) (mode : Nat) (sat : Bool), 0 < m → mode < 4 →
      let r := f.round mode sat n m e
      let x := val n m e
      r.2 &&& OF = 0#5 → ∃ n' m' e', f.read r.1 = .fin n' m' e' ∧
        let y := val n' m' e'
        ((r.2 &&& NX ≠ 0#5) ↔ y ≠ x) ∧
        ∀ b n'' m'' e'', f.read b = .fin n'' m'' e'' →
          let z := val n'' m'' e''
          (mode = 0 → |x - y| ≤ |x - z| ∧ (|x - y| = |x - z| → z ≠ y → r.1 % 2 = 0)) ∧
          (mode = 2 → x ≤ y ∧ (x ≤ z → y ≤ z)) ∧ (mode = 3 → y ≤ x ∧ (z ≤ x → z ≤ y)) ∧
          (mode = 1 → |y| ≤ |x| ∧ (|z| ≤ |x| → |z| ≤ |y|))) ∧
    ∀ (b : Nat) (n : Bool) (m : Nat) (e : Int) (mode : Nat) (sat : Bool), b < 2 ^ f.width → f.read b = .fin n m e →
      f.round mode sat n m e = (b, 0#5)

/-- NaN, infinity, zero and overflow: the exceptional results and their flags (R170, R169, R165, R237, R238). Derived.
-/
def Obligations.InvalidOperandsAndOverflow : Prop :=
  ∀ f ∈ [Fmt.f64, .f32, .f16, .bf16, .e4m3, .e5m2], ∀ (mode : Nat), mode < 4 →
    (∀ a b, (isNaN a = true ∨ isNaN b = true) →
      let bad := if isSig a = true ∨ isSig b = true then NV else 0#5
      faddV f mode a b = (f.nan, bad) ∧ fmulV f mode a b = (f.nan, bad) ∧ fdivV f mode a b = (f.nan, bad) ∧
        ∀ c, zeroTimesInf a b = false → (ffmaV f mode a b c).1 = f.nan) ∧
    (∀ a, isNaN a = true → fsqrtV f mode a = (f.nan, if isSig a then NV else 0#5)) ∧
    (∀ n k m q, faddV f mode (.inf n) (.inf (!n)) = (f.nan, NV) ∧ fmulV f mode (.inf n) (.fin k 0 q) = (f.nan, NV) ∧
      fmulV f mode (.fin k 0 q) (.inf n) = (f.nan, NV) ∧ fdivV f mode (.inf n) (.inf k) = (f.nan, NV) ∧
      (∀ k' q', fdivV f mode (.fin k 0 q) (.fin k' 0 q') = (f.nan, NV)) ∧ (0 < m → fsqrtV f mode (.fin true m q) = (f.nan, NV)) ∧
      (0 < m → ∀ k' q', fdivV f mode (.fin k m q) (.fin k' 0 q') = (if f.noInf then f.nan else f.signed (xor k k') f.infMag, DZ)) ∧
      (∀ c, ffmaV f mode (.inf n) (.fin k 0 q) c = (f.nan, NV) ∧ ffmaV f mode (.fin k 0 q) (.inf n) c = (f.nan, NV))) ∧
    ∀ (sat n : Bool) (m : Nat) (e : Int) (mm : Nat) (ee : Int), f.read f.maxMag = .fin false mm ee →
      let x : ℚ := (m : ℚ) * 2 ^ e
      let last : ℚ := 2 ^ ee
      let most : ℚ := (mm : ℚ) * last
      let beyond : Prop := most + last ≤ x ∨ (((mode = 2 ∧ n = false) ∨ (mode = 3 ∧ n = true)) ∧ most < x) ∨
        (mode = 0 ∧ (most + last / 2 < x ∨ most + last / 2 = x ∧ mm % 2 = 1))
      (beyond → f.round mode sat n m e = (if sat = true ∨ mode = 1 ∨ (mode = 2 ∧ n = true) ∨ (mode = 3 ∧ n = false) then f.signed n f.maxMag
        else if f.noInf then f.nan else f.signed n f.infMag, OF ||| NX)) ∧
      (¬ beyond → (f.round mode sat n m e).2 &&& OF = 0#5)

/-- FRCP, FRSQ, FEXP2, FLOG2, FSIN, FCOS and FTANH give each lane their result; the special results (R243 (section
13), log entry 6). Derived. -/
def Obligations.SpecialFunctionInstructions : Prop :=
  ∀ (x : Ext) (s : State) (e : Env),
    let f := fmtOf x.ty.toNat
    (∀ p ∈ ([(.frcp x, w64 x.ty, frcp f), (.frsq x, w64 x.ty, frsq f), (.fexp2 x, false, fexp2), (.flog2 x, false, flog2), (.fsin x, false, fsincos false),
        (.fcos x, false, fsincos true), (.ftanh x, false, ftanh)] : List (Instr × Bool × (Nat → Nat × BitVec 5))),
      Executes p.1 s e → exec p.1 s = .next (e.eachF s p.1 p.2.1 (e.opsOf p.1 x).d fun l =>
        p.2.2 (e.src (w64 x.ty) (e.opsOf p.1 x).a l % 2 ^ f.width))) ∧
    (∀ g ∈ [Fmt.f64, .f32], ∀ b,
      (∀ sg, g.read b = .nan sg → frcp g b = (g.nan, if sg then NV else 0#5) ∧ frsq g b = (g.nan, if sg then NV else 0#5)) ∧
      (∀ n q, g.read b = .fin n 0 q → frcp g b = (g.signed n g.infMag, DZ) ∧ frsq g b = (g.signed n g.infMag, DZ)) ∧
      (∀ n, g.read b = .inf n → (frcp g b).1 = g.signed n 0 ∧ (n = true → frsq g b = (g.nan, NV))) ∧
      (∀ m q, 0 < m → g.read b = .fin true m q → frsq g b = (g.nan, NV))) ∧
    ∀ b,
      (∀ sg, Fmt.f32.read b = .nan sg → ∀ h ∈ [fexp2, flog2, fsincos false, fsincos true, ftanh], h b = (Fmt.f32.nan, if sg then NV else 0#5)) ∧
      (∀ n, Fmt.f32.read b = .inf n → fsincos false b = (Fmt.f32.nan, NV) ∧ fsincos true b = (Fmt.f32.nan, NV) ∧
        fexp2 b = (if n then 0 else Fmt.f32.infMag, 0#5) ∧ flog2 b = (if n then (Fmt.f32.nan, NV) else (Fmt.f32.infMag, 0#5))) ∧
      (∀ n q, Fmt.f32.read b = .fin n 0 q → flog2 b = (Fmt.f32.signed true Fmt.f32.infMag, DZ)) ∧
      (∀ m q, 0 < m → Fmt.f32.read b = .fin true m q → flog2 b = (Fmt.f32.nan, NV))

/-- CVT converts element by element; BFPQ quantises blocks of 32 lanes and BFPX expands them (R244, R245, R246, R247,
R167, R168). Derived. -/
def Obligations.ConversionsAndBlocks : Prop :=
  ∀ (src : BitVec 5) (x : Ext) (s : State) (e : Env),
    (Executes (.cvt src x) s e → exec (.cvt src x) s = .next (e.eachF s (.cvt src x) (w64 x.ty) (e.opsOf (.cvt src x) x).d fun l =>
      cvtOf x.ty src x.rnd.toNat x.sat (e.src (w64 src) (e.opsOf (.cvt src x) x).a l))) ∧
    (∀ (d t : Nat) (v : Nat) (sat : Bool), d < 8 → t < 8 →
      let vt := intValue t v
      let lo := (intRange d).1
      let hi := (intRange d).2
      (lo ≤ vt → vt ≤ hi → cvt1 d t x.rnd.toNat sat v = (intReg d vt, 0#5)) ∧
      (sat = true → cvt1 d t x.rnd.toNat sat v = (intReg d (max lo (min hi vt)), 0#5))) ∧
    (∀ (d t v : Nat) (sat : Bool), d < 8 → 8 ≤ t → t < 14 →
      (isNaN ((fmtOf t).read v) = true → cvt1 d t x.rnd.toNat sat v = (0, NV)) ∧
      (∀ n, (fmtOf t).read v = .inf n → cvt1 d t x.rnd.toNat sat v = (intReg d (if n then (intRange d).1 else (intRange d).2), NV))) ∧
    (Executes (.bfpx x) s e → exec (.bfpx x) s = .next (e.eachF s (.bfpx x) false (e.opsOf (.bfpx x) x).d fun l =>
      let r := e.opsOf (.bfpx x) x
      match bfpVal x.imm.toNat ((e.v32 r.b l).toNat % 256) (e.v32 r.a l).toNat with
        | .nan _ => (Fmt.f32.nan, 0#5)
        | v => cvtFF .f32 x.rnd.toNat x.sat v)) ∧
    (Executes (.bfpq x) s e →
      (e.wg.g < 32 → exec (.bfpq x) s = .next (takeTrap s e ⟨⟨cILLENC, 0, none⟩, 5, 0, x.words, e.a.pc⟩)) ∧
      (32 ≤ e.wg.g → exec (.bfpq x) s = .next (
        let r := e.opsOf (.bfpq x) x
        let block (k : Nat) := bfpQuant .f32 x.imm.toNat x.rnd.toNat x.sat ((List.range 32).map fun j =>
          if e.takesPart (32 * k + j) then Fmt.f32.read (e.v32 r.b (32 * k + j)).toNat else .fin false 0 0)
        let live (k : Nat) : Bool := (List.range 32).any fun j => e.takesPart (32 * k + j)
        e.retire s (.bfpq x) ((List.range (e.wg.g / 32)).flatMap fun k => (List.range 32).flatMap fun j =>
          if e.takesPart (32 * k + j) then
            [.v r.d (32 * k + j) (BitVec.ofInt 32 ((block k).2.1.getD j 0)), .v r.a (32 * k + j) (BitVec.ofNat 32 (block k).1)] else [])
          (orFlags ((List.range (e.wg.g / 32)).map fun k => if live k then (block k).2.2 else 0#5)))))

/-- LD, LDS, BLD and HLD: what the registers or the hand receive when the data returns (R249, R250, R251, R259, R261,
R27, R191). Derived. -/
def Obligations.LoadsThroughRecords : Prop :=
  ∀ (x : Ext) (s : State) (e : Env) (l : List (Nat × Option (List Piece))) (ts : List Trans), Quiet s e → poisonLane s e.who l = none →
    let w := accWidth x.ty.toNat
    let sg := accSigned x.ty.toNat
    let reads (i : Instr) (t : State) : Prop := exec i s = .next t ∧ (∀ a, homeByte t a = homeByte s a) ∧ t.outq = [] ∧
      ∃ b, envOf t e.g.uid e.a.id = some b ∧ b.a.pc = e.pcAfter i ∧ b.a.v = e.a.v ∧ b.a.s = e.a.s ∧ b.a.b = e.a.b
    (Executes (.ld x) s e → e.a.pk ≤ 64 →
      let r := e.opsOf (.ld x) x
      access s e.who .load (e.a.b.look 0#256 r.a).toNat w 1 (e.vIndices r.b x.offset) = .ok l ts → ∃ t, reads (.ld x) t ∧
        (∀ p ∈ l, ∀ j, j < max 1 (w / 4) → (e.landed t).v.look 0#32 (64 * (r.d + j) + p.1) = loadedWord x.ty (laneValue s p) j) ∧
        (∀ k, (∀ p ∈ l, ∀ j, j < max 1 (w / 4) → k ≠ 64 * (r.d + j) + p.1) → (e.landed t).v.look 0#32 k = e.a.v.look 0#32 k) ∧
        (e.landed t).s = e.a.s ∧ (e.landed t).k = e.a.k ∧ (e.landed t).b = e.a.b) ∧
    (Executes (.lds x) s e →
      let r := e.opsOf (.lds x) x
      access s e.who .load (e.a.b.look 0#256 r.a).toNat w 1 [(0, e.sIndex r.b x.offset)] = .ok l ts → ∃ t p, reads (.lds x) t ∧ l = [p] ∧
        (e.landed t).v = e.a.v ∧ ∀ n, n < 64 → (e.landed t).rs n = if n = r.d ∧ n ≠ 0 then
          (if sg then (BitVec.ofNat (8 * w) (laneValue s p)).signExtend 64 else BitVec.ofNat 64 (laneValue s p)) else e.a.rs n) ∧
    (Executes (.bld x) s e →
      let r := e.opsOf (.bld x) x
      3 ≤ recEsz (e.a.b.look 0#256 r.a).toNat →
      access s e.who .load (e.a.b.look 0#256 r.a).toNat 32 1 [(0, e.sIndex r.b x.offset)] = .ok l ts → ∃ t p, reads (.bld x) t ∧ l = [p] ∧
        (e.landed t).v = e.a.v ∧ (e.landed t).s = e.a.s ∧
        ∀ n, (e.landed t).b.look 0#256 n = if n = r.d then BitVec.ofNat 256 (laneValue s p) else e.a.b.look 0#256 n) ∧
    (Executes (.hld x) s e →
      let r := e.opsOf (.hld x) x
      3 ≤ recEsz (e.a.b.look 0#256 r.a).toNat →
      access s e.who .load (e.a.b.look 0#256 r.a).toNat 128 128 [(0, e.sIndex r.b x.offset)] = .ok l ts → ∃ t p, reads (.hld x) t ∧ l = [p] ∧
        t.handQ = s.handQ ∧ ((e.landAll t).handQ = s.handQ ++ [⟨e.g.die, e.g.core, e.g.uid, e.a.wg, e.a.id, e.g.slotOf e.a.wg e.a.place,
          e.a.place, r.d, BitVec.allOnes 1024, BitVec.ofNat 1024 (laneValue s p), e.clk s⟩]))

/-- ST, STS and HST: which bytes a store writes, what their agent reads afterwards, and the frame (R251, R250, R261,
R28, R77, R94). Derived. -/
def Obligations.StoresThroughRecords : Prop :=
  ∀ (x : Ext) (s : State) (e : Env) (l : List (Nat × Option (List Piece))) (ts : List Trans), Quiet s e → (∀ q ∈ allPieces l, q.dup = none) →
    let w := accWidth x.ty.toNat
    let stores (i : Instr) (w : Nat) (data : Nat → Nat) : Prop := ∃ t, exec i s = .next t ∧
      (∀ a, viewByte t e.who a = lastByte (storedBytes w data l) a (viewByte s e.who a)) ∧ (∀ a, homeByte t a = homeByte s a) ∧
      t.handQ = s.handQ ∧ (∃ b, envOf t e.g.uid e.a.id = some b ∧ b.a = e.a.past (e.pcAfter i))
    (Executes (.st x) s e →
      let r := e.opsOf (.st x) x
      access s e.who .store (e.a.b.look 0#256 r.a).toNat w 1 (e.vIndices r.b x.offset) = .ok l ts →
        stores (.st x) w fun lane => if w64 x.ty then (e.v64 r.d lane).toNat else (e.v32 r.d lane).toNat) ∧
    (Executes (.sts x) s e →
      let r := e.opsOf (.sts x) x
      access s e.who .store (e.a.b.look 0#256 r.a).toNat w 1 [(0, e.sIndex r.b x.offset)] = .ok l ts →
        stores (.sts x) w fun _ => (e.a.rs r.d).toNat) ∧
    (Executes (.hst x) s e →
      let r := e.opsOf (.hst x) x
      3 ≤ recEsz (e.a.b.look 0#256 r.a).toNat →
      access s e.who .store (e.a.b.look 0#256 r.a).toNat 128 128 [(0, e.sIndex r.b x.offset)] = .ok l ts →
        stores (.hst x) 128 fun _ => (e.hand s r.d).toNat)

/-- An access is checked for a malformed record, OUT under TRAP, alignment and translation, and LD and ST trap by the
first failure (R27, R26, R251, R259, R261, R40). Derived. -/
def Obligations.AccessChecksInOrder : Prop :=
  ∀ (x : Ext) (s : State) (e : Env),
    let w := accWidth x.ty.toNat
    let rec' (i : Instr) : Nat := (e.a.b.look 0#256 (e.opsOf i x).a).toNat
    let one (i : Instr) : List (Nat × Nat) := [(0, e.sIndex (e.opsOf i x).b x.offset)]
    ∀ p ∈ ([(.ld x, .load, w, 1, e.vIndices (e.opsOf (.ld x) x).b x.offset), (.st x, .store, w, 1, e.vIndices (e.opsOf (.st x) x).b x.offset),
        (.lds x, .load, w, 1, one (.lds x)), (.sts x, .store, w, 1, one (.sts x)), (.bld x, .load, 32, 1, one (.bld x)),
        (.hld x, .load, 128, 128, one (.hld x)), (.hst x, .store, 128, 128, one (.hst x))] : List (Instr × AccKind × Nat × Nat × List (Nat × Nat))),
      Executes p.1 s e →
        let big := p.1 = .bld x ∨ p.1 = .hld x ∨ p.1 = .hst x
        let acc := access s e.who p.2.1 (rec' p.1) p.2.2.1 p.2.2.2.1 p.2.2.2.2
        (big → recEsz (rec' p.1) < 3 → exec p.1 s = .next (takeTrap s e ⟨⟨cOOB, 0, some 15⟩, 5, 0, x.words, e.a.pc⟩)) ∧
        ((big → 3 ≤ recEsz (rec' p.1)) →
          (recBad (rec' p.1) = true → exec p.1 s = .next (takeTrap s e ⟨⟨cOOB, 0, some 15⟩, 5, 0, x.words, e.a.pc⟩)) ∧
          (∀ t, acc = .trap t → exec p.1 s = .next (takeTrap s e ⟨t, 5, 0, x.words, e.a.pc⟩)) ∧
          (∀ ps, acc = .page ps → exec p.1 s = .next (pageFault s e p.2.1 ps)) ∧
          (recBad (rec' p.1) = false → ∀ lane n, p.2.2.2.2.find? (fun q => recTrap (rec' p.1) &&
              laneKind (rec' p.1) (pieceCount (rec' p.1) p.2.2.1) q.2 == some false) = some (lane, n) →
            acc = .trap ⟨cOOB, lane, none⟩))

/-- ATOM reads, combines and writes each lane’s element, and returns the old values (R252, R253, R101, R28). Derived.
-/
def Obligations.AtomicsPerform : Prop :=
  ∀ (o : AtomOp) (x : Ext) (s : State) (e : Env) (l : List (Nat × Option (List Piece))) (ts : List Trans), Executes (.atom o x) s e →
    let r := e.opsOf (.atom o x) x
    let rc := (e.a.b.look 0#256 r.a).toNat
    let w := atomWidth o x rc
    let k := (w + 3) / 4
    let opd (reg lane : Nat) : Nat := ((List.range k).map fun j => 2 ^ (32 * j) * (e.v32 (reg + j) lane).toNat).sum
    Quiet s e → e.a.pk ≤ 64 → recBad rc = false → w ≤ 2 ^ recEsz rc →
    (w = 16 → ∀ n ∈ [r.d, r.c] ++ (if o = .cas then [x.e.toNat] else []), n + 3 < e.allot ∧ n % 4 = 0) →
    access s e.who .atomic rc w w (e.atomIndices x r) = .ok l ts → poisonLane s e.who l = none → (∀ q ∈ allPieces l, q.dup = none) →
    (allPieces l).Pairwise (fun p q => p.pa + w ≤ q.pa ∨ q.pa + w ≤ p.pa) →
      ∃ t, exec (.atom o x) s = .next t ∧
        (∃ b, envOf t e.g.uid e.a.id = some b ∧ b.a.pc = e.pcAfter (.atom o x)) ∧
        (∀ p ∈ l, ∀ j, j < k → (e.landed t).v.look 0#32 (64 * (r.d + j) + p.1) = (match p.2 with
          | some (q :: _) => BitVec.ofNat 32 (homeNat s q.pa w / 2 ^ (32 * j))
          | _ => 0#32)) ∧
        ∀ a, viewByte (e.landAll t) e.who a = lastByte (l.flatMap fun p => match p.2 with
          | some (q :: _) =>
            let new := atomNew o x.ty.toNat w (homeNat s q.pa w) (opd r.c p.1) (opd x.e.toNat p.1)
            if new.2 then (bytesAt q.pa w).zip (toBytes w new.1) else []
          | _ => []) a (homeByte s a)

/-- The operations of ATOM, and the record fields of BSET (R252, R260, R25). Derived. -/
def Obligations.AtomicOperationsAndFields : Prop :=
  (∀ (ty w o c n : Nat), w ∈ [4, 8, 16] → (w = 16 → ty = 16) → o < 2 ^ (8 * w) → c < 2 ^ (8 * w) → n < 2 ^ (8 * w) →
    let sg := accSigned ty
    let num (v : Nat) : Int := if sg then (BitVec.ofNat (8 * w) v).toInt else v
    atomNew .add ty w o c n = ((o + c) % 2 ^ (8 * w), true) ∧ atomNew .exch ty w o c n = (c, true) ∧
    atomNew .and ty w o c n = (o &&& c, true) ∧ atomNew .or ty w o c n = (o ||| c, true) ∧ atomNew .xor ty w o c n = (o ^^^ c, true) ∧
    (atomNew .min ty w o c n).2 = true ∧ num (atomNew .min ty w o c n).1 = min (num o) (num c) ∧
    (atomNew .max ty w o c n).2 = true ∧ num (atomNew .max ty w o c n).1 = max (num o) (num c) ∧
    (o = c → atomNew .cas ty w o c n = (n, true)) ∧ (o ≠ c → (atomNew .cas ty w o c n).2 = false)) ∧
  ∀ (x : Ext) (s : State) (e : Env), Executes (.bset x) s e →
    let f : Nat × Nat := ([(0, 52), (64, 32), (96, 24), (120, 3), (123, 4), (127, 1), (128, 1), (192, 32)] : List (Nat × Nat)).getD x.imm.toNat (0, 0)
    exec (.bset x) s = .next (e.retire s (.bset x) [.b (e.opsOf (.bset x) x).d
      ((e.a.b.look 0#256 (e.opsOf (.bset x) x).a &&& ~~~((BitVec.allOnes f.2).setWidth 256 <<< f.1)) |||
        (((e.sb x).setWidth f.2).setWidth 256 <<< f.1))])

/-- FENCE orders an agent’s accesses within its scope, and PREF changes nothing an agent reads (R262, R83, R84, R95,
R97, R98, R104, R255). Derived. -/
def Obligations.FencesAndPrefetch : Prop :=
  ∀ (order : BitVec 2) (scope : BitVec 3) (x : Ext) (s : State) (e : Env),
    let i := Instr.fence order scope x
    let n := scope.toNat
    let marked (t : State) (b : Env) : Prop :=
      let need (k : Nat) : Need := ⟨k, n, e.g.die, e.g.core, e.g.uid, e.a.wg⟩
      (∀ p ∈ t.outq, observed t e.who p = true → need p.n ∈ b.a.before) ∧
      (∀ p ∈ b.g.osq, p.agent = e.a.id → need p.n ∈ b.a.after) ∧ (∀ p ∈ t.atoms, p.agent = e.a.id → need p.n ∈ b.a.after) ∧
      ∀ o ∈ b.a.outs, o.reads.any LoadReq.waits = true → need o.n ∈ b.a.after
    let stalls : Prop := exec i s = .next (e.set s Agent.unwait)
    (Executes i s e →
      (Quiet s e → s.scs = [] → exec i s = .next (e.goOn s (e.pcAfter i))) ∧
      ((order = 1#2 ∨ order = 2#2) → ownHeld s e = true → stalls) ∧
      (order = 1#2 → ownHeld s e = false → ∃ t b, exec i s = .next t ∧ envOf t e.g.uid e.a.id = some b ∧ b.a.pc = e.pcAfter i ∧ b.a.outs = e.a.outs ∧
        t.outq = s.outq ∧ t.atoms = s.atoms ∧ t.mem = s.mem ∧ b.g.osq = e.g.osq ∧ marked t b) ∧
      (order ≠ 1#2 → readsIn s e = none → stalls) ∧
      (∀ s1, order ≠ 1#2 → readsIn s e = some s1 → (order = 2#2 → ownHeld s e = false) →
        let joined := scJoin s1 e n
        let waits (t : State) (m : Need) : Prop := (∃ p ∈ s1.outq, p.n = m.w) ∧ ∃ p ∈ t.outq, p.n = m.w
        let s2 := osFlush joined e.g.uid fun p => p.agent == e.a.id
        (order = 3#2 → osOwed s2 e.g.uid (fun p => p.agent == e.a.id) = false ∧ ownHeld s2 e = false ∧
          (n ≤ 2 → canShowSel s2 e.who (e.observes joined) (if n = 2 then List.range 32 else [e.g.core]) = true) ∧
          (3 ≤ n → stuckSel s2 (e.observes joined) = false)) →
        ∃ t b, exec i s = .next t ∧ envOf t e.g.uid e.a.id = some b ∧ b.a.pc = e.pcAfter i ∧
          (∀ o ∈ b.a.outs, o.reads.any LoadReq.waits = false) ∧ (∀ p ∈ t.atoms, p.agent ≠ e.a.id) ∧ b.a.ahead = [] ∧
          (∀ m ∈ (e.now s1).a.heard, Need.agrees m e.who n = true → waits t m → m.w ∈ b.a.obs) ∧
          (order = 2#2 → marked t b) ∧
          (order = 3#2 → (∀ m ∈ s1.scs, Need.agrees m e.who n = true → waits t m → m.w ∈ b.a.obs) ∧
            (∀ p ∈ t.outq, observed t e.who p = true → ∃ m ∈ t.scs, m.w = p.n ∧ m.scope = n) ∧
            ∀ p ∈ t.outq, Who.made e.who p = true → (n ≤ 1 → e.g.core ∈ p.seen) ∧ (n = 2 → ∀ c, c < 32 → c ∈ p.seen) ∧ n ≤ 2))) ∧
    (Executes (.pref x) s e → ∃ l1 l2 dir, exec (.pref x) s = .next (e.goOn { s with l1 := l1, l2 := l2, dir := dir } (e.pcAfter (.pref x))))

/-- LDO and STO read and write the operand store; their checks, values and frame (R256, R249, R250, R28, R49, R80).
Derived. -/
def Obligations.OperandStoreAccess : Prop :=
  ∀ (x : Ext) (s : State) (e : Env),
    let w := accWidth x.ty.toNat
    let acc (i : Instr) : List (Nat × Nat) := osAddrs e x (e.opsOf i x)
    let fits (i : Instr) : Prop := ∀ p ∈ acc i, p.2 + w ≤ 128 * e.g.osLines ∧ p.2 % w = 0 ∧ e.g.window? p.2 = none
    (∀ i ∈ [Instr.ldo x, .sto x], Executes i s e →
      (∀ p, (acc i).find? (fun p => decide (128 * e.g.osLines < p.2 + w)) = some p →
        exec i s = .next (takeTrap s e ⟨⟨cOOB, p.1, none⟩, 5, 0, x.words, e.a.pc⟩)) ∧
      (∀ p, (∀ q ∈ acc i, q.2 + w ≤ 128 * e.g.osLines) → (acc i).find? (fun p => p.2 % w != 0) = some p →
        exec i s = .next (takeTrap s e ⟨⟨cMISALIGN, p.1, none⟩, 5, 0, x.words, e.a.pc⟩))) ∧
    (Executes (.ldo x) s e → Quiet s e → e.a.pk ≤ 64 → fits (.ldo x) → (∀ p ∈ acc (.ldo x), lineOf p.2 ∉ e.g.osPoison) →
      let d := (e.opsOf (.ldo x) x).d
      ∃ t b, exec (.ldo x) s = .next t ∧ envOf t e.g.uid e.a.id = some b ∧ b.a.pc = e.pcAfter (.ldo x) ∧ b.g.os = e.g.os ∧
        (∀ a, homeByte t a = homeByte s a) ∧
        (∀ p ∈ acc (.ldo x), ∀ j, j < max 1 (w / 4) →
          (e.landed t).v.look 0#32 (64 * (d + j) + p.1) = loadedWord x.ty (ofBytes (e.g.osBytes (bytesAt p.2 w))) j) ∧
        (∀ k, (∀ p ∈ acc (.ldo x), ∀ j, j < max 1 (w / 4) → k ≠ 64 * (d + j) + p.1) →
          (e.landed t).v.look 0#32 k = e.a.v.look 0#32 k) ∧ (e.landed t).s = e.a.s ∧ (e.landed t).k = e.a.k) ∧
    (Executes (.sto x) s e → Quiet s e → fits (.sto x) →
      let d := (e.opsOf (.sto x) x).d
      let data (lane : Nat) : Nat := if w64 x.ty then (e.v64 d lane).toNat else (e.v32 d lane).toNat
      ∃ t b, exec (.sto x) s = .next t ∧ envOf t e.g.uid e.a.id = some b ∧ b.a = e.a.past (e.pcAfter (.sto x)) ∧
        (∀ a, homeByte t a = homeByte s a) ∧
        ∀ a, (b.g.osPerform fun _ => true).os.look 0#8 a =
          lastByte ((acc (.sto x)).flatMap fun p => (bytesAt p.2 w).zip (toBytes w (data p.1))) a (e.g.os.look 0#8 a))

/-- LDC takes full lines and empties them, STP fills empty lines, and each says in a predicate whether it did (R50,
R51, R52, R257). Derived. -/
def Obligations.LineBitsSynchronise : Prop :=
  ∀ (x : Ext) (s : State) (e : Env), Quiet s e →
    let w := accWidth x.ty.toNat
    let acc (i : Instr) : List (Nat × Nat) := osAddrs e x (e.opsOf i x)
    let fits (i : Instr) : Prop := ∀ p ∈ acc i, p.2 + w ≤ 128 * e.g.osLines ∧ p.2 % w = 0 ∧ e.g.window? p.2 = none
    let lines (i : Instr) : List Nat := (acc i).map fun p => lineOf p.2
    (Executes (.ldc x) s e → fits (.ldc x) →
      let r := e.opsOf (.ldc x) x
      ((∃ n ∈ lines (.ldc x), n ∉ e.g.full) → exec (.ldc x) s = .next (e.retire s (.ldc x) [.k r.b false])) ∧
      ((∀ n ∈ lines (.ldc x), n ∈ e.g.full ∧ n ∉ e.g.osPoison) → ∃ t b, exec (.ldc x) s = .next t ∧ envOf t e.g.uid e.a.id = some b ∧ b.g.os = e.g.os ∧
        (∀ n, n ∈ b.g.full ↔ n ∈ e.g.full ∧ n ∉ lines (.ldc x)) ∧
        let data : List RegWrite := (acc (.ldc x)).flatMap fun p =>
          (List.range (max 1 (w / 4))).map fun j => .v (r.d + j) p.1 (loadedWord x.ty (ofBytes (e.g.osBytes (bytesAt p.2 w))) j)
        b.a = { e.a.past (e.pcAfter (.ldc x)) with outs := [{ writes := .k r.b true :: data }], obs := b.a.obs, heard := b.a.heard })) ∧
    (Executes (.stp x) s e → fits (.stp x) →
      let r := e.opsOf (.stp x) x
      ((∃ n ∈ lines (.stp x), n ∈ e.g.full) → exec (.stp x) s = .next (e.retire s (.stp x) [.k r.b false])) ∧
      ((∀ n ∈ lines (.stp x), n ∉ e.g.full) → ∃ t b, exec (.stp x) s = .next t ∧ envOf t e.g.uid e.a.id = some b ∧
        (∀ n, n ∈ b.g.full ↔ n ∈ e.g.full ∨ n ∈ lines (.stp x)) ∧
        b.a = { e.a.past (e.pcAfter (.stp x)) with outs := [{ writes := [.k r.b true] }] } ∧
        ∀ a, b.g.os.look 0#8 a = lastByte ((acc (.stp x)).flatMap fun p => (bytesAt p.2 w).zip (toBytes w
          (if w64 x.ty then (e.v64 r.d p.1).toNat else (e.v32 r.d p.1).toNat))) a (e.g.os.look 0#8 a)))

/-- SMAP maps and unmaps, SFLUSH writes back, SINV discards, and a read through a window fetches its line (R53, R54,
R55, R57, R88, R258). Derived. Beside the spec it rests on readings and choices of the model: log entry 55 (DEDUCED).
-/
def Obligations.StashWindows : Prop :=
  ∀ (x : Ext) (s : State) (e : Env),
    let n := x.byteImm
    let old := e.g.stash.getD n default
    let gva := (e.a.rs (e.opsOf (.smap x) x).a).toNat
    let base := (e.a.rs (e.opsOf (.smap x) x).b).toNat
    let lines := (e.a.rs (e.opsOf (.smap x) x).c).toNat
    (Executes (.smap x) s e →
      (gva % 128 ≠ 0 → exec (.smap x) s = .next (takeTrap s e ⟨⟨cMISALIGN, 0, none⟩, 5, 0, x.words, e.a.pc⟩)) ∧
      (gva % 128 = 0 → lines ≠ 0 → lines ≤ 4096 →
        (e.g.osLines < base + lines → exec (.smap x) s = .next (takeTrap s e ⟨⟨cOOB, 0, some 1⟩, 5, 0, x.words, e.a.pc⟩)) ∧
        (∀ d, mapBad s e.g n gva base lines = some d → exec (.smap x) s = .next (takeTrap s e ⟨⟨cOOB, 0, d⟩, 5, 0, x.words, e.a.pc⟩))) ∧
      (gva % 128 = 0 → (lines = 0 ∨ mapBad s e.g n gva base lines = none) → (old.v = true → e.g.dirtyLines old = [] ∧ ∀ p ∈ s.outq, viaWindow e.g.uid old p = false) →
        (lines ≠ 0 → ∀ p ∈ e.g.osq, ∀ b ∈ p.bytes, b.1 < 128 * base ∨ 128 * (base + lines) ≤ b.1) →
        ∃ t b, exec (.smap x) s = .next t ∧ envOf t e.g.uid e.a.id = some b ∧ b.a = e.a.past (e.pcAfter (.smap x)) ∧
          b.g.stash = e.g.stash.set n (if lines = 0 then { old with v := false } else ⟨true, BitVec.ofNat 52 gva, lines, base⟩) ∧
          b.g.wlines = if old.v then e.g.wlines.filter (fun l => !old.covers (128 * l.line)) else e.g.wlines)) ∧
    (Executes (.sflush x) s e →
      (old.v = false → exec (.sflush x) s = .next (e.goOn s (e.pcAfter (.sflush x)))) ∧
      (old.v = true → Quiet s e → ∀ l ts, e.g.dirtyLines old = [l] → dirtyAt s l.pa = some (e.g, l) →
        translateAll s e.who .store [(0, [old.vaOf (l.line * 128)])] = .ok ts → frozen s (l.pa * 128) = false →
        ∃ t b, exec (.sflush x) s = .next t ∧ envOf t e.g.uid e.a.id = some b ∧ b.a = e.a.past (e.pcAfter (.sflush x)) ∧
          b.g.dirtyLines old = [] ∧ ∀ j, j < 128 → t.mem.look memDefault (l.pa * 128 + j) = e.g.os.look 0#8 (l.line * 128 + j))) ∧
    (Executes (.sinv x) s e → (∀ p ∈ s.outq, viaWindow e.g.uid old p = false) → ∃ t b, exec (.sinv x) s = .next t ∧ envOf t e.g.uid e.a.id = some b ∧
      b.a = e.a.past (e.pcAfter (.sinv x)) ∧ t.mem = s.mem ∧ b.g.wlines = e.g.wlines.filter fun l => !old.covers (128 * l.line)) ∧
    (∀ (y : Ext) (win : StashEnt) (line pa : Nat) (ts : List (Nat × Trans)), Executes (.ldo y) s e → Quiet s e → e.lanes ≠ [] →
      let w := accWidth y.ty.toNat
      let acc := osAddrs e y (e.opsOf (.ldo y) y)
      (∀ p ∈ acc, p.2 + w ≤ 128 * e.g.osLines ∧ p.2 % w = 0 ∧ lineOf p.2 = line ∧ e.g.window? p.2 = some win) → e.a.pk ≤ 64 →
      e.g.wline? line = none → translateAll s e.who .load (acc.map fun p => (p.1, [win.vaOf p.2])) = .ok ts →
      (∀ p ∈ acc, placePiece s e.who ts (win.vaOf p.2, 1) = ⟨win.vaOf p.2, 1, 128 * pa + p.2 % 128, 128 * pa + p.2 % 128, none⟩) →
      poisoned s (128 * pa) = false →
      ∃ t b, exec (.ldo y) s = .next t ∧ envOf t e.g.uid e.a.id = some b ∧ b.g.wline? line = some ⟨line, pa, false, pa⟩ ∧
        ∀ p ∈ acc, ∀ j, j < max 1 (w / 4) → (e.landed t).v.look 0#32 (64 * ((e.opsOf (.ldo y) y).d + j) + p.1) =
          loadedWord y.ty (ofBytes ((bytesAt (128 * pa + p.2 % 128) w).map (homeByte s))) j) ∧
    ∀ (y : Ext) (win : StashEnt) (l : WLine), Executes (.sto y) s e → Quiet s e →
      let w := accWidth y.ty.toNat
      let d := (e.opsOf (.sto y) y).d
      let acc := osAddrs e y (e.opsOf (.sto y) y)
      (∀ p ∈ acc, p.2 + w ≤ 128 * e.g.osLines ∧ p.2 % w = 0 ∧ lineOf p.2 = l.line ∧ e.g.window? p.2 = some win) →
      e.g.wline? l.line = some l → l.dirty = true →
      ∃ t b, exec (.sto y) s = .next t ∧ envOf t e.g.uid e.a.id = some b ∧ b.a = e.a.past (e.pcAfter (.sto y)) ∧ b.g.os = e.g.os ∧
        (∀ a, homeByte t a = homeByte s a) ∧
        ∀ a, viewByte t e.who a = lastByte (acc.flatMap fun p => (bytesAt (128 * l.pa + p.2 % 128) w).zip (toBytes w
          (if w64 y.ty then (e.v64 d p.1).toNat else (e.v32 d p.1).toNat))) a (homeByte s a)

/-- SBINIT, SBEXP and SBARV update a stage barrier, SBWAIT waits on its phase, and credits complete it (R115, R116,
R264). Derived. -/
def Obligations.StageBarriers : Prop :=
  ∀ (x : Ext) (s : State) (e : Env), Quiet s e →
    let addr (i : Instr) : Nat := (e.a.rs (e.opsOf i x).a).toNat
    let v : Int := (e.a.rs x.b.toNat).toInt + x.offset
    let range (i : Instr) : Bool := if i = .sbinit x then 1 ≤ v && v ≤ 1024 else if i = .sbexp x then -(2 ^ 31) ≤ v && v < 2 ^ 31
      else if i = .sbwait x then v == 0 || v == 1 else true
    let ends (i : Instr) (a : Nat) (b' : SBar) : Prop := ∃ t b, exec i s = .next t ∧ envOf t e.g.uid e.a.id = some b ∧
      b.a = e.a.past (e.pcAfter i) ∧ b.g.sbar a = b' ∧ (∀ k, (k < a ∨ a + 16 ≤ k) → b.g.os.look 0#8 k = e.g.os.look 0#8 k) ∧ t.mem = s.mem
    (∀ i ∈ [Instr.sbinit x, .sbexp x, .sbarv x, .sbwait x], Executes i s e →
      let a := addr i
      let fresh : Bool := i = .sbinit x
      (128 * e.g.osLines ≤ a → exec i s = .next (takeTrap s e ⟨⟨cOOB, 0, some 1⟩, 5, 0, x.words, e.a.pc⟩)) ∧
      (a < 128 * e.g.osLines → a % 16 ≠ 0 → exec i s = .next (takeTrap s e ⟨⟨cMISALIGN, 0, some 2⟩, 5, 0, x.words, e.a.pc⟩)) ∧
      (a < 128 * e.g.osLines → a % 16 = 0 → range i = false →
        exec i s = .next (takeTrap s e ⟨⟨cOOB, 0, some 3⟩, 5, 0, x.words, e.a.pc⟩)) ∧
      (a < 128 * e.g.osLines → a % 16 = 0 → range i = true → fresh = false → (e.g.sbar a).exp = 0 →
        exec i s = .next (takeTrap s e ⟨⟨cOOB, 0, some 4⟩, 5, 0, x.words, e.a.pc⟩)) ∧
      (a < 128 * e.g.osLines → a % 16 = 0 → range i = true → (fresh = true ∨ (e.g.sbar a).exp ≠ 0) →
        let b := e.g.sbar a
        (i = .sbinit x → ends i a { b with exp := v.toNat, arr := 0, carry := 0, pend := 0, phase := false, err := false, ovr := false }) ∧
        (i = .sbexp x → -(2 ^ 31) ≤ b.pend + v → b.pend + v < 2 ^ 31 → ¬(b.arr = b.exp ∧ b.pend + v ≤ 0) →
          ends i a { b with pend := b.pend + v }) ∧
        (i = .sbarv x → b.arr < b.exp → (b.arr + 1 < b.exp ∨ 0 < b.pend) → ends i a { b with arr := b.arr + 1 }) ∧
        (i = .sbarv x → b.arr + 1 = b.exp → b.pend ≤ 0 → b.carry < b.exp →
          ends i a { b with arr := b.carry, carry := 0, phase := !b.phase, ovr := b.ovr || decide (b.pend < 0) }) ∧
        (i = .sbwait x → b.phase ≠ (v == 1) → ∃ t b', exec i s = .next t ∧ envOf t e.g.uid e.a.id = some b' ∧
          b'.a = { e.a.past (e.pcAfter i) with sbw := none, obs := b'.a.obs, heard := b'.a.heard } ∧ b'.g.os = e.g.os ∧ t.mem = s.mem) ∧
        (i = .sbwait x → b.phase = (v == 1) → ∃ t b', exec i s = .next t ∧ envOf t e.g.uid e.a.id = some b' ∧ b'.a.pc = e.a.pc ∧
          b'.a.sbw = some a ∧ ∃ due, b'.a.st = .waiting due))) ∧
    ∀ (b : SBar) (c : Nat), b.exp ≠ 0 → b.arr ≤ b.exp → b.carry < b.exp → -(2 ^ 31) ≤ b.pend - c →
      b.credit c = if b.arr = b.exp ∧ b.pend - c ≤ 0
        then { b with pend := b.pend - c, ovr := b.ovr || decide (b.pend - c < 0), phase := !b.phase, arr := b.carry, carry := 0, flips := b.flips + 1 }
        else { b with pend := b.pend - c }

/-- WAITC waits for a counter; TDEF, TREL and TSTAT keep the tile table (R263, R113, R59, R60, R270, R272, R273).
Derived. -/
def Obligations.CountersAndTiles : Prop :=
  ∀ (x : Ext) (s : State) (e : Env),
    let cls : CmdClass := ([.cp, .mx, .rd, .rt, .au, .fw, .vd] : List CmdClass).getD x.d.toNat .vd
    let waits (i : Instr) : Prop := ∃ t b, exec i s = .next t ∧ envOf t e.g.uid e.a.id = some b ∧ b.a.pc = e.a.pc ∧ ∃ due, b.a.st = .waiting due
    (Executes (.waitc x) s e →
      let mine := s.cmds.countP fun c => c.cls == cls && c.gang == e.g.uid && c.wg == e.a.wg && c.place == e.a.place
      (mine ≤ x.byteImm → exec (.waitc x) s = .next (e.goOn (e.set s fun a => { a with ahead := [] }) (e.pcAfter (.waitc x)))) ∧ (x.byteImm < mine → waits (.waitc x))) ∧
    (Executes (.tdef x) s e →
      let d := (e.opsOf (.tdef x) x).d
      let a := (e.a.rs (e.opsOf (.tdef x) x).a + 128#64 * BitVec.ofInt 64 x.offset).toNat
      let rows := x.b.toNat + 1
      let cols := x.c.toNat + 1
      let expo := if x.ty = 14#5 then (rows * cols * ((x.e.toNat / 4 % 8) + 1) + 1023) / 1024 else 0
      let word : DWord := 0#8 ++ BitVec.ofNat 10 expo ++ x.e.extractLsb' 2 3 ++ x.e.extractLsb' 0 2 ++ x.ty ++
        BitVec.ofNat 9 cols ++ BitVec.ofNat 9 rows ++ 0#5 ++ BitVec.ofNat 13 (a / 128)
      let bad := tdefBad s e.g d (a / 128) rows cols x.ty.toNat (x.e.toNat % 4) (x.e.toNat / 4 % 8) expo
      (a % 128 ≠ 0 → exec (.tdef x) s = .next (takeTrap s e ⟨⟨cMISALIGN, 0, none⟩, 5, 0, x.words, e.a.pc⟩)) ∧
      (a % 128 = 0 → bad = true → exec (.tdef x) s = .next (takeTrap s e ⟨⟨cOOB, 0, none⟩, 5, 0, x.words, e.a.pc⟩)) ∧
      (a % 128 = 0 → bad = false → exec (.tdef x) s = .next (e.goOn (e.setGang s fun g =>
        { g with tiles := g.tiles.put 0#64 d word, filled := g.filled.filter fun n => n != d }) (e.pcAfter (.tdef x))))) ∧
    (Executes (.trel x) s e →
      let d := (e.opsOf (.trel x) x).d
      exec (.trel x) s = .next (if s.cmds.any fun c => c.gang == e.g.uid && !c.tileDone && (c.fills d || c.drains d || c.readsTile d) then e.set s Agent.unwait
        else e.goOn (e.setGang s fun g => { g with tiles := g.tiles.put 0#64 d 0#64, filled := g.filled.filter fun n => n != d })
          (e.pcAfter (.trel x)))) ∧
    (Executes (.tstat x) s e →
      let r := e.opsOf (.tstat x) x
      exec (.tstat x) s = .next (e.retire s (.tstat x) [.s r.d
        (e.g.tiles.look 0#64 r.a ||| (BitVec.ofNat 64 (tileState s e.g r.a) <<< 62))]))

/-- MZERO, MMA, MLOAD and MDRAIN issue commands, and check what they name (R274, R275, R277, R279, R280, R175, R176,
R113). Derived. -/
def Obligations.MatrixCommandsIssue : Prop :=
  ∀ (x : Ext) (s : State) (e : Env),
    let word (reg lane : Nat) : Nat := (e.v32 reg lane).toNat
    let ready (t : Nat) : Prop := tRows (e.g.tile t) ≠ 0 ∧ tileState s e.g t = 2
    let busy (t : Nat) : Prop := tRows (e.g.tile t) ≠ 0 ∧ (tileState s e.g t = 1 ∨ tileState s e.g t = 3)
    let pair (m : Nat) : Prop := m % 2 = 0 ∧ m + 1 < e.g.blk.nacc
    let trap := fun i => Traps i s e x.words
    let stops : Prop := x.m.sp = true ∧ e.a.prog = 0 ∧ e.g.stop.isSome = true
    (∀ i ∈ [Instr.mzero x, .mma x, .mload x, .mdrain x], s.env? = some e → ¬ stops → 63 ≤ e.counter s .mx → exec i s = .next (e.hold s)) ∧
    (Executes (.mzero x) s e → Issued (.mzero x) s e .mx none (.mzero (x.ty == 11#5) (e.opsOf (.mzero x) x).d)) ∧
    (Executes (.mma x) s e →
      let r := e.opsOf (.mma x) x
      let rows := (List.range e.a.pk).filter fun l => (e.hand s x.e.toNat &&& e.hand s 0).getLsbD (e.rank l)
      let agree (w : Nat) : Prop := rows ≠ [] ∧ (∀ l ∈ rows, word r.c l = w) ∧ fwOk w = true ∧ fwFA w + 8 = x.ty.toNat
      let shape (w : Nat) : Prop := mmaTilesOk (e.g.tile r.a) (e.g.tile r.b) x.ty.toNat w = true
      (e.a.depth ≠ 0 → trap (.mma x) cMMAPK 0 (some 1)) ∧
      (e.a.depth = 0 → e.wg.g ≠ 64 → trap (.mma x) cILLENC 0 (some 2)) ∧
      (e.a.depth = 0 → e.wg.g = 64 →
        ((tRows (e.g.tile r.a) = 0 ∨ tileState s e.g r.a = 0 ∨ tRows (e.g.tile r.b) = 0 ∨ tileState s e.g r.b = 0) →
          trap (.mma x) cOOB 0 (some 3)) ∧
        (ready r.a → ready r.b → e.a.voted = none →
          (∀ l, rows.find? (fun l => word r.c l != word r.c (rows.headD 0)) = some l → trap (.mma x) cFMTDIV l (some 5)) ∧
          (rows = [] → Issued (.mma x) s e .mx none (.mma r.d r.a r.b x.ty.toNat 0#32 [])) ∧
          (∀ w, agree w → ¬ shape w → trap (.mma x) cOOB 0 (some 6)) ∧
          ∀ w, agree w → shape w → Issued (.mma x) s e .mx none (.mma r.d r.a r.b x.ty.toNat (BitVec.ofNat 32 w) rows)) ∧
        ((busy r.a ∧ (ready r.b ∨ busy r.b) ∨ ready r.a ∧ busy r.b) → e.a.voted = none → ∀ w, agree w → shape w →
          exec (.mma x) s = .next (e.set s fun a => Agent.unwait { a with voted := some (BitVec.ofNat 32 w, rows) })) ∧
        ∀ (w : Word) (vs : List Nat), e.a.voted = some (w, vs) → vs ≠ [] → ready r.a → ready r.b → shape w.toNat →
          Issued (.mma x) s e .mx none (.mma r.d r.a r.b x.ty.toNat w vs))) ∧
    (Executes (.mload x) s e → e.a.voted = none →
      let r := e.opsOf (.mload x) x
      let t := e.g.tile r.a
      let b (l : Nat) : Nat := (e.b32 x r.b l).toNat
      ready r.a →
      (∀ l, (List.range e.a.pk).find? (fun l => b l != b 0) = some l → trap (.mload x) cFMTDIV l (some 2)) ∧
      ∀ w, 0 < e.a.pk → (∀ l, l < e.a.pk → b l = w) → fwOkMove w = true → (fwAcc w = 1 → pair r.d) → tRows t = 64 → tCols t = 64 →
        (tType t ∈ [8, 9, 10, 12, 13, 14] ∨ (fwAcc w = 1 ∧ tType t = 11)) →
        Issued (.mload x) s e .mx none (.mload r.d r.a (BitVec.ofNat 32 w))) ∧
    (Executes (.mdrain x) s e →
      let r := e.opsOf (.mdrain x) x
      let t := e.g.tile r.d
      tRows t = 64 →
      (∀ l, (List.range e.a.pk).find? (fun l => word r.b l != word r.b 0) = some l → trap (.mdrain x) cFMTDIV l (some 2)) ∧
      ∀ w, 0 < e.a.pk → (∀ l, l < e.a.pk → word r.b l = w) → fwOkMove w = true → (fwAcc w = 1 → pair r.a) → tCols t = 64 →
        8 ≤ tType t → tType t ≤ 14 → (tType t = 14 → tLayout t ≠ 1) →
        (fwAmax w = false → r.c = 0 → x.e = 0#8 → x.imm = 0#8 → x.offset = 0 →
          Issued (.mdrain x) s e .mx none (.mdrain r.d r.a (BitVec.ofNat 32 w) none)) ∧
        (fwAmax w = true → ∀ q, planAccess (e.a.b.look 0#256 r.c).toNat 4 1 [(0, e.sIndex x.e.toNat x.offset)] = .lanes [(0, q)] →
          Issued (.mdrain x) s e .mx none (.mdrain r.d r.a (BitVec.ofNat 32 w)
            (q.map fun ps => (ps.flatMap fun p => bytesAt p.1 p.2, 0)))))

/-- What MATRIX_COMMAND_PERFORM makes of the accumulators (R275, R276, R278, R279, R280, R177, R178, R156, R111).
Derived. Beside the spec it rests on readings and choices of the model: log entries 32 (DEDUCED), 69 (DESIGN CHOICE).
-/
def Obligations.MatrixCommandsPerform : Prop :=
  ∀ (cmd : Nat) (s : State) (c : Cmd) (g : Gang), s.cmd? cmd = some c → s.gang? c.gang = some g → accReady s c = true → g.canon → g.osq = [] → (∀ a ∈ g.agents, a.outs = []) →
    let ends (new : Nat → Nat → Option Nat) : Prop := ∃ t g' c', exec (.matrixCommandPerform cmd) s = .next t ∧ t.gang? c.gang = some g' ∧
      t.cmd? cmd = some c' ∧ c'.phase = .complete ∧ c'.tileDone = true ∧ t.mem = s.mem ∧
      ∀ m w, w < 4096 → (g'.accs.look 0#32 (4096 * m + w)).toNat = (new m w).getD (g.accs.look 0#32 (4096 * m + w)).toNat
    let half (pair : Bool) (d m : Nat) (v : Nat) : Option Nat :=
      if m = d then some (v % 2 ^ 32) else if pair ∧ m = d + 1 then some (v / 2 ^ 32 % 2 ^ 32) else none
    let tiles (as : List Nat) (new : Nat → Nat → Option Nat) : Prop := orderBlocked s c false (as.map (byteKey s c false)) = false →
      ((∀ a ∈ as, lineOf a ∉ g.osPoison) →
        (c.early = none → ends new ∨ ∃ t c', exec (.matrixCommandPerform cmd) s = .next t ∧ t.cmd? cmd = some c' ∧ t.mem = s.mem ∧
          ∃ m, c' = { c with early := some m } ∧ ∀ a ∈ as, m.look 0#8 a = g.os.look 0#8 a) ∧
        (∀ m, c.early = some m → (∀ a ∈ as, m.look 0#8 a = g.os.look 0#8 a) → ends new)) ∧
      (∀ m, c.early = some m → (∃ a ∈ as, lineOf a ∈ g.osPoison) → ∃ t g' c', exec (.matrixCommandPerform cmd) s = .next t ∧
        t.gang? c.gang = some g' ∧ t.cmd? cmd = some c' ∧ c'.phase = .complete ∧ c'.failed = true ∧ g'.accs = g.accs ∧ t.mem = s.mem)
    (∀ f64 d, c.body = .mzero f64 d → ends fun m _ => half f64 d m 0) ∧
    (∀ d ta tb ty word rows, c.body = .mma d ta tb ty word rows → (∀ i ∈ rows, i < 64) →
      tiles (mmaBytes (g.tile ta) (g.tile tb) ty rows) fun m w => if w / 64 ∈ rows then half (ty == 11) d m (mmaElem (accFmt (ty == 11))
        (mmaChunks ty ((tileRow g (g.tile ta) (mmaK ty) (w / 64)).zip (tileCol g (g.tile tb) (mmaK ty) (w % 64))))
        (g.acc (ty == 11) d w)).1 else none) ∧
    (∀ d ta word, c.body = .mload d ta word → tiles (accPlaces.flatMap fun p => elemBytes (g.tile ta) p.1 p.2) fun m w =>
      half (fwAcc word.toNat == 1) d m
        (cvtFF (accFmt (fwAcc word.toNat == 1)) (fwRnd word.toNat) (fwSat word.toNat) (tileElem g (g.tile ta) (w / 64) (w % 64))).1) ∧
    (∀ td d word am, c.body = .mdrain td d word am → ∃ t c', exec (.matrixCommandPerform cmd) s = .next t ∧ t.cmd? cmd = some c' ∧
      c'.phase = .running ∧ t.gangs = s.gangs ∧ t.mem = s.mem)

/-- CPY, CPO, GATH, SRED, VDEC, WALK, AUCT, RTSEND and RTFLUSH issue commands (R281, R283, R254, R70, R303, R327
(section 20), R311, R292, R293, R113). Derived. -/
def Obligations.CopyAndOtherCommandsIssue : Prop :=
  ∀ (x : Ext) (s : State) (e : Env),
    let rc (i : Instr) : Nat := (e.a.b.look 0#256 (e.opsOf i x).a).toNat
    let barOk (b : Option Nat) : Prop := ∀ a, b = some a → a < 128 * e.g.osLines ∧ a % 16 = 0
    let bar (i : Instr) : Option Nat := if x.imm.getLsbD 6 then none else some (e.a.rs (e.opsOf i x).c).toNat
    let record (i : Instr) (w idx : Nat) : Option (List (Nat × Nat)) → Prop := fun p =>
      recBad (rc i) = false ∧ 3 ≤ recEsz (rc i) ∧ planAccess (rc i) w 1 [(0, idx)] = .lanes [(0, p)]
    let idx6 (i : Instr) : Nat := ((e.a.rs (e.opsOf i x).b).toNat + x.imm.toNat % 64) % 2 ^ 64
    (∀ p ∈ ([(.cpy x, .cp), (.cpo x, .cp), (.gath x, .cp), (.sred .add x, .rd), (.vdec x, .vd), (.walk x, .fw), (.auct x, .au), (.rtsend x, .rt),
        (.rtflush x, .rt)] : List (Instr × CmdClass)), s.env? = some e → ¬ (x.m.sp = true ∧ e.a.prog = 0 ∧ e.g.stop.isSome = true) → 63 ≤ e.counter s p.2 → exec p.1 s = .next (e.hold s)) ∧
    (∀ p ∈ ([(.cpy x, .cpy), (.cpo x, .cpo)] : List (Instr × CopyOp)), Executes p.1 s e → barOk (bar p.1) → ∀ q,
      record p.1 128 (idx6 p.1) q →
      let d := (e.opsOf p.1 x).d
      (if x.imm.getLsbD 7 then tRows (e.g.tile d) ≠ 0 ∧ (p.1 = .cpo x → tileState s e.g d ≠ 0)
        else (e.a.rs d).toNat % 128 = 0 ∧ (e.a.rs d).toNat < 128 * e.g.osLines) →
      Issued p.1 s e .cp (bar p.1) (.copy p.2 (if x.imm.getLsbD 7 then some d else none) (e.a.rs d).toNat (q.map wordsOf) [] 0)) ∧
    (Executes (.gath x) s e →
      let r := e.opsOf (.gath x) x
      let k := rc (.gath x)
      let t := e.g.tile r.d
      let i (l : Nat) : Nat := ((e.v32 r.b l).toNat + x.imm.toNat % 64) % 2 ^ 32
      let inside (l : Nat) : Bool := !(recSen k && i l == recSent k) && decide (i l < recExtent k)
      let at' (l : Nat) : Nat := (recBase k + i l * recStride k) % 2 ^ 52
      tRows t ≠ 0 → barOk (bar (.gath x)) → recBad k = false → tType t ≠ 14 → tLayout t ≠ 1 → (∀ l ∈ e.lanes, l < tRows t) → recTrap k = false →
      (∀ l ∈ e.lanes, inside l = true → at' l % elemSize (tType t) = 0) →
      Issued (.gath x) s e .cp (bar (.gath x)) (.copy .gath (some r.d) 0 none (e.lanes.map fun l => (l, if inside l then some (at' l) else none)) (recSwz k))) ∧
    (∀ (o : AtomOp) l ts, Executes (.sred o x) s e →
      let r := e.opsOf (.sred o x) x
      let k := rc (.sred o x)
      let w := accWidth x.ty.toNat
      let opd (lane : Nat) : Nat := if w = 8 then (e.v64 r.c lane).toNat else (e.v32 r.c lane).toNat
      recBad k = false → w ≤ 2 ^ recEsz k → access s e.who .atomic k w w (e.atomIndices x r) = .ok l ts → (∀ q ∈ allPieces l, q.dup = none) →
      Issued (.sred o x) s e .rd none (.sred ((l.filterMap fun p => match p.2 with
        | some (q :: _) => some (⟨o, x.ty.toNat, q.pa, opd p.1, q.va⟩ : RedItem)
        | _ => none).foldl (addItem w) []))) ∧
    (Executes (.vdec x) s e →
      let r := e.opsOf (.vdec x) x
      let dst := (e.a.rs r.d).toNat
      let b := (e.a.rs r.c).toNat
      dst % 128 = 0 → dst < 128 * e.g.osLines → barOk (some b) → ∀ q, record (.vdec x) 32 (e.sIndex r.b x.offset) q →
      Issued (.vdec x) s e .vd (some b) (.vdec (x.ty == 9#5) dst (q.map wordsOf) none)) ∧
    (Executes (.walk x) s e →
      let r := e.opsOf (.walk x) x
      tRows (e.g.tile r.d) ≠ 0 → tType (e.g.tile r.d) ∈ walkTypes → barOk (bar (.walk x)) → ∀ q, record (.walk x) 32 (idx6 (.walk x)) q →
      Issued (.walk x) s e .fw (bar (.walk x)) (.walk r.d (q.map wordsOf) none)) ∧
    (Executes (.auct x) s e →
      let regs := (List.range 7).map fun k => e.a.rs ((e.opsOf (.auct x) x).a + k)
      auctCheck e.g regs = none → Issued (.auct x) s e .au none (.auct regs none)) ∧
    (Executes (.rtsend x) s e →
      let es := e.lanes.map fun l => (l, e.routeEnt (e.opsOf (.rtsend x) x).d l)
      badEnt s e.unit es = .ok none → (∀ p ∈ es, p.2.row % 16 = 0) → Issued (.rtsend x) s e .rt none (.rtsend (es.map fun p => p.2))) ∧
    (Executes (.rtflush x) s e → Issued (.rtflush x) s e .rt none (.rtflush false))

/-- SPILL and FILL issue on an idle token, TOKW waits for it, TOKEN_IDLE moves the words (R302, R390). Derived. -/
def Obligations.SpillAndFill : Prop :=
  ∀ (x : Ext) (s : State) (e : Env),
    (∀ p ∈ ([(.spill x, (e.opsOf (.spill x) x).a), (.fill x, (e.opsOf (.fill x) x).a), (.tokw x, (e.opsOf (.tokw x) x).a)] : List (Instr × Nat)),
      Executes p.1 s e →
        (e.a.tokens.getD p.2 .idle = .busy → exec p.1 s = .next (e.set s Agent.unwait)) ∧
        (∀ c, e.a.tokens.getD p.2 .idle = .trap c → exec p.1 s = .next (takeTrap
          (e.set s fun a => { a with tokens := a.tokens.set p.2 .idle }) e ⟨⟨c, 0, none⟩, 5, 0, x.words, e.a.pc⟩)) ∧
        (e.a.tokens.getD p.2 .idle = .idle → p.1 = .tokw x → exec p.1 s = .next (e.goOn s (e.pcAfter p.1))) ∧
        (e.a.tokens.getD p.2 .idle = .idle → p.1 ≠ .tokw x → 560 ≤ e.g.blk.tlw + 16 * e.a.depth + p.2 →
          let k := e.g.blk.tlw + 16 * e.a.depth + p.2 - 560
          ∀ ls, planAccess (e.a.b.look 0#256 15).toNat 4 1 (e.lanes.map fun l => (l, (1024 * k + e.rank l) % 2 ^ 32)) = .lanes ls →
            let words := ls.map fun q => (q.1, (q.2.bind fun vs => vs.head?).map fun v => v.1)
            let body : CmdBody := if p.1 = .spill x then .spill p.2 (words.map fun q => (q.1, q.2, e.v32 (e.opsOf (.spill x) x).d q.1))
              else .fill (e.opsOf (.fill x) x).d p.2 words
            ∃ t c b, exec p.1 s = .next t ∧ t.cmds = s.cmds ++ [c] ∧ c.body = body ∧ c.cls = .tok ∧ c.agent = e.a.id ∧ t.mem = s.mem ∧
              envOf t e.g.uid e.a.id = some b ∧ b.a = { e.a.past (e.pcAfter p.1) with tokens := e.a.tokens.set p.2 .busy })) ∧
    ∀ (cmd : Nat) (c : Cmd) (a : Env) (reg tok : Nat) (vals : List (Nat × Word)), s.cmd? cmd = some c → c.body = .fillv reg tok vals →
      c.alive s = true → envOf s c.gang c.agent = some a → a.a.canon → (∀ p ∈ vals, p.1 < 64) → (vals.map fun p => p.1).Nodup →
      ∃ t b, exec (.tokenIdle cmd) s = .next t ∧ envOf t c.gang c.agent = some b ∧
        (∀ k, (∀ p ∈ vals, k ≠ 64 * reg + p.1) → b.a.v.look 0#32 k = a.a.v.look 0#32 k) ∧
        (∀ p ∈ vals, b.a.v.look 0#32 (64 * reg + p.1) = p.2 ∨ b.a.v.look 0#32 (64 * reg + p.1) = a.a.v.look 0#32 (64 * reg + p.1)) ∧
        (b.a.tokens = a.a.tokens ∨ b.a.tokens = a.a.tokens.set tok .idle ∧ ∀ p ∈ vals, b.a.v.look 0#32 (64 * reg + p.1) = p.2)

/-- Each format-walker word does to the walk’s registers, flags, stack and tile what R331 to R334 give it (R331, R332,
R333, R334, R330). Derived. -/
def Obligations.WalkerWords : Prop :=
  ∀ (s : State) (c : Cmd) (tl : Nat) (desc : Option (List Nat)) (st : WalkSt) (g : Gang), s.walk? = some (c, tl, desc, st, g) →
    walkRuns s c st g = true →
    ∀ (yd ya yb : BitVec 4) (imm : BitVec 14) (n : BitVec 5) (t : BitVec 8) (src : BitVec 4) (arr : BitVec 3) (line : List Byte),
    let y (k : BitVec 4) : Word := st.y.getD k.toNat 0#32
    let put (k : BitVec 4) (v : Word) : WalkSt := { st with y := st.y.set k.toNat v }
    let runs (i : Instr) (st' : WalkSt) (to' : Nat) : Prop := i.wellFormed = true → to' < st.prog.length →
      exec i s = .next (putWalk s c tl desc { st' with steps := st.steps + 1, next := to' })
    let stops (i : Instr) (reason : Nat) : Prop := exec i s = .next (endWalk s c tl desc { st with steps := st.steps + 1 } reason st.next)
    let nx := st.next + 1
    let elem (k : Nat) (i : Nat) : Nat := fmtBase st.fmt k + i * fmtEsz st.fmt k
    let hit (k va : Nat) : Prop := (st.bufs.find? fun b => b.1 == k && b.2.1 == alignDown (va % 2 ^ 52) 128) = some (k, alignDown (va % 2 ^ 52) 128, line)
    runs (.wldi yd imm) (put yd (imm.setWidth 32)) nx ∧ runs (.wadd yd ya yb imm) (put yd (y ya + y yb + imm.signExtend 32)) nx ∧
    runs (.wsub yd ya yb) (put yd (y ya - y yb)) nx ∧ runs (.wand yd ya yb) (put yd (y ya &&& y yb)) nx ∧
    runs (.wshr yd ya n) (put yd (y ya >>> n.toNat)) nx ∧
    runs (.wcmp ya yb) { st with eq := decide (y ya = y yb), lt := decide ((y ya).toNat < (y yb).toNat) } nx ∧
    runs (.wbr t) st t.toNat ∧ (y ya = 0#32 → runs (.wbz ya t) st t.toNat) ∧ (y ya ≠ 0#32 → runs (.wbz ya t) st nx) ∧
    (st.lt = true → runs (.wblt t) st t.toNat) ∧ (st.lt = false → runs (.wblt t) st nx) ∧
    runs (.wrow ya) { st with row := y ya } nx ∧ runs .wsync { st with bufs := [], fetched := none } nx ∧
    (st.stack.length < 4 → runs (.wpush ya) { st with stack := y ya :: st.stack } nx) ∧
    (∀ v rest, st.stack = v :: rest → runs (.wpop yd) { put yd v with stack := rest } nx) ∧
    (8 ≤ src.toNat → src.toNat % 4 ≤ fmtNlev st.fmt → runs (.wld yd ya src)
      (put yd (BitVec.ofNat 32 (if src.toNat < 12 then fmtDim st.fmt (src.toNat % 4) else fmtLtype st.fmt (src.toNat % 4)))) nx) ∧
    (src.toNat < 8 → (y ya).toNat < fmtCount st.fmt src.toNat → hit src.toNat (elem src.toNat (y ya).toNat) → runs (.wld yd ya src)
      (put yd (BitVec.ofNat 32 (ofBytes ((line.drop (elem src.toNat (y ya).toNat % 128)).take (fmtEsz st.fmt src.toNat))))) nx) ∧
    (fmtEsz st.fmt arr.toNat = 8 → (y ya).toNat < fmtCount st.fmt arr.toNat → hit arr.toNat (elem arr.toNat (y ya).toNat) → yd ≠ yb →
      let v := ofBytes ((line.drop (elem arr.toNat (y ya).toNat % 128)).take 8)
      runs (.wrun yd yb ya arr) { st with y := (st.y.set yd.toNat (BitVec.ofNat 32 v)).set yb.toNat (BitVec.ofNat 32 (v / 2 ^ 32)) } nx) ∧
    ((y yb).toNat ≤ fmtCount st.fmt arr.toNat * fmtEsz st.fmt arr.toNat * 8 → st.scan = none →
      let lo := (y ya).toNat
      let hi := (y yb).toNat
      let va := fmtBase st.fmt arr.toNat + lo / 8
      let bit (j : Nat) : Bool := bitN (line.getD (va % 128 + (lo % 8 + j) / 8) 0#8).toNat ((lo + j) % 8)
      (hi ≤ lo → runs (.wbmn yd ya yb arr) (put yd (y yb)) nx) ∧
      (lo < hi → hit arr.toNat va → 8 * (va % 128) + lo % 8 + (hi - lo) ≤ 1024 → runs (.wbmn yd ya yb arr)
        (put yd (match (List.range (hi - lo)).find? bit with
          | some j => BitVec.ofNat 32 (lo + j)
          | none => y yb)) nx)) ∧
    (st.row.toNat < tRows (g.tile tl) → (y ya).toNat < tCols (g.tile tl) → runs (.wemit ya yb)
      { st with staged := st.staged.putAll 0#8 ((bytesAt (tileByte (g.tile tl) st.row.toNat (y ya).toNat) (elemSize (tType (g.tile tl)))).zip
        (toBytes (elemSize (tType (g.tile tl))) (y yb).toNat)) } nx) ∧
    (stops .wend 0) ∧ (Instr.wellFormed (.wpush ya) = true → 4 ≤ st.stack.length → stops (.wpush ya) 4) ∧
    (Instr.wellFormed (.wpop yd) = true → st.stack = [] → stops (.wpop yd) 4) ∧
    (Instr.wellFormed (.wemit ya yb) = true → (tRows (g.tile tl) ≤ st.row.toNat ∨ tCols (g.tile tl) ≤ (y ya).toNat) → stops (.wemit ya yb) 6) ∧
    (Instr.wellFormed (.wld yd ya src) = true → src.toNat < 8 → fmtCount st.fmt src.toNat ≤ (y ya).toNat → stops (.wld yd ya src) 5)

/-- MFS and MTS: what each status register reads as, and what a write of it does (R340, R126, R171, R178, R358, R359).
Derived. -/
def Obligations.StatusRegisters : Prop :=
  ∀ (x : Ext) (s : State) (e : Env),
    let n (k : Nat) : DWord := BitVec.ofNat 64 k
    let i := Instr.mfs x
    let d := (e.opsOf i x).d
    let gives (v : DWord) : Prop := exec i s = .next (e.retire s i [.s d v])
    let own : List (Nat × DWord) := [(2, n e.a.place), (3, n e.wg.warps), (4, n e.wg.g), (5, 64#64), (6, n e.a.pk), (7, n e.a.depth),
      (8, n e.a.wg), (9, n e.g.idx), (10, n e.g.blk.ngang), (11, n e.wg.role), (12, n e.g.core), (13, n (256 - s.fenced.length)),
      (14, n e.g.die), (15, s.bar0.dev.setWidth 64), (16, n (s.die e.g.die).clk), (17, e.a.fflags.setWidth 64), (18, n e.g.asid),
      (19, Config.mchunk), (32, (s.die e.g.die).swapthr), (33, (s.die e.g.die).rdvto), (34, (s.die e.g.die).pretime), (35, e.a.trap),
      (36, e.a.tepc), (37, e.a.tinfo), (38, e.g.dbg), (40, e.g.wp.getD 0 0#64), (41, e.g.wp.getD 1 0#64), (42, e.g.wp.getD 2 0#64),
      (43, e.g.wp.getD 3 0#64)]
    let v := e.a.rs (e.opsOf (.mts x) x).a
    let set (t : State) : Prop := exec (.mts x) s = .next (e.goOn t (e.pcAfter (.mts x)))
    let code := x.d.toNat
    let wl := v.extractLsb' 59 2
    let wpOdd := v.extractLsb' 56 3 ≠ 0#3 ∨ v.extractLsb' 20 12 ≠ 0#12 ∨ wl = 3#2 ∨
      (v.extractLsb' 0 20).toNat % (if wl = 0#2 then 4 else if wl = 1#2 then 16 else 128) ≠ 0
    (Executes i s e →
      (x.a = 0#8 → exec i s = .next (e.retire s i (e.lanes.map fun l => .v d l (BitVec.ofNat 32 (e.rank l))))) ∧
      (x.a = 1#8 → exec i s = .next (e.retire s i (e.lanes.map fun l => .v d l (BitVec.ofNat 32 l)))) ∧
      (∀ p ∈ own, x.a.toNat = p.1 → gives p.2) ∧
      (48 ≤ x.a.toNat → e.g.ident = false → Traps i s e x.words 1 0 none) ∧
      (48 ≤ x.a.toNat → e.g.ident = true → gives (e.g.raf.getD (x.a.toNat - 48) 0#64))) ∧
    (Executes (.mts x) s e →
      (code = 17 → set (e.set s fun a => { a with fflags := v.setWidth 5 })) ∧
      (code = 32 → set (s.updDie e.g.die fun d => { d with swapthr := v })) ∧
      (code = 33 → set (s.updDie e.g.die fun d => { d with rdvto := v })) ∧
      (code = 34 → set (s.updDie e.g.die fun d => { d with pretime := v })) ∧
      (code = 38 → (v.extractLsb' 8 56 ≠ 0#56 ∨ v.getLsbD 3 = true) → Traps (.mts x) s e x.words 5 0 none) ∧
      (code = 38 → v.extractLsb' 8 56 = 0#56 → v.getLsbD 3 = false → set (e.setGang s fun g => { g with dbg := v })) ∧
      (40 ≤ code → code ≤ 43 → wpOdd → Traps (.mts x) s e x.words 5 0 none) ∧
      (40 ≤ code → code ≤ 43 → ¬ wpOdd → set (e.setGang s fun g => { g with wp := g.wp.set (code - 40) v })) ∧
      (48 ≤ code → set (e.setGang s fun g => { g with
        raf := g.raf.set (code - 48) v,
        rafOwn := if v = sysRaf (code - 48) then delNat (code - 48) g.rafOwn else insNat (code - 48) g.rafOwn })))

/-- Taking a trap, TRAP, BKPT, ERET and the mailbox (R341, R350, R351). Derived. -/
def Obligations.TrapsAndTheirReturn : Prop :=
  ∀ (x : Ext) (s : State) (e : Env), s.env? = some e →
    let put (lo n v : Nat) : DWord := BitVec.ofNat 64 (v % 2 ^ n) <<< lo
    let entered (t : State) (cause code len lane step : Nat) (detail : Option Nat) (tepc : Addr) : Prop := t.mem = s.mem ∧
      ∃ b, envOf t e.g.uid e.a.id = some b ∧ b.a.pc = e.g.blk.traph ∧ b.a.st = .runnable ∧ b.a.prog = 0 ∧ b.a.voted = none ∧ b.a.pend = none ∧
        b.a.trap = put 63 1 1 ||| put 32 8 code ||| put 8 4 len ||| put 0 5 cause ∧ b.a.tepc = tepc.setWidth 64 ∧
        b.a.tinfo &&& 0xFFF0#64 = put 8 8 lane ||| put 4 4 step ∧ b.a.tinfo.extractLsb' 16 48 = 0#48 ∧
        (∀ k, detail = some k → b.a.tinfo &&& 0xF#64 = put 0 4 k) ∧ b.a.v = e.a.v ∧ b.a.s = e.a.s ∧ b.a.k = e.a.k ∧ b.a.i = e.a.i ∧
        b.a.b = e.a.b ∧ b.a.fflags = e.a.fflags ∧ b.a.rcnt = e.a.rcnt ∧ b.a.rcache = e.a.rcache
    let free : Prop := e.a.trap.getLsbD 63 = false ∧ e.g.blk.traph ≠ 0#52 ∧ e.g.isFault = false ∧ e.a.outs = []
    (∀ (cause code len lane step : Nat) (detail : Option Nat) (tepc : Addr),
      let t := takeTrap s e ⟨⟨cause, lane, detail⟩, step, code, len, tepc⟩
      (cause = 12 → e.g.asid ∈ t.deadCtx ∧ t.gangs.length = s.gangs.length ∧ (∀ g ∈ t.gangs, g.asid = e.g.asid → g.dying = true) ∧
        (∀ v ∈ t.saved, v.gang.asid = e.g.asid → v.gang.dying = true) ∧ (∀ g ∈ t.grids, g.asid ≠ e.g.asid) ∧
        ∀ w ∈ t.waitGangs, w ∈ s.waitGangs ∧ (w.frame = none → ∀ g ∈ s.grids, g.n = w.grid → g.asid ≠ e.g.asid)) ∧
      (cause ≠ 12 → (e.a.trap.getLsbD 63 = true ∨ e.g.blk.traph = 0#52 ∨ e.g.isFault = true) → t = e.setGang s fun g => { g with dying := true }) ∧
      (cause ≠ 12 → free → entered t cause code len lane step detail tepc) ∧
      (cause ≠ 12 → e.a.trap.getLsbD 63 = false → e.g.blk.traph ≠ 0#52 → e.g.isFault = false → e.quiet (e.landAll s) = false →
        t = e.pend (e.landAll s) ⟨⟨cause, lane, detail⟩, step, code, len, tepc⟩ false)) ∧
    (Executes (.trap x) s e → free → ∃ t, exec (.trap x) s = .next t ∧ entered t 16 x.imm.toNat x.words 0 5 none e.a.pc) ∧
    (Executes (.bkpt x) s e → free → ∃ t, exec (.bkpt x) s = .next t ∧ entered t 13 0 x.words 0 5 (some 0) e.a.pc) ∧
    (Executes (.eret x) s e →
      let len := (e.a.trap.extractLsb' 8 4).setWidth 52
      let skip := x.imm.getLsbD 0
      (e.a.trap.getLsbD 63 = true → exec (.eret x) s = .next (e.set s fun a =>
        { a with pc := e.a.tepc.setWidth 52 + (if skip then 4#52 * len else 0#52), trap := a.trap &&& 0x7FFFFFFFFFFFFFFF#64,
                 st := .runnable, prog := 0, voted := none, skipDbg := !skip && (e.a.trap.extractLsb' 0 5 == 13#5 || e.a.trap.extractLsb' 0 5 == 15#5) })) ∧
      (e.a.trap.getLsbD 63 = false → Traps (.eret x) s e x.words 1 0 none)) ∧
    (Executes (.dmbx x) s e →
      let at' (m : Mailbox) : Bool := m.die == e.g.die && m.core == e.g.core
      let old := (s.mail.find? at').getD ⟨e.g.die, e.g.core, [], false⟩
      let v := e.a.rs (e.opsOf (.dmbx x) x).a
      ∃ t b m, exec (.dmbx x) s = .next t ∧ envOf t e.g.uid e.a.id = some b ∧ b.a = e.a.past (e.pcAfter (.dmbx x)) ∧ t.mem = s.mem ∧
        t.mail.find? at' = some m ∧ (∀ q ∈ s.mail, at' q = false → q ∈ t.mail) ∧
        (old.entries.length < 16 → m.entries = old.entries ++ [v] ∧ m.overflow = old.overflow) ∧
        (old.entries.length = 16 → m.entries = old.entries.tail ++ [v] ∧ m.overflow = true))

/-- FPOP, FRES, TLBI and BIASF (R342, R39, R74, R40, R35). Derived. Beside the spec it rests on readings and choices
of the model: log entries 40 (DEDUCED), 44 (DEDUCED). -/
def Obligations.FaultServiceAndBias : Prop :=
  ∀ (x : Ext) (s : State) (e : Env),
    let on (i : Instr) (t : State) : Prop := exec i s = .next (e.goOn t (e.pcAfter i))
    let val (i : Instr) (f : Regs → Nat) : Nat := (e.a.rs (f (e.opsOf i x))).toNat
    (Executes (.fpop x) s e →
      let r := e.opsOf (.fpop x) x
      (∀ f rest, (s.die e.g.die).faultQ = f :: rest → exec (.fpop x) s = .next (e.retire (s.updDie e.g.die fun d => { d with faultQ := rest })
        (.fpop x) [.s r.d f.w0, .s (r.d + 1) f.w1, .s (r.d + 2) f.w2, .s (r.d + 3) f.w3, .k r.c true])) ∧
      ((s.die e.g.die).faultQ = [] → x.imm.getLsbD 0 = true → exec (.fpop x) s = .next (e.retire s (.fpop x) [.k r.c false])) ∧
      ((s.die e.g.die).faultQ = [] → x.imm.getLsbD 0 = false → exec (.fpop x) s = .next (e.set s Agent.unwait))) ∧
    (Executes (.fres x) s e →
      let tok := val (.fres x) fun r => r.a
      let how := val (.fres x) fun r => r.b
      let holder (g : Gang) : Prop := ∃ a ∈ g.agents, a.st = .parked tok
      let out (g : Gang) : Bool := match g.stop with
        | some p => p.frame.isSome || p.since.isSome
        | none => false
      (2 ^ 63 ≤ tok → how = 0 → on (.fres x) { s with holds := s.holds.filter fun h => h.token != tok || h.denied }) ∧
      (2 ^ 63 ≤ tok → how = 1 → on (.fres x) { s with holds := s.holds.map fun h => if h.token = tok then { h with denied := true } else h }) ∧
      (∀ g, tok < 2 ^ 63 → how = 0 → holder g → s.gang? g.uid = some g → (∀ g' ∈ s.gangs, holder g' → g' = g) → g.uid ≠ e.g.uid →
        ∃ t g', exec (.fres x) s = .next t ∧ t.gang? g.uid = some g' ∧ t.mem = s.mem ∧
          g'.agents = g.agents.map fun a => if a.st = .parked tok then { a with st := .runnable, stopped := a.stopped || out g } else a) ∧
      (∀ g, tok < 2 ^ 63 → how = 1 → holder g → g ∈ s.gangs → (∀ g' ∈ s.gangs, holder g' → g' = g) →
        ∃ t, exec (.fres x) s = .next t ∧ g.asid ∈ t.deadCtx ∧ ∀ g' ∈ t.gangs, g'.asid = g.asid → g'.dying = true) ∧
      (tok < 2 ^ 63 → how ≤ 1 → (∀ g ∈ s.gangs, ¬ holder g) → (∀ v ∈ s.saved, ¬ holder v.gang) → on (.fres x) s) ∧
      (2 ≤ how → Traps (.fres x) s e x.words 5 0 none)) ∧
    (Executes (.tlbi x) s e → Quiet s e →
      (∀ g ∈ s.gangs, ∀ a ∈ g.agents, ∀ o ∈ a.outs, ∀ l ∈ o.reads, l.waits = false) → (∀ c ∈ s.cmds, c.items = []) → s.grpMsgs = [] →
      let asid := val (.tlbi x) (fun r => r.a) % 2 ^ 16
      let va := val (.tlbi x) (fun r => r.b) % 2 ^ 52
      let size := val (.tlbi x) (fun r => r.c) % 8
      let bits := if size = 0 then 12 else if size = 1 then 16 else if size = 2 then 21 else if size = 3 then 25 else 30
      let named (q : TlbEnt) : Prop := x.imm = 2#8 ∨ q.asid = asid ∧
        (x.imm = 1#8 ∨ q.va / 2 ^ max q.bits bits = va / 2 ^ max q.bits bits)
      ∃ t b, exec (.tlbi x) s = .next t ∧ t.mem = s.mem ∧ (∀ q, q ∈ t.tlb ↔ q ∈ s.tlb ∧ ¬ named q) ∧
        envOf t e.g.uid e.a.id = some b ∧ b.a = e.a.past (e.pcAfter (.tlbi x))) ∧
    (Executes (.biasf x) s e →
      let a := val (.biasf x) fun r => r.a
      let host := x.imm.getLsbD 0
      let device : Prop := a < 0x6000000000 ∨ 0x10000000000 ≤ a ∧ a < 0x20000000000
      let same : Prop := (a / 4096 ∈ s.hostBias ↔ host = true) ∧ ∀ f ∈ s.flips, f.frame ≠ a / 4096
      (¬ device → Traps (.biasf x) s e x.words 5 0 none) ∧ (device → a % 4096 ≠ 0 → Traps (.biasf x) s e x.words 6 0 none) ∧
      (device → a % 4096 = 0 → (e.a.prog = 0 ∧ same ∨ e.a.prog ≠ 0 ∧ ∀ f ∈ s.flips, f.asker ≠ some (e.g.uid, e.a.id)) → on (.biasf x) s) ∧
      (device → a % 4096 = 0 → e.a.prog = 0 → ¬ same → ∃ t, exec (.biasf x) s = .next t ∧
        t.flips = s.flips ++ [⟨a / 4096, host, some (e.g.uid, e.a.id)⟩] ∧ t.mem = s.mem ∧ t.hostBias = s.hostBias)) ∧
    ∀ f ∈ s.flips, (s.flips.find? fun g => g.frame == f.frame) = some f → ∃ t, exec (.biasFlipComplete f.frame) s = .next t ∧
      t.flips = s.flips.erase f ∧ ∀ k, k ∈ t.hostBias ↔ if k = f.frame then f.toHost = true else k ∈ s.hostBias

/-- CTXS asks for a gang’s save and waits for it; CTXL hands a saved frame to a distributor (R342, R352, R354, R355).
Derived. Beside the spec it rests on readings and choices of the model: log entry 42 (DEDUCED). -/
def Obligations.SavingAndLoadingOnRequest : Prop :=
  ∀ (x : Ext) (s : State) (e : Env),
    let flag (i : Instr) (v : Bool) : Prop := exec i s = .next (e.retire s i [.k (e.opsOf i x).c v])
    (Executes (.ctxs x) s e →
      let r := e.opsOf (.ctxs x) x
      let name := e.a.rs r.a
      let f := (e.a.rs r.b).toNat
      let here (g : Gang) : Bool := g.die == (name.extractLsb' 16 3).toNat && g.core == (name.extractLsb' 8 5).toNat &&
        g.slot == (name.extractLsb' 0 6).toNat
      let asked (g : Gang) : Prop := ∃ fr k due hit frame since, g.stop = some ⟨.ctxs fr e.g.uid e.a.id k, due, hit, frame, since⟩
      (f % 4096 ≠ 0 → Traps (.ctxs x) s e x.words 6 0 none) ∧
      (f % 4096 = 0 → e.a.prog = 2 → flag (.ctxs x) true) ∧
      (f % 4096 = 0 → e.a.prog = 0 → (∀ g ∈ s.gangs, ¬ asked g ∧ here g = false) → flag (.ctxs x) false) ∧
      (f % 4096 = 0 → e.a.prog ≠ 2 → (∃ g ∈ s.gangs, asked g) → exec (.ctxs x) s = .next (e.set s Agent.unwait)) ∧
      (f % 4096 = 0 → e.a.prog = 1 → (∀ g ∈ s.gangs, ¬ asked g) → flag (.ctxs x) false) ∧
      (∀ g p, f % 4096 = 0 → e.a.prog = 0 → (∀ g ∈ s.gangs, ¬ asked g) → s.gangs.find? here = some g → g.stop = some p → p.cause.yields = false →
        exec (.ctxs x) s = .next (e.set s Agent.unwait)) ∧
      (∀ g, f % 4096 = 0 → e.a.prog = 0 → (∀ g ∈ s.gangs, ¬ asked g) → s.gangs.find? here = some g → s.gang? g.uid = some g →
        (∀ p, g.stop = some p → p.cause.yields = true) →
        ∃ t g' b, exec (.ctxs x) s = .next t ∧ t.gang? g.uid = some g' ∧ t.mem = s.mem ∧
          (∃ p, g'.stop = some p ∧ p.cause = .ctxs (f % 2 ^ 52) e.g.uid e.a.id r.c ∧ p.hit = false ∧
            p.due = (s.die g.die).clk + (s.die g.die).pretime.toNat) ∧
          envOf t e.g.uid e.a.id = some b ∧ b.a.pc = e.a.pc ∧ b.a.outs = e.a.outs)) ∧
    (Executes (.ctxl x) s e →
      let f := (e.a.rs (e.opsOf (.ctxl x) x).a).toNat
      let holds (v : Saved) : Bool := v.frame == f && !v.returning && !v.gang.dying
      (f % 4096 ≠ 0 → Traps (.ctxl x) s e x.words 6 0 none) ∧
      (f % 4096 = 0 → s.saved.find? holds = none → flag (.ctxl x) false) ∧
      (∀ v, f % 4096 = 0 → s.saved.find? holds = some v → (∀ w ∈ s.saved, w.frame = f → w = v) → Quiet s e →
        (frameOk s v = false → ∃ t b, exec (.ctxl x) s = .next t ∧ envOf t e.g.uid e.a.id = some b ∧
          b.a.outs = [{ writes := [.k (e.opsOf (.ctxl x) x).c false] }] ∧ t.waitGangs = s.waitGangs ∧ t.mem = s.mem) ∧
        (frameOk s v = true → s.Inv → NoWindows s → ∃ t b w, exec (.ctxl x) s = .next t ∧ envOf t e.g.uid e.a.id = some b ∧
          b.a.outs = [{ writes := [.k (e.opsOf (.ctxl x) x).c true] }] ∧ t.waitGangs = s.waitGangs ++ [w] ∧ w.die = v.gang.die ∧ w.frame = some f ∧
          (∀ a, t.mem.look memDefault a = if a = f + 15 then s.mem.look memDefault a &&& 0x7F#8 else s.mem.look memDefault a) ∧
          ∀ u ∈ t.saved, u.frame = f → u.returning = true ∧ u.gang.self = some f)))
end

