-- ==== Sys2Proof/Laws/State.lean ====
section
/-! SUPPORT. What the plain updates of State leave unchanged, field by field. -/

namespace Sys2Proof.Machine

@[simp] theorem State.updGang_phase (s : State) (uid : Nat) (f : Gang → Gang) : (s.updGang uid f).phase = s.phase := rfl
@[simp] theorem State.updGang_cur (s : State) (uid : Nat) (f : Gang → Gang) : (s.updGang uid f).cur = s.cur := rfl
@[simp] theorem State.updGang_tick (s : State) (uid : Nat) (f : Gang → Gang) : (s.updGang uid f).tick = s.tick := rfl
@[simp] theorem State.updGang_fresh (s : State) (uid : Nat) (f : Gang → Gang) : (s.updGang uid f).fresh = s.fresh := rfl
@[simp] theorem State.updGang_inputs (s : State) (uid : Nat) (f : Gang → Gang) : (s.updGang uid f).inputs = s.inputs := rfl
@[simp] theorem State.updGang_dies (s : State) (uid : Nat) (f : Gang → Gang) : (s.updGang uid f).dies = s.dies := rfl
@[simp] theorem State.updGang_ioClk (s : State) (uid : Nat) (f : Gang → Gang) : (s.updGang uid f).ioClk = s.ioClk := rfl
@[simp] theorem State.updGang_saved (s : State) (uid : Nat) (f : Gang → Gang) : (s.updGang uid f).saved = s.saved := rfl
@[simp] theorem State.updGang_cmds (s : State) (uid : Nat) (f : Gang → Gang) : (s.updGang uid f).cmds = s.cmds := rfl
@[simp] theorem State.updGang_holds (s : State) (uid : Nat) (f : Gang → Gang) : (s.updGang uid f).holds = s.holds := rfl
@[simp] theorem State.updGang_handQ (s : State) (uid : Nat) (f : Gang → Gang) : (s.updGang uid f).handQ = s.handQ := rfl
@[simp] theorem State.updGang_mem (s : State) (uid : Nat) (f : Gang → Gang) : (s.updGang uid f).mem = s.mem := rfl
@[simp] theorem State.updGang_memPoison (s : State) (uid : Nat) (f : Gang → Gang) : (s.updGang uid f).memPoison = s.memPoison := rfl
@[simp] theorem State.updGang_hostBias (s : State) (uid : Nat) (f : Gang → Gang) : (s.updGang uid f).hostBias = s.hostBias := rfl
@[simp] theorem State.updGang_flips (s : State) (uid : Nat) (f : Gang → Gang) : (s.updGang uid f).flips = s.flips := rfl
@[simp] theorem State.updGang_outq (s : State) (uid : Nat) (f : Gang → Gang) : (s.updGang uid f).outq = s.outq := rfl
@[simp] theorem State.updGang_atoms (s : State) (uid : Nat) (f : Gang → Gang) : (s.updGang uid f).atoms = s.atoms := rfl
@[simp] theorem State.updGang_tlb (s : State) (uid : Nat) (f : Gang → Gang) : (s.updGang uid f).tlb = s.tlb := rfl
@[simp] theorem State.updGang_dir (s : State) (uid : Nat) (f : Gang → Gang) : (s.updGang uid f).dir = s.dir := rfl
@[simp] theorem State.updGang_l1 (s : State) (uid : Nat) (f : Gang → Gang) : (s.updGang uid f).l1 = s.l1 := rfl
@[simp] theorem State.updGang_l2 (s : State) (uid : Nat) (f : Gang → Gang) : (s.updGang uid f).l2 = s.l2 := rfl
@[simp] theorem State.updGang_tags (s : State) (uid : Nat) (f : Gang → Gang) : (s.updGang uid f).tags = s.tags := rfl
@[simp] theorem State.updGang_scs (s : State) (uid : Nat) (f : Gang → Gang) : (s.updGang uid f).scs = s.scs := rfl
@[simp] theorem State.updGang_issues (s : State) (uid : Nat) (f : Gang → Gang) : (s.updGang uid f).issues = s.issues := rfl
@[simp] theorem State.updGang_accepts (s : State) (uid : Nat) (f : Gang → Gang) : (s.updGang uid f).accepts = s.accepts := rfl
@[simp] theorem State.updGang_collapses (s : State) (uid : Nat) (f : Gang → Gang) : (s.updGang uid f).collapses = s.collapses := rfl
@[simp] theorem State.updGang_mail (s : State) (uid : Nat) (f : Gang → Gang) : (s.updGang uid f).mail = s.mail := rfl
@[simp] theorem State.updGang_routeV (s : State) (uid : Nat) (f : Gang → Gang) : (s.updGang uid f).routeV = s.routeV := rfl
@[simp] theorem State.updGang_fenced (s : State) (uid : Nat) (f : Gang → Gang) : (s.updGang uid f).fenced = s.fenced := rfl
@[simp] theorem State.updGang_waiters (s : State) (uid : Nat) (f : Gang → Gang) : (s.updGang uid f).waiters = s.waiters := rfl
@[simp] theorem State.updGang_heldPosts (s : State) (uid : Nat) (f : Gang → Gang) : (s.updGang uid f).heldPosts = s.heldPosts := rfl
@[simp] theorem State.updGang_grpMsgs (s : State) (uid : Nat) (f : Gang → Gang) : (s.updGang uid f).grpMsgs = s.grpMsgs := rfl
@[simp] theorem State.updGang_groups (s : State) (uid : Nat) (f : Gang → Gang) : (s.updGang uid f).groups = s.groups := rfl
@[simp] theorem State.updGang_links (s : State) (uid : Nat) (f : Gang → Gang) : (s.updGang uid f).links = s.links := rfl
@[simp] theorem State.updGang_sent (s : State) (uid : Nat) (f : Gang → Gang) : (s.updGang uid f).sent = s.sent := rfl
@[simp] theorem State.updGang_wire (s : State) (uid : Nat) (f : Gang → Gang) : (s.updGang uid f).wire = s.wire := rfl
@[simp] theorem State.updGang_listWork (s : State) (uid : Nat) (f : Gang → Gang) : (s.updGang uid f).listWork = s.listWork := rfl
@[simp] theorem State.updGang_filling (s : State) (uid : Nat) (f : Gang → Gang) : (s.updGang uid f).filling = s.filling := rfl
@[simp] theorem State.updGang_parked (s : State) (uid : Nat) (f : Gang → Gang) : (s.updGang uid f).parked = s.parked := rfl
@[simp] theorem State.updGang_appended (s : State) (uid : Nat) (f : Gang → Gang) : (s.updGang uid f).appended = s.appended := rfl
@[simp] theorem State.updGang_forming (s : State) (uid : Nat) (f : Gang → Gang) : (s.updGang uid f).forming = s.forming := rfl
@[simp] theorem State.updGang_ringRows (s : State) (uid : Nat) (f : Gang → Gang) : (s.updGang uid f).ringRows = s.ringRows := rfl
@[simp] theorem State.updGang_freed (s : State) (uid : Nat) (f : Gang → Gang) : (s.updGang uid f).freed = s.freed := rfl
@[simp] theorem State.updGang_ringNext (s : State) (uid : Nat) (f : Gang → Gang) : (s.updGang uid f).ringNext = s.ringNext := rfl
@[simp] theorem State.updGang_served (s : State) (uid : Nat) (f : Gang → Gang) : (s.updGang uid f).served = s.served := rfl
@[simp] theorem State.updGang_dlq (s : State) (uid : Nat) (f : Gang → Gang) : (s.updGang uid f).dlq = s.dlq := rfl
@[simp] theorem State.updGang_reading (s : State) (uid : Nat) (f : Gang → Gang) : (s.updGang uid f).reading = s.reading := rfl
@[simp] theorem State.updGang_lastVisit (s : State) (uid : Nat) (f : Gang → Gang) : (s.updGang uid f).lastVisit = s.lastVisit := rfl
@[simp] theorem State.updGang_grids (s : State) (uid : Nat) (f : Gang → Gang) : (s.updGang uid f).grids = s.grids := rfl
@[simp] theorem State.updGang_waitGangs (s : State) (uid : Nat) (f : Gang → Gang) : (s.updGang uid f).waitGangs = s.waitGangs := rfl
@[simp] theorem State.updGang_deadCtx (s : State) (uid : Nat) (f : Gang → Gang) : (s.updGang uid f).deadCtx = s.deadCtx := rfl
@[simp] theorem State.updGang_freeLists (s : State) (uid : Nat) (f : Gang → Gang) : (s.updGang uid f).freeLists = s.freeLists := rfl
@[simp] theorem State.updGang_bar0 (s : State) (uid : Nat) (f : Gang → Gang) : (s.updGang uid f).bar0 = s.bar0 := rfl
@[simp] theorem State.updGang_host (s : State) (uid : Nat) (f : Gang → Gang) : (s.updGang uid f).host = s.host := rfl
@[simp] theorem State.updGang_izsil (s : State) (uid : Nat) (f : Gang → Gang) : (s.updGang uid f).izsil = s.izsil := rfl

@[simp] theorem State.updAgent_phase (s : State) (uid id : Nat) (f : Agent → Agent) : (s.updAgent uid id f).phase = s.phase := rfl
@[simp] theorem State.updAgent_cur (s : State) (uid id : Nat) (f : Agent → Agent) : (s.updAgent uid id f).cur = s.cur := rfl
@[simp] theorem State.updAgent_tick (s : State) (uid id : Nat) (f : Agent → Agent) : (s.updAgent uid id f).tick = s.tick := rfl
@[simp] theorem State.updAgent_fresh (s : State) (uid id : Nat) (f : Agent → Agent) : (s.updAgent uid id f).fresh = s.fresh := rfl
@[simp] theorem State.updAgent_inputs (s : State) (uid id : Nat) (f : Agent → Agent) : (s.updAgent uid id f).inputs = s.inputs := rfl
@[simp] theorem State.updAgent_dies (s : State) (uid id : Nat) (f : Agent → Agent) : (s.updAgent uid id f).dies = s.dies := rfl
@[simp] theorem State.updAgent_ioClk (s : State) (uid id : Nat) (f : Agent → Agent) : (s.updAgent uid id f).ioClk = s.ioClk := rfl
@[simp] theorem State.updAgent_saved (s : State) (uid id : Nat) (f : Agent → Agent) : (s.updAgent uid id f).saved = s.saved := rfl
@[simp] theorem State.updAgent_cmds (s : State) (uid id : Nat) (f : Agent → Agent) : (s.updAgent uid id f).cmds = s.cmds := rfl
@[simp] theorem State.updAgent_holds (s : State) (uid id : Nat) (f : Agent → Agent) : (s.updAgent uid id f).holds = s.holds := rfl
@[simp] theorem State.updAgent_handQ (s : State) (uid id : Nat) (f : Agent → Agent) : (s.updAgent uid id f).handQ = s.handQ := rfl
@[simp] theorem State.updAgent_mem (s : State) (uid id : Nat) (f : Agent → Agent) : (s.updAgent uid id f).mem = s.mem := rfl
@[simp] theorem State.updAgent_memPoison (s : State) (uid id : Nat) (f : Agent → Agent) : (s.updAgent uid id f).memPoison = s.memPoison := rfl
@[simp] theorem State.updAgent_hostBias (s : State) (uid id : Nat) (f : Agent → Agent) : (s.updAgent uid id f).hostBias = s.hostBias := rfl
@[simp] theorem State.updAgent_flips (s : State) (uid id : Nat) (f : Agent → Agent) : (s.updAgent uid id f).flips = s.flips := rfl
@[simp] theorem State.updAgent_outq (s : State) (uid id : Nat) (f : Agent → Agent) : (s.updAgent uid id f).outq = s.outq := rfl
@[simp] theorem State.updAgent_atoms (s : State) (uid id : Nat) (f : Agent → Agent) : (s.updAgent uid id f).atoms = s.atoms := rfl
@[simp] theorem State.updAgent_tlb (s : State) (uid id : Nat) (f : Agent → Agent) : (s.updAgent uid id f).tlb = s.tlb := rfl
@[simp] theorem State.updAgent_dir (s : State) (uid id : Nat) (f : Agent → Agent) : (s.updAgent uid id f).dir = s.dir := rfl
@[simp] theorem State.updAgent_l1 (s : State) (uid id : Nat) (f : Agent → Agent) : (s.updAgent uid id f).l1 = s.l1 := rfl
@[simp] theorem State.updAgent_l2 (s : State) (uid id : Nat) (f : Agent → Agent) : (s.updAgent uid id f).l2 = s.l2 := rfl
@[simp] theorem State.updAgent_tags (s : State) (uid id : Nat) (f : Agent → Agent) : (s.updAgent uid id f).tags = s.tags := rfl
@[simp] theorem State.updAgent_scs (s : State) (uid id : Nat) (f : Agent → Agent) : (s.updAgent uid id f).scs = s.scs := rfl
@[simp] theorem State.updAgent_issues (s : State) (uid id : Nat) (f : Agent → Agent) : (s.updAgent uid id f).issues = s.issues := rfl
@[simp] theorem State.updAgent_accepts (s : State) (uid id : Nat) (f : Agent → Agent) : (s.updAgent uid id f).accepts = s.accepts := rfl
@[simp] theorem State.updAgent_collapses (s : State) (uid id : Nat) (f : Agent → Agent) : (s.updAgent uid id f).collapses = s.collapses := rfl
@[simp] theorem State.updAgent_mail (s : State) (uid id : Nat) (f : Agent → Agent) : (s.updAgent uid id f).mail = s.mail := rfl
@[simp] theorem State.updAgent_routeV (s : State) (uid id : Nat) (f : Agent → Agent) : (s.updAgent uid id f).routeV = s.routeV := rfl
@[simp] theorem State.updAgent_fenced (s : State) (uid id : Nat) (f : Agent → Agent) : (s.updAgent uid id f).fenced = s.fenced := rfl
@[simp] theorem State.updAgent_waiters (s : State) (uid id : Nat) (f : Agent → Agent) : (s.updAgent uid id f).waiters = s.waiters := rfl
@[simp] theorem State.updAgent_heldPosts (s : State) (uid id : Nat) (f : Agent → Agent) : (s.updAgent uid id f).heldPosts = s.heldPosts := rfl
@[simp] theorem State.updAgent_grpMsgs (s : State) (uid id : Nat) (f : Agent → Agent) : (s.updAgent uid id f).grpMsgs = s.grpMsgs := rfl
@[simp] theorem State.updAgent_groups (s : State) (uid id : Nat) (f : Agent → Agent) : (s.updAgent uid id f).groups = s.groups := rfl
@[simp] theorem State.updAgent_links (s : State) (uid id : Nat) (f : Agent → Agent) : (s.updAgent uid id f).links = s.links := rfl
@[simp] theorem State.updAgent_sent (s : State) (uid id : Nat) (f : Agent → Agent) : (s.updAgent uid id f).sent = s.sent := rfl
@[simp] theorem State.updAgent_wire (s : State) (uid id : Nat) (f : Agent → Agent) : (s.updAgent uid id f).wire = s.wire := rfl
@[simp] theorem State.updAgent_listWork (s : State) (uid id : Nat) (f : Agent → Agent) : (s.updAgent uid id f).listWork = s.listWork := rfl
@[simp] theorem State.updAgent_filling (s : State) (uid id : Nat) (f : Agent → Agent) : (s.updAgent uid id f).filling = s.filling := rfl
@[simp] theorem State.updAgent_parked (s : State) (uid id : Nat) (f : Agent → Agent) : (s.updAgent uid id f).parked = s.parked := rfl
@[simp] theorem State.updAgent_appended (s : State) (uid id : Nat) (f : Agent → Agent) : (s.updAgent uid id f).appended = s.appended := rfl
@[simp] theorem State.updAgent_forming (s : State) (uid id : Nat) (f : Agent → Agent) : (s.updAgent uid id f).forming = s.forming := rfl
@[simp] theorem State.updAgent_ringRows (s : State) (uid id : Nat) (f : Agent → Agent) : (s.updAgent uid id f).ringRows = s.ringRows := rfl
@[simp] theorem State.updAgent_freed (s : State) (uid id : Nat) (f : Agent → Agent) : (s.updAgent uid id f).freed = s.freed := rfl
@[simp] theorem State.updAgent_ringNext (s : State) (uid id : Nat) (f : Agent → Agent) : (s.updAgent uid id f).ringNext = s.ringNext := rfl
@[simp] theorem State.updAgent_served (s : State) (uid id : Nat) (f : Agent → Agent) : (s.updAgent uid id f).served = s.served := rfl
@[simp] theorem State.updAgent_dlq (s : State) (uid id : Nat) (f : Agent → Agent) : (s.updAgent uid id f).dlq = s.dlq := rfl
@[simp] theorem State.updAgent_reading (s : State) (uid id : Nat) (f : Agent → Agent) : (s.updAgent uid id f).reading = s.reading := rfl
@[simp] theorem State.updAgent_lastVisit (s : State) (uid id : Nat) (f : Agent → Agent) : (s.updAgent uid id f).lastVisit = s.lastVisit := rfl
@[simp] theorem State.updAgent_grids (s : State) (uid id : Nat) (f : Agent → Agent) : (s.updAgent uid id f).grids = s.grids := rfl
@[simp] theorem State.updAgent_waitGangs (s : State) (uid id : Nat) (f : Agent → Agent) : (s.updAgent uid id f).waitGangs = s.waitGangs := rfl
@[simp] theorem State.updAgent_deadCtx (s : State) (uid id : Nat) (f : Agent → Agent) : (s.updAgent uid id f).deadCtx = s.deadCtx := rfl
@[simp] theorem State.updAgent_freeLists (s : State) (uid id : Nat) (f : Agent → Agent) : (s.updAgent uid id f).freeLists = s.freeLists := rfl
@[simp] theorem State.updAgent_bar0 (s : State) (uid id : Nat) (f : Agent → Agent) : (s.updAgent uid id f).bar0 = s.bar0 := rfl
@[simp] theorem State.updAgent_host (s : State) (uid id : Nat) (f : Agent → Agent) : (s.updAgent uid id f).host = s.host := rfl
@[simp] theorem State.updAgent_izsil (s : State) (uid id : Nat) (f : Agent → Agent) : (s.updAgent uid id f).izsil = s.izsil := rfl

@[simp] theorem Env.set_phase (e : Env) (s : State) (f : Agent → Agent) : (e.set s f).phase = s.phase := rfl
@[simp] theorem Env.set_cur (e : Env) (s : State) (f : Agent → Agent) : (e.set s f).cur = s.cur := rfl
@[simp] theorem Env.set_tick (e : Env) (s : State) (f : Agent → Agent) : (e.set s f).tick = s.tick := rfl
@[simp] theorem Env.set_fresh (e : Env) (s : State) (f : Agent → Agent) : (e.set s f).fresh = s.fresh := rfl
@[simp] theorem Env.set_inputs (e : Env) (s : State) (f : Agent → Agent) : (e.set s f).inputs = s.inputs := rfl
@[simp] theorem Env.set_dies (e : Env) (s : State) (f : Agent → Agent) : (e.set s f).dies = s.dies := rfl
@[simp] theorem Env.set_ioClk (e : Env) (s : State) (f : Agent → Agent) : (e.set s f).ioClk = s.ioClk := rfl
@[simp] theorem Env.set_saved (e : Env) (s : State) (f : Agent → Agent) : (e.set s f).saved = s.saved := rfl
@[simp] theorem Env.set_cmds (e : Env) (s : State) (f : Agent → Agent) : (e.set s f).cmds = s.cmds := rfl
@[simp] theorem Env.set_holds (e : Env) (s : State) (f : Agent → Agent) : (e.set s f).holds = s.holds := rfl
@[simp] theorem Env.set_handQ (e : Env) (s : State) (f : Agent → Agent) : (e.set s f).handQ = s.handQ := rfl
@[simp] theorem Env.set_mem (e : Env) (s : State) (f : Agent → Agent) : (e.set s f).mem = s.mem := rfl
@[simp] theorem Env.set_memPoison (e : Env) (s : State) (f : Agent → Agent) : (e.set s f).memPoison = s.memPoison := rfl
@[simp] theorem Env.set_hostBias (e : Env) (s : State) (f : Agent → Agent) : (e.set s f).hostBias = s.hostBias := rfl
@[simp] theorem Env.set_flips (e : Env) (s : State) (f : Agent → Agent) : (e.set s f).flips = s.flips := rfl
@[simp] theorem Env.set_outq (e : Env) (s : State) (f : Agent → Agent) : (e.set s f).outq = s.outq := rfl
@[simp] theorem Env.set_atoms (e : Env) (s : State) (f : Agent → Agent) : (e.set s f).atoms = s.atoms := rfl
@[simp] theorem Env.set_tlb (e : Env) (s : State) (f : Agent → Agent) : (e.set s f).tlb = s.tlb := rfl
@[simp] theorem Env.set_dir (e : Env) (s : State) (f : Agent → Agent) : (e.set s f).dir = s.dir := rfl
@[simp] theorem Env.set_l1 (e : Env) (s : State) (f : Agent → Agent) : (e.set s f).l1 = s.l1 := rfl
@[simp] theorem Env.set_l2 (e : Env) (s : State) (f : Agent → Agent) : (e.set s f).l2 = s.l2 := rfl
@[simp] theorem Env.set_tags (e : Env) (s : State) (f : Agent → Agent) : (e.set s f).tags = s.tags := rfl
@[simp] theorem Env.set_scs (e : Env) (s : State) (f : Agent → Agent) : (e.set s f).scs = s.scs := rfl
@[simp] theorem Env.set_issues (e : Env) (s : State) (f : Agent → Agent) : (e.set s f).issues = s.issues := rfl
@[simp] theorem Env.set_accepts (e : Env) (s : State) (f : Agent → Agent) : (e.set s f).accepts = s.accepts := rfl
@[simp] theorem Env.set_collapses (e : Env) (s : State) (f : Agent → Agent) : (e.set s f).collapses = s.collapses := rfl
@[simp] theorem Env.set_mail (e : Env) (s : State) (f : Agent → Agent) : (e.set s f).mail = s.mail := rfl
@[simp] theorem Env.set_routeV (e : Env) (s : State) (f : Agent → Agent) : (e.set s f).routeV = s.routeV := rfl
@[simp] theorem Env.set_fenced (e : Env) (s : State) (f : Agent → Agent) : (e.set s f).fenced = s.fenced := rfl
@[simp] theorem Env.set_waiters (e : Env) (s : State) (f : Agent → Agent) : (e.set s f).waiters = s.waiters := rfl
@[simp] theorem Env.set_heldPosts (e : Env) (s : State) (f : Agent → Agent) : (e.set s f).heldPosts = s.heldPosts := rfl
@[simp] theorem Env.set_grpMsgs (e : Env) (s : State) (f : Agent → Agent) : (e.set s f).grpMsgs = s.grpMsgs := rfl
@[simp] theorem Env.set_groups (e : Env) (s : State) (f : Agent → Agent) : (e.set s f).groups = s.groups := rfl
@[simp] theorem Env.set_links (e : Env) (s : State) (f : Agent → Agent) : (e.set s f).links = s.links := rfl
@[simp] theorem Env.set_sent (e : Env) (s : State) (f : Agent → Agent) : (e.set s f).sent = s.sent := rfl
@[simp] theorem Env.set_wire (e : Env) (s : State) (f : Agent → Agent) : (e.set s f).wire = s.wire := rfl
@[simp] theorem Env.set_listWork (e : Env) (s : State) (f : Agent → Agent) : (e.set s f).listWork = s.listWork := rfl
@[simp] theorem Env.set_filling (e : Env) (s : State) (f : Agent → Agent) : (e.set s f).filling = s.filling := rfl
@[simp] theorem Env.set_parked (e : Env) (s : State) (f : Agent → Agent) : (e.set s f).parked = s.parked := rfl
@[simp] theorem Env.set_appended (e : Env) (s : State) (f : Agent → Agent) : (e.set s f).appended = s.appended := rfl
@[simp] theorem Env.set_forming (e : Env) (s : State) (f : Agent → Agent) : (e.set s f).forming = s.forming := rfl
@[simp] theorem Env.set_ringRows (e : Env) (s : State) (f : Agent → Agent) : (e.set s f).ringRows = s.ringRows := rfl
@[simp] theorem Env.set_freed (e : Env) (s : State) (f : Agent → Agent) : (e.set s f).freed = s.freed := rfl
@[simp] theorem Env.set_ringNext (e : Env) (s : State) (f : Agent → Agent) : (e.set s f).ringNext = s.ringNext := rfl
@[simp] theorem Env.set_served (e : Env) (s : State) (f : Agent → Agent) : (e.set s f).served = s.served := rfl
@[simp] theorem Env.set_dlq (e : Env) (s : State) (f : Agent → Agent) : (e.set s f).dlq = s.dlq := rfl
@[simp] theorem Env.set_reading (e : Env) (s : State) (f : Agent → Agent) : (e.set s f).reading = s.reading := rfl
@[simp] theorem Env.set_lastVisit (e : Env) (s : State) (f : Agent → Agent) : (e.set s f).lastVisit = s.lastVisit := rfl
@[simp] theorem Env.set_grids (e : Env) (s : State) (f : Agent → Agent) : (e.set s f).grids = s.grids := rfl
@[simp] theorem Env.set_waitGangs (e : Env) (s : State) (f : Agent → Agent) : (e.set s f).waitGangs = s.waitGangs := rfl
@[simp] theorem Env.set_deadCtx (e : Env) (s : State) (f : Agent → Agent) : (e.set s f).deadCtx = s.deadCtx := rfl
@[simp] theorem Env.set_freeLists (e : Env) (s : State) (f : Agent → Agent) : (e.set s f).freeLists = s.freeLists := rfl
@[simp] theorem Env.set_bar0 (e : Env) (s : State) (f : Agent → Agent) : (e.set s f).bar0 = s.bar0 := rfl
@[simp] theorem Env.set_host (e : Env) (s : State) (f : Agent → Agent) : (e.set s f).host = s.host := rfl
@[simp] theorem Env.set_izsil (e : Env) (s : State) (f : Agent → Agent) : (e.set s f).izsil = s.izsil := rfl

@[simp] theorem Env.setGang_phase (e : Env) (s : State) (f : Gang → Gang) : (e.setGang s f).phase = s.phase := rfl
@[simp] theorem Env.setGang_cur (e : Env) (s : State) (f : Gang → Gang) : (e.setGang s f).cur = s.cur := rfl
@[simp] theorem Env.setGang_tick (e : Env) (s : State) (f : Gang → Gang) : (e.setGang s f).tick = s.tick := rfl
@[simp] theorem Env.setGang_fresh (e : Env) (s : State) (f : Gang → Gang) : (e.setGang s f).fresh = s.fresh := rfl
@[simp] theorem Env.setGang_inputs (e : Env) (s : State) (f : Gang → Gang) : (e.setGang s f).inputs = s.inputs := rfl
@[simp] theorem Env.setGang_dies (e : Env) (s : State) (f : Gang → Gang) : (e.setGang s f).dies = s.dies := rfl
@[simp] theorem Env.setGang_ioClk (e : Env) (s : State) (f : Gang → Gang) : (e.setGang s f).ioClk = s.ioClk := rfl
@[simp] theorem Env.setGang_saved (e : Env) (s : State) (f : Gang → Gang) : (e.setGang s f).saved = s.saved := rfl
@[simp] theorem Env.setGang_cmds (e : Env) (s : State) (f : Gang → Gang) : (e.setGang s f).cmds = s.cmds := rfl
@[simp] theorem Env.setGang_holds (e : Env) (s : State) (f : Gang → Gang) : (e.setGang s f).holds = s.holds := rfl
@[simp] theorem Env.setGang_handQ (e : Env) (s : State) (f : Gang → Gang) : (e.setGang s f).handQ = s.handQ := rfl
@[simp] theorem Env.setGang_mem (e : Env) (s : State) (f : Gang → Gang) : (e.setGang s f).mem = s.mem := rfl
@[simp] theorem Env.setGang_memPoison (e : Env) (s : State) (f : Gang → Gang) : (e.setGang s f).memPoison = s.memPoison := rfl
@[simp] theorem Env.setGang_hostBias (e : Env) (s : State) (f : Gang → Gang) : (e.setGang s f).hostBias = s.hostBias := rfl
@[simp] theorem Env.setGang_flips (e : Env) (s : State) (f : Gang → Gang) : (e.setGang s f).flips = s.flips := rfl
@[simp] theorem Env.setGang_outq (e : Env) (s : State) (f : Gang → Gang) : (e.setGang s f).outq = s.outq := rfl
@[simp] theorem Env.setGang_atoms (e : Env) (s : State) (f : Gang → Gang) : (e.setGang s f).atoms = s.atoms := rfl
@[simp] theorem Env.setGang_tlb (e : Env) (s : State) (f : Gang → Gang) : (e.setGang s f).tlb = s.tlb := rfl
@[simp] theorem Env.setGang_dir (e : Env) (s : State) (f : Gang → Gang) : (e.setGang s f).dir = s.dir := rfl
@[simp] theorem Env.setGang_l1 (e : Env) (s : State) (f : Gang → Gang) : (e.setGang s f).l1 = s.l1 := rfl
@[simp] theorem Env.setGang_l2 (e : Env) (s : State) (f : Gang → Gang) : (e.setGang s f).l2 = s.l2 := rfl
@[simp] theorem Env.setGang_tags (e : Env) (s : State) (f : Gang → Gang) : (e.setGang s f).tags = s.tags := rfl
@[simp] theorem Env.setGang_scs (e : Env) (s : State) (f : Gang → Gang) : (e.setGang s f).scs = s.scs := rfl
@[simp] theorem Env.setGang_issues (e : Env) (s : State) (f : Gang → Gang) : (e.setGang s f).issues = s.issues := rfl
@[simp] theorem Env.setGang_accepts (e : Env) (s : State) (f : Gang → Gang) : (e.setGang s f).accepts = s.accepts := rfl
@[simp] theorem Env.setGang_collapses (e : Env) (s : State) (f : Gang → Gang) : (e.setGang s f).collapses = s.collapses := rfl
@[simp] theorem Env.setGang_mail (e : Env) (s : State) (f : Gang → Gang) : (e.setGang s f).mail = s.mail := rfl
@[simp] theorem Env.setGang_routeV (e : Env) (s : State) (f : Gang → Gang) : (e.setGang s f).routeV = s.routeV := rfl
@[simp] theorem Env.setGang_fenced (e : Env) (s : State) (f : Gang → Gang) : (e.setGang s f).fenced = s.fenced := rfl
@[simp] theorem Env.setGang_waiters (e : Env) (s : State) (f : Gang → Gang) : (e.setGang s f).waiters = s.waiters := rfl
@[simp] theorem Env.setGang_heldPosts (e : Env) (s : State) (f : Gang → Gang) : (e.setGang s f).heldPosts = s.heldPosts := rfl
@[simp] theorem Env.setGang_grpMsgs (e : Env) (s : State) (f : Gang → Gang) : (e.setGang s f).grpMsgs = s.grpMsgs := rfl
@[simp] theorem Env.setGang_groups (e : Env) (s : State) (f : Gang → Gang) : (e.setGang s f).groups = s.groups := rfl
@[simp] theorem Env.setGang_links (e : Env) (s : State) (f : Gang → Gang) : (e.setGang s f).links = s.links := rfl
@[simp] theorem Env.setGang_sent (e : Env) (s : State) (f : Gang → Gang) : (e.setGang s f).sent = s.sent := rfl
@[simp] theorem Env.setGang_wire (e : Env) (s : State) (f : Gang → Gang) : (e.setGang s f).wire = s.wire := rfl
@[simp] theorem Env.setGang_listWork (e : Env) (s : State) (f : Gang → Gang) : (e.setGang s f).listWork = s.listWork := rfl
@[simp] theorem Env.setGang_filling (e : Env) (s : State) (f : Gang → Gang) : (e.setGang s f).filling = s.filling := rfl
@[simp] theorem Env.setGang_parked (e : Env) (s : State) (f : Gang → Gang) : (e.setGang s f).parked = s.parked := rfl
@[simp] theorem Env.setGang_appended (e : Env) (s : State) (f : Gang → Gang) : (e.setGang s f).appended = s.appended := rfl
@[simp] theorem Env.setGang_forming (e : Env) (s : State) (f : Gang → Gang) : (e.setGang s f).forming = s.forming := rfl
@[simp] theorem Env.setGang_ringRows (e : Env) (s : State) (f : Gang → Gang) : (e.setGang s f).ringRows = s.ringRows := rfl
@[simp] theorem Env.setGang_freed (e : Env) (s : State) (f : Gang → Gang) : (e.setGang s f).freed = s.freed := rfl
@[simp] theorem Env.setGang_ringNext (e : Env) (s : State) (f : Gang → Gang) : (e.setGang s f).ringNext = s.ringNext := rfl
@[simp] theorem Env.setGang_served (e : Env) (s : State) (f : Gang → Gang) : (e.setGang s f).served = s.served := rfl
@[simp] theorem Env.setGang_dlq (e : Env) (s : State) (f : Gang → Gang) : (e.setGang s f).dlq = s.dlq := rfl
@[simp] theorem Env.setGang_reading (e : Env) (s : State) (f : Gang → Gang) : (e.setGang s f).reading = s.reading := rfl
@[simp] theorem Env.setGang_lastVisit (e : Env) (s : State) (f : Gang → Gang) : (e.setGang s f).lastVisit = s.lastVisit := rfl
@[simp] theorem Env.setGang_grids (e : Env) (s : State) (f : Gang → Gang) : (e.setGang s f).grids = s.grids := rfl
@[simp] theorem Env.setGang_waitGangs (e : Env) (s : State) (f : Gang → Gang) : (e.setGang s f).waitGangs = s.waitGangs := rfl
@[simp] theorem Env.setGang_deadCtx (e : Env) (s : State) (f : Gang → Gang) : (e.setGang s f).deadCtx = s.deadCtx := rfl
@[simp] theorem Env.setGang_freeLists (e : Env) (s : State) (f : Gang → Gang) : (e.setGang s f).freeLists = s.freeLists := rfl
@[simp] theorem Env.setGang_bar0 (e : Env) (s : State) (f : Gang → Gang) : (e.setGang s f).bar0 = s.bar0 := rfl
@[simp] theorem Env.setGang_host (e : Env) (s : State) (f : Gang → Gang) : (e.setGang s f).host = s.host := rfl
@[simp] theorem Env.setGang_izsil (e : Env) (s : State) (f : Gang → Gang) : (e.setGang s f).izsil = s.izsil := rfl

@[simp] theorem State.updDie_phase (s : State) (d : Nat) (f : Die → Die) : (s.updDie d f).phase = s.phase := rfl
@[simp] theorem State.updDie_cur (s : State) (d : Nat) (f : Die → Die) : (s.updDie d f).cur = s.cur := rfl
@[simp] theorem State.updDie_tick (s : State) (d : Nat) (f : Die → Die) : (s.updDie d f).tick = s.tick := rfl
@[simp] theorem State.updDie_fresh (s : State) (d : Nat) (f : Die → Die) : (s.updDie d f).fresh = s.fresh := rfl
@[simp] theorem State.updDie_inputs (s : State) (d : Nat) (f : Die → Die) : (s.updDie d f).inputs = s.inputs := rfl
@[simp] theorem State.updDie_ioClk (s : State) (d : Nat) (f : Die → Die) : (s.updDie d f).ioClk = s.ioClk := rfl
@[simp] theorem State.updDie_gangs (s : State) (d : Nat) (f : Die → Die) : (s.updDie d f).gangs = s.gangs := rfl
@[simp] theorem State.updDie_saved (s : State) (d : Nat) (f : Die → Die) : (s.updDie d f).saved = s.saved := rfl
@[simp] theorem State.updDie_cmds (s : State) (d : Nat) (f : Die → Die) : (s.updDie d f).cmds = s.cmds := rfl
@[simp] theorem State.updDie_holds (s : State) (d : Nat) (f : Die → Die) : (s.updDie d f).holds = s.holds := rfl
@[simp] theorem State.updDie_handQ (s : State) (d : Nat) (f : Die → Die) : (s.updDie d f).handQ = s.handQ := rfl
@[simp] theorem State.updDie_mem (s : State) (d : Nat) (f : Die → Die) : (s.updDie d f).mem = s.mem := rfl
@[simp] theorem State.updDie_memPoison (s : State) (d : Nat) (f : Die → Die) : (s.updDie d f).memPoison = s.memPoison := rfl
@[simp] theorem State.updDie_hostBias (s : State) (d : Nat) (f : Die → Die) : (s.updDie d f).hostBias = s.hostBias := rfl
@[simp] theorem State.updDie_flips (s : State) (d : Nat) (f : Die → Die) : (s.updDie d f).flips = s.flips := rfl
@[simp] theorem State.updDie_outq (s : State) (d : Nat) (f : Die → Die) : (s.updDie d f).outq = s.outq := rfl
@[simp] theorem State.updDie_atoms (s : State) (d : Nat) (f : Die → Die) : (s.updDie d f).atoms = s.atoms := rfl
@[simp] theorem State.updDie_tlb (s : State) (d : Nat) (f : Die → Die) : (s.updDie d f).tlb = s.tlb := rfl
@[simp] theorem State.updDie_dir (s : State) (d : Nat) (f : Die → Die) : (s.updDie d f).dir = s.dir := rfl
@[simp] theorem State.updDie_l1 (s : State) (d : Nat) (f : Die → Die) : (s.updDie d f).l1 = s.l1 := rfl
@[simp] theorem State.updDie_l2 (s : State) (d : Nat) (f : Die → Die) : (s.updDie d f).l2 = s.l2 := rfl
@[simp] theorem State.updDie_tags (s : State) (d : Nat) (f : Die → Die) : (s.updDie d f).tags = s.tags := rfl
@[simp] theorem State.updDie_scs (s : State) (d : Nat) (f : Die → Die) : (s.updDie d f).scs = s.scs := rfl
@[simp] theorem State.updDie_issues (s : State) (d : Nat) (f : Die → Die) : (s.updDie d f).issues = s.issues := rfl
@[simp] theorem State.updDie_accepts (s : State) (d : Nat) (f : Die → Die) : (s.updDie d f).accepts = s.accepts := rfl
@[simp] theorem State.updDie_collapses (s : State) (d : Nat) (f : Die → Die) : (s.updDie d f).collapses = s.collapses := rfl
@[simp] theorem State.updDie_mail (s : State) (d : Nat) (f : Die → Die) : (s.updDie d f).mail = s.mail := rfl
@[simp] theorem State.updDie_routeV (s : State) (d : Nat) (f : Die → Die) : (s.updDie d f).routeV = s.routeV := rfl
@[simp] theorem State.updDie_fenced (s : State) (d : Nat) (f : Die → Die) : (s.updDie d f).fenced = s.fenced := rfl
@[simp] theorem State.updDie_waiters (s : State) (d : Nat) (f : Die → Die) : (s.updDie d f).waiters = s.waiters := rfl
@[simp] theorem State.updDie_heldPosts (s : State) (d : Nat) (f : Die → Die) : (s.updDie d f).heldPosts = s.heldPosts := rfl
@[simp] theorem State.updDie_grpMsgs (s : State) (d : Nat) (f : Die → Die) : (s.updDie d f).grpMsgs = s.grpMsgs := rfl
@[simp] theorem State.updDie_groups (s : State) (d : Nat) (f : Die → Die) : (s.updDie d f).groups = s.groups := rfl
@[simp] theorem State.updDie_links (s : State) (d : Nat) (f : Die → Die) : (s.updDie d f).links = s.links := rfl
@[simp] theorem State.updDie_sent (s : State) (d : Nat) (f : Die → Die) : (s.updDie d f).sent = s.sent := rfl
@[simp] theorem State.updDie_wire (s : State) (d : Nat) (f : Die → Die) : (s.updDie d f).wire = s.wire := rfl
@[simp] theorem State.updDie_listWork (s : State) (d : Nat) (f : Die → Die) : (s.updDie d f).listWork = s.listWork := rfl
@[simp] theorem State.updDie_filling (s : State) (d : Nat) (f : Die → Die) : (s.updDie d f).filling = s.filling := rfl
@[simp] theorem State.updDie_parked (s : State) (d : Nat) (f : Die → Die) : (s.updDie d f).parked = s.parked := rfl
@[simp] theorem State.updDie_appended (s : State) (d : Nat) (f : Die → Die) : (s.updDie d f).appended = s.appended := rfl
@[simp] theorem State.updDie_forming (s : State) (d : Nat) (f : Die → Die) : (s.updDie d f).forming = s.forming := rfl
@[simp] theorem State.updDie_ringRows (s : State) (d : Nat) (f : Die → Die) : (s.updDie d f).ringRows = s.ringRows := rfl
@[simp] theorem State.updDie_freed (s : State) (d : Nat) (f : Die → Die) : (s.updDie d f).freed = s.freed := rfl
@[simp] theorem State.updDie_ringNext (s : State) (d : Nat) (f : Die → Die) : (s.updDie d f).ringNext = s.ringNext := rfl
@[simp] theorem State.updDie_served (s : State) (d : Nat) (f : Die → Die) : (s.updDie d f).served = s.served := rfl
@[simp] theorem State.updDie_dlq (s : State) (d : Nat) (f : Die → Die) : (s.updDie d f).dlq = s.dlq := rfl
@[simp] theorem State.updDie_reading (s : State) (d : Nat) (f : Die → Die) : (s.updDie d f).reading = s.reading := rfl
@[simp] theorem State.updDie_lastVisit (s : State) (d : Nat) (f : Die → Die) : (s.updDie d f).lastVisit = s.lastVisit := rfl
@[simp] theorem State.updDie_grids (s : State) (d : Nat) (f : Die → Die) : (s.updDie d f).grids = s.grids := rfl
@[simp] theorem State.updDie_waitGangs (s : State) (d : Nat) (f : Die → Die) : (s.updDie d f).waitGangs = s.waitGangs := rfl
@[simp] theorem State.updDie_deadCtx (s : State) (d : Nat) (f : Die → Die) : (s.updDie d f).deadCtx = s.deadCtx := rfl
@[simp] theorem State.updDie_freeLists (s : State) (d : Nat) (f : Die → Die) : (s.updDie d f).freeLists = s.freeLists := rfl
@[simp] theorem State.updDie_bar0 (s : State) (d : Nat) (f : Die → Die) : (s.updDie d f).bar0 = s.bar0 := rfl
@[simp] theorem State.updDie_host (s : State) (d : Nat) (f : Die → Die) : (s.updDie d f).host = s.host := rfl
@[simp] theorem State.updDie_izsil (s : State) (d : Nat) (f : Die → Die) : (s.updDie d f).izsil = s.izsil := rfl

@[simp] theorem Env.addOut_phase (e : Env) (s : State) (o : Out) : (e.addOut s o).phase = s.phase := rfl
@[simp] theorem Env.addOut_cur (e : Env) (s : State) (o : Out) : (e.addOut s o).cur = s.cur := rfl
@[simp] theorem Env.addOut_tick (e : Env) (s : State) (o : Out) : (e.addOut s o).tick = s.tick := rfl
@[simp] theorem Env.addOut_fresh (e : Env) (s : State) (o : Out) : (e.addOut s o).fresh = s.fresh := rfl
@[simp] theorem Env.addOut_inputs (e : Env) (s : State) (o : Out) : (e.addOut s o).inputs = s.inputs := rfl
@[simp] theorem Env.addOut_dies (e : Env) (s : State) (o : Out) : (e.addOut s o).dies = s.dies := rfl
@[simp] theorem Env.addOut_ioClk (e : Env) (s : State) (o : Out) : (e.addOut s o).ioClk = s.ioClk := rfl
@[simp] theorem Env.addOut_saved (e : Env) (s : State) (o : Out) : (e.addOut s o).saved = s.saved := rfl
@[simp] theorem Env.addOut_cmds (e : Env) (s : State) (o : Out) : (e.addOut s o).cmds = s.cmds := rfl
@[simp] theorem Env.addOut_holds (e : Env) (s : State) (o : Out) : (e.addOut s o).holds = s.holds := rfl
@[simp] theorem Env.addOut_handQ (e : Env) (s : State) (o : Out) : (e.addOut s o).handQ = s.handQ := rfl
@[simp] theorem Env.addOut_mem (e : Env) (s : State) (o : Out) : (e.addOut s o).mem = s.mem := rfl
@[simp] theorem Env.addOut_memPoison (e : Env) (s : State) (o : Out) : (e.addOut s o).memPoison = s.memPoison := rfl
@[simp] theorem Env.addOut_hostBias (e : Env) (s : State) (o : Out) : (e.addOut s o).hostBias = s.hostBias := rfl
@[simp] theorem Env.addOut_flips (e : Env) (s : State) (o : Out) : (e.addOut s o).flips = s.flips := rfl
@[simp] theorem Env.addOut_outq (e : Env) (s : State) (o : Out) : (e.addOut s o).outq = s.outq := rfl
@[simp] theorem Env.addOut_atoms (e : Env) (s : State) (o : Out) : (e.addOut s o).atoms = s.atoms := rfl
@[simp] theorem Env.addOut_tlb (e : Env) (s : State) (o : Out) : (e.addOut s o).tlb = s.tlb := rfl
@[simp] theorem Env.addOut_dir (e : Env) (s : State) (o : Out) : (e.addOut s o).dir = s.dir := rfl
@[simp] theorem Env.addOut_l1 (e : Env) (s : State) (o : Out) : (e.addOut s o).l1 = s.l1 := rfl
@[simp] theorem Env.addOut_l2 (e : Env) (s : State) (o : Out) : (e.addOut s o).l2 = s.l2 := rfl
@[simp] theorem Env.addOut_tags (e : Env) (s : State) (o : Out) : (e.addOut s o).tags = s.tags := rfl
@[simp] theorem Env.addOut_scs (e : Env) (s : State) (o : Out) : (e.addOut s o).scs = s.scs := rfl
@[simp] theorem Env.addOut_issues (e : Env) (s : State) (o : Out) : (e.addOut s o).issues = s.issues := rfl
@[simp] theorem Env.addOut_accepts (e : Env) (s : State) (o : Out) : (e.addOut s o).accepts = s.accepts := rfl
@[simp] theorem Env.addOut_collapses (e : Env) (s : State) (o : Out) : (e.addOut s o).collapses = s.collapses := rfl
@[simp] theorem Env.addOut_mail (e : Env) (s : State) (o : Out) : (e.addOut s o).mail = s.mail := rfl
@[simp] theorem Env.addOut_routeV (e : Env) (s : State) (o : Out) : (e.addOut s o).routeV = s.routeV := rfl
@[simp] theorem Env.addOut_fenced (e : Env) (s : State) (o : Out) : (e.addOut s o).fenced = s.fenced := rfl
@[simp] theorem Env.addOut_waiters (e : Env) (s : State) (o : Out) : (e.addOut s o).waiters = s.waiters := rfl
@[simp] theorem Env.addOut_heldPosts (e : Env) (s : State) (o : Out) : (e.addOut s o).heldPosts = s.heldPosts := rfl
@[simp] theorem Env.addOut_grpMsgs (e : Env) (s : State) (o : Out) : (e.addOut s o).grpMsgs = s.grpMsgs := rfl
@[simp] theorem Env.addOut_groups (e : Env) (s : State) (o : Out) : (e.addOut s o).groups = s.groups := rfl
@[simp] theorem Env.addOut_links (e : Env) (s : State) (o : Out) : (e.addOut s o).links = s.links := rfl
@[simp] theorem Env.addOut_sent (e : Env) (s : State) (o : Out) : (e.addOut s o).sent = s.sent := rfl
@[simp] theorem Env.addOut_wire (e : Env) (s : State) (o : Out) : (e.addOut s o).wire = s.wire := rfl
@[simp] theorem Env.addOut_listWork (e : Env) (s : State) (o : Out) : (e.addOut s o).listWork = s.listWork := rfl
@[simp] theorem Env.addOut_filling (e : Env) (s : State) (o : Out) : (e.addOut s o).filling = s.filling := rfl
@[simp] theorem Env.addOut_parked (e : Env) (s : State) (o : Out) : (e.addOut s o).parked = s.parked := rfl
@[simp] theorem Env.addOut_appended (e : Env) (s : State) (o : Out) : (e.addOut s o).appended = s.appended := rfl
@[simp] theorem Env.addOut_forming (e : Env) (s : State) (o : Out) : (e.addOut s o).forming = s.forming := rfl
@[simp] theorem Env.addOut_ringRows (e : Env) (s : State) (o : Out) : (e.addOut s o).ringRows = s.ringRows := rfl
@[simp] theorem Env.addOut_freed (e : Env) (s : State) (o : Out) : (e.addOut s o).freed = s.freed := rfl
@[simp] theorem Env.addOut_ringNext (e : Env) (s : State) (o : Out) : (e.addOut s o).ringNext = s.ringNext := rfl
@[simp] theorem Env.addOut_served (e : Env) (s : State) (o : Out) : (e.addOut s o).served = s.served := rfl
@[simp] theorem Env.addOut_dlq (e : Env) (s : State) (o : Out) : (e.addOut s o).dlq = s.dlq := rfl
@[simp] theorem Env.addOut_reading (e : Env) (s : State) (o : Out) : (e.addOut s o).reading = s.reading := rfl
@[simp] theorem Env.addOut_lastVisit (e : Env) (s : State) (o : Out) : (e.addOut s o).lastVisit = s.lastVisit := rfl
@[simp] theorem Env.addOut_grids (e : Env) (s : State) (o : Out) : (e.addOut s o).grids = s.grids := rfl
@[simp] theorem Env.addOut_waitGangs (e : Env) (s : State) (o : Out) : (e.addOut s o).waitGangs = s.waitGangs := rfl
@[simp] theorem Env.addOut_deadCtx (e : Env) (s : State) (o : Out) : (e.addOut s o).deadCtx = s.deadCtx := rfl
@[simp] theorem Env.addOut_freeLists (e : Env) (s : State) (o : Out) : (e.addOut s o).freeLists = s.freeLists := rfl
@[simp] theorem Env.addOut_bar0 (e : Env) (s : State) (o : Out) : (e.addOut s o).bar0 = s.bar0 := rfl
@[simp] theorem Env.addOut_host (e : Env) (s : State) (o : Out) : (e.addOut s o).host = s.host := rfl
@[simp] theorem Env.addOut_izsil (e : Env) (s : State) (o : Out) : (e.addOut s o).izsil = s.izsil := rfl

@[simp] theorem Env.addFlags_phase (e : Env) (s : State) (f : BitVec 5) : (e.addFlags s f).phase = s.phase := rfl
@[simp] theorem Env.addFlags_cur (e : Env) (s : State) (f : BitVec 5) : (e.addFlags s f).cur = s.cur := rfl
@[simp] theorem Env.addFlags_tick (e : Env) (s : State) (f : BitVec 5) : (e.addFlags s f).tick = s.tick := rfl
@[simp] theorem Env.addFlags_fresh (e : Env) (s : State) (f : BitVec 5) : (e.addFlags s f).fresh = s.fresh := rfl
@[simp] theorem Env.addFlags_inputs (e : Env) (s : State) (f : BitVec 5) : (e.addFlags s f).inputs = s.inputs := rfl
@[simp] theorem Env.addFlags_dies (e : Env) (s : State) (f : BitVec 5) : (e.addFlags s f).dies = s.dies := rfl
@[simp] theorem Env.addFlags_ioClk (e : Env) (s : State) (f : BitVec 5) : (e.addFlags s f).ioClk = s.ioClk := rfl
@[simp] theorem Env.addFlags_saved (e : Env) (s : State) (f : BitVec 5) : (e.addFlags s f).saved = s.saved := rfl
@[simp] theorem Env.addFlags_cmds (e : Env) (s : State) (f : BitVec 5) : (e.addFlags s f).cmds = s.cmds := rfl
@[simp] theorem Env.addFlags_holds (e : Env) (s : State) (f : BitVec 5) : (e.addFlags s f).holds = s.holds := rfl
@[simp] theorem Env.addFlags_handQ (e : Env) (s : State) (f : BitVec 5) : (e.addFlags s f).handQ = s.handQ := rfl
@[simp] theorem Env.addFlags_mem (e : Env) (s : State) (f : BitVec 5) : (e.addFlags s f).mem = s.mem := rfl
@[simp] theorem Env.addFlags_memPoison (e : Env) (s : State) (f : BitVec 5) : (e.addFlags s f).memPoison = s.memPoison := rfl
@[simp] theorem Env.addFlags_hostBias (e : Env) (s : State) (f : BitVec 5) : (e.addFlags s f).hostBias = s.hostBias := rfl
@[simp] theorem Env.addFlags_flips (e : Env) (s : State) (f : BitVec 5) : (e.addFlags s f).flips = s.flips := rfl
@[simp] theorem Env.addFlags_outq (e : Env) (s : State) (f : BitVec 5) : (e.addFlags s f).outq = s.outq := rfl
@[simp] theorem Env.addFlags_atoms (e : Env) (s : State) (f : BitVec 5) : (e.addFlags s f).atoms = s.atoms := rfl
@[simp] theorem Env.addFlags_tlb (e : Env) (s : State) (f : BitVec 5) : (e.addFlags s f).tlb = s.tlb := rfl
@[simp] theorem Env.addFlags_dir (e : Env) (s : State) (f : BitVec 5) : (e.addFlags s f).dir = s.dir := rfl
@[simp] theorem Env.addFlags_l1 (e : Env) (s : State) (f : BitVec 5) : (e.addFlags s f).l1 = s.l1 := rfl
@[simp] theorem Env.addFlags_l2 (e : Env) (s : State) (f : BitVec 5) : (e.addFlags s f).l2 = s.l2 := rfl
@[simp] theorem Env.addFlags_tags (e : Env) (s : State) (f : BitVec 5) : (e.addFlags s f).tags = s.tags := rfl
@[simp] theorem Env.addFlags_scs (e : Env) (s : State) (f : BitVec 5) : (e.addFlags s f).scs = s.scs := rfl
@[simp] theorem Env.addFlags_issues (e : Env) (s : State) (f : BitVec 5) : (e.addFlags s f).issues = s.issues := rfl
@[simp] theorem Env.addFlags_accepts (e : Env) (s : State) (f : BitVec 5) : (e.addFlags s f).accepts = s.accepts := rfl
@[simp] theorem Env.addFlags_collapses (e : Env) (s : State) (f : BitVec 5) : (e.addFlags s f).collapses = s.collapses := rfl
@[simp] theorem Env.addFlags_mail (e : Env) (s : State) (f : BitVec 5) : (e.addFlags s f).mail = s.mail := rfl
@[simp] theorem Env.addFlags_routeV (e : Env) (s : State) (f : BitVec 5) : (e.addFlags s f).routeV = s.routeV := rfl
@[simp] theorem Env.addFlags_fenced (e : Env) (s : State) (f : BitVec 5) : (e.addFlags s f).fenced = s.fenced := rfl
@[simp] theorem Env.addFlags_waiters (e : Env) (s : State) (f : BitVec 5) : (e.addFlags s f).waiters = s.waiters := rfl
@[simp] theorem Env.addFlags_heldPosts (e : Env) (s : State) (f : BitVec 5) : (e.addFlags s f).heldPosts = s.heldPosts := rfl
@[simp] theorem Env.addFlags_grpMsgs (e : Env) (s : State) (f : BitVec 5) : (e.addFlags s f).grpMsgs = s.grpMsgs := rfl
@[simp] theorem Env.addFlags_groups (e : Env) (s : State) (f : BitVec 5) : (e.addFlags s f).groups = s.groups := rfl
@[simp] theorem Env.addFlags_links (e : Env) (s : State) (f : BitVec 5) : (e.addFlags s f).links = s.links := rfl
@[simp] theorem Env.addFlags_sent (e : Env) (s : State) (f : BitVec 5) : (e.addFlags s f).sent = s.sent := rfl
@[simp] theorem Env.addFlags_wire (e : Env) (s : State) (f : BitVec 5) : (e.addFlags s f).wire = s.wire := rfl
@[simp] theorem Env.addFlags_listWork (e : Env) (s : State) (f : BitVec 5) : (e.addFlags s f).listWork = s.listWork := rfl
@[simp] theorem Env.addFlags_filling (e : Env) (s : State) (f : BitVec 5) : (e.addFlags s f).filling = s.filling := rfl
@[simp] theorem Env.addFlags_parked (e : Env) (s : State) (f : BitVec 5) : (e.addFlags s f).parked = s.parked := rfl
@[simp] theorem Env.addFlags_appended (e : Env) (s : State) (f : BitVec 5) : (e.addFlags s f).appended = s.appended := rfl
@[simp] theorem Env.addFlags_forming (e : Env) (s : State) (f : BitVec 5) : (e.addFlags s f).forming = s.forming := rfl
@[simp] theorem Env.addFlags_ringRows (e : Env) (s : State) (f : BitVec 5) : (e.addFlags s f).ringRows = s.ringRows := rfl
@[simp] theorem Env.addFlags_freed (e : Env) (s : State) (f : BitVec 5) : (e.addFlags s f).freed = s.freed := rfl
@[simp] theorem Env.addFlags_ringNext (e : Env) (s : State) (f : BitVec 5) : (e.addFlags s f).ringNext = s.ringNext := rfl
@[simp] theorem Env.addFlags_served (e : Env) (s : State) (f : BitVec 5) : (e.addFlags s f).served = s.served := rfl
@[simp] theorem Env.addFlags_dlq (e : Env) (s : State) (f : BitVec 5) : (e.addFlags s f).dlq = s.dlq := rfl
@[simp] theorem Env.addFlags_reading (e : Env) (s : State) (f : BitVec 5) : (e.addFlags s f).reading = s.reading := rfl
@[simp] theorem Env.addFlags_lastVisit (e : Env) (s : State) (f : BitVec 5) : (e.addFlags s f).lastVisit = s.lastVisit := rfl
@[simp] theorem Env.addFlags_grids (e : Env) (s : State) (f : BitVec 5) : (e.addFlags s f).grids = s.grids := rfl
@[simp] theorem Env.addFlags_waitGangs (e : Env) (s : State) (f : BitVec 5) : (e.addFlags s f).waitGangs = s.waitGangs := rfl
@[simp] theorem Env.addFlags_deadCtx (e : Env) (s : State) (f : BitVec 5) : (e.addFlags s f).deadCtx = s.deadCtx := rfl
@[simp] theorem Env.addFlags_freeLists (e : Env) (s : State) (f : BitVec 5) : (e.addFlags s f).freeLists = s.freeLists := rfl
@[simp] theorem Env.addFlags_bar0 (e : Env) (s : State) (f : BitVec 5) : (e.addFlags s f).bar0 = s.bar0 := rfl
@[simp] theorem Env.addFlags_host (e : Env) (s : State) (f : BitVec 5) : (e.addFlags s f).host = s.host := rfl
@[simp] theorem Env.addFlags_izsil (e : Env) (s : State) (f : BitVec 5) : (e.addFlags s f).izsil = s.izsil := rfl

@[simp] theorem Env.pushHand_phase (e : Env) (s : State) (r : Nat) (m v : Hand) : (e.pushHand s r m v).phase = s.phase := rfl
@[simp] theorem Env.pushHand_cur (e : Env) (s : State) (r : Nat) (m v : Hand) : (e.pushHand s r m v).cur = s.cur := rfl
@[simp] theorem Env.pushHand_tick (e : Env) (s : State) (r : Nat) (m v : Hand) : (e.pushHand s r m v).tick = s.tick := rfl
@[simp] theorem Env.pushHand_fresh (e : Env) (s : State) (r : Nat) (m v : Hand) : (e.pushHand s r m v).fresh = s.fresh := rfl
@[simp] theorem Env.pushHand_inputs (e : Env) (s : State) (r : Nat) (m v : Hand) : (e.pushHand s r m v).inputs = s.inputs := rfl
@[simp] theorem Env.pushHand_dies (e : Env) (s : State) (r : Nat) (m v : Hand) : (e.pushHand s r m v).dies = s.dies := rfl
@[simp] theorem Env.pushHand_ioClk (e : Env) (s : State) (r : Nat) (m v : Hand) : (e.pushHand s r m v).ioClk = s.ioClk := rfl
@[simp] theorem Env.pushHand_gangs (e : Env) (s : State) (r : Nat) (m v : Hand) : (e.pushHand s r m v).gangs = s.gangs := rfl
@[simp] theorem Env.pushHand_saved (e : Env) (s : State) (r : Nat) (m v : Hand) : (e.pushHand s r m v).saved = s.saved := rfl
@[simp] theorem Env.pushHand_cmds (e : Env) (s : State) (r : Nat) (m v : Hand) : (e.pushHand s r m v).cmds = s.cmds := rfl
@[simp] theorem Env.pushHand_holds (e : Env) (s : State) (r : Nat) (m v : Hand) : (e.pushHand s r m v).holds = s.holds := rfl
@[simp] theorem Env.pushHand_mem (e : Env) (s : State) (r : Nat) (m v : Hand) : (e.pushHand s r m v).mem = s.mem := rfl
@[simp] theorem Env.pushHand_memPoison (e : Env) (s : State) (r : Nat) (m v : Hand) : (e.pushHand s r m v).memPoison = s.memPoison := rfl
@[simp] theorem Env.pushHand_hostBias (e : Env) (s : State) (r : Nat) (m v : Hand) : (e.pushHand s r m v).hostBias = s.hostBias := rfl
@[simp] theorem Env.pushHand_flips (e : Env) (s : State) (r : Nat) (m v : Hand) : (e.pushHand s r m v).flips = s.flips := rfl
@[simp] theorem Env.pushHand_outq (e : Env) (s : State) (r : Nat) (m v : Hand) : (e.pushHand s r m v).outq = s.outq := rfl
@[simp] theorem Env.pushHand_atoms (e : Env) (s : State) (r : Nat) (m v : Hand) : (e.pushHand s r m v).atoms = s.atoms := rfl
@[simp] theorem Env.pushHand_tlb (e : Env) (s : State) (r : Nat) (m v : Hand) : (e.pushHand s r m v).tlb = s.tlb := rfl
@[simp] theorem Env.pushHand_dir (e : Env) (s : State) (r : Nat) (m v : Hand) : (e.pushHand s r m v).dir = s.dir := rfl
@[simp] theorem Env.pushHand_l1 (e : Env) (s : State) (r : Nat) (m v : Hand) : (e.pushHand s r m v).l1 = s.l1 := rfl
@[simp] theorem Env.pushHand_l2 (e : Env) (s : State) (r : Nat) (m v : Hand) : (e.pushHand s r m v).l2 = s.l2 := rfl
@[simp] theorem Env.pushHand_tags (e : Env) (s : State) (r : Nat) (m v : Hand) : (e.pushHand s r m v).tags = s.tags := rfl
@[simp] theorem Env.pushHand_scs (e : Env) (s : State) (r : Nat) (m v : Hand) : (e.pushHand s r m v).scs = s.scs := rfl
@[simp] theorem Env.pushHand_issues (e : Env) (s : State) (r : Nat) (m v : Hand) : (e.pushHand s r m v).issues = s.issues := rfl
@[simp] theorem Env.pushHand_accepts (e : Env) (s : State) (r : Nat) (m v : Hand) : (e.pushHand s r m v).accepts = s.accepts := rfl
@[simp] theorem Env.pushHand_collapses (e : Env) (s : State) (r : Nat) (m v : Hand) : (e.pushHand s r m v).collapses = s.collapses := rfl
@[simp] theorem Env.pushHand_mail (e : Env) (s : State) (r : Nat) (m v : Hand) : (e.pushHand s r m v).mail = s.mail := rfl
@[simp] theorem Env.pushHand_routeV (e : Env) (s : State) (r : Nat) (m v : Hand) : (e.pushHand s r m v).routeV = s.routeV := rfl
@[simp] theorem Env.pushHand_fenced (e : Env) (s : State) (r : Nat) (m v : Hand) : (e.pushHand s r m v).fenced = s.fenced := rfl
@[simp] theorem Env.pushHand_waiters (e : Env) (s : State) (r : Nat) (m v : Hand) : (e.pushHand s r m v).waiters = s.waiters := rfl
@[simp] theorem Env.pushHand_heldPosts (e : Env) (s : State) (r : Nat) (m v : Hand) : (e.pushHand s r m v).heldPosts = s.heldPosts := rfl
@[simp] theorem Env.pushHand_grpMsgs (e : Env) (s : State) (r : Nat) (m v : Hand) : (e.pushHand s r m v).grpMsgs = s.grpMsgs := rfl
@[simp] theorem Env.pushHand_groups (e : Env) (s : State) (r : Nat) (m v : Hand) : (e.pushHand s r m v).groups = s.groups := rfl
@[simp] theorem Env.pushHand_links (e : Env) (s : State) (r : Nat) (m v : Hand) : (e.pushHand s r m v).links = s.links := rfl
@[simp] theorem Env.pushHand_sent (e : Env) (s : State) (r : Nat) (m v : Hand) : (e.pushHand s r m v).sent = s.sent := rfl
@[simp] theorem Env.pushHand_wire (e : Env) (s : State) (r : Nat) (m v : Hand) : (e.pushHand s r m v).wire = s.wire := rfl
@[simp] theorem Env.pushHand_listWork (e : Env) (s : State) (r : Nat) (m v : Hand) : (e.pushHand s r m v).listWork = s.listWork := rfl
@[simp] theorem Env.pushHand_filling (e : Env) (s : State) (r : Nat) (m v : Hand) : (e.pushHand s r m v).filling = s.filling := rfl
@[simp] theorem Env.pushHand_parked (e : Env) (s : State) (r : Nat) (m v : Hand) : (e.pushHand s r m v).parked = s.parked := rfl
@[simp] theorem Env.pushHand_appended (e : Env) (s : State) (r : Nat) (m v : Hand) : (e.pushHand s r m v).appended = s.appended := rfl
@[simp] theorem Env.pushHand_forming (e : Env) (s : State) (r : Nat) (m v : Hand) : (e.pushHand s r m v).forming = s.forming := rfl
@[simp] theorem Env.pushHand_ringRows (e : Env) (s : State) (r : Nat) (m v : Hand) : (e.pushHand s r m v).ringRows = s.ringRows := rfl
@[simp] theorem Env.pushHand_freed (e : Env) (s : State) (r : Nat) (m v : Hand) : (e.pushHand s r m v).freed = s.freed := rfl
@[simp] theorem Env.pushHand_ringNext (e : Env) (s : State) (r : Nat) (m v : Hand) : (e.pushHand s r m v).ringNext = s.ringNext := rfl
@[simp] theorem Env.pushHand_served (e : Env) (s : State) (r : Nat) (m v : Hand) : (e.pushHand s r m v).served = s.served := rfl
@[simp] theorem Env.pushHand_dlq (e : Env) (s : State) (r : Nat) (m v : Hand) : (e.pushHand s r m v).dlq = s.dlq := rfl
@[simp] theorem Env.pushHand_reading (e : Env) (s : State) (r : Nat) (m v : Hand) : (e.pushHand s r m v).reading = s.reading := rfl
@[simp] theorem Env.pushHand_lastVisit (e : Env) (s : State) (r : Nat) (m v : Hand) : (e.pushHand s r m v).lastVisit = s.lastVisit := rfl
@[simp] theorem Env.pushHand_grids (e : Env) (s : State) (r : Nat) (m v : Hand) : (e.pushHand s r m v).grids = s.grids := rfl
@[simp] theorem Env.pushHand_waitGangs (e : Env) (s : State) (r : Nat) (m v : Hand) : (e.pushHand s r m v).waitGangs = s.waitGangs := rfl
@[simp] theorem Env.pushHand_deadCtx (e : Env) (s : State) (r : Nat) (m v : Hand) : (e.pushHand s r m v).deadCtx = s.deadCtx := rfl
@[simp] theorem Env.pushHand_freeLists (e : Env) (s : State) (r : Nat) (m v : Hand) : (e.pushHand s r m v).freeLists = s.freeLists := rfl
@[simp] theorem Env.pushHand_bar0 (e : Env) (s : State) (r : Nat) (m v : Hand) : (e.pushHand s r m v).bar0 = s.bar0 := rfl
@[simp] theorem Env.pushHand_host (e : Env) (s : State) (r : Nat) (m v : Hand) : (e.pushHand s r m v).host = s.host := rfl
@[simp] theorem Env.pushHand_izsil (e : Env) (s : State) (r : Nat) (m v : Hand) : (e.pushHand s r m v).izsil = s.izsil := rfl

@[simp] theorem Env.goOn_phase (e : Env) (s : State) (pc : Addr) : (e.goOn s pc).phase = s.phase := rfl
@[simp] theorem Env.goOn_cur (e : Env) (s : State) (pc : Addr) : (e.goOn s pc).cur = s.cur := rfl
@[simp] theorem Env.goOn_tick (e : Env) (s : State) (pc : Addr) : (e.goOn s pc).tick = s.tick := rfl
@[simp] theorem Env.goOn_fresh (e : Env) (s : State) (pc : Addr) : (e.goOn s pc).fresh = s.fresh := rfl
@[simp] theorem Env.goOn_inputs (e : Env) (s : State) (pc : Addr) : (e.goOn s pc).inputs = s.inputs := rfl
@[simp] theorem Env.goOn_dies (e : Env) (s : State) (pc : Addr) : (e.goOn s pc).dies = s.dies := rfl
@[simp] theorem Env.goOn_ioClk (e : Env) (s : State) (pc : Addr) : (e.goOn s pc).ioClk = s.ioClk := rfl
@[simp] theorem Env.goOn_saved (e : Env) (s : State) (pc : Addr) : (e.goOn s pc).saved = s.saved := rfl
@[simp] theorem Env.goOn_cmds (e : Env) (s : State) (pc : Addr) : (e.goOn s pc).cmds = s.cmds := rfl
@[simp] theorem Env.goOn_holds (e : Env) (s : State) (pc : Addr) : (e.goOn s pc).holds = s.holds := rfl
@[simp] theorem Env.goOn_handQ (e : Env) (s : State) (pc : Addr) : (e.goOn s pc).handQ = s.handQ := rfl
@[simp] theorem Env.goOn_mem (e : Env) (s : State) (pc : Addr) : (e.goOn s pc).mem = s.mem := rfl
@[simp] theorem Env.goOn_memPoison (e : Env) (s : State) (pc : Addr) : (e.goOn s pc).memPoison = s.memPoison := rfl
@[simp] theorem Env.goOn_hostBias (e : Env) (s : State) (pc : Addr) : (e.goOn s pc).hostBias = s.hostBias := rfl
@[simp] theorem Env.goOn_flips (e : Env) (s : State) (pc : Addr) : (e.goOn s pc).flips = s.flips := rfl
@[simp] theorem Env.goOn_outq (e : Env) (s : State) (pc : Addr) : (e.goOn s pc).outq = s.outq := rfl
@[simp] theorem Env.goOn_atoms (e : Env) (s : State) (pc : Addr) : (e.goOn s pc).atoms = s.atoms := rfl
@[simp] theorem Env.goOn_tlb (e : Env) (s : State) (pc : Addr) : (e.goOn s pc).tlb = s.tlb := rfl
@[simp] theorem Env.goOn_dir (e : Env) (s : State) (pc : Addr) : (e.goOn s pc).dir = s.dir := rfl
@[simp] theorem Env.goOn_l1 (e : Env) (s : State) (pc : Addr) : (e.goOn s pc).l1 = s.l1 := rfl
@[simp] theorem Env.goOn_l2 (e : Env) (s : State) (pc : Addr) : (e.goOn s pc).l2 = s.l2 := rfl
@[simp] theorem Env.goOn_tags (e : Env) (s : State) (pc : Addr) : (e.goOn s pc).tags = s.tags := rfl
@[simp] theorem Env.goOn_scs (e : Env) (s : State) (pc : Addr) : (e.goOn s pc).scs = s.scs := rfl
@[simp] theorem Env.goOn_issues (e : Env) (s : State) (pc : Addr) : (e.goOn s pc).issues = s.issues := rfl
@[simp] theorem Env.goOn_accepts (e : Env) (s : State) (pc : Addr) : (e.goOn s pc).accepts = s.accepts := rfl
@[simp] theorem Env.goOn_collapses (e : Env) (s : State) (pc : Addr) : (e.goOn s pc).collapses = s.collapses := rfl
@[simp] theorem Env.goOn_mail (e : Env) (s : State) (pc : Addr) : (e.goOn s pc).mail = s.mail := rfl
@[simp] theorem Env.goOn_routeV (e : Env) (s : State) (pc : Addr) : (e.goOn s pc).routeV = s.routeV := rfl
@[simp] theorem Env.goOn_fenced (e : Env) (s : State) (pc : Addr) : (e.goOn s pc).fenced = s.fenced := rfl
@[simp] theorem Env.goOn_waiters (e : Env) (s : State) (pc : Addr) : (e.goOn s pc).waiters = s.waiters := rfl
@[simp] theorem Env.goOn_heldPosts (e : Env) (s : State) (pc : Addr) : (e.goOn s pc).heldPosts = s.heldPosts := rfl
@[simp] theorem Env.goOn_grpMsgs (e : Env) (s : State) (pc : Addr) : (e.goOn s pc).grpMsgs = s.grpMsgs := rfl
@[simp] theorem Env.goOn_groups (e : Env) (s : State) (pc : Addr) : (e.goOn s pc).groups = s.groups := rfl
@[simp] theorem Env.goOn_links (e : Env) (s : State) (pc : Addr) : (e.goOn s pc).links = s.links := rfl
@[simp] theorem Env.goOn_sent (e : Env) (s : State) (pc : Addr) : (e.goOn s pc).sent = s.sent := rfl
@[simp] theorem Env.goOn_wire (e : Env) (s : State) (pc : Addr) : (e.goOn s pc).wire = s.wire := rfl
@[simp] theorem Env.goOn_listWork (e : Env) (s : State) (pc : Addr) : (e.goOn s pc).listWork = s.listWork := rfl
@[simp] theorem Env.goOn_filling (e : Env) (s : State) (pc : Addr) : (e.goOn s pc).filling = s.filling := rfl
@[simp] theorem Env.goOn_parked (e : Env) (s : State) (pc : Addr) : (e.goOn s pc).parked = s.parked := rfl
@[simp] theorem Env.goOn_appended (e : Env) (s : State) (pc : Addr) : (e.goOn s pc).appended = s.appended := rfl
@[simp] theorem Env.goOn_forming (e : Env) (s : State) (pc : Addr) : (e.goOn s pc).forming = s.forming := rfl
@[simp] theorem Env.goOn_ringRows (e : Env) (s : State) (pc : Addr) : (e.goOn s pc).ringRows = s.ringRows := rfl
@[simp] theorem Env.goOn_freed (e : Env) (s : State) (pc : Addr) : (e.goOn s pc).freed = s.freed := rfl
@[simp] theorem Env.goOn_ringNext (e : Env) (s : State) (pc : Addr) : (e.goOn s pc).ringNext = s.ringNext := rfl
@[simp] theorem Env.goOn_served (e : Env) (s : State) (pc : Addr) : (e.goOn s pc).served = s.served := rfl
@[simp] theorem Env.goOn_dlq (e : Env) (s : State) (pc : Addr) : (e.goOn s pc).dlq = s.dlq := rfl
@[simp] theorem Env.goOn_reading (e : Env) (s : State) (pc : Addr) : (e.goOn s pc).reading = s.reading := rfl
@[simp] theorem Env.goOn_lastVisit (e : Env) (s : State) (pc : Addr) : (e.goOn s pc).lastVisit = s.lastVisit := rfl
@[simp] theorem Env.goOn_grids (e : Env) (s : State) (pc : Addr) : (e.goOn s pc).grids = s.grids := rfl
@[simp] theorem Env.goOn_waitGangs (e : Env) (s : State) (pc : Addr) : (e.goOn s pc).waitGangs = s.waitGangs := rfl
@[simp] theorem Env.goOn_deadCtx (e : Env) (s : State) (pc : Addr) : (e.goOn s pc).deadCtx = s.deadCtx := rfl
@[simp] theorem Env.goOn_freeLists (e : Env) (s : State) (pc : Addr) : (e.goOn s pc).freeLists = s.freeLists := rfl
@[simp] theorem Env.goOn_bar0 (e : Env) (s : State) (pc : Addr) : (e.goOn s pc).bar0 = s.bar0 := rfl
@[simp] theorem Env.goOn_host (e : Env) (s : State) (pc : Addr) : (e.goOn s pc).host = s.host := rfl
@[simp] theorem Env.goOn_izsil (e : Env) (s : State) (pc : Addr) : (e.goOn s pc).izsil = s.izsil := rfl

@[simp] theorem Env.retire_phase (e : Env) (s : State) (i : Instr) (ws : List RegWrite) (f : BitVec 5) : (e.retire s i ws f).phase = s.phase := rfl
@[simp] theorem Env.retire_cur (e : Env) (s : State) (i : Instr) (ws : List RegWrite) (f : BitVec 5) : (e.retire s i ws f).cur = s.cur := rfl
@[simp] theorem Env.retire_tick (e : Env) (s : State) (i : Instr) (ws : List RegWrite) (f : BitVec 5) : (e.retire s i ws f).tick = s.tick := rfl
@[simp] theorem Env.retire_fresh (e : Env) (s : State) (i : Instr) (ws : List RegWrite) (f : BitVec 5) : (e.retire s i ws f).fresh = s.fresh := rfl
@[simp] theorem Env.retire_inputs (e : Env) (s : State) (i : Instr) (ws : List RegWrite) (f : BitVec 5) : (e.retire s i ws f).inputs = s.inputs := rfl
@[simp] theorem Env.retire_dies (e : Env) (s : State) (i : Instr) (ws : List RegWrite) (f : BitVec 5) : (e.retire s i ws f).dies = s.dies := rfl
@[simp] theorem Env.retire_ioClk (e : Env) (s : State) (i : Instr) (ws : List RegWrite) (f : BitVec 5) : (e.retire s i ws f).ioClk = s.ioClk := rfl
@[simp] theorem Env.retire_saved (e : Env) (s : State) (i : Instr) (ws : List RegWrite) (f : BitVec 5) : (e.retire s i ws f).saved = s.saved := rfl
@[simp] theorem Env.retire_cmds (e : Env) (s : State) (i : Instr) (ws : List RegWrite) (f : BitVec 5) : (e.retire s i ws f).cmds = s.cmds := rfl
@[simp] theorem Env.retire_holds (e : Env) (s : State) (i : Instr) (ws : List RegWrite) (f : BitVec 5) : (e.retire s i ws f).holds = s.holds := rfl
@[simp] theorem Env.retire_handQ (e : Env) (s : State) (i : Instr) (ws : List RegWrite) (f : BitVec 5) : (e.retire s i ws f).handQ = s.handQ := rfl
@[simp] theorem Env.retire_mem (e : Env) (s : State) (i : Instr) (ws : List RegWrite) (f : BitVec 5) : (e.retire s i ws f).mem = s.mem := rfl
@[simp] theorem Env.retire_memPoison (e : Env) (s : State) (i : Instr) (ws : List RegWrite) (f : BitVec 5) : (e.retire s i ws f).memPoison = s.memPoison := rfl
@[simp] theorem Env.retire_hostBias (e : Env) (s : State) (i : Instr) (ws : List RegWrite) (f : BitVec 5) : (e.retire s i ws f).hostBias = s.hostBias := rfl
@[simp] theorem Env.retire_flips (e : Env) (s : State) (i : Instr) (ws : List RegWrite) (f : BitVec 5) : (e.retire s i ws f).flips = s.flips := rfl
@[simp] theorem Env.retire_outq (e : Env) (s : State) (i : Instr) (ws : List RegWrite) (f : BitVec 5) : (e.retire s i ws f).outq = s.outq := rfl
@[simp] theorem Env.retire_atoms (e : Env) (s : State) (i : Instr) (ws : List RegWrite) (f : BitVec 5) : (e.retire s i ws f).atoms = s.atoms := rfl
@[simp] theorem Env.retire_tlb (e : Env) (s : State) (i : Instr) (ws : List RegWrite) (f : BitVec 5) : (e.retire s i ws f).tlb = s.tlb := rfl
@[simp] theorem Env.retire_dir (e : Env) (s : State) (i : Instr) (ws : List RegWrite) (f : BitVec 5) : (e.retire s i ws f).dir = s.dir := rfl
@[simp] theorem Env.retire_l1 (e : Env) (s : State) (i : Instr) (ws : List RegWrite) (f : BitVec 5) : (e.retire s i ws f).l1 = s.l1 := rfl
@[simp] theorem Env.retire_l2 (e : Env) (s : State) (i : Instr) (ws : List RegWrite) (f : BitVec 5) : (e.retire s i ws f).l2 = s.l2 := rfl
@[simp] theorem Env.retire_tags (e : Env) (s : State) (i : Instr) (ws : List RegWrite) (f : BitVec 5) : (e.retire s i ws f).tags = s.tags := rfl
@[simp] theorem Env.retire_scs (e : Env) (s : State) (i : Instr) (ws : List RegWrite) (f : BitVec 5) : (e.retire s i ws f).scs = s.scs := rfl
@[simp] theorem Env.retire_issues (e : Env) (s : State) (i : Instr) (ws : List RegWrite) (f : BitVec 5) : (e.retire s i ws f).issues = s.issues := rfl
@[simp] theorem Env.retire_accepts (e : Env) (s : State) (i : Instr) (ws : List RegWrite) (f : BitVec 5) : (e.retire s i ws f).accepts = s.accepts := rfl
@[simp] theorem Env.retire_collapses (e : Env) (s : State) (i : Instr) (ws : List RegWrite) (f : BitVec 5) : (e.retire s i ws f).collapses = s.collapses := rfl
@[simp] theorem Env.retire_mail (e : Env) (s : State) (i : Instr) (ws : List RegWrite) (f : BitVec 5) : (e.retire s i ws f).mail = s.mail := rfl
@[simp] theorem Env.retire_routeV (e : Env) (s : State) (i : Instr) (ws : List RegWrite) (f : BitVec 5) : (e.retire s i ws f).routeV = s.routeV := rfl
@[simp] theorem Env.retire_fenced (e : Env) (s : State) (i : Instr) (ws : List RegWrite) (f : BitVec 5) : (e.retire s i ws f).fenced = s.fenced := rfl
@[simp] theorem Env.retire_waiters (e : Env) (s : State) (i : Instr) (ws : List RegWrite) (f : BitVec 5) : (e.retire s i ws f).waiters = s.waiters := rfl
@[simp] theorem Env.retire_heldPosts (e : Env) (s : State) (i : Instr) (ws : List RegWrite) (f : BitVec 5) : (e.retire s i ws f).heldPosts = s.heldPosts := rfl
@[simp] theorem Env.retire_grpMsgs (e : Env) (s : State) (i : Instr) (ws : List RegWrite) (f : BitVec 5) : (e.retire s i ws f).grpMsgs = s.grpMsgs := rfl
@[simp] theorem Env.retire_groups (e : Env) (s : State) (i : Instr) (ws : List RegWrite) (f : BitVec 5) : (e.retire s i ws f).groups = s.groups := rfl
@[simp] theorem Env.retire_links (e : Env) (s : State) (i : Instr) (ws : List RegWrite) (f : BitVec 5) : (e.retire s i ws f).links = s.links := rfl
@[simp] theorem Env.retire_sent (e : Env) (s : State) (i : Instr) (ws : List RegWrite) (f : BitVec 5) : (e.retire s i ws f).sent = s.sent := rfl
@[simp] theorem Env.retire_wire (e : Env) (s : State) (i : Instr) (ws : List RegWrite) (f : BitVec 5) : (e.retire s i ws f).wire = s.wire := rfl
@[simp] theorem Env.retire_listWork (e : Env) (s : State) (i : Instr) (ws : List RegWrite) (f : BitVec 5) : (e.retire s i ws f).listWork = s.listWork := rfl
@[simp] theorem Env.retire_filling (e : Env) (s : State) (i : Instr) (ws : List RegWrite) (f : BitVec 5) : (e.retire s i ws f).filling = s.filling := rfl
@[simp] theorem Env.retire_parked (e : Env) (s : State) (i : Instr) (ws : List RegWrite) (f : BitVec 5) : (e.retire s i ws f).parked = s.parked := rfl
@[simp] theorem Env.retire_appended (e : Env) (s : State) (i : Instr) (ws : List RegWrite) (f : BitVec 5) : (e.retire s i ws f).appended = s.appended := rfl
@[simp] theorem Env.retire_forming (e : Env) (s : State) (i : Instr) (ws : List RegWrite) (f : BitVec 5) : (e.retire s i ws f).forming = s.forming := rfl
@[simp] theorem Env.retire_ringRows (e : Env) (s : State) (i : Instr) (ws : List RegWrite) (f : BitVec 5) : (e.retire s i ws f).ringRows = s.ringRows := rfl
@[simp] theorem Env.retire_freed (e : Env) (s : State) (i : Instr) (ws : List RegWrite) (f : BitVec 5) : (e.retire s i ws f).freed = s.freed := rfl
@[simp] theorem Env.retire_ringNext (e : Env) (s : State) (i : Instr) (ws : List RegWrite) (f : BitVec 5) : (e.retire s i ws f).ringNext = s.ringNext := rfl
@[simp] theorem Env.retire_served (e : Env) (s : State) (i : Instr) (ws : List RegWrite) (f : BitVec 5) : (e.retire s i ws f).served = s.served := rfl
@[simp] theorem Env.retire_dlq (e : Env) (s : State) (i : Instr) (ws : List RegWrite) (f : BitVec 5) : (e.retire s i ws f).dlq = s.dlq := rfl
@[simp] theorem Env.retire_reading (e : Env) (s : State) (i : Instr) (ws : List RegWrite) (f : BitVec 5) : (e.retire s i ws f).reading = s.reading := rfl
@[simp] theorem Env.retire_lastVisit (e : Env) (s : State) (i : Instr) (ws : List RegWrite) (f : BitVec 5) : (e.retire s i ws f).lastVisit = s.lastVisit := rfl
@[simp] theorem Env.retire_grids (e : Env) (s : State) (i : Instr) (ws : List RegWrite) (f : BitVec 5) : (e.retire s i ws f).grids = s.grids := rfl
@[simp] theorem Env.retire_waitGangs (e : Env) (s : State) (i : Instr) (ws : List RegWrite) (f : BitVec 5) : (e.retire s i ws f).waitGangs = s.waitGangs := rfl
@[simp] theorem Env.retire_deadCtx (e : Env) (s : State) (i : Instr) (ws : List RegWrite) (f : BitVec 5) : (e.retire s i ws f).deadCtx = s.deadCtx := rfl
@[simp] theorem Env.retire_freeLists (e : Env) (s : State) (i : Instr) (ws : List RegWrite) (f : BitVec 5) : (e.retire s i ws f).freeLists = s.freeLists := rfl
@[simp] theorem Env.retire_bar0 (e : Env) (s : State) (i : Instr) (ws : List RegWrite) (f : BitVec 5) : (e.retire s i ws f).bar0 = s.bar0 := rfl
@[simp] theorem Env.retire_host (e : Env) (s : State) (i : Instr) (ws : List RegWrite) (f : BitVec 5) : (e.retire s i ws f).host = s.host := rfl
@[simp] theorem Env.retire_izsil (e : Env) (s : State) (i : Instr) (ws : List RegWrite) (f : BitVec 5) : (e.retire s i ws f).izsil = s.izsil := rfl

@[simp] theorem dropHold_phase (s : State) (h : Holder) : (dropHold s h).phase = s.phase := rfl
@[simp] theorem dropHold_cur (s : State) (h : Holder) : (dropHold s h).cur = s.cur := rfl
@[simp] theorem dropHold_tick (s : State) (h : Holder) : (dropHold s h).tick = s.tick := rfl
@[simp] theorem dropHold_fresh (s : State) (h : Holder) : (dropHold s h).fresh = s.fresh := rfl
@[simp] theorem dropHold_inputs (s : State) (h : Holder) : (dropHold s h).inputs = s.inputs := rfl
@[simp] theorem dropHold_dies (s : State) (h : Holder) : (dropHold s h).dies = s.dies := rfl
@[simp] theorem dropHold_ioClk (s : State) (h : Holder) : (dropHold s h).ioClk = s.ioClk := rfl
@[simp] theorem dropHold_gangs (s : State) (h : Holder) : (dropHold s h).gangs = s.gangs := rfl
@[simp] theorem dropHold_saved (s : State) (h : Holder) : (dropHold s h).saved = s.saved := rfl
@[simp] theorem dropHold_cmds (s : State) (h : Holder) : (dropHold s h).cmds = s.cmds := rfl
@[simp] theorem dropHold_handQ (s : State) (h : Holder) : (dropHold s h).handQ = s.handQ := rfl
@[simp] theorem dropHold_mem (s : State) (h : Holder) : (dropHold s h).mem = s.mem := rfl
@[simp] theorem dropHold_memPoison (s : State) (h : Holder) : (dropHold s h).memPoison = s.memPoison := rfl
@[simp] theorem dropHold_hostBias (s : State) (h : Holder) : (dropHold s h).hostBias = s.hostBias := rfl
@[simp] theorem dropHold_flips (s : State) (h : Holder) : (dropHold s h).flips = s.flips := rfl
@[simp] theorem dropHold_outq (s : State) (h : Holder) : (dropHold s h).outq = s.outq := rfl
@[simp] theorem dropHold_atoms (s : State) (h : Holder) : (dropHold s h).atoms = s.atoms := rfl
@[simp] theorem dropHold_tlb (s : State) (h : Holder) : (dropHold s h).tlb = s.tlb := rfl
@[simp] theorem dropHold_dir (s : State) (h : Holder) : (dropHold s h).dir = s.dir := rfl
@[simp] theorem dropHold_l1 (s : State) (h : Holder) : (dropHold s h).l1 = s.l1 := rfl
@[simp] theorem dropHold_l2 (s : State) (h : Holder) : (dropHold s h).l2 = s.l2 := rfl
@[simp] theorem dropHold_tags (s : State) (h : Holder) : (dropHold s h).tags = s.tags := rfl
@[simp] theorem dropHold_scs (s : State) (h : Holder) : (dropHold s h).scs = s.scs := rfl
@[simp] theorem dropHold_issues (s : State) (h : Holder) : (dropHold s h).issues = s.issues := rfl
@[simp] theorem dropHold_accepts (s : State) (h : Holder) : (dropHold s h).accepts = s.accepts := rfl
@[simp] theorem dropHold_collapses (s : State) (h : Holder) : (dropHold s h).collapses = s.collapses := rfl
@[simp] theorem dropHold_mail (s : State) (h : Holder) : (dropHold s h).mail = s.mail := rfl
@[simp] theorem dropHold_routeV (s : State) (h : Holder) : (dropHold s h).routeV = s.routeV := rfl
@[simp] theorem dropHold_fenced (s : State) (h : Holder) : (dropHold s h).fenced = s.fenced := rfl
@[simp] theorem dropHold_waiters (s : State) (h : Holder) : (dropHold s h).waiters = s.waiters := rfl
@[simp] theorem dropHold_heldPosts (s : State) (h : Holder) : (dropHold s h).heldPosts = s.heldPosts := rfl
@[simp] theorem dropHold_grpMsgs (s : State) (h : Holder) : (dropHold s h).grpMsgs = s.grpMsgs := rfl
@[simp] theorem dropHold_groups (s : State) (h : Holder) : (dropHold s h).groups = s.groups := rfl
@[simp] theorem dropHold_links (s : State) (h : Holder) : (dropHold s h).links = s.links := rfl
@[simp] theorem dropHold_sent (s : State) (h : Holder) : (dropHold s h).sent = s.sent := rfl
@[simp] theorem dropHold_wire (s : State) (h : Holder) : (dropHold s h).wire = s.wire := rfl
@[simp] theorem dropHold_listWork (s : State) (h : Holder) : (dropHold s h).listWork = s.listWork := rfl
@[simp] theorem dropHold_filling (s : State) (h : Holder) : (dropHold s h).filling = s.filling := rfl
@[simp] theorem dropHold_parked (s : State) (h : Holder) : (dropHold s h).parked = s.parked := rfl
@[simp] theorem dropHold_appended (s : State) (h : Holder) : (dropHold s h).appended = s.appended := rfl
@[simp] theorem dropHold_forming (s : State) (h : Holder) : (dropHold s h).forming = s.forming := rfl
@[simp] theorem dropHold_ringRows (s : State) (h : Holder) : (dropHold s h).ringRows = s.ringRows := rfl
@[simp] theorem dropHold_freed (s : State) (h : Holder) : (dropHold s h).freed = s.freed := rfl
@[simp] theorem dropHold_ringNext (s : State) (h : Holder) : (dropHold s h).ringNext = s.ringNext := rfl
@[simp] theorem dropHold_served (s : State) (h : Holder) : (dropHold s h).served = s.served := rfl
@[simp] theorem dropHold_dlq (s : State) (h : Holder) : (dropHold s h).dlq = s.dlq := rfl
@[simp] theorem dropHold_reading (s : State) (h : Holder) : (dropHold s h).reading = s.reading := rfl
@[simp] theorem dropHold_lastVisit (s : State) (h : Holder) : (dropHold s h).lastVisit = s.lastVisit := rfl
@[simp] theorem dropHold_grids (s : State) (h : Holder) : (dropHold s h).grids = s.grids := rfl
@[simp] theorem dropHold_waitGangs (s : State) (h : Holder) : (dropHold s h).waitGangs = s.waitGangs := rfl
@[simp] theorem dropHold_deadCtx (s : State) (h : Holder) : (dropHold s h).deadCtx = s.deadCtx := rfl
@[simp] theorem dropHold_freeLists (s : State) (h : Holder) : (dropHold s h).freeLists = s.freeLists := rfl
@[simp] theorem dropHold_bar0 (s : State) (h : Holder) : (dropHold s h).bar0 = s.bar0 := rfl
@[simp] theorem dropHold_host (s : State) (h : Holder) : (dropHold s h).host = s.host := rfl
@[simp] theorem dropHold_izsil (s : State) (h : Holder) : (dropHold s h).izsil = s.izsil := rfl

@[simp] theorem logEvent_phase (s : State) (ev : Ev) (d : List Nat) : (logEvent s ev d).phase = s.phase := by unfold logEvent; rfl
@[simp] theorem logEvent_cur (s : State) (ev : Ev) (d : List Nat) : (logEvent s ev d).cur = s.cur := by unfold logEvent; rfl
@[simp] theorem logEvent_tick (s : State) (ev : Ev) (d : List Nat) : (logEvent s ev d).tick = s.tick := by unfold logEvent; rfl
@[simp] theorem logEvent_fresh (s : State) (ev : Ev) (d : List Nat) : (logEvent s ev d).fresh = s.fresh := by unfold logEvent; rfl
@[simp] theorem logEvent_inputs (s : State) (ev : Ev) (d : List Nat) : (logEvent s ev d).inputs = s.inputs := by unfold logEvent; rfl
@[simp] theorem logEvent_dies (s : State) (ev : Ev) (d : List Nat) : (logEvent s ev d).dies = s.dies := by unfold logEvent; rfl
@[simp] theorem logEvent_ioClk (s : State) (ev : Ev) (d : List Nat) : (logEvent s ev d).ioClk = s.ioClk := by unfold logEvent; rfl
@[simp] theorem logEvent_gangs (s : State) (ev : Ev) (d : List Nat) : (logEvent s ev d).gangs = s.gangs := by unfold logEvent; rfl
@[simp] theorem logEvent_saved (s : State) (ev : Ev) (d : List Nat) : (logEvent s ev d).saved = s.saved := by unfold logEvent; rfl
@[simp] theorem logEvent_cmds (s : State) (ev : Ev) (d : List Nat) : (logEvent s ev d).cmds = s.cmds := by unfold logEvent; rfl
@[simp] theorem logEvent_holds (s : State) (ev : Ev) (d : List Nat) : (logEvent s ev d).holds = s.holds := by unfold logEvent; rfl
@[simp] theorem logEvent_handQ (s : State) (ev : Ev) (d : List Nat) : (logEvent s ev d).handQ = s.handQ := by unfold logEvent; rfl
@[simp] theorem logEvent_mem (s : State) (ev : Ev) (d : List Nat) : (logEvent s ev d).mem = s.mem := by unfold logEvent; rfl
@[simp] theorem logEvent_memPoison (s : State) (ev : Ev) (d : List Nat) : (logEvent s ev d).memPoison = s.memPoison := by unfold logEvent; rfl
@[simp] theorem logEvent_hostBias (s : State) (ev : Ev) (d : List Nat) : (logEvent s ev d).hostBias = s.hostBias := by unfold logEvent; rfl
@[simp] theorem logEvent_flips (s : State) (ev : Ev) (d : List Nat) : (logEvent s ev d).flips = s.flips := by unfold logEvent; rfl
@[simp] theorem logEvent_outq (s : State) (ev : Ev) (d : List Nat) : (logEvent s ev d).outq = s.outq := by unfold logEvent; rfl
@[simp] theorem logEvent_atoms (s : State) (ev : Ev) (d : List Nat) : (logEvent s ev d).atoms = s.atoms := by unfold logEvent; rfl
@[simp] theorem logEvent_tlb (s : State) (ev : Ev) (d : List Nat) : (logEvent s ev d).tlb = s.tlb := by unfold logEvent; rfl
@[simp] theorem logEvent_dir (s : State) (ev : Ev) (d : List Nat) : (logEvent s ev d).dir = s.dir := by unfold logEvent; rfl
@[simp] theorem logEvent_l1 (s : State) (ev : Ev) (d : List Nat) : (logEvent s ev d).l1 = s.l1 := by unfold logEvent; rfl
@[simp] theorem logEvent_l2 (s : State) (ev : Ev) (d : List Nat) : (logEvent s ev d).l2 = s.l2 := by unfold logEvent; rfl
@[simp] theorem logEvent_tags (s : State) (ev : Ev) (d : List Nat) : (logEvent s ev d).tags = s.tags := by unfold logEvent; rfl
@[simp] theorem logEvent_scs (s : State) (ev : Ev) (d : List Nat) : (logEvent s ev d).scs = s.scs := by unfold logEvent; rfl
@[simp] theorem logEvent_issues (s : State) (ev : Ev) (d : List Nat) : (logEvent s ev d).issues = s.issues := by unfold logEvent; rfl
@[simp] theorem logEvent_accepts (s : State) (ev : Ev) (d : List Nat) : (logEvent s ev d).accepts = s.accepts := by unfold logEvent; rfl
@[simp] theorem logEvent_collapses (s : State) (ev : Ev) (d : List Nat) : (logEvent s ev d).collapses = s.collapses := by unfold logEvent; rfl
@[simp] theorem logEvent_mail (s : State) (ev : Ev) (d : List Nat) : (logEvent s ev d).mail = s.mail := by unfold logEvent; rfl
@[simp] theorem logEvent_routeV (s : State) (ev : Ev) (d : List Nat) : (logEvent s ev d).routeV = s.routeV := by unfold logEvent; rfl
@[simp] theorem logEvent_fenced (s : State) (ev : Ev) (d : List Nat) : (logEvent s ev d).fenced = s.fenced := by unfold logEvent; rfl
@[simp] theorem logEvent_waiters (s : State) (ev : Ev) (d : List Nat) : (logEvent s ev d).waiters = s.waiters := by unfold logEvent; rfl
@[simp] theorem logEvent_heldPosts (s : State) (ev : Ev) (d : List Nat) : (logEvent s ev d).heldPosts = s.heldPosts := by unfold logEvent; rfl
@[simp] theorem logEvent_grpMsgs (s : State) (ev : Ev) (d : List Nat) : (logEvent s ev d).grpMsgs = s.grpMsgs := by unfold logEvent; rfl
@[simp] theorem logEvent_groups (s : State) (ev : Ev) (d : List Nat) : (logEvent s ev d).groups = s.groups := by unfold logEvent; rfl
@[simp] theorem logEvent_links (s : State) (ev : Ev) (d : List Nat) : (logEvent s ev d).links = s.links := by unfold logEvent; rfl
@[simp] theorem logEvent_sent (s : State) (ev : Ev) (d : List Nat) : (logEvent s ev d).sent = s.sent := by unfold logEvent; rfl
@[simp] theorem logEvent_wire (s : State) (ev : Ev) (d : List Nat) : (logEvent s ev d).wire = s.wire := by unfold logEvent; rfl
@[simp] theorem logEvent_listWork (s : State) (ev : Ev) (d : List Nat) : (logEvent s ev d).listWork = s.listWork := by unfold logEvent; rfl
@[simp] theorem logEvent_filling (s : State) (ev : Ev) (d : List Nat) : (logEvent s ev d).filling = s.filling := by unfold logEvent; rfl
@[simp] theorem logEvent_parked (s : State) (ev : Ev) (d : List Nat) : (logEvent s ev d).parked = s.parked := by unfold logEvent; rfl
@[simp] theorem logEvent_appended (s : State) (ev : Ev) (d : List Nat) : (logEvent s ev d).appended = s.appended := by unfold logEvent; rfl
@[simp] theorem logEvent_forming (s : State) (ev : Ev) (d : List Nat) : (logEvent s ev d).forming = s.forming := by unfold logEvent; rfl
@[simp] theorem logEvent_ringRows (s : State) (ev : Ev) (d : List Nat) : (logEvent s ev d).ringRows = s.ringRows := by unfold logEvent; rfl
@[simp] theorem logEvent_freed (s : State) (ev : Ev) (d : List Nat) : (logEvent s ev d).freed = s.freed := by unfold logEvent; rfl
@[simp] theorem logEvent_ringNext (s : State) (ev : Ev) (d : List Nat) : (logEvent s ev d).ringNext = s.ringNext := by unfold logEvent; rfl
@[simp] theorem logEvent_served (s : State) (ev : Ev) (d : List Nat) : (logEvent s ev d).served = s.served := by unfold logEvent; rfl
@[simp] theorem logEvent_dlq (s : State) (ev : Ev) (d : List Nat) : (logEvent s ev d).dlq = s.dlq := by unfold logEvent; rfl
@[simp] theorem logEvent_reading (s : State) (ev : Ev) (d : List Nat) : (logEvent s ev d).reading = s.reading := by unfold logEvent; rfl
@[simp] theorem logEvent_lastVisit (s : State) (ev : Ev) (d : List Nat) : (logEvent s ev d).lastVisit = s.lastVisit := by unfold logEvent; rfl
@[simp] theorem logEvent_grids (s : State) (ev : Ev) (d : List Nat) : (logEvent s ev d).grids = s.grids := by unfold logEvent; rfl
@[simp] theorem logEvent_waitGangs (s : State) (ev : Ev) (d : List Nat) : (logEvent s ev d).waitGangs = s.waitGangs := by unfold logEvent; rfl
@[simp] theorem logEvent_deadCtx (s : State) (ev : Ev) (d : List Nat) : (logEvent s ev d).deadCtx = s.deadCtx := by unfold logEvent; rfl
@[simp] theorem logEvent_freeLists (s : State) (ev : Ev) (d : List Nat) : (logEvent s ev d).freeLists = s.freeLists := by unfold logEvent; rfl
@[simp] theorem logEvent_bar0 (s : State) (ev : Ev) (d : List Nat) : (logEvent s ev d).bar0 = s.bar0 := by unfold logEvent; rfl
@[simp] theorem logEvent_host (s : State) (ev : Ev) (d : List Nat) : (logEvent s ev d).host = s.host := by unfold logEvent; rfl

@[simp] theorem Env.hold_phase (e : Env) (s : State) : (e.hold s).phase = s.phase := rfl
@[simp] theorem Env.hold_cur (e : Env) (s : State) : (e.hold s).cur = s.cur := rfl
@[simp] theorem Env.hold_tick (e : Env) (s : State) : (e.hold s).tick = s.tick := rfl
@[simp] theorem Env.hold_fresh (e : Env) (s : State) : (e.hold s).fresh = s.fresh := rfl
@[simp] theorem Env.hold_inputs (e : Env) (s : State) : (e.hold s).inputs = s.inputs := rfl
@[simp] theorem Env.hold_dies (e : Env) (s : State) : (e.hold s).dies = s.dies := rfl
@[simp] theorem Env.hold_ioClk (e : Env) (s : State) : (e.hold s).ioClk = s.ioClk := rfl
@[simp] theorem Env.hold_saved (e : Env) (s : State) : (e.hold s).saved = s.saved := rfl
@[simp] theorem Env.hold_cmds (e : Env) (s : State) : (e.hold s).cmds = s.cmds := rfl
@[simp] theorem Env.hold_holds (e : Env) (s : State) : (e.hold s).holds = s.holds := rfl
@[simp] theorem Env.hold_handQ (e : Env) (s : State) : (e.hold s).handQ = s.handQ := rfl
@[simp] theorem Env.hold_mem (e : Env) (s : State) : (e.hold s).mem = s.mem := rfl
@[simp] theorem Env.hold_memPoison (e : Env) (s : State) : (e.hold s).memPoison = s.memPoison := rfl
@[simp] theorem Env.hold_hostBias (e : Env) (s : State) : (e.hold s).hostBias = s.hostBias := rfl
@[simp] theorem Env.hold_flips (e : Env) (s : State) : (e.hold s).flips = s.flips := rfl
@[simp] theorem Env.hold_outq (e : Env) (s : State) : (e.hold s).outq = s.outq := rfl
@[simp] theorem Env.hold_atoms (e : Env) (s : State) : (e.hold s).atoms = s.atoms := rfl
@[simp] theorem Env.hold_tlb (e : Env) (s : State) : (e.hold s).tlb = s.tlb := rfl
@[simp] theorem Env.hold_dir (e : Env) (s : State) : (e.hold s).dir = s.dir := rfl
@[simp] theorem Env.hold_l1 (e : Env) (s : State) : (e.hold s).l1 = s.l1 := rfl
@[simp] theorem Env.hold_l2 (e : Env) (s : State) : (e.hold s).l2 = s.l2 := rfl
@[simp] theorem Env.hold_tags (e : Env) (s : State) : (e.hold s).tags = s.tags := rfl
@[simp] theorem Env.hold_scs (e : Env) (s : State) : (e.hold s).scs = s.scs := rfl
@[simp] theorem Env.hold_issues (e : Env) (s : State) : (e.hold s).issues = s.issues := rfl
@[simp] theorem Env.hold_accepts (e : Env) (s : State) : (e.hold s).accepts = s.accepts := rfl
@[simp] theorem Env.hold_collapses (e : Env) (s : State) : (e.hold s).collapses = s.collapses := rfl
@[simp] theorem Env.hold_mail (e : Env) (s : State) : (e.hold s).mail = s.mail := rfl
@[simp] theorem Env.hold_routeV (e : Env) (s : State) : (e.hold s).routeV = s.routeV := rfl
@[simp] theorem Env.hold_fenced (e : Env) (s : State) : (e.hold s).fenced = s.fenced := rfl
@[simp] theorem Env.hold_waiters (e : Env) (s : State) : (e.hold s).waiters = s.waiters := rfl
@[simp] theorem Env.hold_heldPosts (e : Env) (s : State) : (e.hold s).heldPosts = s.heldPosts := rfl
@[simp] theorem Env.hold_grpMsgs (e : Env) (s : State) : (e.hold s).grpMsgs = s.grpMsgs := rfl
@[simp] theorem Env.hold_groups (e : Env) (s : State) : (e.hold s).groups = s.groups := rfl
@[simp] theorem Env.hold_links (e : Env) (s : State) : (e.hold s).links = s.links := rfl
@[simp] theorem Env.hold_sent (e : Env) (s : State) : (e.hold s).sent = s.sent := rfl
@[simp] theorem Env.hold_wire (e : Env) (s : State) : (e.hold s).wire = s.wire := rfl
@[simp] theorem Env.hold_listWork (e : Env) (s : State) : (e.hold s).listWork = s.listWork := rfl
@[simp] theorem Env.hold_filling (e : Env) (s : State) : (e.hold s).filling = s.filling := rfl
@[simp] theorem Env.hold_parked (e : Env) (s : State) : (e.hold s).parked = s.parked := rfl
@[simp] theorem Env.hold_appended (e : Env) (s : State) : (e.hold s).appended = s.appended := rfl
@[simp] theorem Env.hold_forming (e : Env) (s : State) : (e.hold s).forming = s.forming := rfl
@[simp] theorem Env.hold_ringRows (e : Env) (s : State) : (e.hold s).ringRows = s.ringRows := rfl
@[simp] theorem Env.hold_freed (e : Env) (s : State) : (e.hold s).freed = s.freed := rfl
@[simp] theorem Env.hold_ringNext (e : Env) (s : State) : (e.hold s).ringNext = s.ringNext := rfl
@[simp] theorem Env.hold_served (e : Env) (s : State) : (e.hold s).served = s.served := rfl
@[simp] theorem Env.hold_dlq (e : Env) (s : State) : (e.hold s).dlq = s.dlq := rfl
@[simp] theorem Env.hold_reading (e : Env) (s : State) : (e.hold s).reading = s.reading := rfl
@[simp] theorem Env.hold_lastVisit (e : Env) (s : State) : (e.hold s).lastVisit = s.lastVisit := rfl
@[simp] theorem Env.hold_grids (e : Env) (s : State) : (e.hold s).grids = s.grids := rfl
@[simp] theorem Env.hold_waitGangs (e : Env) (s : State) : (e.hold s).waitGangs = s.waitGangs := rfl
@[simp] theorem Env.hold_deadCtx (e : Env) (s : State) : (e.hold s).deadCtx = s.deadCtx := rfl
@[simp] theorem Env.hold_freeLists (e : Env) (s : State) : (e.hold s).freeLists = s.freeLists := rfl
@[simp] theorem Env.hold_bar0 (e : Env) (s : State) : (e.hold s).bar0 = s.bar0 := rfl
@[simp] theorem Env.hold_host (e : Env) (s : State) : (e.hold s).host = s.host := rfl
@[simp] theorem Env.hold_izsil (e : Env) (s : State) : (e.hold s).izsil = s.izsil := rfl

@[simp] theorem markDying_phase (s : State) (uid : Nat) : (markDying s uid).phase = s.phase := rfl
@[simp] theorem markDying_cur (s : State) (uid : Nat) : (markDying s uid).cur = s.cur := rfl
@[simp] theorem markDying_tick (s : State) (uid : Nat) : (markDying s uid).tick = s.tick := rfl
@[simp] theorem markDying_fresh (s : State) (uid : Nat) : (markDying s uid).fresh = s.fresh := rfl
@[simp] theorem markDying_inputs (s : State) (uid : Nat) : (markDying s uid).inputs = s.inputs := rfl
@[simp] theorem markDying_dies (s : State) (uid : Nat) : (markDying s uid).dies = s.dies := rfl
@[simp] theorem markDying_ioClk (s : State) (uid : Nat) : (markDying s uid).ioClk = s.ioClk := rfl
@[simp] theorem markDying_saved (s : State) (uid : Nat) : (markDying s uid).saved = s.saved := rfl
@[simp] theorem markDying_cmds (s : State) (uid : Nat) : (markDying s uid).cmds = s.cmds := rfl
@[simp] theorem markDying_holds (s : State) (uid : Nat) : (markDying s uid).holds = s.holds := rfl
@[simp] theorem markDying_handQ (s : State) (uid : Nat) : (markDying s uid).handQ = s.handQ := rfl
@[simp] theorem markDying_mem (s : State) (uid : Nat) : (markDying s uid).mem = s.mem := rfl
@[simp] theorem markDying_memPoison (s : State) (uid : Nat) : (markDying s uid).memPoison = s.memPoison := rfl
@[simp] theorem markDying_hostBias (s : State) (uid : Nat) : (markDying s uid).hostBias = s.hostBias := rfl
@[simp] theorem markDying_flips (s : State) (uid : Nat) : (markDying s uid).flips = s.flips := rfl
@[simp] theorem markDying_outq (s : State) (uid : Nat) : (markDying s uid).outq = s.outq := rfl
@[simp] theorem markDying_atoms (s : State) (uid : Nat) : (markDying s uid).atoms = s.atoms := rfl
@[simp] theorem markDying_tlb (s : State) (uid : Nat) : (markDying s uid).tlb = s.tlb := rfl
@[simp] theorem markDying_dir (s : State) (uid : Nat) : (markDying s uid).dir = s.dir := rfl
@[simp] theorem markDying_l1 (s : State) (uid : Nat) : (markDying s uid).l1 = s.l1 := rfl
@[simp] theorem markDying_l2 (s : State) (uid : Nat) : (markDying s uid).l2 = s.l2 := rfl
@[simp] theorem markDying_tags (s : State) (uid : Nat) : (markDying s uid).tags = s.tags := rfl
@[simp] theorem markDying_scs (s : State) (uid : Nat) : (markDying s uid).scs = s.scs := rfl
@[simp] theorem markDying_issues (s : State) (uid : Nat) : (markDying s uid).issues = s.issues := rfl
@[simp] theorem markDying_accepts (s : State) (uid : Nat) : (markDying s uid).accepts = s.accepts := rfl
@[simp] theorem markDying_collapses (s : State) (uid : Nat) : (markDying s uid).collapses = s.collapses := rfl
@[simp] theorem markDying_mail (s : State) (uid : Nat) : (markDying s uid).mail = s.mail := rfl
@[simp] theorem markDying_routeV (s : State) (uid : Nat) : (markDying s uid).routeV = s.routeV := rfl
@[simp] theorem markDying_fenced (s : State) (uid : Nat) : (markDying s uid).fenced = s.fenced := rfl
@[simp] theorem markDying_waiters (s : State) (uid : Nat) : (markDying s uid).waiters = s.waiters := rfl
@[simp] theorem markDying_heldPosts (s : State) (uid : Nat) : (markDying s uid).heldPosts = s.heldPosts := rfl
@[simp] theorem markDying_grpMsgs (s : State) (uid : Nat) : (markDying s uid).grpMsgs = s.grpMsgs := rfl
@[simp] theorem markDying_groups (s : State) (uid : Nat) : (markDying s uid).groups = s.groups := rfl
@[simp] theorem markDying_links (s : State) (uid : Nat) : (markDying s uid).links = s.links := rfl
@[simp] theorem markDying_sent (s : State) (uid : Nat) : (markDying s uid).sent = s.sent := rfl
@[simp] theorem markDying_wire (s : State) (uid : Nat) : (markDying s uid).wire = s.wire := rfl
@[simp] theorem markDying_listWork (s : State) (uid : Nat) : (markDying s uid).listWork = s.listWork := rfl
@[simp] theorem markDying_filling (s : State) (uid : Nat) : (markDying s uid).filling = s.filling := rfl
@[simp] theorem markDying_parked (s : State) (uid : Nat) : (markDying s uid).parked = s.parked := rfl
@[simp] theorem markDying_appended (s : State) (uid : Nat) : (markDying s uid).appended = s.appended := rfl
@[simp] theorem markDying_forming (s : State) (uid : Nat) : (markDying s uid).forming = s.forming := rfl
@[simp] theorem markDying_ringRows (s : State) (uid : Nat) : (markDying s uid).ringRows = s.ringRows := rfl
@[simp] theorem markDying_freed (s : State) (uid : Nat) : (markDying s uid).freed = s.freed := rfl
@[simp] theorem markDying_ringNext (s : State) (uid : Nat) : (markDying s uid).ringNext = s.ringNext := rfl
@[simp] theorem markDying_served (s : State) (uid : Nat) : (markDying s uid).served = s.served := rfl
@[simp] theorem markDying_dlq (s : State) (uid : Nat) : (markDying s uid).dlq = s.dlq := rfl
@[simp] theorem markDying_reading (s : State) (uid : Nat) : (markDying s uid).reading = s.reading := rfl
@[simp] theorem markDying_lastVisit (s : State) (uid : Nat) : (markDying s uid).lastVisit = s.lastVisit := rfl
@[simp] theorem markDying_grids (s : State) (uid : Nat) : (markDying s uid).grids = s.grids := rfl
@[simp] theorem markDying_waitGangs (s : State) (uid : Nat) : (markDying s uid).waitGangs = s.waitGangs := rfl
@[simp] theorem markDying_deadCtx (s : State) (uid : Nat) : (markDying s uid).deadCtx = s.deadCtx := rfl
@[simp] theorem markDying_freeLists (s : State) (uid : Nat) : (markDying s uid).freeLists = s.freeLists := rfl
@[simp] theorem markDying_bar0 (s : State) (uid : Nat) : (markDying s uid).bar0 = s.bar0 := rfl
@[simp] theorem markDying_host (s : State) (uid : Nat) : (markDying s uid).host = s.host := rfl
@[simp] theorem markDying_izsil (s : State) (uid : Nat) : (markDying s uid).izsil = s.izsil := rfl

end Sys2Proof.Machine
end

