-- ==== Sys2Proof/Laws/Issue.lean ====
section
/-! SUPPORT. Updates of one agent compose; what the issue of an instruction does when it passes its checks, and at each
check that fails (R199). -/

namespace Sys2Proof.Machine

/-! ### Updates of an agent -/

theorem updWhere_updWhere {α : Type} (p : α → Bool) (f g : α → α) (l : List α) (h : ∀ a, p a = true → p (f a) = true) :
    updWhere p g (updWhere p f l) = updWhere p (fun a => g (f a)) l := by
  unfold updWhere
  rw [List.map_map]
  apply List.map_congr_left
  intro a _
  by_cases hp : p a = true
  · simp [hp, h a hp]
  · simp [hp]

theorem updWhere_id {α : Type} (p : α → Bool) (f : α → α) (l : List α) (h : ∀ a, p a = true → f a = a) : updWhere p f l = l := by
  unfold updWhere
  conv_rhs => rw [← List.map_id l]
  apply List.map_congr_left
  intro a _
  by_cases hp : p a = true
  · simp [hp, h a hp]
  · simp [hp]

theorem updWhere_congr {α : Type} (p : α → Bool) (f g : α → α) (l : List α) (h : ∀ a, p a = true → f a = g a) :
    updWhere p f l = updWhere p g l := by
  unfold updWhere
  apply List.map_congr_left
  intro a _
  by_cases hp : p a = true
  · simp [hp, h a hp]
  · simp [hp]

/-- Two updates of an agent are one. -/
theorem Env.set_set (e : Env) (s : State) (f g : Agent → Agent) (h : ∀ a, (f a).id = a.id) :
    e.set (e.set s f) g = e.set s fun a => g (f a) := by
  unfold Env.set State.updAgent State.updGang
  simp only [State.mk.injEq, true_and, and_true]
  rw [updWhere_updWhere]
  · apply updWhere_congr
    intro a _
    unfold Gang.updAgent
    simp only [Gang.mk.injEq, true_and, and_true]
    rw [updWhere_updWhere]
    intro b hb
    simpa [h b] using hb
  · intro a ha
    simpa [Gang.updAgent] using ha

/-- An update that changes nothing. -/
theorem Env.set_id (e : Env) (s : State) (f : Agent → Agent) (h : ∀ a, f a = a) : e.set s f = s := by
  unfold Env.set State.updAgent State.updGang
  rw [updWhere_id]
  intro g _
  unfold Gang.updAgent
  rw [updWhere_id]
  intro a _
  exact h a

/-- The end of an instruction with register results and flags. -/
theorem Env.goOn_result (e : Env) (s : State) (i : Instr) (ws : List RegWrite) (f : BitVec 5) :
    e.goOn (e.addOut (e.addFlags s f) { writes := ws }) (e.pcAfter i) = e.retire s i ws f := by
  unfold Env.goOn Env.addOut Env.addFlags Env.retire
  rw [Env.set_set, Env.set_set]
  · intro a; rfl
  · intro a; rfl

/-! ### Issue -/

/-- With debug events off, an instruction that is done goes on at its next address. -/
theorem advance_goOn (s : State) (e : Env) (h : Hdr) (pc : Addr) (hd : e.dbgOn = false) : advance s e h pc = e.goOn s pc := by
  unfold advance
  simp [hd, Env.goOn]

/-- What is left of `issue` when the agent may issue. -/
theorem issue_checks (h : Hdr) (s : State) (e : Env) (body : State → Env → Res)
    (h0 : h.full = false) (h1 : ((h.m.sw || h.always) && e.a.owed) = false)
    (h2 : (h.m.sp && e.a.prog == 0 && e.g.stop.isSome) = false)
    (h3 : (h.m.sp && e.a.prog == 0 && e.a.notice && e.a.depth == 0 && !e.a.isPack) = false)
    (hd : e.dbgOn = false) :
    issue h s e body =
      if h.illop || (h.priv && !e.g.ident) then takeTrap s e (e.trapAt h.words 1 ⟨cILLOP, 0, if h.own then some 1 else none⟩ 0)
      else if !h.ok then takeTrap s e (e.trapAt h.words 2 ⟨cILLENC, 0, if h.own then some 2 else none⟩ 0)
      else if !h.guards then e.goOn s (e.nextPc h)
      else if !roleOk h.role e.wg.role then takeTrap s e (e.trapAt h.words 3 ⟨cROLE, 0, none⟩ 0)
      else if !h.regs then takeTrap s e (e.trapAt h.words 4 ⟨cREGBOUND, 0, if h.own then some 3 else none⟩ 0)
      else finish s e h (body s e) := by
  unfold issue
  simp only [h0, h1, h2, h3, hd, Bool.false_and, Bool.or_self]
  simp only [Bool.false_eq_true, if_false, advance_goOn _ _ _ _ hd]

/-- The header of an extended form. -/
def extHdr (i : Instr) (x : Ext) (s : State) (e : Env) : Hdr :=
  { m := x.m, words := x.words, full := ((Instr.cmdClass i).map (e.full s)).getD false, always := Instr.waits i, priv := i.privileged,
    ok := i.wellFormed && Instr.apart i (e.opsOf i x), guards := e.guards x, role := (i.fields.getD {}).role, regs := e.regsOk (i.fields.getD {}) x (e.opsOf i x) }

theorem runExt_eq (i : Instr) (x : Ext) (s : State) (e : Env) (body : State → Env → Regs → Res) (h : s.env? = some e) :
    runExt i x s body = .next (issue (extHdr i x s e) s e fun s e => body s e (e.opsOf i x)) := by
  simp only [runExt, run, h, extHdr, Env.opsOf]

/-- An extended form that passes every check does what its body says. -/
theorem runExt_executes (i : Instr) (x : Ext) (s : State) (e : Env) (body : State → Env → Regs → Res)
    (hx : i.ext? = some x) (hm : i.marks = x.m) (hw : i.waitsAlways = Instr.waits i) (hv : i.vecRegs = none)
    (hb : boundsOk i e = e.regsOk (i.fields.getD {}) x (e.opsOf i x)) (H : Executes i s e) :
    runExt i x s body = .next (finish s e (extHdr i x s e) (body s e (e.opsOf i x))) := by
  rw [runExt_eq i x s e body H.env]
  have r := H.results
  have p := H.safe
  have pr := H.priv
  have g := H.guards
  have ro := H.role
  have bo := H.bounds
  simp only [resultsIn, passesSafePoint, hm, hw] at r p
  simp only [guardsOk, hx] at g
  simp only [rolesOk, hv] at ro
  rw [hb] at bo
  have e0 : (extHdr i x s e).full = false := by
    have f := H.room
    simp only [counterOk] at f
    simp only [extHdr]
    revert f; cases Instr.cmdClass i <;> simp
  rw [issue_checks _ _ _ _ e0]
  · have e1 : (extHdr i x s e).illop = false := rfl
    have e2 : ((extHdr i x s e).priv && !e.g.ident) = false := by
      simp only [privOk, extHdr] at pr ⊢
      revert pr; cases i.privileged <;> cases e.g.ident <;> simp
    have e3 : (extHdr i x s e).ok = true := by
      have f := H.form
      simp only [formOk, hx] at f
      exact f
    have e4 : (extHdr i x s e).guards = true := g
    have e5 : roleOk (extHdr i x s e).role e.wg.role = true := ro
    have e6 : (extHdr i x s e).regs = true := bo
    simp only [e1, e2, e3, e4, e5, e6, Bool.or_self, Bool.not_true, Bool.false_eq_true, if_false]
  · simp only [extHdr]
    revert r; cases x.m.sw <;> cases Instr.waits i <;> cases e.a.owed <;> simp
  · simp only [extHdr]
    revert p; cases x.m.sp <;> cases (e.a.prog == 0) <;> cases h : e.g.stop <;> simp
  · simp only [extHdr]
    revert p; cases x.m.sp <;> cases (e.a.prog == 0) <;> cases h : e.g.stop <;> cases e.a.notice <;> cases (e.a.depth == 0) <;> cases e.a.isPack <;> simp
  · exact H.debug

/-- A base form that passes every check does what its body says. -/
theorem run_executes (h : Env → Hdr) (i : Instr) (s : State) (e : Env) (body : State → Env → Res)
    (hx : i.ext? = none) (hf : (h e).full = false) (hm : (h e).m = i.marks) (ha : (h e).always = i.waitsAlways) (hi : (h e).illop = false) (hp : (h e).priv = false)
    (ho : (h e).ok = i.wellFormed) (hg : (h e).guards = true) (hr : roleOk (h e).role e.wg.role = rolesOk i e)
    (hb : (h e).regs = boundsOk i e) (H : Executes i s e) :
    run h s body = .next (finish s e (h e) (body s e)) := by
  have r := H.results
  have p := H.safe
  simp only [resultsIn, passesSafePoint] at r p
  have fo : i.wellFormed = true := by
    have f := H.form
    simpa only [formOk, hx, Bool.and_true] using f
  simp only [run, H.env]
  rw [issue_checks _ _ _ _ hf]
  · simp only [hi, hp, ho, hg, hr, hb, fo, H.role, H.bounds, Bool.false_and, Bool.or_self, Bool.not_true, Bool.false_eq_true, if_false]
  · rw [hm, ha]
    revert r; cases i.marks.sw <;> cases i.waitsAlways <;> cases e.a.owed <;> simp
  · rw [hm]
    revert p; cases i.marks.sp <;> cases (e.a.prog == 0) <;> cases h : e.g.stop <;> simp
  · rw [hm]
    revert p; cases i.marks.sp <;> cases (e.a.prog == 0) <;> cases h : e.g.stop <;> cases e.a.notice <;> cases (e.a.depth == 0) <;> cases e.a.isPack <;> simp
  · exact H.debug

/-- The ways an instruction's own effect ends, with debug events off. -/
theorem finish_done (s t : State) (e : Env) (h : Hdr) (hd : e.dbgOn = false) : finish s e h (.done t) = e.goOn t (e.nextPc h) :=
  advance_goOn t e h _ hd
theorem finish_jump (s t : State) (e : Env) (h : Hdr) (pc : Addr) (hd : e.dbgOn = false) : finish s e h (.jump t pc) = e.goOn t pc :=
  advance_goOn t e h pc hd
@[simp] theorem finish_stay (s t : State) (e : Env) (h : Hdr) : finish s e h (.stay t) = e.set t Agent.unwait := rfl
@[simp] theorem finish_gone (s t : State) (e : Env) (h : Hdr) : finish s e h (.gone t) = t := rfl
@[simp] theorem finish_page (s : State) (e : Env) (h : Hdr) (k : AccKind) (ps : List FaultPage) :
    finish s e h (.page k ps) = pageFault s e k ps := rfl

end Sys2Proof.Machine
end

