-- ==== Sys2Proof/Laws/Table.lean ====
section
/-! SUPPORT. Tables: a read after writes, the canonical form, and equal contents as equal data. -/

namespace Sys2Proof

variable {α : Type} [DecidableEq α] {d : α}

/-- Below the first key a canonical table reads the default. -/
theorem Table.look_lt (t : Table α) : ∀ {lo k : Nat}, Table.wfFrom d lo t = true → k < lo → Table.look d t k = d := by
  induction t with
  | nil => intros; rfl
  | cons p r ih =>
    intro lo k h hk
    simp only [Table.wfFrom, Bool.and_eq_true, decide_eq_true_eq] at h
    simp only [Table.look]
    rw [if_neg (by omega)]
    exact ih h.2 (by omega)

theorem Table.look_put_from (t : Table α) (k : Nat) (v : α) : ∀ lo, Table.wfFrom d lo t = true →
    Table.look d (Table.put d t k v) k = v := by
  induction t with
  | nil => intro lo _; by_cases hv : v = d <;> simp [Table.put, Table.look, hv]
  | cons p r ih =>
    obtain ⟨k', v'⟩ := p
    intro lo hl
    simp only [Table.wfFrom, Bool.and_eq_true, decide_eq_true_eq] at hl
    unfold Table.put
    split
    · split
      · rename_i hv
        simp only [Table.look]
        rw [if_neg (by omega), hv]
        exact Table.look_lt r hl.2 (by omega)
      · simp [Table.look]
    · split
      · split
        · rename_i hk hv
          rw [hv, hk]
          exact Table.look_lt r hl.2 (by omega)
        · simp [Table.look]
      · simp only [Table.look]
        rw [if_neg (by omega)]
        exact ih _ hl.2

/-- A read after a write to the same key gives the value written. -/
theorem Table.look_put (t : Table α) (k : Nat) (v : α) (h : Table.wf d t = true) : Table.look d (Table.put d t k v) k = v :=
  Table.look_put_from t k v 0 h

/-- A write leaves every other key alone. -/
theorem Table.look_put_ne (t : Table α) (k j : Nat) (v : α) (h : j ≠ k) : Table.look d (Table.put d t k v) j = Table.look d t j := by
  induction t with
  | nil => by_cases hv : v = d <;> simp [Table.put, Table.look, hv, h]
  | cons p r ih =>
    obtain ⟨k', v'⟩ := p
    unfold Table.put
    split
    · split <;> simp [Table.look, h]
    · split
      · rename_i hk
        split <;> simp [Table.look, hk ▸ h, h]
      · simp [Table.look, ih]

theorem Table.wfFrom_mono (t : Table α) : ∀ {a b : Nat}, a ≤ b → Table.wfFrom d b t = true → Table.wfFrom d a t = true := by
  cases t with
  | nil => intros; rfl
  | cons p r =>
    intro a b hab h
    simp only [Table.wfFrom, Bool.and_eq_true, decide_eq_true_eq] at h ⊢
    exact ⟨⟨by omega, h.1.2⟩, h.2⟩

theorem Table.wfFrom_put (t : Table α) : ∀ (lo k : Nat) (v : α), lo ≤ k → Table.wfFrom d lo t = true →
    Table.wfFrom d lo (Table.put d t k v) = true := by
  induction t with
  | nil =>
    intro lo k v hk _
    by_cases hv : v = d <;> simp [Table.put, Table.wfFrom, hv, hk]
  | cons p r ih =>
    obtain ⟨k', v'⟩ := p
    intro lo k v hk h
    have h0 := h
    simp only [Table.wfFrom, Bool.and_eq_true, decide_eq_true_eq] at h
    unfold Table.put
    split
    · rename_i hlt
      split
      · exact h0
      · rename_i hv
        simp only [Table.wfFrom, Bool.and_eq_true, decide_eq_true_eq]
        exact ⟨⟨hk, hv⟩, ⟨⟨by omega, h.1.2⟩, h.2⟩⟩
    · split
      · rename_i hk'
        subst hk'
        split
        · exact Table.wfFrom_mono r (by omega) h.2
        · rename_i hv
          simp only [Table.wfFrom, Bool.and_eq_true, decide_eq_true_eq]
          exact ⟨⟨hk, hv⟩, h.2⟩
      · simp only [Table.wfFrom, Bool.and_eq_true, decide_eq_true_eq]
        exact ⟨h.1, ih _ _ _ (by omega) h.2⟩

/-- A write keeps the canonical form. -/
theorem Table.wf_put (t : Table α) (k : Nat) (v : α) (h : Table.wf d t = true) : Table.wf d (Table.put d t k v) = true :=
  Table.wfFrom_put t 0 k v (Nat.zero_le _) h

/-- Writes keep the canonical form. -/
theorem Table.wf_putAll (t : Table α) (l : List (Nat × α)) (h : Table.wf d t = true) : Table.wf d (Table.putAll d t l) = true := by
  induction l generalizing t with
  | nil => exact h
  | cons p r ih => exact ih _ (Table.wf_put t p.1 p.2 h)

theorem Table.wfFrom_keep (t : Table α) (p : Nat → Bool) : ∀ lo, Table.wfFrom d lo t = true → Table.wfFrom d lo (Table.keep t p) = true := by
  induction t with
  | nil => intros; rfl
  | cons q r ih =>
    intro lo h
    simp only [Table.wfFrom, Bool.and_eq_true, decide_eq_true_eq] at h
    by_cases hq : p q.1 = true
    · have : Table.keep (q :: r) p = q :: Table.keep r p := by simp [Table.keep, hq]
      rw [this]
      simp only [Table.wfFrom, Bool.and_eq_true, decide_eq_true_eq]
      exact ⟨h.1, ih _ h.2⟩
    · have : Table.keep (q :: r) p = Table.keep r p := by simp [Table.keep, hq]
      rw [this]
      exact Table.wfFrom_mono _ (by omega) (ih _ h.2)

/-- Dropping entries keeps the canonical form. -/
theorem Table.wf_keep (t : Table α) (p : Nat → Bool) (h : Table.wf d t = true) : Table.wf d (Table.keep t p) = true :=
  Table.wfFrom_keep t p 0 h

/-- Keys that no write names read as before. -/
theorem Table.look_putAll_of_notMem (t : Table α) (l : List (Nat × α)) (k : Nat) (h : ∀ p ∈ l, p.1 ≠ k) :
    Table.look d (Table.putAll d t l) k = Table.look d t k := by
  induction l generalizing t with
  | nil => rfl
  | cons p r ih =>
    have h1 := h p (by simp)
    simp only [Table.putAll]
    rw [ih _ fun q hq => h q (List.mem_cons_of_mem _ hq)]
    exact Table.look_put_ne t p.1 k p.2 (Ne.symm h1)

end Sys2Proof
end

