-- ==== Sys2Proof/Laws/Memory.lean ====
section
/-! SUPPORT. Memory: every operation that writes it keeps its canonical form, and what a write at the homes leaves alone. -/

namespace Sys2Proof.Machine

theorem reset_mem_wf : Memory.wf State.reset.mem := rfl

/-- A property that each step of a fold keeps. -/
theorem foldl_keeps {α β : Type} (P : β → Prop) (f : β → α → β) (l : List α) (b : β) (h : ∀ b a, a ∈ l → P b → P (f b a)) (hb : P b) :
    P (l.foldl f b) := by
  induction l generalizing b with
  | nil => exact hb
  | cons a r ih => exact ih _ (fun b c hc => h b c (List.mem_cons_of_mem _ hc)) (h b a (by simp) hb)

/-- Bytes written at their homes: canonical form. -/
theorem putAll_mem_wf (m : Table Byte) (l : List (Nat × Byte)) (h : Memory.wf m) : Memory.wf (m.putAll memDefault l) :=
  Table.wf_putAll m l h

theorem supply_mem_wf (s : State) (line : Nat) (h : Memory.wf s.mem) : Memory.wf (supply s line).mem := by
  unfold supply
  split
  · exact h
  · simp only
    exact putAll_mem_wf _ _ h

@[simp] theorem dropWin_mem (s : State) (line : Nat) : (dropWin s line).mem = s.mem := rfl

theorem ownLine_mem_wf (s : State) (line : Nat) (h : Memory.wf s.mem) : Memory.wf (ownLine s line).mem := supply_mem_wf s line h

theorem ownWindow_mem_wf (s : State) (uid : Nat) (w : WLine) (h : Memory.wf s.mem) : Memory.wf (ownWindow s uid w).mem := by
  unfold ownWindow
  simp only
  split <;> split
  all_goals first | exact h | exact supply_mem_wf s _ h

theorem ownThrough_mem_wf (s : State) (uid osLine line : Nat) (h : Memory.wf s.mem) : Memory.wf (ownThrough s uid osLine line).mem := by
  unfold ownThrough
  split
  · exact ownWindow_mem_wf s uid _ h
  · exact ownLine_mem_wf s line h

/-! ### What leaves memory as it is -/

@[simp] theorem setTags_mem (s : State) (as : List Nat) (ms : List Need) : (setTags s as ms).mem = s.mem := by
  unfold setTags
  simp only []
  split <;> rfl

@[simp] theorem trackLine_mem (s : State) (cl line : Nat) (own : Bool) : (trackLine s cl line own).mem = s.mem := rfl

@[simp] theorem allocL2_mem (s : State) (line hint : Nat) : (allocL2 s line hint).mem = s.mem := by
  unfold allocL2
  split <;> rfl

@[simp] theorem allocL1_mem (s : State) (die core line hint : Nat) : (allocL1 s die core line hint).mem = s.mem := by
  unfold allocL1
  simp only []
  split <;> rfl

@[simp] theorem dropClean_mem (s : State) (die core : Nat) (ls : List Nat) : (dropClean s die core ls).mem = s.mem := by
  unfold dropClean
  rfl

/-- A fold of steps that leave memory as it is leaves it as it is. -/
theorem foldl_mem {α : Type} (f : State → α → State) (l : List α) (s : State) (h : ∀ s a, (f s a).mem = s.mem) : (l.foldl f s).mem = s.mem := by
  induction l generalizing s with
  | nil => rfl
  | cons a r ih => rw [List.foldl_cons, ih, h]

@[simp] theorem showPairs_mem (s : State) (l : List (Nat × Nat)) : (showPairs s l).mem = s.mem := by
  unfold showPairs
  rw [foldl_mem]
  intro s x
  split
  · exact dropClean_mem _ _ _ _
  · rfl

@[simp] theorem noteAgent_mem (s : State) (who : Who) (ids : List Nat) (ms : List Need) : (noteAgent s who ids ms).mem = s.mem := rfl

@[simp] theorem clearGroup_mem (s : State) (p : PendWrite) : (clearGroup s p).mem = s.mem := by
  unfold clearGroup
  split <;> rfl

/-! ### Writes at the homes -/

theorem applyHome_mem_wf (s : State) (bs : List (Nat × Byte)) (h : Memory.wf s.mem) : Memory.wf (applyHome s bs).mem := by
  unfold applyHome
  simp only [setTags_mem]
  exact putAll_mem_wf _ _ (foldl_keeps (fun s : State => Memory.wf s.mem) _ _ _ (fun s l _ hs => ownLine_mem_wf s l hs) h)

theorem winPut_mem_wf (s : State) (w : WinRef) (line : Nat) (bs : List (Nat × Byte)) (h : Memory.wf s.mem) :
    Memory.wf (winPut s w line bs).mem := by
  unfold winPut
  simp only [setTags_mem]
  exact ownThrough_mem_wf s w.gang w.line line h

@[simp] theorem holdL1_mem (s : State) (had : Bool) (die core line hint : Nat) : (holdL1 s had die core line hint).mem = s.mem := by
  unfold holdL1
  simp only
  split <;> split <;> simp

theorem performOne_mem_wf (s : State) (p : PendWrite) (h : Memory.wf s.mem) : Memory.wf (performOne s p).mem := by
  unfold performOne
  simp only [clearGroup_mem, setTags_mem]
  have hs : Memory.wf (if (p.need.filter fun m => (m.write? s).isSome).isEmpty then s else showPairs s (p.first s)).mem := by
    split
    · exact h
    · simpa using h
  generalize (if (p.need.filter fun m => (m.write? s).isSome).isEmpty then s else showPairs s (p.first s)) = s0 at hs ⊢
  split
  · split
    · simp only [trackLine_mem]
      exact winPut_mem_wf _ _ _ _ hs
    · exact applyHome_mem_wf _ _ hs
  · simp only [holdL1_mem, allocL2_mem]
    exact applyHome_mem_wf _ _ hs

theorem performSel_mem_wf (s : State) (sel : PendWrite → Bool) (h : Memory.wf s.mem) : Memory.wf (performSel s sel).mem := by
  unfold performSel
  refine foldl_keeps (fun a : State × List PendWrite => Memory.wf a.1.mem) _ _ _ (fun a p _ ha => ?_) h
  split
  · exact ha
  · split
    · exact ha
    · exact performOne_mem_wf _ _ ha

theorem unitPut_mem_wf (s : State) (bs : List (Nat × Byte)) (h : Memory.wf s.mem) : Memory.wf (unitPut s bs).mem :=
  applyHome_mem_wf _ _ (performSel_mem_wf _ _ h)

theorem evictLine_mem_wf (s : State) (line : Nat) (h : Memory.wf s.mem) : Memory.wf (evictLine s line).mem := ownLine_mem_wf s line h

theorem flushLine_mem_wf (s : State) (line : Nat) (h : Memory.wf s.mem) : Memory.wf (flushLine s line).mem := evictLine_mem_wf s line h

theorem hostPut_mem_wf (s : State) (bs : List (Nat × Byte)) (h : Memory.wf s.mem) : Memory.wf (hostPut s bs).mem :=
  unitPut_mem_wf _ _ (foldl_keeps (fun s : State => Memory.wf s.mem) _ _ _ (fun s l _ hs => flushLine_mem_wf s l hs) h)

theorem zeroFrame_mem_wf (s : State) (a n : Nat) (h : Memory.wf s.mem) : Memory.wf (zeroFrame s a n).mem := by
  unfold zeroFrame
  simp only
  exact Table.wf_keep _ _ (performSel_mem_wf _ _ h)

theorem resetModule_mem_wf (s : State) (h : Memory.wf s.mem) : Memory.wf (resetModule s).mem := by
  unfold resetModule
  simp only
  exact Table.wf_keep _ _ h

theorem addGang_mem (s : State) (g : Gang) : (addGang s g).mem = s.mem := rfl

theorem placeFaultGang_mem_wf (s : State) (d : Nat) (h : Memory.wf s.mem) : Memory.wf (placeFaultGang s d).mem := by
  unfold placeFaultGang
  simp only
  split
  · exact putAll_mem_wf _ _ h
  · exact putAll_mem_wf _ _ h

theorem writeCtx0_mem_wf (s : State) (h : Memory.wf s.mem) : Memory.wf (writeCtx0 s).mem := by
  unfold writeCtx0
  simp only
  exact putAll_mem_wf _ _ h

theorem withFetchWord_mem_wf (s : State) (nbits w : Nat) (h : Memory.wf s.mem) : Memory.wf (s.withFetchWord nbits w).mem := by
  unfold State.withFetchWord
  simp only
  split
  · exact h
  · simp only
    exact putAll_mem_wf _ _ h

/-- With no dirty window line anywhere, a write at the homes changes the bytes it names and no other. -/
theorem supply_clean (s : State) (line : Nat) (h : dirtyAt s line = none) : supply s line = s := by
  unfold supply
  rw [h]

end Sys2Proof.Machine
end

