-- ==== Sys2Proof/Laws/Ops.lean ====
section
/-! SUPPORT. What each shared operation can do, said once: traps and the return from them, page faults, kills, fences and
settling when nothing is under way, operand-store writes. -/

namespace Sys2Proof.Machine

/-! ### Nothing under way -/

theorem settleAtoms_none (s : State) (agent : Nat) (sel : PendAtom → Bool) (h : s.atoms = []) : settleAtoms s agent sel = s := by
  simp [settleAtoms, h]

theorem settle_none (s : State) (e : Env) (p : LoadReq → LoadPart → Bool) (h : (e.now s).a.outs = []) : settle s e p = s := by
  simp [settle, Agent.waitParts, h]

theorem landAll_none (s : State) (e : Env) (h : (e.now s).a.outs = []) : e.landAll s = s := by
  simp [Env.landAll, h, landAll]

theorem osPerform_none (g : Gang) (sel : OsWrite → Bool) (h : g.osq = []) : g.osPerform sel = g := by
  simp [Gang.osPerform, h]

theorem performSel_none (s : State) (sel : PendWrite → Bool) (h : s.outq = []) : performSel s sel = s := by
  simp [performSel, h, needed]

theorem stuckSel_none (s : State) (sel : PendWrite → Bool) (h : s.outq = []) : stuckSel s sel = false := by
  simp [stuckSel, h, needed]

theorem showSel_none (s : State) (who : Who) (sel : PendWrite → Bool) (cores : List Nat) (h : s.outq = []) :
    showSel s who sel cores = s := by
  simp [showSel, h]

@[simp] theorem dropAhead_outq (s : State) (e : Env) : (dropAhead s e).outq = s.outq := by
  unfold dropAhead
  split <;> rfl

@[simp] theorem dropAhead_scs (s : State) (e : Env) : (dropAhead s e).scs = s.scs := by
  unfold dropAhead
  split <;> rfl

/-- With no write waiting, an acquire gives up the values taken ahead, and does nothing else (R80, R84). -/
theorem acquire_none (s : State) (e : Env) (scope : Nat) (h : s.outq = []) : acquire s e scope = dropAhead s e := by
  simp [acquire, h]

theorem past_writes_none (s : State) (e : Env) (scope : Nat) (h : s.outq = []) : (e.past s scope).1 = [] := by
  simp [Env.past, h]

theorem scJoin_none (s : State) (e : Env) (scope : Nat) (h : s.scs = []) : scJoin s e scope = s := by
  simp [scJoin, h]

theorem scLeave_none (s : State) (e : Env) (scope : Nat) (h : s.scs = []) (hq : s.outq = []) : scLeave s e scope = s := by
  simp [scLeave, h, past_writes_none s e scope hq]

theorem canShowSel_none (s : State) (who : Who) (sel : PendWrite → Bool) (cores : List Nat) (h : s.outq = []) :
    canShowSel s who sel cores = true := by
  simp [canShowSel, pulled, h, canShow]

theorem ownHeld_none (s : State) (e : Env) (ha : s.atoms = []) (hq : s.outq = []) : ownHeld s e = false := by
  simp [ownHeld, ha, hq]

theorem osFlush_none (s : State) (uid : Nat) (sel : OsWrite → Bool) (h : ∀ g ∈ s.gangs, g.uid = uid → g.osq = []) : osFlush s uid sel = s := by
  unfold osFlush
  split
  · rfl
  · rename_i g hg
    have hm := List.mem_of_find?_eq_some hg
    have hu : g.uid = uid := by simpa using List.find?_some hg
    simp [h g hm hu, osPasses]

theorem osOwed_none (s : State) (uid : Nat) (sel : OsWrite → Bool) (h : ∀ g ∈ s.gangs, g.uid = uid → g.osq = []) : osOwed s uid sel = false := by
  unfold osOwed
  cases hg : s.gang? uid with
  | none => rfl
  | some g =>
    have hm := List.mem_of_find?_eq_some hg
    have hu := List.find?_some hg
    simp [h g hm (by simpa using hu)]

/-- With nothing outstanding, the agent's reads and atomics are in. -/
theorem readsIn_clear (s : State) (e : Env) (ho : (e.now s).a.outs = []) (ha : s.atoms = []) : readsIn s e = some s := by
  unfold readsIn
  simp [settle_none s e _ ho, settleAtoms_none s _ _ ha, ha, Env.partOwed, Agent.waitParts, ho]

/-- A fence completes when nothing it orders is under way; of the state, an acquire changes the values taken ahead (R95). -/
theorem fence_clear (s : State) (e : Env) (order scope : Nat) (ho : (e.now s).a.outs = []) (ha : s.atoms = []) (hq : s.outq = [])
    (hs : ∀ g ∈ s.gangs, g.uid = e.g.uid → g.osq = []) (hc : order = 3 → s.scs = []) :
    fence s e order scope = some (if order = 1 then s else dropAhead s e) := by
  unfold fence
  have hj : (if order = 3 then scJoin s e scope else s) = s := by
    split
    · exact scJoin_none s e scope (hc ‹_›)
    · rfl
  have hd : (if order = 3 then scLeave (dropAhead s e) e scope else dropAhead s e) = dropAhead s e := by
    split
    · exact scLeave_none _ e scope (by simpa using hc ‹_›) (by simpa using hq)
    · rfl
  simp only [readsIn_clear s e ho ha, hj, osFlush_none s _ _ hs, osOwed_none s _ _ hs, ownHeld_none s e ha hq, Bool.or_self,
    stuckSel_none s _ hq, performSel_none s _ hq, showSel_none s _ _ _ hq, canShowSel_none s _ _ _ hq, acquire_none s e scope hq, hd]
  by_cases h0 : order = 0
  · simp [h0]
  · simp [h0]

/-- A release leaves nothing to wait for when nothing it orders is under way (R83). -/
theorem release_clear (s : State) (e : Env) (scope : Nat) (ho : (e.now s).a.outs = []) (ha : s.atoms = []) (hq : s.outq = [])
    (hs : (e.now s).g.osq = []) : release s e scope = s := by
  simp [release, Env.past, ho, ha, hq, hs]

/-! ### Operand-store writes of a gang -/

/-- Performing operand-store writes changes the operand store, its poison and its queue alone. -/
theorem osPerform_eq (g : Gang) (sel : OsWrite → Bool) :
    ∃ os osq bad, g.osPerform sel = { g with os := os, osq := osq, osPoison := bad } ∧ ∀ q ∈ osq, q ∈ g.osq := by
  unfold Gang.osPerform
  split
  · exact ⟨g.os, g.osq, g.osPoison, rfl, fun _ h => h⟩
  · exact ⟨_, _, _, rfl, fun q h => (List.mem_filter.1 h).1⟩

@[simp] theorem osLand_mem (s : State) (g : Gang) (p : OsWrite) : (osLand s g p).mem = s.mem := by
  unfold osLand
  simp only [State.updGang_mem]
  split
  · rfl
  · exact showPairs_mem s _

@[simp] theorem osPass_mem (g : Gang) (s : State) (ps : List OsWrite) : (osPass g s ps).mem = s.mem := by
  unfold osPass
  refine foldl_keeps (fun a : State × List OsWrite => a.1.mem = s.mem) _ _ _ (fun a p _ ha => ?_) rfl
  split
  · simp only [osLand_mem, ha]
  · exact ha

@[simp] theorem osPasses_mem (uid : Nat) (sel : OsWrite → Bool) (n : Nat) (s : State) : (osPasses uid sel n s).mem = s.mem := by
  induction n generalizing s with
  | zero => rfl
  | succ n ih =>
    unfold osPasses
    split
    · rfl
    · split
      · rfl
      · rw [ih, osPass_mem]

/-- Operand-store writes that land leave memory as it is. -/
@[simp] theorem osFlush_mem (s : State) (uid : Nat) (sel : OsWrite → Bool) : (osFlush s uid sel).mem = s.mem := by
  unfold osFlush
  split
  · rfl
  · exact osPasses_mem uid sel _ s

/-! ### Kills, the log -/

@[simp] theorem killContext_mem (s : State) (asid : Nat) : (killContext s asid).mem = s.mem := rfl
@[simp] theorem killContext_cmds (s : State) (asid : Nat) : (killContext s asid).cmds = s.cmds := rfl
@[simp] theorem killContext_outq (s : State) (asid : Nat) : (killContext s asid).outq = s.outq := rfl

theorem logEvent_frame (s : State) (ev : Ev) (data : List Nat) : logEvent s ev data = { s with izsil := s.izsil.append ev data } := rfl

/-! ### Traps (R350, R341) -/

theorem takeTrap_prot (s : State) (e : Env) (t : Trap) (h : t.info.cause = cPROT) : takeTrap s e t = killContext s e.g.asid := by
  simp [takeTrap, h]

theorem takeTrap_kills (s : State) (e : Env) (t : Trap) (h : t.info.cause ≠ cPROT) (hk : (e.a.act || e.g.blk.traph == 0#52 || e.g.isFault) = true) :
    takeTrap s e t = markDying s e.g.uid := by
  unfold takeTrap
  rw [if_neg h, if_pos hk]

/-- With no result outstanding, a trap writes the trap registers and goes to TRAPH. -/
theorem takeTrap_enters (s : State) (e : Env) (t : Trap) (h : t.info.cause ≠ cPROT) (hk : (e.a.act || e.g.blk.traph == 0#52 || e.g.isFault) = false)
    (hq : (e.now s).a.outs = []) :
    takeTrap s e t = e.set s fun a => { (a.setTrap s.tick t true).fresh with pc := e.g.blk.traph } := by
  unfold takeTrap
  rw [if_neg h, if_neg (by simp [hk]), landAll_none s e hq]
  simp [Env.quiet, hq]

/-- All that taking a trap can do: a trap whose results are still out waits for them. -/
theorem takeTrap_cases (s : State) (e : Env) (t : Trap) :
    (t.info.cause = cPROT ∧ takeTrap s e t = killContext s e.g.asid) ∨
    (t.info.cause ≠ cPROT ∧ (e.a.act = true ∨ e.g.blk.traph = 0#52 ∨ e.g.isFault = true) ∧ takeTrap s e t = markDying s e.g.uid) ∨
    (t.info.cause ≠ cPROT ∧ e.quiet (e.landAll s) = false ∧ takeTrap s e t = e.pend (e.landAll s) t false) ∨
    (t.info.cause ≠ cPROT ∧ e.a.act = false ∧ e.quiet (e.landAll s) = true ∧ takeTrap s e t =
      e.set (e.landAll s) fun a => { (a.setTrap (e.landAll s).tick t true).fresh with pc := e.g.blk.traph }) := by
  unfold takeTrap
  by_cases h : t.info.cause = cPROT
  · exact .inl ⟨h, if_pos h⟩
  · rw [if_neg h]
    by_cases hk : (e.a.act || e.g.blk.traph == 0#52 || e.g.isFault) = true
    · rw [if_pos hk]
      exact .inr (.inl ⟨h, by simpa [or_assoc] using hk, rfl⟩)
    · rw [if_neg hk]
      have ha : e.a.act = false := by
        revert hk
        cases e.a.act <;> simp
      by_cases hq : e.quiet (e.landAll s) = true
      · exact .inr (.inr (.inr ⟨h, ha, hq, by simp [hq]⟩))
      · exact .inr (.inr (.inl ⟨h, by simpa using hq, by simp [hq]⟩))

/-- The return from a trap writes the agent's PC, sr.trap.ACT, its state and the marks of an event passed once, and nothing else. -/
theorem leaveTrap_eq (s : State) (e : Env) (skip : Bool) : ∃ pc skipDbg, leaveTrap s e skip =
    e.set s fun a => { a with pc := pc, trap := a.trap &&& ~~~(1#64 <<< 63), st := .runnable, prog := 0, voted := none, skipDbg := skipDbg } := ⟨_, _, rfl⟩

/-! ### Page faults (R40, R342) -/

/-- With no room in the die's queue the instruction is held. -/
theorem pageFault_held (s : State) (e : Env) (k : AccKind) (ps : List FaultPage)
    (h : faultRoom s e.g.die (pageRecs k e.g.asid s.fresh e.a.pc ps).length = false) : pageFault s e k ps = e.hold s := by
  simp [pageFault, h]

theorem pageFault_mem (s : State) (e : Env) (k : AccKind) (ps : List FaultPage) : (pageFault s e k ps).mem = s.mem := by
  unfold pageFault
  simp only []
  split <;> rfl

/-! ### How an instruction's own effect ends -/

theorem finish_trap (s : State) (e : Env) (h : Hdr) (t : TrapInfo) (code : Nat) (hw : t.cause ≠ cWATCH) :
    finish s e h (.trap t code) = takeTrap s e (e.trapAt h.words 5 t code) := if_neg hw

end Sys2Proof.Machine
end

