-- ==== Sys2Proof/Laws/PerInstr.lean ====
section
/-! SUPPORT. One lemma per instruction: the encoding of an instruction has as many words as the PC moves past (R180). -/

namespace Sys2Proof.Laws.EncodedLength

/-- An instruction that has an encoding is encoded in as many words as its length. -/
def Statement (i : Instr) : Prop := i.encode = [] ∨ i.encode.length = i.len

/-- An extended form has three words, or five with a literal. -/
theorem ext (maj : BitVec 7) (sub : BitVec 8) (x : Ext) : (encodeExt maj sub x).length = x.words := by
  unfold encodeExt Ext.words
  cases x.lit <;> rfl

/-- A base form has one word, or three with a literal. -/
theorem base (m : Marks) (maj : BitVec 7) (hi : BitVec 21) (lit : Option DWord) :
    (encodeBase m maj hi lit).length = Machine.baseWords lit := by
  cases lit <;> rfl

theorem nop (m : Marks) : Statement (.nop m) := Or.inr rfl
theorem bra (m : Marks) (off : BitVec 21) : Statement (.bra m off) := Or.inr rfl
theorem brc (m : Marks) (off : BitVec 17) (inv : Bool) (k : BitVec 3) : Statement (.brc m off inv k) := Or.inr rfl
theorem bhe (m : Marks) (off : BitVec 17) (h : BitVec 4) : Statement (.bhe m off h) := Or.inr rfl
theorem bhn (m : Marks) (off : BitVec 17) (h : BitVec 4) : Statement (.bhn m off h) := Or.inr rfl
theorem loop (m : Marks) (off : BitVec 15) (s : BitVec 6) : Statement (.loop m off s) := Or.inr rfl
theorem call (m : Marks) (off : BitVec 21) : Statement (.call m off) := Or.inr rfl
theorem calls (m : Marks) (a : BitVec 6) : Statement (.calls m a) := Or.inr rfl
theorem ret (m : Marks) : Statement (.ret m) := Or.inr rfl
theorem apply (m : Marks) (off : BitVec 17) (h : BitVec 4) (va : BitVec 8) (nc : BitVec 4) (vb : BitVec 8) (nw : BitVec 4) : Statement (.apply m off h va nc vb nw) := Or.inr rfl
theorem done (m : Marks) : Statement (.done m) := Or.inr rfl
theorem yield (m : Marks) : Statement (.yield m) := Or.inr rfl
theorem exit (m : Marks) : Statement (.exit m) := Or.inr rfl
theorem horBase (m : Marks) (d a b : BitVec 4) : Statement (.horBase m d a b) := Or.inr rfl
theorem handBase (m : Marks) (d a b : BitVec 4) : Statement (.handBase m d a b) := Or.inr rfl
theorem handnBase (m : Marks) (d a b : BitVec 4) : Statement (.handnBase m d a b) := Or.inr rfl
theorem hxorBase (m : Marks) (d a b : BitVec 4) : Statement (.hxorBase m d a b) := Or.inr rfl
theorem hnotBase (m : Marks) (d a : BitVec 4) : Statement (.hnotBase m d a) := Or.inr rfl
theorem hmovBase (m : Marks) (d a : BitVec 4) : Statement (.hmovBase m d a) := Or.inr rfl
theorem hcntBase (m : Marks) (d : BitVec 6) (a : BitVec 4) : Statement (.hcntBase m d a) := Or.inr rfl
theorem hfirstBase (m : Marks) (d : BitVec 6) (a : BitVec 4) : Statement (.hfirstBase m d a) := Or.inr rfl
theorem hmembBase (m : Marks) (d : BitVec 6) (a : BitVec 4) (b : BitVec 6) (lit : Option DWord) : Statement (.hmembBase m d a b lit) := Or.inr (base _ _ _ lit)
theorem hposBase (m : Marks) (d : BitVec 6) (a : BitVec 4) (b : BitVec 6) (lit : Option DWord) : Statement (.hposBase m d a b lit) := Or.inr (base _ _ _ lit)
theorem iaddBase (m : Marks) (d a b : BitVec 7) (lit : Option DWord) : Statement (.iaddBase m d a b lit) := Or.inr (base _ _ _ lit)
theorem isubBase (m : Marks) (d a b : BitVec 7) (lit : Option DWord) : Statement (.isubBase m d a b lit) := Or.inr (base _ _ _ lit)
theorem andBase (m : Marks) (d a b : BitVec 7) (lit : Option DWord) : Statement (.andBase m d a b lit) := Or.inr (base _ _ _ lit)
theorem orBase (m : Marks) (d a b : BitVec 7) (lit : Option DWord) : Statement (.orBase m d a b lit) := Or.inr (base _ _ _ lit)
theorem xorBase (m : Marks) (d a b : BitVec 7) (lit : Option DWord) : Statement (.xorBase m d a b lit) := Or.inr (base _ _ _ lit)
theorem shlBase (m : Marks) (d a : BitVec 7) (n : BitVec 5) (lit : Option DWord) : Statement (.shlBase m d a n lit) := Or.inr (base _ _ _ lit)
theorem shrBase (m : Marks) (d a : BitVec 7) (n : BitVec 5) (lit : Option DWord) : Statement (.shrBase m d a n lit) := Or.inr (base _ _ _ lit)
theorem movBase (m : Marks) (d a : BitVec 7) : Statement (.movBase m d a) := Or.inr rfl
theorem saddBase (m : Marks) (d a b : BitVec 6) (lit : Option DWord) : Statement (.saddBase m d a b lit) := Or.inr (base _ _ _ lit)
theorem smovBase (m : Marks) (d a : BitVec 6) : Statement (.smovBase m d a) := Or.inr rfl
theorem faddBase (m : Marks) (d a b : BitVec 7) (lit : Option DWord) : Statement (.faddBase m d a b lit) := Or.inr (base _ _ _ lit)
theorem fmulBase (m : Marks) (d a b : BitVec 7) (lit : Option DWord) : Statement (.fmulBase m d a b lit) := Or.inr (base _ _ _ lit)
theorem htest (c : Cond) (m : Bool) (x : Ext) : Statement (.htest c m x) := Or.inr (ext _ _ x)
theorem htesti (c : Cond) (m : Bool) (x : Ext) : Statement (.htesti c m x) := Or.inr (ext _ _ x)
theorem hbit (m : Bool) (x : Ext) : Statement (.hbit m x) := Or.inr (ext _ _ x)
theorem horExt (x : Ext) : Statement (.horExt x) := Or.inr (ext _ _ x)
theorem handExt (x : Ext) : Statement (.handExt x) := Or.inr (ext _ _ x)
theorem handnExt (x : Ext) : Statement (.handnExt x) := Or.inr (ext _ _ x)
theorem hxorExt (x : Ext) : Statement (.hxorExt x) := Or.inr (ext _ _ x)
theorem hnotExt (x : Ext) : Statement (.hnotExt x) := Or.inr (ext _ _ x)
theorem hmovExt (x : Ext) : Statement (.hmovExt x) := Or.inr (ext _ _ x)
theorem hcntExt (x : Ext) : Statement (.hcntExt x) := Or.inr (ext _ _ x)
theorem hfirstExt (x : Ext) : Statement (.hfirstExt x) := Or.inr (ext _ _ x)
theorem hmembExt (x : Ext) : Statement (.hmembExt x) := Or.inr (ext _ _ x)
theorem hposExt (x : Ext) : Statement (.hposExt x) := Or.inr (ext _ _ x)
theorem hpick (x : Ext) : Statement (.hpick x) := Or.inr (ext _ _ x)
theorem hrange (x : Ext) : Statement (.hrange x) := Or.inr (ext _ _ x)
theorem hfence (x : Ext) : Statement (.hfence x) := Or.inr (ext _ _ x)
theorem iaddExt (x : Ext) : Statement (.iaddExt x) := Or.inr (ext _ _ x)
theorem isubExt (x : Ext) : Statement (.isubExt x) := Or.inr (ext _ _ x)
theorem imul (x : Ext) : Statement (.imul x) := Or.inr (ext _ _ x)
theorem imulh (x : Ext) : Statement (.imulh x) := Or.inr (ext _ _ x)
theorem imad (x : Ext) : Statement (.imad x) := Or.inr (ext _ _ x)
theorem imin (x : Ext) : Statement (.imin x) := Or.inr (ext _ _ x)
theorem imax (x : Ext) : Statement (.imax x) := Or.inr (ext _ _ x)
theorem iabs (x : Ext) : Statement (.iabs x) := Or.inr (ext _ _ x)
theorem iset (c : Cond) (x : Ext) : Statement (.iset c x) := Or.inr (ext _ _ x)
theorem sel (x : Ext) : Statement (.sel x) := Or.inr (ext _ _ x)
theorem andExt (x : Ext) : Statement (.andExt x) := Or.inr (ext _ _ x)
theorem orExt (x : Ext) : Statement (.orExt x) := Or.inr (ext _ _ x)
theorem xorExt (x : Ext) : Statement (.xorExt x) := Or.inr (ext _ _ x)
theorem lut3 (x : Ext) : Statement (.lut3 x) := Or.inr (ext _ _ x)
theorem shlExt (x : Ext) : Statement (.shlExt x) := Or.inr (ext _ _ x)
theorem shrExt (x : Ext) : Statement (.shrExt x) := Or.inr (ext _ _ x)
theorem sar (x : Ext) : Statement (.sar x) := Or.inr (ext _ _ x)
theorem fshl (x : Ext) : Statement (.fshl x) := Or.inr (ext _ _ x)
theorem fshr (x : Ext) : Statement (.fshr x) := Or.inr (ext _ _ x)
theorem popc (x : Ext) : Statement (.popc x) := Or.inr (ext _ _ x)
theorem clz (x : Ext) : Statement (.clz x) := Or.inr (ext _ _ x)
theorem brev (x : Ext) : Statement (.brev x) := Or.inr (ext _ _ x)
theorem bfe (x : Ext) : Statement (.bfe x) := Or.inr (ext _ _ x)
theorem bfi (x : Ext) : Statement (.bfi x) := Or.inr (ext _ _ x)
theorem movExt (x : Ext) : Statement (.movExt x) := Or.inr (ext _ _ x)
theorem movi (x : Ext) : Statement (.movi x) := Or.inr (ext _ _ x)
theorem saddExt (x : Ext) : Statement (.saddExt x) := Or.inr (ext _ _ x)
theorem ssub (x : Ext) : Statement (.ssub x) := Or.inr (ext _ _ x)
theorem smul (x : Ext) : Statement (.smul x) := Or.inr (ext _ _ x)
theorem sand (x : Ext) : Statement (.sand x) := Or.inr (ext _ _ x)
theorem sor (x : Ext) : Statement (.sor x) := Or.inr (ext _ _ x)
theorem sxor (x : Ext) : Statement (.sxor x) := Or.inr (ext _ _ x)
theorem sshl (x : Ext) : Statement (.sshl x) := Or.inr (ext _ _ x)
theorem sshr (x : Ext) : Statement (.sshr x) := Or.inr (ext _ _ x)
theorem smin (x : Ext) : Statement (.smin x) := Or.inr (ext _ _ x)
theorem smax (x : Ext) : Statement (.smax x) := Or.inr (ext _ _ x)
theorem smovExt (x : Ext) : Statement (.smovExt x) := Or.inr (ext _ _ x)
theorem smovi (x : Ext) : Statement (.smovi x) := Or.inr (ext _ _ x)
theorem scmp (c : Cond) (x : Ext) : Statement (.scmp c x) := Or.inr (ext _ _ x)
theorem kop (o : KOp) (x : Ext) : Statement (.kop o x) := Or.inr (ext _ _ x)
theorem shfl (o : ShflMode) (x : Ext) : Statement (.shfl o x) := Or.inr (ext _ _ x)
theorem lred (o : RedOp) (x : Ext) : Statement (.lred o x) := Or.inr (ext _ _ x)
theorem lscan (excl : Bool) (o : RedOp) (x : Ext) : Statement (.lscan excl o x) := Or.inr (ext _ _ x)
theorem vbcast (x : Ext) : Statement (.vbcast x) := Or.inr (ext _ _ x)
theorem vlane (x : Ext) : Statement (.vlane x) := Or.inr (ext _ _ x)
theorem topki (k : BitVec 2) (x : Ext) : Statement (.topki k x) := Or.inr (ext _ _ x)
theorem faddExt (x : Ext) : Statement (.faddExt x) := Or.inr (ext _ _ x)
theorem fsub (x : Ext) : Statement (.fsub x) := Or.inr (ext _ _ x)
theorem fmulExt (x : Ext) : Statement (.fmulExt x) := Or.inr (ext _ _ x)
theorem ffma (x : Ext) : Statement (.ffma x) := Or.inr (ext _ _ x)
theorem fmin (x : Ext) : Statement (.fmin x) := Or.inr (ext _ _ x)
theorem fmax (x : Ext) : Statement (.fmax x) := Or.inr (ext _ _ x)
theorem fset (c : Cond) (x : Ext) : Statement (.fset c x) := Or.inr (ext _ _ x)
theorem fclass (x : Ext) : Statement (.fclass x) := Or.inr (ext _ _ x)
theorem frnd (x : Ext) : Statement (.frnd x) := Or.inr (ext _ _ x)
theorem fdiv (x : Ext) : Statement (.fdiv x) := Or.inr (ext _ _ x)
theorem fsqrt (x : Ext) : Statement (.fsqrt x) := Or.inr (ext _ _ x)
theorem frcp (x : Ext) : Statement (.frcp x) := Or.inr (ext _ _ x)
theorem frsq (x : Ext) : Statement (.frsq x) := Or.inr (ext _ _ x)
theorem fexp2 (x : Ext) : Statement (.fexp2 x) := Or.inr (ext _ _ x)
theorem flog2 (x : Ext) : Statement (.flog2 x) := Or.inr (ext _ _ x)
theorem fsin (x : Ext) : Statement (.fsin x) := Or.inr (ext _ _ x)
theorem fcos (x : Ext) : Statement (.fcos x) := Or.inr (ext _ _ x)
theorem ftanh (x : Ext) : Statement (.ftanh x) := Or.inr (ext _ _ x)
theorem cvt (src : BitVec 5) (x : Ext) : Statement (.cvt src x) := Or.inr (ext _ _ x)
theorem bfpq (x : Ext) : Statement (.bfpq x) := Or.inr (ext _ _ x)
theorem bfpx (x : Ext) : Statement (.bfpx x) := Or.inr (ext _ _ x)
theorem fmtw (x : Ext) : Statement (.fmtw x) := Or.inr (ext _ _ x)
theorem ld (x : Ext) : Statement (.ld x) := Or.inr (ext _ _ x)
theorem st (x : Ext) : Statement (.st x) := Or.inr (ext _ _ x)
theorem lds (x : Ext) : Statement (.lds x) := Or.inr (ext _ _ x)
theorem sts (x : Ext) : Statement (.sts x) := Or.inr (ext _ _ x)
theorem atom (o : AtomOp) (x : Ext) : Statement (.atom o x) := Or.inr (ext _ _ x)
theorem sred (o : AtomOp) (x : Ext) : Statement (.sred o x) := Or.inr (ext _ _ x)
theorem pref (x : Ext) : Statement (.pref x) := Or.inr (ext _ _ x)
theorem ldo (x : Ext) : Statement (.ldo x) := Or.inr (ext _ _ x)
theorem sto (x : Ext) : Statement (.sto x) := Or.inr (ext _ _ x)
theorem ldc (x : Ext) : Statement (.ldc x) := Or.inr (ext _ _ x)
theorem stp (x : Ext) : Statement (.stp x) := Or.inr (ext _ _ x)
theorem smap (x : Ext) : Statement (.smap x) := Or.inr (ext _ _ x)
theorem sflush (x : Ext) : Statement (.sflush x) := Or.inr (ext _ _ x)
theorem sinv (x : Ext) : Statement (.sinv x) := Or.inr (ext _ _ x)
theorem bld (x : Ext) : Statement (.bld x) := Or.inr (ext _ _ x)
theorem bset (x : Ext) : Statement (.bset x) := Or.inr (ext _ _ x)
theorem hld (x : Ext) : Statement (.hld x) := Or.inr (ext _ _ x)
theorem hst (x : Ext) : Statement (.hst x) := Or.inr (ext _ _ x)
theorem fence (order : BitVec 2) (scope : BitVec 3) (x : Ext) : Statement (.fence order scope x) := Or.inr (ext _ _ x)
theorem waitc (x : Ext) : Statement (.waitc x) := Or.inr (ext _ _ x)
theorem sbinit (x : Ext) : Statement (.sbinit x) := Or.inr (ext _ _ x)
theorem sbexp (x : Ext) : Statement (.sbexp x) := Or.inr (ext _ _ x)
theorem sbarv (x : Ext) : Statement (.sbarv x) := Or.inr (ext _ _ x)
theorem sbwait (x : Ext) : Statement (.sbwait x) := Or.inr (ext _ _ x)
theorem barHand (x : Ext) : Statement (.barHand x) := Or.inr (ext _ _ x)
theorem barGang (x : Ext) : Statement (.barGang x) := Or.inr (ext _ _ x)
theorem tdef (x : Ext) : Statement (.tdef x) := Or.inr (ext _ _ x)
theorem trel (x : Ext) : Statement (.trel x) := Or.inr (ext _ _ x)
theorem tstat (x : Ext) : Statement (.tstat x) := Or.inr (ext _ _ x)
theorem mma (x : Ext) : Statement (.mma x) := Or.inr (ext _ _ x)
theorem mzero (x : Ext) : Statement (.mzero x) := Or.inr (ext _ _ x)
theorem mload (x : Ext) : Statement (.mload x) := Or.inr (ext _ _ x)
theorem mdrain (x : Ext) : Statement (.mdrain x) := Or.inr (ext _ _ x)
theorem cpy (x : Ext) : Statement (.cpy x) := Or.inr (ext _ _ x)
theorem cpo (x : Ext) : Statement (.cpo x) := Or.inr (ext _ _ x)
theorem gath (x : Ext) : Statement (.gath x) := Or.inr (ext _ _ x)
theorem qpost (x : Ext) : Statement (.qpost x) := Or.inr (ext _ _ x)
theorem qpop (x : Ext) : Statement (.qpop x) := Or.inr (ext _ _ x)
theorem launch (x : Ext) : Statement (.launch x) := Or.inr (ext _ _ x)
theorem cmpl (x : Ext) : Statement (.cmpl x) := Or.inr (ext _ _ x)
theorem rtsend (x : Ext) : Statement (.rtsend x) := Or.inr (ext _ _ x)
theorem rtflush (x : Ext) : Statement (.rtflush x) := Or.inr (ext _ _ x)
theorem rtrecv (x : Ext) : Statement (.rtrecv x) := Or.inr (ext _ _ x)
theorem rtrel (x : Ext) : Statement (.rtrel x) := Or.inr (ext _ _ x)
theorem spill (x : Ext) : Statement (.spill x) := Or.inr (ext _ _ x)
theorem fill (x : Ext) : Statement (.fill x) := Or.inr (ext _ _ x)
theorem tokw (x : Ext) : Statement (.tokw x) := Or.inr (ext _ _ x)
theorem vdec (x : Ext) : Statement (.vdec x) := Or.inr (ext _ _ x)
theorem vdstat (x : Ext) : Statement (.vdstat x) := Or.inr (ext _ _ x)
theorem auct (x : Ext) : Statement (.auct x) := Or.inr (ext _ _ x)
theorem aust (x : Ext) : Statement (.aust x) := Or.inr (ext _ _ x)
theorem fork (x : Ext) : Statement (.fork x) := Or.inr (ext _ _ x)
theorem grwd (x : Ext) : Statement (.grwd x) := Or.inr (ext _ _ x)
theorem gbar (x : Ext) : Statement (.gbar x) := Or.inr (ext _ _ x)
theorem gcancel (x : Ext) : Statement (.gcancel x) := Or.inr (ext _ _ x)
theorem gstat (x : Ext) : Statement (.gstat x) := Or.inr (ext _ _ x)
theorem walk (x : Ext) : Statement (.walk x) := Or.inr (ext _ _ x)
theorem mfs (x : Ext) : Statement (.mfs x) := Or.inr (ext _ _ x)
theorem mts (x : Ext) : Statement (.mts x) := Or.inr (ext _ _ x)
theorem trap (x : Ext) : Statement (.trap x) := Or.inr (ext _ _ x)
theorem bkpt (x : Ext) : Statement (.bkpt x) := Or.inr (ext _ _ x)
theorem dmbx (x : Ext) : Statement (.dmbx x) := Or.inr (ext _ _ x)
theorem eret (x : Ext) : Statement (.eret x) := Or.inr (ext _ _ x)
theorem fpop (x : Ext) : Statement (.fpop x) := Or.inr (ext _ _ x)
theorem fres (x : Ext) : Statement (.fres x) := Or.inr (ext _ _ x)
theorem tlbi (x : Ext) : Statement (.tlbi x) := Or.inr (ext _ _ x)
theorem biasf (x : Ext) : Statement (.biasf x) := Or.inr (ext _ _ x)
theorem ctxs (x : Ext) : Statement (.ctxs x) := Or.inr (ext _ _ x)
theorem ctxl (x : Ext) : Statement (.ctxl x) := Or.inr (ext _ _ x)
theorem wend : Statement .wend := Or.inr rfl
theorem wldi (yd : BitVec 4) (imm : BitVec 14) : Statement (.wldi yd imm) := Or.inr rfl
theorem wadd (yd ya yb : BitVec 4) (imm : BitVec 14) : Statement (.wadd yd ya yb imm) := Or.inr rfl
theorem wsub (yd ya yb : BitVec 4) : Statement (.wsub yd ya yb) := Or.inr rfl
theorem wand (yd ya yb : BitVec 4) : Statement (.wand yd ya yb) := Or.inr rfl
theorem wshr (yd ya : BitVec 4) (n : BitVec 5) : Statement (.wshr yd ya n) := Or.inr rfl
theorem wcmp (ya yb : BitVec 4) : Statement (.wcmp ya yb) := Or.inr rfl
theorem wbr (t : BitVec 8) : Statement (.wbr t) := Or.inr rfl
theorem wbz (ya : BitVec 4) (t : BitVec 8) : Statement (.wbz ya t) := Or.inr rfl
theorem wblt (t : BitVec 8) : Statement (.wblt t) := Or.inr rfl
theorem wld (yd ya : BitVec 4) (src : BitVec 4) : Statement (.wld yd ya src) := Or.inr rfl
theorem wbmn (yd ya yb : BitVec 4) (src : BitVec 3) : Statement (.wbmn yd ya yb src) := Or.inr rfl
theorem wrun (yd yb ya : BitVec 4) (src : BitVec 3) : Statement (.wrun yd yb ya src) := Or.inr rfl
theorem wemit (ya yb : BitVec 4) : Statement (.wemit ya yb) := Or.inr rfl
theorem wrow (ya : BitVec 4) : Statement (.wrow ya) := Or.inr rfl
theorem wpush (ya : BitVec 4) : Statement (.wpush ya) := Or.inr rfl
theorem wpop (yd : BitVec 4) : Statement (.wpop yd) := Or.inr rfl
theorem wsync : Statement .wsync := Or.inr rfl
theorem packFormation (gang apply : Nat) : Statement (.packFormation gang apply) := Or.inl rfl
theorem applyJoin (gang apply : Nat) : Statement (.applyJoin gang apply) := Or.inl rfl
theorem handWriteCommit (die core : Nat) : Statement (.handWriteCommit die core) := Or.inl rfl
theorem stageBarrierCredit (cmd : Nat) : Statement (.stageBarrierCredit cmd) := Or.inl rfl
theorem matrixCommandPerform (cmd : Nat) : Statement (.matrixCommandPerform cmd) := Or.inl rfl
theorem copyCommandStart (cmd : Nat) : Statement (.copyCommandStart cmd) := Or.inl rfl
theorem enginePortionComplete (cmd : Nat) : Statement (.enginePortionComplete cmd) := Or.inl rfl
theorem commandRetire (cmd : Nat) : Statement (.commandRetire cmd) := Or.inl rfl
theorem completionPostHeld (n : Nat) : Statement (.completionPostHeld n) := Or.inl rfl
theorem sendListAppend (cmd : Nat) : Statement (.sendListAppend cmd) := Or.inl rfl
theorem frameFormation (asid route : Nat) : Statement (.frameFormation asid route) := Or.inl rfl
theorem tokenIdle (cmd : Nat) : Statement (.tokenIdle cmd) := Or.inl rfl
theorem decodeStart (cmd : Nat) : Statement (.decodeStart cmd) := Or.inl rfl
theorem decodeFrame (cmd : Nat) : Statement (.decodeFrame cmd) := Or.inl rfl
theorem auctionStart (cmd : Nat) : Statement (.auctionStart cmd) := Or.inl rfl
theorem auctionRound (cmd : Nat) : Statement (.auctionRound cmd) := Or.inl rfl
theorem auctionSave (cmd : Nat) : Statement (.auctionSave cmd) := Or.inl rfl
theorem auctionRestore (cmd : Nat) : Statement (.auctionRestore cmd) := Or.inl rfl
theorem groupRewardPerform (n : Nat) : Statement (.groupRewardPerform n) := Or.inl rfl
theorem groupCancelPerform (n : Nat) : Statement (.groupCancelPerform n) := Or.inl rfl
theorem cancelRedirect (gang agent : Nat) : Statement (.cancelRedirect gang agent) := Or.inl rfl
theorem groupDeadline (grp : Nat) : Statement (.groupDeadline grp) := Or.inl rfl
theorem groupAgeWrite (grp : Nat) : Statement (.groupAgeWrite grp) := Or.inl rfl
theorem groupAgePause (grp : Nat) : Statement (.groupAgePause grp) := Or.inl rfl
theorem walkStart (cmd : Nat) : Statement (.walkStart cmd) := Or.inl rfl
theorem walkerStepLimit (cmd : Nat) : Statement (.walkerStepLimit cmd) := Or.inl rfl
theorem walkStop (cmd : Nat) : Statement (.walkStop cmd) := Or.inl rfl
theorem loadDataReturn (gang agent n : Nat) : Statement (.loadDataReturn gang agent n) := Or.inl rfl
theorem pageTableWalk (gang : Nat) (va : Addr) : Statement (.pageTableWalk gang va) := Or.inl rfl
theorem missRetry (gang agent n : Nat) : Statement (.missRetry gang agent n) := Or.inl rfl
theorem writePerformAtHome (die n : Nat) : Statement (.writePerformAtHome die n) := Or.inl rfl
theorem memorySideAtomic (n : Nat) : Statement (.memorySideAtomic n) := Or.inl rfl
theorem stashRemoteRequest (gang line : Nat) (write : Bool) : Statement (.stashRemoteRequest gang line write) := Or.inl rfl
theorem directoryEvict (line : Nat) : Statement (.directoryEvict line) := Or.inl rfl
theorem dupCollapse (die n : Nat) : Statement (.dupCollapse die n) := Or.inl rfl
theorem dupCollapseAck (page die : Nat) : Statement (.dupCollapseAck page die) := Or.inl rfl
theorem biasFlipComplete (frame : Nat) : Statement (.biasFlipComplete frame) := Or.inl rfl
theorem hostCxlMemAccess (addr len : Nat) (bytes : Option (List Byte)) : Statement (.hostCxlMemAccess addr len bytes) := Or.inl rfl
theorem eccUncorrectable (loc : EccSite) : Statement (.eccUncorrectable loc) := Or.inl rfl
theorem eccCorrected (code : Nat) : Statement (.eccCorrected code) := Or.inl rfl
theorem frameRelease (desc : Nat) : Statement (.frameRelease desc) := Or.inl rfl
theorem launchUnitVisit : Statement .launchUnitVisit := Or.inl rfl
theorem gangHandout (grid : Nat) : Statement (.gangHandout grid) := Or.inl rfl
theorem stealMessage (grid die : Nat) : Statement (.stealMessage grid die) := Or.inl rfl
theorem gangPlace (die : Nat) : Statement (.gangPlace die) := Or.inl rfl
theorem engineCommandAccept (die core : Nat) : Statement (.engineCommandAccept die core) := Or.inl rfl
theorem longWaitThreshold (gang : Nat) : Statement (.longWaitThreshold gang) := Or.inl rfl
theorem gangSave (gang : Nat) : Statement (.gangSave gang) := Or.inl rfl
theorem watchedCondition (gang : Nat) : Statement (.watchedCondition gang) := Or.inl rfl
theorem rendezvousTimeout (gang n : Nat) : Statement (.rendezvousTimeout gang n) := Or.inl rfl
theorem gangComplete (gang : Nat) : Statement (.gangComplete gang) := Or.inl rfl
theorem gangKill (gang : Nat) : Statement (.gangKill gang) := Or.inl rfl
theorem preemptRequest (w : DWord) : Statement (.preemptRequest w) := Or.inl rfl
theorem preemptTimeout (gang : Nat) : Statement (.preemptTimeout gang) := Or.inl rfl
theorem resumeRequest (w : DWord) : Statement (.resumeRequest w) := Or.inl rfl
theorem dataFrame (port : Nat) (frame : List Byte) : Statement (.dataFrame port frame) := Or.inl rfl
theorem ackFrame (port : Nat) (frame : List Byte) : Statement (.ackFrame port frame) := Or.inl rfl
theorem returnFrame (port : Nat) (frame : List Byte) : Statement (.returnFrame port frame) := Or.inl rfl
theorem resendTimeout (port peer : Nat) : Statement (.resendTimeout port peer) := Or.inl rfl
theorem ethernetPacketReceive (port : Nat) (packet : Packet) : Statement (.ethernetPacketReceive port packet) := Or.inl rfl
theorem recoveryGo (w : DWord) : Statement (.recoveryGo w) := Or.inl rfl
theorem launchQueueControl (q : Nat) (w : DWord) : Statement (.launchQueueControl q w) := Or.inl rfl
theorem launchDoorbell (q : Nat) (w : DWord) : Statement (.launchDoorbell q w) := Or.inl rfl
theorem hostQueuePost (w : DWord) : Statement (.hostQueuePost w) := Or.inl rfl
theorem routeSync (w : DWord) : Statement (.routeSync w) := Or.inl rfl
theorem contextSync (w : DWord) : Statement (.contextSync w) := Or.inl rfl
theorem tableBaseWrite (off : Nat) (w : DWord) : Statement (.tableBaseWrite off w) := Or.inl rfl
theorem registerWrite (off : Nat) (w : DWord) : Statement (.registerWrite off w) := Or.inl rfl
theorem powerOn : Statement .powerOn := Or.inl rfl
theorem moduleReset : Statement .moduleReset := Or.inl rfl
theorem firmwareUpdate (addr len : Nat) : Statement (.firmwareUpdate addr len) := Or.inl rfl
theorem spdmRequest (req : List Byte) : Statement (.spdmRequest req) := Or.inl rfl
theorem fencedCoreMapUpdate (map : List Nat) : Statement (.fencedCoreMapUpdate map) := Or.inl rfl
theorem izsilConfigSet (cfg : NetConfig) : Statement (.izsilConfigSet cfg) := Or.inl rfl
theorem powerLimit : Statement .powerLimit := Or.inl rfl
theorem thermalThrottle (die : Nat) : Statement (.thermalThrottle die) := Or.inl rfl
theorem thermalStop (code : Nat) : Statement (.thermalStop code) := Or.inl rfl
theorem powerLoss (midWrite : Bool) : Statement (.powerLoss midWrite) := Or.inl rfl
theorem hostWriteToHostMemory (addr : Nat) (bytes : List Byte) : Statement (.hostWriteToHostMemory addr bytes) := Or.inl rfl

end Sys2Proof.Laws.EncodedLength
end

