-- ==== Sys2Proof/Tests/Slice0.lean ====
section
/-! SUPPORT. Tests: ill-formed terms refused, words written out from the encodings of spec/, one step on small states, and
a witness of the hypotheses of every statement. -/

namespace Sys2Proof.Slice0Tests

set_option Elab.async false

open Sys2Proof Sys2Proof.Machine

/-! ### Helpers -/

/-- The one warp of `withFetchWord`: 64 lanes, every register of a core, role ALL, the system context. -/
def base : State := { State.reset.withFetchWord 96 0 with cur := .agent 1 2 }
def onGang (f : Gang → Gang) (s : State) : State := { s with gangs := s.gangs.map f }
def onAgent (f : Agent → Agent) (s : State) : State := onGang (fun g => { g with agents := g.agents.map f }) s

/-- An extended form with every field 0. -/
def x0 : Ext :=
  { m := ⟨false, false⟩, hint := 0#3, ty := 0#5, d := 0#8, a := 0#8, b := 0#8, c := 0#8, imm := 0#8, mod := 0#4,
    sat := false, rnd := 0#3, g2 := 0#4, g1 := 0#4, e := 0#8, lit := none }
def m0 : Marks := ⟨false, false⟩

/-- The current agent passes every check for the instruction, and p holds of it. -/
def meets (i : Instr) (s : State) (p : Env → Bool := fun _ => true) : Bool := match s.env? with
  | some e => counterOk i s e && resultsIn i e && passesSafePoint i e && !e.dbgOn && privOk i e && formOk i e && guardsOk i e &&
      rolesOk i e && boundsOk i e && p e
  | none => false

theorem executes_of_meets {i : Instr} {s : State} {p : Env → Bool} (h : meets i s p = true) : ∃ e, Executes i s e ∧ p e = true := by
  unfold meets at h
  split at h
  · next e he =>
    simp only [Bool.and_eq_true, Bool.not_eq_true'] at h
    obtain ⟨⟨⟨⟨⟨⟨⟨⟨⟨h0, h1⟩, h2⟩, h3⟩, h4⟩, h5⟩, h6⟩, h7⟩, h8⟩, h9⟩ := h
    exact ⟨e, ⟨⟨he, h0, h1, h2, h3⟩, h4, h5, h6, h7, h8⟩, h9⟩
  · cases h

/-- exec answers a next state of which p holds. -/
def nextIs (i : Instr) (s : State) (p : State → Bool) : Bool := match exec i s with
  | .next t => p t
  | _ => false

/-- Nothing of memory is under way: the Bool of `Quiet`. -/
def quiet (s : State) (e : Env) : Bool :=
  s.outq.isEmpty && s.atoms.isEmpty && s.flips.isEmpty && e.a.outs.isEmpty && e.a.ahead.isEmpty && e.g.osq.isEmpty

def after (i : Instr) (s : State) : State := match exec i s with
  | .next t => t
  | _ => s
def onCurrent (f : Gang → Agent → Bool) (t : State) : Bool := match envOf t 1 2 with
  | some e => f e.g e.a
  | none => false

/-! ### Every instruction of an agent has operands with which it executes (R199), at the ends of the ranges of its fields -/

theorem wit_executes_base : ([.nop m0, .bra m0 4#21,
    .brc m0 4#17 false 1#3, .bhe m0 4#17 2#4,
    .bhn m0 4#17 2#4, .loop m0 4#15 5#6,
    .call m0 8#21, .calls m0 5#6,
    .ret m0, .apply m0 4#17 2#4 0#8 8#4 0#8 8#4,
    .done m0, .yield m0,
    .exit m0, .horBase m0 2#4 15#4 0#4,
    .handBase m0 15#4 2#4 1#4, .handnBase m0 2#4 3#4 4#4,
    .hxorBase m0 2#4 3#4 4#4, .hnotBase m0 2#4 3#4,
    .hmovBase m0 2#4 3#4, .hcntBase m0 63#6 15#4,
    .hfirstBase m0 63#6 15#4, .hmembBase m0 63#6 15#4 0#6 (some 64#64),
    .hposBase m0 63#6 15#4 63#6 none, .iaddBase m0 127#7 126#7 125#7 none,
    .isubBase m0 1#7 2#7 0#7 (some 0xFFFFFFFF80000000#64), .andBase m0 1#7 2#7 3#7 none,
    .orBase m0 1#7 2#7 3#7 none, .xorBase m0 1#7 2#7 3#7 none,
    .shlBase m0 1#7 2#7 31#5 none, .shrBase m0 1#7 2#7 0#5 (some 32#64),
    .movBase m0 1#7 2#7, .saddBase m0 3#6 3#6 2#6 none,
    .smovBase m0 63#6 62#6, .faddBase m0 1#7 2#7 3#7 none,
    .fmulBase m0 1#7 2#7 0#7 (some 0x3F800000#64)] : List Instr).all (fun i => i.core && meets i base) = true := by decide +kernel

theorem wit_executes_hands : ([.htest .nan false { x0 with ty := 11#5, d := 2#8, a := 3#8, b := 1#8, c := 4#8, e := 6#8 }, .htesti .lt true { x0 with ty := 4#5, d := 2#8, a := 3#8, c := 5#8, imm := 4#8 },
    .hbit false { x0 with ty := 15#5, d := 4#8, a := 7#8, b := 2#8, c := 1#8, imm := 31#8 }, .horExt { x0 with d := 2#8, a := 15#8 },
    .handExt { x0 with d := 2#8 }, .handnExt { x0 with d := 2#8 },
    .hxorExt { x0 with d := 2#8 }, .hnotExt { x0 with d := 2#8 },
    .hmovExt { x0 with d := 15#8 }, .hcntExt { x0 with d := 63#8 },
    .hfirstExt x0, .hmembExt { x0 with lit := some 64#64 },
    .hposExt x0, .hpick { x0 with d := 2#8 },
    .hrange { x0 with d := 2#8 }, .hfence x0] : List Instr).all (fun i => i.core && meets i base) = true := by decide +kernel

theorem wit_executes_vectors : ([.iaddExt { x0 with ty := 6#5, d := 254#8, a := 2#8, b := 4#8 }, .isubExt { x0 with ty := 6#5, d := 254#8, a := 2#8, b := 4#8 },
    .imul { x0 with ty := 6#5, d := 254#8, a := 2#8, b := 4#8 }, .imulh { x0 with ty := 6#5, d := 254#8, a := 2#8, b := 4#8 },
    .imad { x0 with ty := 6#5, d := 254#8, a := 2#8, b := 4#8 }, .imin { x0 with ty := 6#5, d := 254#8, a := 2#8, b := 4#8 },
    .imax { x0 with ty := 6#5, d := 254#8, a := 2#8, b := 4#8 }, .iabs { x0 with ty := 5#5, sat := true },
    .iset .ge { x0 with ty := 7#5 }, .sel { x0 with ty := 16#5 },
    .andExt { x0 with ty := 16#5 }, .orExt { x0 with ty := 16#5 },
    .xorExt { x0 with ty := 16#5 }, .lut3 { x0 with ty := 16#5 },
    .popc { x0 with ty := 16#5 }, .clz { x0 with ty := 16#5 },
    .brev { x0 with ty := 16#5 }, .movExt { x0 with ty := 16#5 },
    .movi { x0 with ty := 16#5 }, .shlExt { x0 with ty := 4#5, lit := some 32#64 },
    .shrExt { x0 with ty := 4#5, lit := some 32#64 }, .sar { x0 with ty := 7#5, b := 255#8 },
    .fshl { x0 with ty := 15#5, imm := 159#8 }, .fshr { x0 with ty := 15#5 },
    .bfe { x0 with ty := 5#5 }, .bfi { x0 with ty := 15#5 }] : List Instr).all (fun i => i.core && meets i base) = true := by decide +kernel

theorem wit_executes_scalars : ([.saddExt { x0 with ty := 7#5, d := 63#8 }, .ssub { x0 with ty := 7#5, d := 63#8 },
    .smul { x0 with ty := 7#5, d := 63#8 }, .sand { x0 with ty := 7#5, d := 63#8 },
    .sor { x0 with ty := 7#5, d := 63#8 }, .sxor { x0 with ty := 7#5, d := 63#8 },
    .sshl { x0 with ty := 7#5, d := 63#8 }, .sshr { x0 with ty := 7#5, d := 63#8 },
    .smin { x0 with ty := 7#5, d := 63#8 }, .smax { x0 with ty := 7#5, d := 63#8 },
    .smovExt { x0 with d := 67#8, a := 64#8 }, .smovi { x0 with d := 67#8, lit := some 0x8000000000000000#64 },
    .scmp .le { x0 with ty := 6#5, d := 7#8 }, .kop .andn { x0 with d := 1#8, a := 7#8, b := 7#8 },
    .kop .not { x0 with d := 1#8, a := 7#8 }] : List Instr).all (fun i => i.core && meets i base) = true := by decide +kernel

theorem wit_executes_lanes : ([.shfl .xor { x0 with ty := 16#5 }, .lred .fadd { x0 with ty := 10#5, rnd := 3#3 },
    .lscan true .max { x0 with ty := 7#5 }, .vbcast { x0 with ty := 15#5, imm := 1#8 },
    .vbcast { x0 with ty := 16#5, lit := some 63#64 }, .vlane { x0 with ty := 15#5 },
    .topki 3#2 { x0 with ty := 10#5, d := 240#8 }] : List Instr).all (fun i => i.core && meets i base) = true := by decide +kernel

theorem wit_executes_floats : ([.faddExt { x0 with ty := 11#5, mod := 15#4 }, .faddExt { x0 with ty := 19#5, mod := 15#4 },
    .fsub { x0 with ty := 11#5, mod := 15#4 }, .fsub { x0 with ty := 19#5, mod := 15#4 },
    .fmulExt { x0 with ty := 11#5, mod := 15#4 }, .fmulExt { x0 with ty := 19#5, mod := 15#4 },
    .ffma { x0 with ty := 11#5, mod := 15#4 }, .ffma { x0 with ty := 19#5, mod := 15#4 },
    .fmin { x0 with ty := 11#5, mod := 15#4 }, .fmin { x0 with ty := 19#5, mod := 15#4 },
    .fmax { x0 with ty := 11#5, mod := 15#4 }, .fmax { x0 with ty := 19#5, mod := 15#4 },
    .fset .num { x0 with ty := 11#5 }, .fclass { x0 with ty := 8#5 },
    .frnd { x0 with ty := 11#5, rnd := 3#3 }, .fdiv { x0 with ty := 11#5 },
    .fsqrt { x0 with ty := 11#5 }, .frcp { x0 with ty := 11#5 },
    .frsq { x0 with ty := 11#5 }, .fexp2 { x0 with ty := 10#5 },
    .flog2 { x0 with ty := 10#5 }, .fsin { x0 with ty := 10#5 },
    .fcos { x0 with ty := 10#5 }, .ftanh { x0 with ty := 10#5 },
    .cvt 10#5 { x0 with ty := 12#5, sat := true }, .cvt 17#5 { x0 with ty := 19#5 },
    .bfpq { x0 with ty := 10#5, d := 1#8, imm := 8#8 }, .bfpx { x0 with ty := 10#5, imm := 2#8 },
    .fmtw { x0 with a := 118#8, b := 1#8, c := 1#8, imm := 1#8 }] : List Instr).all (fun i => i.core && meets i base) = true := by decide +kernel

theorem wit_executes_memory : ([.ld { x0 with ty := 16#5, hint := 4#3 }, .st { x0 with ty := 16#5, hint := 4#3 },
    .lds { x0 with ty := 16#5, hint := 4#3 }, .sts { x0 with ty := 16#5, hint := 4#3 },
    .pref { x0 with ty := 16#5, hint := 4#3 }, .atom .cas { x0 with ty := 16#5, imm := 28#8, e := 2#8 },
    .atom .fadd { x0 with ty := 10#5 }, .sred .xor { x0 with ty := 15#5 },
    .ldo { x0 with ty := 3#5 }, .sto { x0 with ty := 16#5, c := 1#8, a := 63#8 },
    .ldc { x0 with ty := 4#5, b := 7#8 }, .stp { x0 with ty := 4#5, b := 1#8 },
    .smap { x0 with imm := 3#8 }, .sflush x0,
    .sinv { x0 with lit := some 3#64 }, .bld x0,
    .bset { x0 with imm := 7#8 }, .hld { x0 with d := 2#8 },
    .hst { x0 with d := 1#8 }, .fence 2#2 4#3 x0,
    .waitc { x0 with d := 6#8, imm := 63#8 }, .sbinit x0,
    .sbexp x0, .sbarv x0,
    .sbwait x0, .barHand { x0 with a := 1#8 },
    .barGang x0] : List Instr).all (fun i => i.core && meets i base) = true := by decide +kernel

theorem wit_executes_engines : ([.tdef { x0 with d := 63#8, e := 31#8, ty := 31#5 }, .trel x0,
    .tstat x0, .mma { x0 with ty := 14#5, c := 255#8, e := 15#8 },
    .mzero { x0 with ty := 11#5 }, .mload x0,
    .mdrain { x0 with imm := 255#8 }, .cpy { x0 with imm := 128#8, c := 3#8 },
    .cpo { x0 with imm := 64#8 }, .gath x0,
    .qpost { x0 with c := 1#8 }, .qpop x0,
    .launch { x0 with c := 7#8 }, .cmpl x0,
    .rtsend { x0 with d := 252#8 }, .rtflush x0,
    .rtrecv { x0 with imm := 1#8 }, .rtrel x0,
    .spill { x0 with a := 15#8 }, .fill x0,
    .tokw x0, .vdec { x0 with ty := 9#5 },
    .vdstat x0, .auct { x0 with a := 57#8 },
    .aust x0, .fork x0,
    .grwd x0, .gbar x0,
    .gcancel x0, .gstat { x0 with imm := 15#8 },
    .walk x0] : List Instr).all (fun i => i.core && meets i base) = true := by decide +kernel

theorem wit_executes_system : ([.mfs { x0 with a := 63#8 }, .mts { x0 with d := 17#8 },
    .trap { x0 with imm := 255#8 }, .bkpt x0,
    .dmbx x0, .eret { x0 with imm := 1#8 },
    .fpop { x0 with d := 60#8, c := 1#8 }, .fres x0,
    .tlbi { x0 with imm := 2#8 }, .biasf { x0 with imm := 1#8 },
    .ctxs { x0 with c := 1#8 }, .ctxl { x0 with c := 7#8 }] : List Instr).all (fun i => i.core && meets i base) = true := by decide +kernel

/-! ### Ill-formed terms, one for each check of WellFormed -/

/-- TYPE not listed, HINT, RND, SAT, MOD, IMM8 where the instruction has none or above its range (R183). -/
theorem test_refuses_modifiers : ([.iaddExt { x0 with ty := 10#5 }, .ld { x0 with hint := 5#3 }, .lds { x0 with ty := 14#5 },
    .iaddExt { x0 with ty := 4#5, hint := 1#3 }, .faddExt { x0 with ty := 10#5, rnd := 4#3 }, .fmin { x0 with ty := 10#5, rnd := 1#3 },
    .imin { x0 with ty := 5#5, sat := true }, .imul { x0 with ty := 5#5, mod := 1#4 }, .imul { x0 with ty := 5#5, imm := 1#8 },
    .ffma { x0 with ty := 10#5, imm := 4#8 }, .bfpx { x0 with ty := 10#5, imm := 1#8 }, .bfpx { x0 with ty := 10#5, imm := 9#8 },
    .hbit true { x0 with ty := 15#5, d := 2#8, a := 3#8, imm := 32#8 }] : List Instr).all (fun i => !i.wellFormed) = true := by decide +kernel

/-- Register classes (R184): unused fields, pairs, quads, s, s or i, k, k1-k7, h, h2-h15, b, t, m, z. -/
theorem test_refuses_operands : ([.horExt { x0 with d := 2#8, c := 1#8 }, .iaddExt { x0 with ty := 6#5, d := 1#8 },
    .iaddExt { x0 with ty := 6#5, b := 3#8 }, .rtsend { x0 with d := 2#8 }, .hcntExt { x0 with d := 64#8 }, .smovExt { x0 with d := 68#8 },
    .kop .and { x0 with d := 1#8, a := 8#8 }, .kop .and { x0 with d := 0#8 }, .launch { x0 with c := 8#8 }, .hcntExt { x0 with a := 16#8 },
    .hmovExt { x0 with d := 1#8 }, .hmovExt { x0 with d := 16#8 }, .bld { x0 with d := 16#8 }, .trel { x0 with d := 64#8 },
    .mzero { x0 with d := 16#8 }, .tokw { x0 with a := 16#8 }] : List Instr).all (fun i => !i.wellFormed) = true := by decide +kernel

/-- IX (R185): a nonzero low part, a field that is no vector operand, bits without the enable; literals (R186): where none is
taken, with the replaced field not 0, with illegal high bits. -/
theorem test_refuses_ix_and_literals : ([.faddExt { x0 with ty := 10#5, e := 0xA4#8 }, .faddExt { x0 with ty := 10#5, e := 0x98#8 },
    .faddExt { x0 with ty := 10#5, e := 0x08#8 }, .saddExt { x0 with ty := 7#5, e := 0x80#8 }, .horExt { x0 with d := 2#8, lit := some 0#64 },
    .iaddExt { x0 with ty := 5#5, b := 1#8, lit := some 1#64 }, .ld { x0 with imm := 1#8, lit := some 1#64 },
    .iaddExt { x0 with ty := 5#5, lit := some 0xFFFFFFFF00000000#64 }, .iaddExt { x0 with ty := 5#5, lit := some 0x100000000#64 },
    .hmembBase m0 1#6 1#4 1#6 (some 0#64), .iaddBase m0 1#7 1#7 1#7 (some 0#64), .iaddBase m0 1#7 1#7 0#7 (some 0x100000000#64),
    .shlBase m0 1#7 1#7 1#5 (some 0#64), .saddBase m0 1#6 1#6 0#6 none] : List Instr).all (fun i => !i.wellFormed) = true := by decide +kernel

/-- The rules of instructions of their own. -/
theorem test_refuses_own_rules : ([.htest .lt true { x0 with ty := 4#5, d := 2#8, a := 2#8 },
    .htest .nan true { x0 with ty := 4#5, d := 2#8, a := 3#8 }, .htesti .num true { x0 with ty := 4#5, d := 2#8, a := 3#8 },
    .hbit true { x0 with ty := 15#5, d := 2#8, a := 2#8 }, .iset .nan { x0 with ty := 4#5 }, .scmp .num { x0 with ty := 7#5, d := 1#8 },
    .fshl { x0 with ty := 15#5, imm := 0xA0#8 }, .fshr { x0 with ty := 15#5, imm := 0x80#8, c := 1#8 }, .fshr { x0 with ty := 15#5, imm := 1#8 },
    .saddExt { x0 with ty := 16#5, sat := true }, .kop .mov { x0 with d := 1#8, b := 1#8 }, .topki 0#2 { x0 with ty := 4#5, d := 255#8 },
    .cvt 5#5 { x0 with ty := 4#5, rnd := 1#3 }, .cvt 10#5 { x0 with ty := 5#5, sat := true }, .cvt 17#5 { x0 with ty := 10#5 },
    .bfpq { x0 with ty := 10#5, d := 3#8, a := 3#8, imm := 2#8 }, .fmtw { x0 with a := 7#8 }, .fmtw { x0 with b := 6#8 },
    .fmtw { x0 with a := 0x10#8 }, .atom .add { x0 with ty := 4#5, imm := 5#8 },
    .atom .add { x0 with ty := 4#5, imm := 32#8 }, .sred .cas { x0 with ty := 15#5 }, .ldo { x0 with c := 2#8 }, .fence 0#2 5#3 x0,
    .waitc { x0 with d := 7#8 }, .waitc { x0 with imm := 64#8 }, .tdef { x0 with e := 32#8 }, .auct { x0 with a := 0#8 }, .auct { x0 with a := 58#8 },
    .mfs { x0 with a := 20#8 }, .mts { x0 with d := 16#8 }, .fpop { x0 with d := 61#8, c := 1#8 }] : List Instr).all
    (fun i => !i.wellFormed) = true := by decide +kernel

/-- Base forms (R181, R182) and the walker (R333). -/
theorem test_refuses_base : ([.loop m0 0#15 0#6, .apply m0 4#17 2#4 0#8 9#4 0#8 0#4, .apply m0 4#17 2#4 0#8 0#4 0#8 9#4,
    .apply m0 4#17 2#4 1#8 0#4 0#8 0#4, .apply m0 4#17 2#4 0#8 0#4 1#8 0#4, .horBase m0 1#4 2#4 3#4, .handBase m0 0#4 2#4 3#4,
    .handnBase m0 1#4 2#4 3#4, .hxorBase m0 1#4 2#4 3#4, .hnotBase m0 1#4 2#4, .hmovBase m0 0#4 2#4, .wrun 1#4 1#4 0#4 0#3] :
    List Instr).all (fun i => !i.wellFormed) = true := by decide +kernel

/-! ### Decoding: words written out bit by bit from the encodings of R180-R198, R331 -/

/-- What a word sequence decodes to, and the bad-instruction kind otherwise. -/
def dec (ws : List Word) : Option Instr := match decode (bytesOf ws) with
  | .ok (i, []) => some i
  | _ => none
def badOf (ws : List Word) : Option BadKind := match decode (bytesOf ws) with
  | .ok _ => none
  | .error b => some b.kind

/-- The words worked out in spec/ for the assembler’s examples. -/
theorem test_worked_words : Obligations.WorkedWordsDecode := by
  unfold Obligations.WorkedWordsDecode
  decide +kernel

theorem test_words_of_examples :
    dec [0x00005E61#32, 0#32, 0#32] = some (.fence 1#2 3#3 x0) ∧
    dec [0x004806B5#32, 0x08010000#32, 0x00000002#32] = some (.mma { x0 with m := ⟨false, true⟩, ty := 9#5, b := 1#8, c := 8#8, e := 2#8 }) ∧
    dec [0x000016C5#32, 0x02080002#32, 0#32] = some (.mdrain { x0 with m := ⟨false, true⟩, d := 2#8, b := 8#8, c := 2#8 }) ∧
    dec [0x000004F1#32, 0x00010108#32, 0x01000000#32] = some (.fmtw { x0 with d := 8#8, a := 1#8, b := 1#8, imm := 1#8 }) ∧
    dec [0x0003B09A#32, 0x00102101#32, 0#32] = some (.apply ⟨true, false⟩ 7#17 6#4 1#8 1#4 2#8 1#4) ∧
    dec [0x00280247#32, 0x04000101#32, 0#32, 3#32, 0#32] =
      some (.imad { x0 with m := ⟨false, true⟩, ty := 5#5, d := 1#8, a := 1#8, c := 4#8, lit := some 3#64 }) ∧
    dec [0x00780371#32, 0x00000004#32, 0x01000000#32] = some (.movi { x0 with ty := 15#5, d := 4#8, imm := 1#8 }) := by decide +kernel

/-- Every instruction of an agent, by family, from the layouts of R181-R183 and the codes of R195-R198. -/
def readsAs (l : List (List Word × Instr)) : Bool := l.all fun p => dec p.1 == some p.2 && p.2.encode == p.1

theorem test_words_control : readsAs [
    ([0x00000004#32], .nop ⟨false, true⟩),
    ([0xFFFFE810#32], .bra m0 2097149#21),
    ([0xFFFF6820#32], .brc m0 131070#17 true 5#3),
    ([0x0004B830#32], .bhe m0 9#17 7#4),
    ([0x0004F840#32], .bhn m0 9#17 15#4),
    ([0xFFF75050#32], .loop m0 32763#15 42#6),
    ([0x00032068#32], .call ⟨true, false⟩ 100#21),
    ([0x00FC0070#32], .calls m0 63#6),
    ([0x00000080#32], .ret m0),
    ([0x000000A0#32], .done m0),
    ([0xFFFFB092#32, 0x007C98C8#32, 0#32], .apply m0 131071#17 6#4 200#8 8#4 201#8 7#4),
    ([0x000000B8#32], .yield ⟨true, false⟩),
    ([0x000000C0#32], .exit m0)] = true := by decide +kernel

theorem test_words_hands : readsAs [
    ([0x004F9130#32], .horBase m0 2#4 15#4 9#4),
    ([0x00CF9130#32], .handBase m0 2#4 15#4 9#4),
    ([0x014F9130#32], .handnBase m0 2#4 15#4 9#4),
    ([0x01CF9130#32], .hxorBase m0 2#4 15#4 9#4),
    ([0x02079130#32], .hnotBase m0 2#4 15#4),
    ([0x02879130#32], .hmovBase m0 2#4 15#4),
    ([0x001FE940#32], .hcntBase m0 61#6 15#4),
    ([0x101FE940#32], .hfirstBase m0 61#6 15#4),
    ([0x245FE940#32], .hmembBase m0 61#6 15#4 34#6 none),
    ([0x345FE940#32], .hposBase m0 61#6 15#4 34#6 none),
    ([0x201FE942#32, 0x0000003F#32, 0#32], .hmembBase m0 61#6 15#4 0#6 (some 63#64)),
    ([0x301FE942#32, 0x00000001#32, 0#32], .hposBase m0 61#6 15#4 0#6 (some 1#64)),
    ([0x003C2901#32, 0x040F0302#32, 0x00000006#32], .htest .ge true { x0 with ty := 7#5, d := 2#8, a := 3#8, b := 15#8, c := 4#8, e := 6#8 }),
    ([0x00201113#32, 0x05010302#32, 0#32, 0x00000007#32, 0#32], .htesti .lt false { x0 with ty := 4#5, d := 2#8, a := 3#8, b := 1#8, c := 5#8, lit := some 0x7#64 }),
    ([0x00840121#32, 0x0800020F#32, 0x3F000000#32], .hbit true { x0 with ty := 16#5, d := 15#8, a := 2#8, c := 8#8, imm := 63#8 }),
    ([0x00000131#32, 0x000D0E0F#32, 0#32], .horExt { x0 with d := 15#8, a := 14#8, b := 13#8 }),
    ([0x00000931#32, 0x000D0E0F#32, 0#32], .handExt { x0 with d := 15#8, a := 14#8, b := 13#8 }),
    ([0x00001131#32, 0x000D0E0F#32, 0#32], .handnExt { x0 with d := 15#8, a := 14#8, b := 13#8 }),
    ([0x00001931#32, 0x000D0E0F#32, 0#32], .hxorExt { x0 with d := 15#8, a := 14#8, b := 13#8 }),
    ([0x00002131#32, 0x00000E0F#32, 0#32], .hnotExt { x0 with d := 15#8, a := 14#8 }),
    ([0x00002931#32, 0x00000E0F#32, 0#32], .hmovExt { x0 with d := 15#8, a := 14#8 }),
    ([0x00000141#32, 0x00000F3F#32, 0#32], .hcntExt { x0 with d := 63#8, a := 15#8 }),
    ([0x00000941#32, 0x00000F3F#32, 0#32], .hfirstExt { x0 with d := 63#8, a := 15#8 }),
    ([0x00001141#32, 0x003E0F3F#32, 0#32], .hmembExt { x0 with d := 63#8, a := 15#8, b := 62#8 }),
    ([0x00001943#32, 0x00000F3F#32, 0#32, 0x0000003F#32, 0#32], .hposExt { x0 with d := 63#8, a := 15#8, lit := some 0x3F#64 }),
    ([0x00000151#32, 0x3E3F0F02#32, 0#32], .hpick { x0 with d := 2#8, a := 15#8, b := 63#8, c := 62#8 }),
    ([0x00000951#32, 0x003E3F02#32, 0x0000E900#32], .hrange { x0 with d := 2#8, a := 63#8, b := 62#8, g2 := 14#4, g1 := 9#4 }),
    ([0x00000161#32, 0#32, 0#32], .hfence x0)] = true := by decide +kernel

theorem test_words_vectors : readsAs [
    ([0x4303FA00#32], .iaddBase m0 127#7 64#7 33#7 none),
    ([0x4303FA10#32], .isubBase m0 127#7 64#7 33#7 none),
    ([0x4303FAA0#32], .andBase m0 127#7 64#7 33#7 none),
    ([0x4303FAB0#32], .orBase m0 127#7 64#7 33#7 none),
    ([0x4303FAC0#32], .xorBase m0 127#7 64#7 33#7 none),
    ([0x00080A02#32, 0xFFFFFFFF#32, 0xFFFFFFFF#32], .iaddBase m0 1#7 2#7 0#7 (some 0xFFFFFFFFFFFFFFFF#64)),
    ([0x3F03FAE0#32], .shlBase m0 127#7 64#7 31#5 none),
    ([0x3F03FAF0#32], .shrBase m0 127#7 64#7 31#5 none),
    ([0x0103FB60#32], .movBase m0 127#7 64#7),
    ([0x00380201#32, 0x00FAFCFE#32, 0x00080000#32], .iaddExt { x0 with ty := 7#5, d := 254#8, a := 252#8, b := 250#8, sat := true }),
    ([0x00380211#32, 0x00FAFCFE#32, 0x00080000#32], .isubExt { x0 with ty := 7#5, d := 254#8, a := 252#8, b := 250#8, sat := true }),
    ([0x00380221#32, 0x00FAFCFE#32, 0x00080000#32], .imul { x0 with ty := 7#5, d := 254#8, a := 252#8, b := 250#8, sat := true }),
    ([0x00380241#32, 0xF8FAFCFE#32, 0x00080000#32], .imad { x0 with ty := 7#5, d := 254#8, a := 252#8, b := 250#8, c := 248#8, sat := true }),
    ([0x00200233#32, 0x0000FEFF#32, 0#32, 0x00000005#32, 0#32], .imulh { x0 with ty := 4#5, d := 255#8, a := 254#8, lit := some 0x5#64 }),
    ([0x00200253#32, 0x0000FEFF#32, 0#32, 0x00000005#32, 0#32], .imin { x0 with ty := 4#5, d := 255#8, a := 254#8, lit := some 0x5#64 }),
    ([0x00200263#32, 0x0000FEFF#32, 0#32, 0x00000005#32, 0#32], .imax { x0 with ty := 4#5, d := 255#8, a := 254#8, lit := some 0x5#64 }),
    ([0x00280271#32, 0x000001FF#32, 0#32], .iabs { x0 with ty := 5#5, d := 255#8, a := 1#8 }),
    ([0x00301A81#32, 0x00060403#32, 0#32], .iset .le { x0 with ty := 6#5, d := 3#8, a := 4#8, b := 6#8 }),
    ([0x00780291#32, 0x04030201#32, 0#32], .sel { x0 with ty := 15#5, d := 1#8, a := 2#8, b := 3#8, c := 4#8 }),
    ([0x008002A1#32, 0x00060402#32, 0#32], .andExt { x0 with ty := 16#5, d := 2#8, a := 4#8, b := 6#8 }),
    ([0x008002B1#32, 0x00060402#32, 0#32], .orExt { x0 with ty := 16#5, d := 2#8, a := 4#8, b := 6#8 }),
    ([0x008002C1#32, 0x00060402#32, 0#32], .xorExt { x0 with ty := 16#5, d := 2#8, a := 4#8, b := 6#8 }),
    ([0x007802D1#32, 0x04030201#32, 0xE8000000#32], .lut3 { x0 with ty := 15#5, d := 1#8, a := 2#8, b := 3#8, c := 4#8, imm := 232#8 }),
    ([0x002002E1#32, 0x00070402#32, 0#32], .shlExt { x0 with ty := 4#5, d := 2#8, a := 4#8, b := 7#8 }),
    ([0x003002F1#32, 0x00070402#32, 0#32], .shrExt { x0 with ty := 6#5, d := 2#8, a := 4#8, b := 7#8 }),
    ([0x00280301#32, 0x00070402#32, 0#32], .sar { x0 with ty := 5#5, d := 2#8, a := 4#8, b := 7#8 }),
    ([0x00780311#32, 0x00030201#32, 0x9F000000#32], .fshl { x0 with ty := 15#5, d := 1#8, a := 2#8, b := 3#8, imm := 159#8 }),
    ([0x00780321#32, 0x04030201#32, 0#32], .fshr { x0 with ty := 15#5, d := 1#8, a := 2#8, b := 3#8, c := 4#8 }),
    ([0x00780331#32, 0x00000201#32, 0#32], .popc { x0 with ty := 15#5, d := 1#8, a := 2#8 }),
    ([0x00780B31#32, 0x00000201#32, 0#32], .clz { x0 with ty := 15#5, d := 1#8, a := 2#8 }),
    ([0x00781331#32, 0x00000201#32, 0#32], .brev { x0 with ty := 15#5, d := 1#8, a := 2#8 }),
    ([0x00280341#32, 0x00030201#32, 0#32], .bfe { x0 with ty := 5#5, d := 1#8, a := 2#8, b := 3#8 }),
    ([0x00780351#32, 0x04030201#32, 0#32], .bfi { x0 with ty := 15#5, d := 1#8, a := 2#8, b := 3#8, c := 4#8 }),
    ([0x00800361#32, 0x00000402#32, 0#32], .movExt { x0 with ty := 16#5, d := 2#8, a := 4#8 }),
    ([0x00780371#32, 0x00000003#32, 0xFF000000#32], .movi { x0 with ty := 15#5, d := 3#8, imm := 255#8 })] = true := by decide +kernel

theorem test_words_scalars_lanes : readsAs [
    ([0x7AF9FB80#32], .saddBase m0 63#6 62#6 61#6 none),
    ([0x00F9FB80#32], .smovBase m0 63#6 62#6),
    ([0x00080B82#32, 0x9ABCDEF0#32, 0x12345678#32], .saddBase m0 1#6 2#6 0#6 (some 0x123456789ABCDEF0#64)),
    ([0x00380381#32, 0x003D3E3F#32, 0x00080000#32], .saddExt { x0 with ty := 7#5, d := 63#8, a := 62#8, b := 61#8, sat := true }),
    ([0x00380B81#32, 0x003D3E3F#32, 0x00080000#32], .ssub { x0 with ty := 7#5, d := 63#8, a := 62#8, b := 61#8, sat := true }),
    ([0x00381381#32, 0x003D3E3F#32, 0x00080000#32], .smul { x0 with ty := 7#5, d := 63#8, a := 62#8, b := 61#8, sat := true }),
    ([0x00801B81#32, 0x003D3E3F#32, 0#32], .sand { x0 with ty := 16#5, d := 63#8, a := 62#8, b := 61#8 }),
    ([0x00802381#32, 0x003D3E3F#32, 0#32], .sor { x0 with ty := 16#5, d := 63#8, a := 62#8, b := 61#8 }),
    ([0x00802B81#32, 0x003D3E3F#32, 0#32], .sxor { x0 with ty := 16#5, d := 63#8, a := 62#8, b := 61#8 }),
    ([0x00803381#32, 0x003D3E3F#32, 0#32], .sshl { x0 with ty := 16#5, d := 63#8, a := 62#8, b := 61#8 }),
    ([0x00803B81#32, 0x003D3E3F#32, 0#32], .sshr { x0 with ty := 16#5, d := 63#8, a := 62#8, b := 61#8 }),
    ([0x00304381#32, 0x003D3E3F#32, 0#32], .smin { x0 with ty := 6#5, d := 63#8, a := 62#8, b := 61#8 }),
    ([0x00304B81#32, 0x003D3E3F#32, 0#32], .smax { x0 with ty := 6#5, d := 63#8, a := 62#8, b := 61#8 }),
    ([0x00005381#32, 0x00003F43#32, 0#32], .smovExt { x0 with d := 67#8, a := 63#8 }),
    ([0x00005B81#32, 0x00000001#32, 0x80000000#32], .smovi { x0 with d := 1#8, imm := 128#8 }),
    ([0x00382391#32, 0x003D3E07#32, 0#32], .scmp .gt { x0 with ty := 7#5, d := 7#8, a := 62#8, b := 61#8 }),
    ([0x000003A1#32, 0x00060701#32, 0#32], .kop .and { x0 with d := 1#8, a := 7#8, b := 6#8 }),
    ([0x00000BA1#32, 0x00060701#32, 0#32], .kop .or { x0 with d := 1#8, a := 7#8, b := 6#8 }),
    ([0x000013A1#32, 0x00060701#32, 0#32], .kop .xor { x0 with d := 1#8, a := 7#8, b := 6#8 }),
    ([0x00001BA1#32, 0x00060701#32, 0#32], .kop .andn { x0 with d := 1#8, a := 7#8, b := 6#8 }),
    ([0x000023A1#32, 0x00000701#32, 0#32], .kop .not { x0 with d := 1#8, a := 7#8 }),
    ([0x00002BA1#32, 0x00000701#32, 0#32], .kop .mov { x0 with d := 1#8, a := 7#8 }),
    ([0x00780501#32, 0x00030201#32, 0#32], .shfl .idx { x0 with ty := 15#5, d := 1#8, a := 2#8, b := 3#8 }),
    ([0x00780D01#32, 0x00030201#32, 0#32], .shfl .up { x0 with ty := 15#5, d := 1#8, a := 2#8, b := 3#8 }),
    ([0x00781501#32, 0x00030201#32, 0#32], .shfl .down { x0 with ty := 15#5, d := 1#8, a := 2#8, b := 3#8 }),
    ([0x00781D01#32, 0x00030201#32, 0#32], .shfl .xor { x0 with ty := 15#5, d := 1#8, a := 2#8, b := 3#8 }),
    ([0x00200511#32, 0x00000402#32, 0#32], .lred .add { x0 with ty := 4#5, d := 2#8, a := 4#8 }),
    ([0x00280D11#32, 0x00000402#32, 0#32], .lred .min { x0 with ty := 5#5, d := 2#8, a := 4#8 }),
    ([0x00281511#32, 0x00000402#32, 0#32], .lred .max { x0 with ty := 5#5, d := 2#8, a := 4#8 }),
    ([0x00781D11#32, 0x00000402#32, 0#32], .lred .and { x0 with ty := 15#5, d := 2#8, a := 4#8 }),
    ([0x00782511#32, 0x00000402#32, 0#32], .lred .or { x0 with ty := 15#5, d := 2#8, a := 4#8 }),
    ([0x00802D11#32, 0x00000402#32, 0#32], .lred .xor { x0 with ty := 16#5, d := 2#8, a := 4#8 }),
    ([0x00503511#32, 0x00000402#32, 0#32], .lred .fadd { x0 with ty := 10#5, d := 2#8, a := 4#8 }),
    ([0x00503D11#32, 0x00000402#32, 0#32], .lred .fmin { x0 with ty := 10#5, d := 2#8, a := 4#8 }),
    ([0x00504511#32, 0x00000402#32, 0#32], .lred .fmax { x0 with ty := 10#5, d := 2#8, a := 4#8 }),
    ([0x003C0521#32, 0x00000402#32, 0#32], .lscan true .add { x0 with ty := 7#5, d := 2#8, a := 4#8 }),
    ([0x00584521#32, 0x00000402#32, 0#32], .lscan false .fmax { x0 with ty := 11#5, d := 2#8, a := 4#8 }),
    ([0x00780531#32, 0x00003F01#32, 0x01000000#32], .vbcast { x0 with ty := 15#5, d := 1#8, a := 63#8, imm := 1#8 }),
    ([0x00800541#32, 0x003EFE3F#32, 0#32], .vlane { x0 with ty := 16#5, d := 63#8, a := 254#8, b := 62#8 }),
    ([0x00501551#32, 0x00020108#32, 0#32], .topki 2#2 { x0 with ty := 10#5, d := 8#8, a := 1#8, b := 2#8 })] = true := by decide +kernel

theorem test_words_floats : readsAs [
    ([0x4303FC00#32], .faddBase m0 127#7 64#7 33#7 none),
    ([0x4303FC20#32], .fmulBase m0 127#7 64#7 33#7 none),
    ([0x00900401#32, 0x00030201#32, 0x00930000#32], .faddExt { x0 with ty := 18#5, d := 1#8, a := 2#8, b := 3#8, mod := 9#4, rnd := 3#3 }),
    ([0x00900411#32, 0x00030201#32, 0x00930000#32], .fsub { x0 with ty := 18#5, d := 1#8, a := 2#8, b := 3#8, mod := 9#4, rnd := 3#3 }),
    ([0x00900421#32, 0x00030201#32, 0x00930000#32], .fmulExt { x0 with ty := 18#5, d := 1#8, a := 2#8, b := 3#8, mod := 9#4, rnd := 3#3 }),
    ([0x00900431#32, 0x04030201#32, 0x00930000#32], .ffma { x0 with ty := 18#5, d := 1#8, a := 2#8, b := 3#8, c := 4#8, mod := 9#4, rnd := 3#3 }),
    ([0x00980441#32, 0x00030201#32, 0x00600000#32], .fmin { x0 with ty := 19#5, d := 1#8, a := 2#8, b := 3#8, mod := 6#4 }),
    ([0x00980451#32, 0x00030201#32, 0x00600000#32], .fmax { x0 with ty := 19#5, d := 1#8, a := 2#8, b := 3#8, mod := 6#4 }),
    ([0x00503C61#32, 0x00030201#32, 0#32], .fset .num { x0 with ty := 10#5, d := 1#8, a := 2#8, b := 3#8 }),
    ([0x00680471#32, 0x00000201#32, 0#32], .fclass { x0 with ty := 13#5, d := 1#8, a := 2#8 }),
    ([0x00580481#32, 0x00000402#32, 0x00020000#32], .frnd { x0 with ty := 11#5, d := 2#8, a := 4#8, rnd := 2#3 }),
    ([0x00500491#32, 0x00030201#32, 0x00010000#32], .fdiv { x0 with ty := 10#5, d := 1#8, a := 2#8, b := 3#8, rnd := 1#3 }),
    ([0x005004A1#32, 0x00000201#32, 0x00010000#32], .fsqrt { x0 with ty := 10#5, d := 1#8, a := 2#8, rnd := 1#3 }),
    ([0x005804B1#32, 0x00000402#32, 0#32], .frcp { x0 with ty := 11#5, d := 2#8, a := 4#8 }),
    ([0x00580CB1#32, 0x00000402#32, 0#32], .frsq { x0 with ty := 11#5, d := 2#8, a := 4#8 }),
    ([0x005014B1#32, 0x00000402#32, 0#32], .fexp2 { x0 with ty := 10#5, d := 2#8, a := 4#8 }),
    ([0x00501CB1#32, 0x00000402#32, 0#32], .flog2 { x0 with ty := 10#5, d := 2#8, a := 4#8 }),
    ([0x005024B1#32, 0x00000402#32, 0#32], .fsin { x0 with ty := 10#5, d := 2#8, a := 4#8 }),
    ([0x00502CB1#32, 0x00000402#32, 0#32], .fcos { x0 with ty := 10#5, d := 2#8, a := 4#8 }),
    ([0x005034B1#32, 0x00000402#32, 0#32], .ftanh { x0 with ty := 10#5, d := 2#8, a := 4#8 }),
    ([0x00582CC1#32, 0x00000302#32, 0x00030000#32], .cvt 5#5 { x0 with ty := 11#5, d := 2#8, a := 3#8, rnd := 3#3 }),
    ([0x005004D1#32, 0x00030201#32, 0x08000000#32], .bfpq { x0 with ty := 10#5, d := 1#8, a := 2#8, b := 3#8, imm := 8#8 }),
    ([0x005004E1#32, 0x00030201#32, 0x02080000#32], .bfpx { x0 with ty := 10#5, d := 1#8, a := 2#8, b := 3#8, imm := 2#8, sat := true }),
    ([0x000004F1#32, 0x01057608#32, 0x01000000#32], .fmtw { x0 with d := 8#8, a := 118#8, b := 5#8, c := 1#8, imm := 1#8 })] = true := by decide +kernel

theorem test_words_memory : readsAs [
    ([0x04000581#32, 0x00020F01#32, 0xFF000000#32], .ld { x0 with hint := 4#3, d := 1#8, a := 15#8, b := 2#8, imm := 255#8 }),
    ([0x04000591#32, 0x00020F01#32, 0xFF000000#32], .st { x0 with hint := 4#3, d := 1#8, a := 15#8, b := 2#8, imm := 255#8 }),
    ([0x003805A3#32, 0x003E0F3F#32, 0#32, 0x80000000#32, 0xFFFFFFFF#32], .lds { x0 with ty := 7#5, d := 63#8, a := 15#8, b := 62#8, lit := some 0xFFFFFFFF80000000#64 }),
    ([0x003805B3#32, 0x003E0F3F#32, 0#32, 0x80000000#32, 0xFFFFFFFF#32], .sts { x0 with ty := 7#5, d := 63#8, a := 15#8, b := 62#8, lit := some 0xFFFFFFFF80000000#64 }),
    ([0x002005C1#32, 0x03020F01#32, 0x1C000000#32], .atom .add { x0 with ty := 4#5, d := 1#8, a := 15#8, b := 2#8, c := 3#8, imm := 28#8 }),
    ([0x00200DC1#32, 0x03020F01#32, 0x1C000000#32], .atom .min { x0 with ty := 4#5, d := 1#8, a := 15#8, b := 2#8, c := 3#8, imm := 28#8 }),
    ([0x002015C1#32, 0x03020F01#32, 0x1C000000#32], .atom .max { x0 with ty := 4#5, d := 1#8, a := 15#8, b := 2#8, c := 3#8, imm := 28#8 }),
    ([0x00781DC1#32, 0x03020F01#32, 0x1C000000#32], .atom .and { x0 with ty := 15#5, d := 1#8, a := 15#8, b := 2#8, c := 3#8, imm := 28#8 }),
    ([0x007825C1#32, 0x03020F01#32, 0x1C000000#32], .atom .or { x0 with ty := 15#5, d := 1#8, a := 15#8, b := 2#8, c := 3#8, imm := 28#8 }),
    ([0x00782DC1#32, 0x03020F01#32, 0x1C000000#32], .atom .xor { x0 with ty := 15#5, d := 1#8, a := 15#8, b := 2#8, c := 3#8, imm := 28#8 }),
    ([0x007835C1#32, 0x03020F01#32, 0x1C000000#32], .atom .exch { x0 with ty := 15#5, d := 1#8, a := 15#8, b := 2#8, c := 3#8, imm := 28#8 }),
    ([0x00783DC1#32, 0x03020F01#32, 0x1C000007#32], .atom .cas { x0 with ty := 15#5, d := 1#8, a := 15#8, b := 2#8, c := 3#8, imm := 28#8, e := 7#8 }),
    ([0x005045C1#32, 0x03020F01#32, 0x1C000000#32], .atom .fadd { x0 with ty := 10#5, d := 1#8, a := 15#8, b := 2#8, c := 3#8, imm := 28#8 }),
    ([0x003005D1#32, 0x04020F00#32, 0#32], .sred .add { x0 with ty := 6#5, a := 15#8, b := 2#8, c := 4#8 }),
    ([0x005045D1#32, 0x04020F00#32, 0#32], .sred .fadd { x0 with ty := 10#5, a := 15#8, b := 2#8, c := 4#8 }),
    ([0x009805E1#32, 0x00020F00#32, 0x01000000#32], .pref { x0 with ty := 19#5, a := 15#8, b := 2#8, imm := 1#8 }),
    ([0x008005F1#32, 0x01003F04#32, 0x80000000#32], .ldo { x0 with ty := 16#5, d := 4#8, a := 63#8, c := 1#8, imm := 128#8 }),
    ([0x00800601#32, 0x01003F04#32, 0x80000000#32], .sto { x0 with ty := 16#5, d := 4#8, a := 63#8, c := 1#8, imm := 128#8 }),
    ([0x00200611#32, 0x0007FF04#32, 0x80000000#32], .ldc { x0 with ty := 4#5, d := 4#8, a := 255#8, b := 7#8, imm := 128#8 }),
    ([0x00200621#32, 0x0007FF04#32, 0x80000000#32], .stp { x0 with ty := 4#5, d := 4#8, a := 255#8, b := 7#8, imm := 128#8 }),
    ([0x00000631#32, 0x3D3E3F00#32, 0x03000000#32], .smap { x0 with a := 63#8, b := 62#8, c := 61#8, imm := 3#8 }),
    ([0x00000E31#32, 0#32, 0x02000000#32], .sflush { x0 with imm := 2#8 }),
    ([0x00001633#32, 0#32, 0#32, 0x00000001#32, 0#32], .sinv { x0 with lit := some 0x1#64 }),
    ([0x00000641#32, 0x003F0E0F#32, 0x80000000#32], .bld { x0 with d := 15#8, a := 14#8, b := 63#8, imm := 128#8 }),
    ([0x00000E41#32, 0x003F0E0F#32, 0x07000000#32], .bset { x0 with d := 15#8, a := 14#8, b := 63#8, imm := 7#8 }),
    ([0x00000651#32, 0x003F0E0F#32, 0x01000000#32], .hld { x0 with d := 15#8, a := 14#8, b := 63#8, imm := 1#8 }),
    ([0x00000E51#32, 0x003F0E01#32, 0x01000000#32], .hst { x0 with d := 1#8, a := 14#8, b := 63#8, imm := 1#8 }),
    ([0x00002661#32, 0#32, 0#32], .fence 0#2 4#3 x0),
    ([0x00005E61#32, 0#32, 0#32], .fence 1#2 3#3 x0),
    ([0x00009661#32, 0#32, 0#32], .fence 2#2 2#3 x0),
    ([0x0000CE61#32, 0#32, 0#32], .fence 3#2 1#3 x0),
    ([0x00000671#32, 0x00000006#32, 0x3F000000#32], .waitc { x0 with d := 6#8, imm := 63#8 }),
    ([0x00000681#32, 0x003E3F00#32, 0x08000000#32], .sbinit { x0 with a := 63#8, b := 62#8, imm := 8#8 }),
    ([0x00000E81#32, 0x003E3F00#32, 0x08000000#32], .sbexp { x0 with a := 63#8, b := 62#8, imm := 8#8 }),
    ([0x00001681#32, 0x00003F00#32, 0#32], .sbarv { x0 with a := 63#8 }),
    ([0x00001E83#32, 0x003E3F00#32, 0#32, 0x00000001#32, 0#32], .sbwait { x0 with a := 63#8, b := 62#8, lit := some 0x1#64 }),
    ([0x00000691#32, 0x00000F00#32, 0#32], .barHand { x0 with a := 15#8 }),
    ([0x00000E91#32, 0#32, 0#32], .barGang x0)] = true := by decide +kernel

theorem test_words_engines : readsAs [
    ([0x00F806A1#32, 0xFEFF3E3F#32, 0xFD00001F#32], .tdef { x0 with ty := 31#5, d := 63#8, a := 62#8, b := 255#8, c := 254#8, imm := 253#8, e := 31#8 }),
    ([0x00000EA1#32, 0x0000003F#32, 0#32], .trel { x0 with d := 63#8 }),
    ([0x000016A1#32, 0x00003E3F#32, 0#32], .tstat { x0 with d := 63#8, a := 62#8 }),
    ([0x007006B1#32, 0xFF3E3F0F#32, 0x0000000F#32], .mma { x0 with ty := 14#5, d := 15#8, a := 63#8, b := 62#8, c := 255#8, e := 15#8 }),
    ([0x005806C1#32, 0x0000000F#32, 0#32], .mzero { x0 with ty := 11#5, d := 15#8 }),
    ([0x00000EC1#32, 0x00FF3F0F#32, 0#32], .mload { x0 with d := 15#8, a := 63#8, b := 255#8 }),
    ([0x000016C1#32, 0x0EFF0F3F#32, 0x8100003D#32], .mdrain { x0 with d := 63#8, a := 15#8, b := 255#8, c := 14#8, imm := 129#8, e := 61#8 }),
    ([0x010006D1#32, 0x3D3E0F3F#32, 0x80000000#32], .cpy { x0 with hint := 1#3, d := 63#8, a := 15#8, b := 62#8, c := 61#8, imm := 128#8 }),
    ([0x00000ED1#32, 0x003E0F3F#32, 0x40000000#32], .cpo { x0 with d := 63#8, a := 15#8, b := 62#8, imm := 64#8 }),
    ([0x000016D1#32, 0x3DFF0F3F#32, 0x01000000#32], .gath { x0 with d := 63#8, a := 15#8, b := 255#8, c := 61#8, imm := 1#8 }),
    ([0x000006E1#32, 0x073E0F3F#32, 0x09000000#32], .qpost { x0 with d := 63#8, a := 15#8, b := 62#8, c := 7#8, imm := 9#8 }),
    ([0x00000EE1#32, 0#32, 0#32], .qpop x0),
    ([0x000016E1#32, 0x07003F00#32, 0#32], .launch { x0 with a := 63#8, c := 7#8 }),
    ([0x00001EE1#32, 0x003E0F3F#32, 0x09000000#32], .cmpl { x0 with d := 63#8, a := 15#8, b := 62#8, imm := 9#8 }),
    ([0x000006F1#32, 0x000000FC#32, 0#32], .rtsend { x0 with d := 252#8 }),
    ([0x00000EF1#32, 0#32, 0#32], .rtflush x0),
    ([0x000016F1#32, 0x3E003FFC#32, 0x01000000#32], .rtrecv { x0 with d := 252#8, a := 63#8, c := 62#8, imm := 1#8 }),
    ([0x00001EF1#32, 0x003E3F00#32, 0#32], .rtrel { x0 with a := 63#8, b := 62#8 }),
    ([0x00000701#32, 0x00000FFF#32, 0#32], .spill { x0 with d := 255#8, a := 15#8 }),
    ([0x00000F01#32, 0x00000FFF#32, 0#32], .fill { x0 with d := 255#8, a := 15#8 }),
    ([0x00001701#32, 0x00000F00#32, 0#32], .tokw { x0 with a := 15#8 }),
    ([0x00480711#32, 0x3D3E0F3F#32, 0x09000000#32], .vdec { x0 with ty := 9#5, d := 63#8, a := 15#8, b := 62#8, c := 61#8, imm := 9#8 }),
    ([0x00000F11#32, 0x003E0F3F#32, 0x09000000#32], .vdstat { x0 with d := 63#8, a := 15#8, b := 62#8, imm := 9#8 }),
    ([0x00000721#32, 0x00003900#32, 0#32], .auct { x0 with a := 57#8 }),
    ([0x00000F21#32, 0x003E0F3F#32, 0x09000000#32], .aust { x0 with d := 63#8, a := 15#8, b := 62#8, imm := 9#8 }),
    ([0x00000731#32, 0x3C3D3E3F#32, 0#32], .fork { x0 with d := 63#8, a := 62#8, b := 61#8, c := 60#8 }),
    ([0x00000F31#32, 0x003D3E3F#32, 0#32], .grwd { x0 with d := 63#8, a := 62#8, b := 61#8 }),
    ([0x00001731#32, 0x00003E3F#32, 0#32], .gbar { x0 with d := 63#8, a := 62#8 }),
    ([0x00001F31#32, 0x00003E3F#32, 0#32], .gcancel { x0 with d := 63#8, a := 62#8 }),
    ([0x00002731#32, 0x00003E3F#32, 0x0F000000#32], .gstat { x0 with d := 63#8, a := 62#8, imm := 15#8 }),
    ([0x00000741#32, 0x3D3E0F3F#32, 0x03000000#32], .walk { x0 with d := 63#8, a := 15#8, b := 62#8, c := 61#8, imm := 3#8 })] = true := by decide +kernel

theorem test_words_system : readsAs [
    ([0x000007C1#32, 0x000001FF#32, 0#32], .mfs { x0 with d := 255#8, a := 1#8 }),
    ([0x000007C1#32, 0x00003F3F#32, 0#32], .mfs { x0 with d := 63#8, a := 63#8 }),
    ([0x000007D1#32, 0x00003F11#32, 0#32], .mts { x0 with d := 17#8, a := 63#8 }),
    ([0x000007E9#32, 0#32, 0xFF000000#32], .trap { x0 with m := ⟨true, false⟩, imm := 255#8 }),
    ([0x00000FE1#32, 0#32, 0#32], .bkpt x0),
    ([0x000017E1#32, 0x00003F00#32, 0#32], .dmbx { x0 with a := 63#8 }),
    ([0x000007F1#32, 0#32, 0x01000000#32], .eret { x0 with imm := 1#8 }),
    ([0x00000FF1#32, 0x0700003C#32, 0x01000000#32], .fpop { x0 with d := 60#8, c := 7#8, imm := 1#8 }),
    ([0x000017F1#32, 0x003E3F00#32, 0#32], .fres { x0 with a := 63#8, b := 62#8 }),
    ([0x00001FF1#32, 0x3D3E3F00#32, 0x02000000#32], .tlbi { x0 with a := 63#8, b := 62#8, c := 61#8, imm := 2#8 }),
    ([0x000027F1#32, 0x00003F00#32, 0x01000000#32], .biasf { x0 with a := 63#8, imm := 1#8 }),
    ([0x00002FF1#32, 0x073E3F00#32, 0#32], .ctxs { x0 with a := 63#8, b := 62#8, c := 7#8 }),
    ([0x000037F1#32, 0x07003F00#32, 0x00000900#32], .ctxl { x0 with a := 63#8, c := 7#8, g1 := 9#4 })] = true := by decide +kernel

/-- The words of the walker (R331, R332). -/
theorem test_words_walker : ([
    (0#32, .wend),
    (0xFFFC03C1#32, .wldi 15#4 0x3FFF#14),
    (0x8004C842#32, .wadd 1#4 2#4 3#4 0x2001#14),
    (0x0000C843#32, .wsub 1#4 2#4 3#4),
    (0x00037BC4#32, .wand 15#4 14#4 13#4),
    (0x007C0845#32, .wshr 1#4 2#4 31#5),
    (0x0000C806#32, .wcmp 2#4 3#4),
    (0x03FC0007#32, .wbr 255#8),
    (0x03F82408#32, .wbz 9#4 254#8),
    (0x00040009#32, .wblt 1#8),
    (0x003C084A#32, .wld 1#4 2#4 15#4),
    (0x001CC84B#32, .wbmn 1#4 2#4 3#4 7#3),
    (0x001CC84C#32, .wrun 1#4 3#4 2#4 7#3),
    (0x0000C80D#32, .wemit 2#4 3#4),
    (0x0000080E#32, .wrow 2#4),
    (0x0000080F#32, .wpush 2#4),
    (0x00000050#32, .wpop 1#4),
    (0x00000011#32, .wsync)] : List (Word × Instr)).all (fun p => decodeWalk p.1 == .ok p.2 && p.2.encode == [p.1]) = true := by decide +kernel

/-! ### Checks in order (R199): a state for each clause -/

/-- The current agent, and an instruction that reaches its checks. -/
def reaches (i : Instr) (s : State) (p : Env → Bool) : Bool := match s.env? with
  | some e => resultsIn i e && passesSafePoint i e && !e.dbgOn && p e
  | none => false

/-- The gang of another context, with no region that is valid, and the part of a workgroup. -/
def userGang (s : State) : State := onGang (fun g => { g with ident := false, asid := 7, raf := List.replicate 16 0#64 }) s
def onWg (f : Wg → Wg) (s : State) : State := onGang (fun g => { g with wgs := g.wgs.map f }) s

theorem wit_checks :
    (match (onAgent (fun a => { a with outs := [{ writes := [] }] }) base).env? with
      | some e => !resultsIn (.nop ⟨false, true⟩) e && resultsIn (.nop m0) e && !resultsIn (.exit m0) e
      | none => false) = true ∧
    (match (onGang (fun g => { g with stop := some ⟨.longWait, 0, false, none, none⟩ }) base).env? with
      | some e => resultsIn (.nop ⟨true, false⟩) e && e.a.prog == 0 && e.g.stop.isSome
      | none => false) = true ∧
    reaches (.fpop { x0 with c := 1#8 }) (userGang base) (fun e => !privOk (.fpop { x0 with c := 1#8 }) e) = true ∧
    reaches (.hmovExt { x0 with d := 1#8 }) base (fun e => privOk (.hmovExt { x0 with d := 1#8 }) e) = true ∧
    reaches (.imul { x0 with ty := 5#5, g2 := 8#4 }) base (fun e => !guardsOk (.imul { x0 with ty := 5#5, g2 := 8#4 }) e) = true ∧
    reaches (.imul { x0 with ty := 5#5, g1 := 7#4 }) base (fun e => !guardsOk (.imul { x0 with ty := 5#5, g1 := 7#4 }) e) = true ∧
    reaches (.iaddBase m0 1#7 2#7 3#7 none) (onWg (fun w => { w with role := 1 }) base)
      (fun e => !rolesOk (.iaddBase m0 1#7 2#7 3#7 none) e) = true ∧
    reaches (.cpy { x0 with imm := 0x40#8 }) (onWg (fun w => { w with role := 2 }) base)
      (fun e => !rolesOk (.cpy { x0 with imm := 0x40#8 }) e) = true ∧
    reaches (.movBase m0 32#7 0#7) (onWg (fun w => { w with vregs := 32 }) base) (fun e => !boundsOk (.movBase m0 32#7 0#7) e) = true ∧
    meets (.movBase m0 31#7 0#7) (onWg (fun w => { w with vregs := 32 }) base) = true ∧
    reaches (.apply m0 4#17 2#4 25#8 8#4 0#8 0#4) (onWg (fun w => { w with vregs := 32 }) base)
      (fun e => !boundsOk (.apply m0 4#17 2#4 25#8 8#4 0#8 0#4) e) = true ∧
    meets (.apply m0 4#17 2#4 24#8 8#4 0#8 0#4) (onWg (fun w => { w with vregs := 32 }) base) = true := by decide +kernel

/-- A privileged instruction outside the system context traps ILLOP; a false guard runs nothing; a role without the vector
instructions traps ROLE; a register beyond the grant traps REGBOUND: cause in tinfo, the handler's address in pc. -/
def causeIs (i : Instr) (s : State) (c : Nat) : Bool := nextIs i s fun t => match t.gangs with
  | g :: _ => match g.agents with
    | a :: _ => a.trap.toNat % 32 == c && a.trap.getLsbD 63 && a.pc == 0x10001000#52 && a.tepc == 0x10000000#64
    | _ => false
  | _ => false
def pcIs (i : Instr) (s : State) (pc : Addr) : Bool := nextIs i s fun t => match t.gangs with
  | g :: _ => match g.agents with
    | a :: _ => a.pc == pc && a.st == .runnable && a.trap == 0#64
    | _ => false
  | _ => false

theorem test_checks :
    causeIs (.fpop { x0 with c := 1#8 }) (userGang base) 1 = true ∧ causeIs (.hmovExt { x0 with d := 1#8 }) base 2 = true ∧
    pcIs (.imul { x0 with ty := 5#5, g2 := 8#4 }) base 0x1000000C#52 = true ∧
    causeIs (.iaddBase m0 1#7 2#7 3#7 none) (onWg (fun w => { w with role := 1 }) base) 3 = true ∧
    causeIs (.movBase m0 32#7 0#7) (onWg (fun w => { w with vregs := 32 }) base) 4 = true := by decide +kernel

/-! ### One step of the register instructions, worked by hand from R218-R234 -/

/-- The writes the agents owe themselves. -/
def owes (t : State) : List RegWrite := t.gangs.flatMap fun g => g.agents.flatMap fun a => a.outs.flatMap fun o => o.writes
def gives (i : Instr) (s : State) (w : RegWrite) : Bool := nextIs i s fun t => (owes t).contains w

def vset (l : List (Nat × Nat × Word)) (a : Agent) : Agent :=
  { a with v := l.foldl (fun t p => Table.put 0#32 t (64 * p.1 + p.2.1) p.2.2) a.v }
def sset (l : List (Nat × DWord)) (a : Agent) : Agent := { a with s := l.foldl (fun t p => Table.put 0#64 t p.1 p.2) a.s }

/-- Lane 0: v1 = 2^31 - 1, v2 = 5, v3 = -2, v4 = 2^31 + 1, v5 = 0xF0F0, v6:v7 = 2^33 - 1, v8:v9 = 2^63 - 1; lane 63: v2 = 9.
s1 = 5, s2 = -1, s3 = 2^63 - 1, s4 = 64; k0 and k1 true. -/
def regs : State := onAgent (fun a => { sset [(1, 5#64), (2, 0xFFFFFFFFFFFFFFFF#64), (3, 0x7FFFFFFFFFFFFFFF#64), (4, 64#64)]
  (vset [(1, 0, 0x7FFFFFFF#32), (2, 0, 5#32), (3, 0, 0xFFFFFFFE#32), (4, 0, 0x80000001#32), (5, 0, 0xF0F0#32), (6, 0, 0xFFFFFFFF#32),
    (7, 0, 1#32), (8, 0, 0xFFFFFFFF#32), (9, 0, 0x7FFFFFFF#32), (2, 63, 9#32)] a) with k := 3#8 }) base

theorem test_vector_integers : ([(.iaddExt { x0 with ty := 5#5, d := 20#8, a := 1#8, b := 2#8 }, .v 20 0 0x80000004#32),
    (.iaddExt { x0 with ty := 5#5, d := 20#8, a := 1#8, b := 2#8, sat := true }, .v 20 0 0x7FFFFFFF#32),
    (.iaddExt { x0 with ty := 7#5, d := 20#8, a := 6#8, b := 8#8 }, .v 21 0 0x80000001#32),
    (.iaddBase m0 20#7 2#7 0#7 (some 100000#64), .v 20 0 100005#32), (.isubBase m0 20#7 2#7 3#7 none, .v 20 0 7#32),
    (.isubExt { x0 with ty := 4#5, d := 20#8, a := 2#8, b := 1#8, sat := true }, .v 20 0 0#32),
    (.imul { x0 with ty := 5#5, d := 20#8, a := 3#8, b := 2#8 }, .v 20 0 0xFFFFFFF6#32),
    (.imulh { x0 with ty := 4#5, d := 20#8, a := 3#8, b := 2#8 }, .v 20 0 4#32),
    (.imulh { x0 with ty := 5#5, d := 20#8, a := 3#8, b := 2#8 }, .v 20 0 0xFFFFFFFF#32),
    (.imad { x0 with ty := 5#5, d := 20#8, a := 3#8, b := 2#8, c := 2#8 }, .v 20 0 0xFFFFFFFB#32),
    (.imin { x0 with ty := 5#5, d := 20#8, a := 3#8, b := 2#8 }, .v 20 0 0xFFFFFFFE#32),
    (.imax { x0 with ty := 4#5, d := 20#8, a := 2#8, b := 3#8 }, .v 20 0 0xFFFFFFFE#32),
    (.iabs { x0 with ty := 5#5, d := 20#8, a := 4#8 }, .v 20 0 0x7FFFFFFF#32)] : List (Instr × RegWrite)).all
      (fun p => gives p.1 regs p.2) = true := by decide +kernel

theorem test_vector_logic : ([(.andBase m0 20#7 5#7 2#7 none, .v 20 0 0#32), (.orBase m0 20#7 5#7 2#7 none, .v 20 0 0xF0F5#32),
    (.xorBase m0 20#7 5#7 1#7 none, .v 20 0 0x7FFF0F0F#32), (.andExt { x0 with ty := 16#5, d := 20#8, a := 6#8, b := 8#8 }, .v 21 0 1#32),
    (.orExt { x0 with ty := 16#5, d := 20#8, a := 6#8, b := 8#8 }, .v 21 0 0x7FFFFFFF#32),
    (.xorExt { x0 with ty := 15#5, d := 20#8, a := 5#8, lit := some 0xF0#64 }, .v 20 0 0xF000#32),
    (.lut3 { x0 with ty := 15#5, d := 20#8, a := 1#8, b := 2#8, c := 3#8, imm := 0xE8#8 }, .v 20 0 0x7FFFFFFF#32),
    (.shlBase m0 20#7 4#7 4#5 none, .v 20 0 0x10#32), (.shrBase m0 20#7 4#7 0#5 (some 32#64), .v 20 0 0#32),
    (.shlExt { x0 with ty := 4#5, d := 20#8, a := 2#8, b := 1#8 }, .v 20 0 0#32),
    (.shrExt { x0 with ty := 4#5, d := 20#8, a := 4#8, b := 2#8 }, .v 20 0 0x04000000#32),
    (.sar { x0 with ty := 5#5, d := 20#8, a := 4#8, b := 1#8 }, .v 20 0 0xFFFFFFFF#32),
    (.fshl { x0 with ty := 15#5, d := 20#8, a := 2#8, b := 4#8, imm := 0x84#8 }, .v 20 0 0x58#32),
    (.fshr { x0 with ty := 15#5, d := 20#8, a := 2#8, b := 4#8, imm := 0x84#8 }, .v 20 0 0x58000000#32)] : List (Instr × RegWrite)).all
      (fun p => gives p.1 regs p.2) = true := by decide +kernel

theorem test_vector_bits : ([(.popc { x0 with ty := 15#5, d := 20#8, a := 1#8 }, .v 20 0 31#32),
    (.clz { x0 with ty := 15#5, d := 20#8, a := 2#8 }, .v 20 0 29#32), (.clz { x0 with ty := 16#5, d := 20#8, a := 30#8 }, .v 20 0 64#32),
    (.brev { x0 with ty := 15#5, d := 20#8, a := 2#8 }, .v 20 0 0xA0000000#32),
    (.bfe { x0 with ty := 5#5, d := 20#8, a := 5#8, lit := some 0x0404#64 }, .v 20 0 0xFFFFFFFF#32),
    (.bfe { x0 with ty := 4#5, d := 20#8, a := 5#8, lit := some 0xFF04#64 }, .v 20 0 0xF0F#32),
    (.bfi { x0 with ty := 15#5, d := 20#8, a := 2#8, c := 1#8, lit := some 0x0408#64 }, .v 20 0 0x7FFFF5FF#32),
    (.iset .lt { x0 with ty := 5#5, d := 20#8, a := 3#8, b := 2#8 }, .v 20 0 0xFFFFFFFF#32),
    (.iset .lt { x0 with ty := 4#5, d := 20#8, a := 3#8, b := 2#8 }, .v 20 0 0#32),
    (.sel { x0 with ty := 15#5, d := 20#8, a := 1#8, b := 2#8, c := 30#8 }, .v 20 0 5#32),
    (.movExt { x0 with ty := 16#5, d := 20#8, a := 8#8 }, .v 21 0 0x7FFFFFFF#32), (.movBase m0 20#7 2#7, .v 20 63 9#32),
    (.movi { x0 with ty := 15#5, d := 20#8, imm := 0x80#8 }, .v 20 0 0xFFFFFF80#32),
    (.vbcast { x0 with ty := 15#5, d := 20#8, a := 1#8, imm := 1#8 }, .v 20 63 5#32),
    (.vbcast { x0 with ty := 15#5, d := 20#8, a := 2#8, lit := some 63#64 }, .v 20 0 9#32),
    (.fmtw { x0 with d := 20#8, a := 1#8, b := 1#8, imm := 1#8 }, .v 20 0 0x80011#32)] : List (Instr × RegWrite)).all
      (fun p => gives p.1 regs p.2) = true := by decide +kernel

theorem test_scalars : ([(.saddBase m0 5#6 3#6 1#6 none, .s 5 0x8000000000000004#64),
    (.saddExt { x0 with ty := 7#5, d := 5#8, a := 3#8, b := 1#8, sat := true }, .s 5 0x7FFFFFFFFFFFFFFF#64),
    (.ssub { x0 with ty := 6#5, d := 5#8, a := 1#8, b := 3#8, sat := true }, .s 5 0#64),
    (.smul { x0 with ty := 7#5, d := 5#8, a := 1#8, b := 2#8 }, .s 5 0xFFFFFFFFFFFFFFFB#64),
    (.sand { x0 with ty := 16#5, d := 5#8, a := 1#8, b := 2#8 }, .s 5 5#64), (.sor { x0 with ty := 16#5, d := 5#8, a := 1#8, b := 0#8 }, .s 5 5#64),
    (.sxor { x0 with ty := 16#5, d := 5#8, a := 1#8, b := 2#8 }, .s 5 0xFFFFFFFFFFFFFFFA#64),
    (.sshl { x0 with ty := 6#5, d := 5#8, a := 1#8, b := 4#8 }, .s 5 0#64), (.sshr { x0 with ty := 7#5, d := 5#8, a := 2#8, b := 4#8 }, .s 5 0xFFFFFFFFFFFFFFFF#64),
    (.sshr { x0 with ty := 6#5, d := 5#8, a := 2#8, lit := some 63#64 }, .s 5 1#64), (.smin { x0 with ty := 7#5, d := 5#8, a := 1#8, b := 2#8 }, .s 5 0xFFFFFFFFFFFFFFFF#64),
    (.smax { x0 with ty := 7#5, d := 5#8, a := 1#8, b := 2#8 }, .s 5 5#64), (.smovBase m0 5#6 3#6, .s 5 0x7FFFFFFFFFFFFFFF#64),
    (.smovExt { x0 with d := 65#8, a := 3#8 }, .i 1 0xFF#8), (.smovi { x0 with d := 5#8, imm := 0x80#8 }, .s 5 0xFFFFFFFFFFFFFF80#64),
    (.scmp .lt { x0 with ty := 7#5, d := 2#8, a := 2#8, b := 1#8 }, .k 2 true), (.scmp .lt { x0 with ty := 6#5, d := 2#8, a := 2#8, b := 1#8 }, .k 2 false),
    (.kop .andn { x0 with d := 3#8, a := 1#8, b := 2#8 }, .k 3 true), (.kop .not { x0 with d := 3#8, a := 0#8 }, .k 3 false)] :
    List (Instr × RegWrite)).all (fun p => gives p.1 regs p.2) = true := by decide +kernel

theorem test_lanes : ([(.shfl .idx { x0 with ty := 15#5, d := 20#8, a := 2#8, lit := some 63#64 }, .v 20 0 9#32),
    (.shfl .up { x0 with ty := 15#5, d := 20#8, a := 2#8, lit := some 1#64 }, .v 20 0 5#32),
    (.shfl .down { x0 with ty := 15#5, d := 20#8, a := 2#8, lit := some 62#64 }, .v 20 1 9#32),
    (.shfl .xor { x0 with ty := 15#5, d := 20#8, a := 2#8, lit := some 63#64 }, .v 20 63 5#32),
    (.lred .add { x0 with ty := 5#5, d := 20#8, a := 2#8 }, .v 20 17 14#32), (.lred .max { x0 with ty := 5#5, d := 20#8, a := 2#8 }, .v 20 0 9#32),
    (.lscan false .add { x0 with ty := 4#5, d := 20#8, a := 2#8 }, .v 20 63 14#32), (.lscan true .add { x0 with ty := 4#5, d := 20#8, a := 2#8 }, .v 20 63 5#32),
    (.lscan true .and { x0 with ty := 15#5, d := 20#8, a := 2#8 }, .v 20 0 0xFFFFFFFF#32), (.vlane { x0 with ty := 15#5, d := 5#8, a := 2#8, lit := some 63#64 }, .s 5 9#64),
    (.vlane { x0 with ty := 15#5, d := 5#8, a := 2#8, lit := some 64#64 }, .s 5 0#64)] :
    List (Instr × RegWrite)).all (fun p => gives p.1 regs p.2) = true := by decide +kernel

theorem test_topki :
    -- an empty place of a list keeps nothing back: R234 with score -1 below 5 (lane 0 of v2), index 7
    gives (.topki 0#2 { x0 with ty := 5#5, d := 20#8, a := 2#8, lit := some 7#64 })
      (onAgent (vset [(20, 0, 0xFFFFFFFF#32), (21, 0, 3#32)]) regs) (.v 20 0 5#32) = true ∧
    nextIs (.topki 0#2 { x0 with ty := 5#5, d := 20#8, a := 2#8, lit := some 7#64 }) (onAgent (vset [(20, 0, 6#32), (21, 0, 3#32)]) regs)
      (fun t => (owes t).all fun w => match w with
        | .v _ l _ => l != 0
        | _ => false) = true := by decide +kernel

/-- The hypotheses of LaneReductionOfIntegers. -/
theorem wit_reduction : (2 : Nat) ≤ 6 ∧ [some 3, none, some 0xFFFFFFFF, some 1].length = 2 ^ 2 ∧
    (∀ v ∈ [some 3, none, some 0xFFFFFFFF, some 1].filterMap id, v < 2 ^ bitsOf 5#5) ∧ floatTy 5#5 = false := by decide +kernel

/-! ### Branches, calls and returns (R200-R204) -/

theorem test_branches :
    pcIs (.nop m0) base 0x10000004#52 = true ∧ pcIs (.bra m0 0x1FFFFE#21) base 0xFFFFFF8#52 = true ∧
    pcIs (.brc m0 4#17 false 0#3) base 0x10000010#52 = true ∧ pcIs (.brc m0 4#17 true 0#3) base 0x10000004#52 = true ∧
    pcIs (.bhe m0 4#17 2#4) base 0x10000010#52 = true ∧ pcIs (.bhn m0 4#17 2#4) base 0x10000004#52 = true ∧
    pcIs (.bhn m0 4#17 1#4) base 0x10000010#52 = true ∧
    pcIs (.loop m0 0x7FFF#15 5#6) (onAgent (sset [(5, 1#64)]) base) 0x10000004#52 = true ∧
    pcIs (.loop m0 0x7FFF#15 5#6) (onAgent (sset [(5, 0#64)]) base) 0xFFFFFFC#52 = true := by decide +kernel

def okAcc (r : Access) (p : List (Nat × Option (List Piece)) → Bool := fun _ => true) : Bool := match r with
  | .ok l _ => p l
  | _ => false
def deep (n : Nat) : State := onAgent (fun a => { a with rcnt := n, rcache := (List.range (min n 16)).map fun k => BitVec.ofNat 64 (0x10000400 + 4 * k) }) base

/-- CALL and CALLS with room, at the last entry in the core, beyond it, full, and with a bad target; RET likewise. -/
theorem wit_calls :
    meets (.call m0 8#21) (deep 15) (fun e => e.a.rcnt < 16) = true ∧
    meets (.call m0 8#21) (deep 16) (fun e => okAcc (access (deep 16) e.who .store (e.a.b.look 0#256 15).toNat 4 1
      [(0, 1024 * (4096 - 480) + e.rank 0), (0, 1024 * (4096 - 480 + 1) + e.rank 0)])
      fun l => !ownBlocked (deep 16) e (homeBytesOf (allPieces l))) = true ∧
    meets (.call m0 8#21) (deep 63) (fun e => okAcc (access (deep 63) e.who .store (e.a.b.look 0#256 15).toNat 4 1
      [(0, 1024 * (4096 + 94 - 480) + e.rank 0), (0, 1024 * (4096 + 94 - 480 + 1) + e.rank 0)])) = true ∧
    meets (.calls m0 5#6) (deep 64) (fun e => e.a.rcnt == 64) = true ∧
    meets (.calls m0 5#6) (onAgent (sset [(5, 2#64)]) (deep 63)) (fun e => (e.a.rs 5).toNat % 4 != 0) = true ∧
    meets (.ret m0) (deep 16) = true ∧ meets (.ret m0) (deep 0) = true ∧
    meets (.ret m0) (deep 17) (fun e => okAcc (access (deep 17) e.who .load (e.a.b.look 0#256 15).toNat 4 1
      [(0, 1024 * (4096 - 480) + e.rank 0), (0, 1024 * (4096 - 480 + 1) + e.rank 0)])
      fun l => (poisonLane (deep 17) e.who l).isNone && !ownBlocked (deep 17) e (readBytesOf (allPieces l))) = true := by decide +kernel

theorem test_calls :
    pcIs (.call m0 8#21) (deep 3) 0x10000020#52 = true ∧ pcIs (.calls m0 5#6) (onAgent (sset [(5, 0x1234#64)]) base) 0x1234#52 = true ∧
    pcIs (.ret m0) (deep 2) 0x10000400#52 = true ∧ causeIs (.ret m0) (deep 0) 9 = true ∧ causeIs (.call m0 8#21) (deep 64) 9 = true ∧
    causeIs (.calls m0 5#6) (onAgent (sset [(5, 2#64)]) base) 6 = true := by decide +kernel

/-! ### Hands (R210-R215, R89-R92) -/

/-- h2 = ranks 0 and 63, h3 = rank 63. -/
def hands : State := onWg (fun w => { w with hands := ((w.hands.set 2 (handOf [0, 63])).set 3 (handOf [63])) }) regs
def pushes (t : State) : List (Nat × Hand × Hand) := t.handQ.map fun w => (w.reg, w.mask, w.val)
def queues (i : Instr) (s : State) (w : Nat × Hand × Hand) : Bool := nextIs i s fun t => (pushes t).contains w

theorem test_hand_tests :
    queues (.htest .gt false { x0 with ty := 5#5, d := 4#8, a := 5#8, b := 2#8, c := 2#8, e := 30#8 }) hands (4, BitVec.allOnes 1024, handOf [0, 63]) = true ∧
    queues (.htesti .lt true { x0 with ty := 4#5, d := 4#8, a := 5#8, b := 2#8, c := 2#8, imm := 6#8 }) hands (5, handOf (List.range 64), handOf [63]) = true ∧
    queues (.hbit false { x0 with ty := 15#5, d := 4#8, a := 5#8, b := 2#8, c := 2#8, imm := 2#8 }) hands (4, BitVec.allOnes 1024, handOf [0]) = true := by
  decide +kernel

theorem test_hand_algebra : ([(.horBase m0 4#4 2#4 3#4, handOf [0, 63]), (.handBase m0 4#4 2#4 3#4, handOf [63]), (.handnBase m0 4#4 2#4 3#4, handOf [0]),
    (.hxorBase m0 4#4 2#4 3#4, handOf [0]), (.hnotBase m0 4#4 2#4, handOf ((List.range 62).map fun k => k + 1)), (.hmovBase m0 4#4 3#4, handOf [63]),
    (.handnExt { x0 with d := 4#8, a := 1#8, b := 2#8 }, handOf ((List.range 62).map fun k => k + 1)),
    (.hpick { x0 with d := 4#8, a := 1#8, b := 1#8, c := 4#8 }, handOf ((List.range 59).map fun k => k + 5)),
    (.hrange { x0 with d := 4#8, a := 1#8, lit := some 3#64 }, handOf [5, 6, 7]), (.hrange { x0 with d := 4#8, a := 3#8, lit := some 3#64 }, 0#1024)] :
    List (Instr × Hand)).all (fun p => queues p.1 hands (4, BitVec.allOnes 1024, p.2)) = true := by decide +kernel

theorem test_hand_queries : ([(.hcntBase m0 5#6 2#4, 2#64), (.hfirstBase m0 5#6 3#4, 63#64), (.hfirstBase m0 5#6 4#4, 0xFFFFFFFFFFFFFFFF#64),
    (.hmembBase m0 5#6 2#4 0#6 (some 63#64), 1#64), (.hposBase m0 5#6 2#4 0#6 (some 63#64), 1#64), (.hposExt { x0 with d := 5#8, a := 1#8, b := 1#8 }, 5#64),
    (.hmembExt { x0 with d := 5#8, a := 1#8, lit := some 64#64 }, 0#64)] : List (Instr × DWord)).all (fun p => gives p.1 hands (.s 5 p.2)) = true := by
  decide +kernel

/-- A hand write waiting alone in its core; one of another agent as the youngest; none. -/
def handWait : HandWrite := ⟨0, 0, 1, 0, 2, 0, 0, 4, BitVec.allOnes 1024, handOf [7], 0⟩
theorem wit_hand_commit :
    (match hands.env? with
      | some e => (hands.handQ.filter fun w => w.gang == e.g.uid && w.wg == e.a.wg && w.reg == 4).isEmpty
      | none => false) = true ∧
    (match ({ hands with handQ := [handWait] } : State).env? with
      | some e => (([handWait].filter fun w => w.gang == e.g.uid && w.wg == e.a.wg && w.reg == 4).getLast?.map fun w => w.agent) == some e.a.id
      | none => false) = true ∧
    (match hands.gang? 1 with
      | some g => g.rdvs.isEmpty && decide (handWait.wg < g.wgs.length) && g.wgs.all (fun u => u.hands.length == 16)
      | none => false) = true ∧
    meets (.hfence x0) { hands with handQ := [handWait] } (fun e => e.a.id == 2) = true := by decide +kernel

/-- Clocks of every die at a cycle. -/
def atClk (n : Nat) (s : State) : State := { s with dies := s.dies.map fun d => { d with clk := n } }
/-- It commits after its cycle, and not in it (R90). -/
theorem test_hand_commit : nextIs (.handWriteCommit 0 0) (atClk 1 { hands with handQ := [handWait] }) (fun t =>
    t.handQ.isEmpty && t.gangs.all fun g => g.wgs.all fun w => w.hands.getD 4 0#1024 == handOf [7] && w.hands.getD 3 0#1024 == handOf [63]) = true ∧
    nextIs (.handWriteCommit 0 0) { hands with handQ := [handWait] } (fun t => t.handQ == [handWait]) = true := by
  decide +kernel

/-! ### Apply, barriers, packs (R206-R209, R136-R138, R266, R205) -/

def donors : State := { hands with fresh := 40 }
theorem wit_rendezvous :
    meets (.apply m0 4#17 4#4 0#8 0#4 0#8 0#4) donors (fun e => e.a.isPack == e.a.apply.isSome && !e.g.waitsIn e.a.id && decide (e.a.depth < 4) &&
      !Agent.hasRank e.a (e.hand donors 4 &&& e.hand donors 0)) = true ∧
    meets (.apply m0 4#17 2#4 30#8 1#4 31#8 1#4) donors (fun e => Agent.hasRank e.a (e.hand donors 2 &&& e.hand donors 0) && e.g.rdvs.isEmpty &&
      e.g.agents.all fun b => b.id == e.a.id) = true ∧
    meets (.apply m0 4#17 2#4 0#8 0#4 0#8 0#4) (onAgent (fun a => { a with depth := 4 }) donors) (fun e => e.a.depth == 4) = true ∧
    meets (.barHand { x0 with a := 2#8 }) donors (fun e => Agent.hasRank e.a (e.hand donors 2 &&& e.hand donors 0)) = true ∧
    meets (.barGang x0) donors (fun e => !e.a.isPack) = true ∧
    meets (.barGang x0) (onAgent (fun a => { a with isPack := true, apply := some 5 }) donors) (fun e => e.a.isPack && e.a.apply.isSome) = true ∧
    (meets (.exit m0) donors fun e => (heldTrap e.a).isNone && e.a.outs.isEmpty && !e.a.isPack) = true ∧
    (meets (.done m0) (onAgent (fun a => { a with isPack := true, apply := some 5 }) donors) fun e => !e.a.tokens.contains .busy) = true := by decide +kernel

theorem test_rendezvous :
    pcIs (.apply m0 4#17 4#4 0#8 0#4 0#8 0#4) donors 0x1000000C#52 = true ∧
    nextIs (.apply m0 4#17 2#4 30#8 1#4 31#8 1#4) donors (fun t => t.gangs.all fun g => g.applies.map (fun a => (a.members, a.formed, a.donors)) == [([0, 63], false, [2])]) = true ∧
    pcIs (.barHand { x0 with a := 2#8 }) donors 0x1000000C#52 = true ∧ pcIs (.barGang x0) donors 0x1000000C#52 = true ∧
    causeIs (.apply m0 4#17 2#4 0#8 0#4 0#8 0#4) (onAgent (fun a => { a with depth := 4 }) donors) 10 = true ∧ causeIs (.done m0) donors 1 = true ∧
    nextIs (.exit m0) donors (fun t => t.gangs.all fun g => g.agents.all fun a => a.st == .ended) = true := by decide +kernel

/-- An apply whose rendezvous is complete, and one whose packs have ended. -/
def applied : ApplyRec := ⟨50, 0, none, 0, [2], [0, 63], [51], false, 2, 1, 3, 1, 0x10000400#52, 0x1000000C#52, 0#5, [], []⟩
def atApply (ap : ApplyRec) : State := onGang (fun g => { g with applies := [ap] }) { donors with fresh := 60 }
theorem wit_packs :
    (match (atApply { applied with packs := [] }).gang? 1 with
      | some g => (g.applies.find? fun a => a.n == 50).isSome && (g.wgs.getD 0 default).g == 64
      | none => false) = true ∧
    (match (atApply { applied with formed := true }).gang? 1 with
      | some g => g.agents.all (fun a => !([51].contains a.id)) && (atApply applied).handQ.isEmpty
      | none => false) = true := by decide +kernel

theorem test_packs :
    nextIs (.packFormation 1 50) (atApply { applied with packs := [] }) (fun t => t.gangs.all fun g => match g.agents with
      | [_, p] => p.members == [0, 63] && p.pk == 2 && p.depth == 1 && p.pc == 0x10000400#52 && p.v.look 0#32 (64 * 2 + 1) == 9#32 &&
          p.v.look 0#32 (64 * 2) == 5#32
      | _ => false) = true ∧
    nextIs (.applyJoin 1 50) (atApply { applied with formed := true, back := [(63, 0, 77#32)], flags := 4#5 }) (fun t => t.gangs.all fun g =>
      g.applies.isEmpty && g.agents.all fun a => a.pc == 0x1000000C#52 && a.fflags == 4#5 && a.v.look 0#32 (64 * 3 + 63) == 77#32) = true := by
  decide +kernel

/-! ### Floats (R235-R247) -/

/-- Lane 0: v1 = 1.5, v2 = 2.0, v3 = -0, v4 = infinity, v5 a quiet NaN, v6 a signalling NaN, v7 = 0, v8 = 4.0, v9 = 3. -/
def flt : State := onAgent (vset [(1, 0, 0x3FC00000#32), (2, 0, 0x40000000#32), (3, 0, 0x80000000#32), (4, 0, 0x7F800000#32),
  (5, 0, 0x7FC00000#32), (6, 0, 0x7F800001#32), (8, 0, 0x40800000#32), (9, 0, 3#32)]) base
def flags (i : Instr) (s : State) (f : BitVec 5) : Bool := nextIs i s fun t => t.gangs.all fun g => g.agents.all fun a => a.fflags == f

theorem test_floats : ([(.faddBase m0 20#7 1#7 2#7 none, .v 20 0 0x40600000#32), (.fmulBase m0 20#7 1#7 2#7 none, .v 20 0 0x40400000#32),
    (.faddExt { x0 with ty := 10#5, d := 20#8, a := 1#8, b := 2#8, mod := 4#4 }, .v 20 0 0xBF000000#32),
    (.fsub { x0 with ty := 10#5, d := 20#8, a := 1#8, b := 2#8 }, .v 20 0 0xBF000000#32),
    (.fmulExt { x0 with ty := 10#5, d := 20#8, a := 4#8, b := 7#8 }, .v 20 0 0x7FC00000#32),
    (.ffma { x0 with ty := 10#5, d := 20#8, a := 1#8, b := 2#8, c := 1#8 }, .v 20 0 0x40900000#32),
    (.ffma { x0 with ty := 10#5, d := 20#8, a := 1#8, b := 2#8, c := 1#8, imm := 1#8 }, .v 20 0 0x3FC00000#32),
    (.fmin { x0 with ty := 10#5, d := 20#8, a := 7#8, b := 3#8 }, .v 20 0 0x80000000#32), (.fmax { x0 with ty := 10#5, d := 20#8, a := 3#8, b := 7#8 }, .v 20 0 0#32),
    (.fset .nan { x0 with ty := 10#5, d := 20#8, a := 5#8, b := 1#8 }, .v 20 0 0xFFFFFFFF#32), (.fset .lt { x0 with ty := 10#5, d := 20#8, a := 5#8, b := 1#8 }, .v 20 0 0#32),
    (.fclass { x0 with ty := 10#5, d := 20#8, a := 6#8 }, .v 20 0 0x100#32), (.fclass { x0 with ty := 10#5, d := 20#8, a := 3#8 }, .v 20 0 8#32),
    (.frnd { x0 with ty := 10#5, d := 20#8, a := 1#8 }, .v 20 0 0x40000000#32), (.fdiv { x0 with ty := 10#5, d := 20#8, a := 1#8, b := 2#8 }, .v 20 0 0x3F400000#32),
    (.fdiv { x0 with ty := 10#5, d := 20#8, a := 1#8, b := 7#8 }, .v 20 0 0x7F800000#32), (.fsqrt { x0 with ty := 10#5, d := 20#8, a := 8#8 }, .v 20 0 0x40000000#32),
    (.frcp { x0 with ty := 10#5, d := 20#8, a := 3#8 }, .v 20 0 0xFF800000#32), (.frsq { x0 with ty := 10#5, d := 20#8, a := 7#8 }, .v 20 0 0x7F800000#32),
    (.fexp2 { x0 with ty := 10#5, d := 20#8, a := 4#8 }, .v 20 0 0x7F800000#32), (.flog2 { x0 with ty := 10#5, d := 20#8, a := 7#8 }, .v 20 0 0xFF800000#32),
    (.fsin { x0 with ty := 10#5, d := 20#8, a := 4#8 }, .v 20 0 0x7FC00000#32), (.fcos { x0 with ty := 10#5, d := 20#8, a := 6#8 }, .v 20 0 0x7FC00000#32),
    (.ftanh { x0 with ty := 10#5, d := 20#8, a := 5#8 }, .v 20 0 0x7FC00000#32)] : List (Instr × RegWrite)).all (fun p => gives p.1 flt p.2) = true := by
  decide +kernel

theorem test_conversions : ([(.cvt 10#5 { x0 with ty := 5#5, d := 20#8, a := 1#8 }, .v 20 0 2#32),
    (.cvt 5#5 { x0 with ty := 10#5, d := 20#8, a := 9#8 }, .v 20 0 0x40400000#32), (.cvt 10#5 { x0 with ty := 4#5, d := 20#8, a := 4#8 }, .v 20 0 0xFFFFFFFF#32),
    (.cvt 10#5 { x0 with ty := 9#5, d := 20#8, a := 1#8 }, .v 20 0 0x3FC0#32),
    -- R168: 4.0 alone gives E = 129 and M = 4 * 2^4
    (.bfpq { x0 with ty := 10#5, d := 20#8, a := 21#8, b := 8#8, imm := 8#8 }, .v 20 0 64#32), (.bfpq { x0 with ty := 10#5, d := 20#8, a := 21#8, b := 8#8, imm := 8#8 }, .v 21 31 129#32),
    -- R247: M = 3, E = 0, m = 2 gives 3 * 2^-127 with M read in two bits as -1
    (.bfpx { x0 with ty := 10#5, d := 20#8, a := 9#8, b := 7#8, imm := 2#8 }, .v 20 0 0x80400000#32)] : List (Instr × RegWrite)).all
      (fun p => gives p.1 flt p.2) = true := by decide +kernel

/-- The example of R247: 3.0, -0.75, 0.1 and 1.0 with m = 4. -/
def blk : State := onAgent (vset [(2, 0, 0x40400000#32), (2, 1, 0xBF400000#32), (2, 2, 0x3DCCCCCD#32), (2, 3, 0x3F800000#32)]) base
theorem test_bfpq_example : ([.v 4 0 6#32, .v 4 1 0xFFFFFFFE#32, .v 4 2 0#32, .v 4 3 2#32, .v 5 31 128#32, .v 5 32 0#32] : List RegWrite).all
    (fun w => gives (.bfpq { x0 with ty := 10#5, d := 4#8, a := 5#8, b := 2#8, imm := 4#8 }) blk w) = true := by decide +kernel

/-- Flags: NV, DZ, NX (R172). -/
theorem test_float_flags : flags (.faddExt { x0 with ty := 10#5, a := 6#8, b := 1#8 }) flt NV = true ∧
    flags (.faddExt { x0 with ty := 10#5, a := 5#8, b := 1#8 }) flt 0#5 = true ∧ flags (.fdiv { x0 with ty := 10#5, a := 1#8, b := 1#8 }) flt NV = true ∧
    flags (.cvt 10#5 { x0 with ty := 5#5, a := 1#8 }) flt NX = true := by decide +kernel

/-- The hypotheses of RoundingIsCorrect: a result that does not overflow in each mode, the smallest and largest values. -/
theorem wit_rounding : ([Fmt.f64, .f32, .f16, .bf16, .e4m3, .e5m2].all fun f => (List.range 4).all fun mode =>
    (f.round mode false true 3 (-1)).2 &&& OF == 0#5 && (f.round mode true false 1 (-2000)).2 &&& OF == 0#5 &&
    (match f.read 1, f.read f.maxMag with
      | .fin false m _, .fin false m' _ => decide (0 < m) && decide (0 < m') && decide (f.maxMag < 2 ^ f.width)
      | _, _ => false)) = true := by decide +kernel

/-- The hypotheses of InvalidOperandsAndOverflow. -/
theorem wit_invalid : ([Fmt.f64, .f32, .f16, .bf16, .e4m3, .e5m2].all fun f =>
    isNaN (f.read f.nan) && isNaN (.nan true) && !isNaN (f.read 0) && isSig (.nan true) && !isSig (.nan false) &&
      !zeroTimesInf (.nan false) (.inf true) && (match f.read f.maxMag with
        | .fin n _ _ => !n
        | _ => false)) = true := by decide +kernel
theorem wit_overflow : Fmt.f32.read Fmt.f32.maxMag = .fin false 0xFFFFFF 104 ∧
    ((0x1FFFFFE : Nat) : ℚ) * 2 ^ (104 : Int) ≥ 2 * ((0xFFFFFF : Nat) : ℚ) * 2 ^ (104 : Int) :=
  ⟨by decide +kernel, by norm_num⟩

/-- The hypotheses of SpecialFunctionInstructions: NaNs, zeros, infinities and negative numbers of both formats. -/
theorem wit_special : ([(Fmt.f64, 0x7FF8000000000000, 0x8000000000000000, 0xFFF0000000000000, 0x8000000000000001),
    (.f32, 0x7F800001, 0x80000000, 0xFF800000, 0x80000001)] : List (Fmt × Nat × Nat × Nat × Nat)).all (fun p =>
      isNaN (p.1.read p.2.1) && (match p.1.read p.2.2.1, p.1.read p.2.2.2.1, p.1.read p.2.2.2.2 with
        | .fin true 0 _, .inf true, .fin true m _ => decide (0 < m)
        | _, _, _ => false)) = true := by decide +kernel

/-- The hypotheses of ConversionsAndBlocks: values at both ends of a range, beyond it, NaN and infinity, and both widths of BFPQ. -/
theorem wit_conversions : intValue 5 0xFFFFFF80 = -128 ∧ intRange 1 = (-128, 127) ∧ intValue 4 127 = 127 ∧ intValue 5 0xFFFFFF7F = -129 ∧
    isNaN ((fmtOf 13).read 0x7F) = true ∧ (fmtOf 13).read 0xFC = .inf true ∧
    meets (.bfpq { x0 with ty := 10#5, d := 1#8, imm := 2#8 }) (onWg (fun w => { w with g := 31 }) base) (fun e => e.wg.g < 32) = true ∧
    meets (.bfpq { x0 with ty := 10#5, d := 1#8, imm := 2#8 }) (onWg (fun w => { w with g := 32 }) base) (fun e => 32 ≤ e.wg.g) = true := by decide +kernel

theorem test_bfpq_narrow : causeIs (.bfpq { x0 with ty := 10#5, d := 1#8, imm := 2#8 }) (onWg (fun w => { w with g := 16 }) base) 2 = true := by
  decide +kernel

/-! ### Memory through records (R25-R28, R249-R255, R259-R262) -/

def buf (base extent stride esz : Nat) (oobm : Nat := 0) (res : Nat := 0) : Rec :=
  BitVec.ofNat 256 (base + res * 2 ^ 52 + extent * 2 ^ 64 + stride * 2 ^ 96 + esz * 2 ^ 120 + oobm * 2 ^ 127)
def bset (l : List (Nat × Rec)) (a : Agent) : Agent := { a with b := l.foldl (fun t p => Table.put 0#256 t p.1 p.2) a.b }

/-- Two lanes, v0 = 0 and 1, v1 = 15 and 16, v2 = 6 and 7; s2 = 1; b2: 16 words at 0x40000; b3: the same under TRAP; b4: 32 elements of 16 bytes at
0x40080; b5 malformed. -/
def pair : State := onAgent (fun a => { bset [(2, buf 0x40000 16 4 2), (3, buf 0x40000 16 4 2 1), (4, buf 0x40080 32 16 4), (5, buf 0 1 1 0 0 1),
    (6, buf 0x40000 16 1 2)]
  (sset [(2, 1#64)] (vset [(0, 1, 1#32), (1, 0, 15#32), (1, 1, 16#32), (2, 0, 6#32), (2, 1, 7#32)] a)) with pk := 2, members := [0, 1] })
  { base with mem := Table.putAll memDefault [] [(0x40000, 0x80#8), (0x40001, 0xFF#8), (0x40002, 0xFF#8), (0x40003, 0xFF#8), (0x40004, 7#8)] }

def clear (s : State) (e : Env) : Bool := quiet s e && Table.wf memDefault s.mem

/-- A load, a store and an atomic of two lanes: IN and IN, IN and OUT under ZERO; OUT under TRAP; a malformed record; a misaligned one. -/
theorem wit_records :
    meets (.ld { x0 with ty := 4#5, d := 8#8, a := 2#8, b := 1#8 }) pair (fun e => clear pair e &&
      okAcc (access pair e.who .load (e.a.b.look 0#256 2).toNat 4 1 (e.vIndices 1 0)) fun l => (poisonLane pair e.who l).isNone && l.length == 2 &&
        (allPieces l).length == 1) = true ∧
    meets (.st { x0 with ty := 1#5, d := 2#8, a := 2#8, b := 0#8, imm := 14#8 }) pair (fun e => clear pair e &&
      okAcc (access pair e.who .store (e.a.b.look 0#256 2).toNat 1 1 (e.vIndices 0 14)) fun l => (allPieces l).all (fun q => q.dup.isNone) &&
        (allPieces l).length == 2) = true ∧
    meets (.lds { x0 with ty := 7#5, d := 8#8, a := 2#8, imm := 14#8 }) pair (fun e =>
      okAcc (access pair e.who .load (e.a.b.look 0#256 2).toNat 8 1 [(0, e.sIndex 0 14)])) = true ∧
    meets (.bld { x0 with d := 8#8, a := 4#8 }) pair (fun e => decide (3 ≤ recEsz (e.a.b.look 0#256 4).toNat) &&
      okAcc (access pair e.who .load (e.a.b.look 0#256 4).toNat 32 1 [(0, e.sIndex 0 0)]) fun l => !(allPieces l).isEmpty) = true ∧
    meets (.hld { x0 with d := 8#8, a := 4#8 }) pair (fun e => okAcc (access pair e.who .load (e.a.b.look 0#256 4).toNat 128 128 [(0, e.sIndex 0 0)]) fun l => !(allPieces l).isEmpty) = true ∧
    meets (.hst { x0 with d := 0#8, a := 4#8 }) pair (fun e => okAcc (access pair e.who .store (e.a.b.look 0#256 4).toNat 128 128 [(0, e.sIndex 0 0)]) fun l => !(allPieces l).isEmpty) = true ∧
    meets (.bld { x0 with d := 8#8, a := 2#8 }) pair (fun e => decide (recEsz (e.a.b.look 0#256 2).toNat < 3)) = true ∧
    meets (.ld { x0 with ty := 4#5, d := 8#8, a := 5#8 }) pair (fun e => recBad (e.a.b.look 0#256 5).toNat) = true ∧
    meets (.st { x0 with ty := 4#5, d := 8#8, a := 3#8, b := 1#8 }) pair (fun e => !recBad (e.a.b.look 0#256 3).toNat &&
      match access pair e.who .store (e.a.b.look 0#256 3).toNat 4 1 (e.vIndices 1 0) with
        | .trap t => t.cause == 5 && t.lane == 1
        | _ => false) = true ∧
    meets (.ld { x0 with ty := 4#5, d := 8#8, a := 2#8 }) (userGang pair) (fun e =>
      match access (userGang pair) e.who .load (e.a.b.look 0#256 2).toNat 4 1 (e.vIndices 0 0) with
        | .trap t => t.cause == 12
        | .page ps => !ps.isEmpty
        | _ => false) = true := by decide +kernel

/-- R250: what a lane, a scalar and a buffer register receive of the bytes read. -/
theorem test_loads : (LoadFmt.lane 8 0 1 true).writes 0x80 = [.v 8 0 0xFFFFFF80#32] ∧ (LoadFmt.lane 8 1 2 false).writes 0xFF80 = [.v 8 1 0xFF80#32] ∧
    (LoadFmt.lane 8 0 8 true).writes 0x100000002 = [.v 8 0 2#32, .v 9 0 1#32] ∧ (LoadFmt.scalar 8 4 true).writes 0xFFFFFF80 = [.s 8 0xFFFFFFFFFFFFFF80#64] ∧
    (LoadFmt.buf 8).writes (2 ^ 248) = [.b 8 (BitVec.ofNat 256 (2 ^ 248))] := by decide +kernel

/-- A store's bytes wait in the die's queue with their addresses; a lane OUT under TRAP traps and stores nothing. -/
theorem test_stores :
    nextIs (.st { x0 with ty := 3#5, d := 2#8, a := 2#8, b := 0#8 }) pair (fun t => t.outq.flatMap (fun w => w.bytes) ==
      [(0x40000, 6#8), (0x40001, 0#8), (0x40004, 7#8), (0x40005, 0#8)]) = true ∧
    nextIs (.sts { x0 with ty := 0#5, d := 2#8, a := 2#8, imm := 15#8 }) pair (fun t => t.outq.flatMap (fun w => w.bytes) == [(0x4003C, 1#8)]) = true ∧
    causeIs (.st { x0 with ty := 4#5, d := 8#8, a := 3#8, b := 1#8 }) pair 5 = true ∧ causeIs (.bld { x0 with d := 8#8, a := 2#8 }) pair 5 = true ∧
    nextIs (.hst { x0 with d := 1#8, a := 4#8 }) pair (fun t => (t.outq.flatMap fun w => w.bytes).take 2 == [(0x40080, 3#8), (0x40081, 0#8)]) = true := by decide +kernel

/-- The hypotheses of AtomicsPerform, at both ends of the widths, and of AtomicOperationsAndFields. -/
theorem wit_atomics :
    meets (.atom .cas { x0 with ty := 15#5, d := 8#8, a := 2#8, b := 0#8, c := 2#8, e := 3#8 }) pair (fun e => clear pair e &&
      !recBad (e.a.b.look 0#256 2).toNat && okAcc (access pair e.who .atomic (e.a.b.look 0#256 2).toNat 4 4 (e.atomIndices { x0 with b := 0#8 } ⟨8, 2, 0, 2⟩)) fun l =>
        (poisonLane pair e.who l).isNone && (allPieces l).map (fun q => q.pa) == [0x40000, 0x40004]) = true ∧
    meets (.atom .exch { x0 with ty := 16#5, d := 8#8, a := 4#8, b := 0#8, c := 12#8 }) pair (fun e =>
      atomWidth .exch { x0 with ty := 16#5 } (e.a.b.look 0#256 4).toNat == 16 && decide (12 + 3 < e.allot) &&
      okAcc (access pair e.who .atomic (e.a.b.look 0#256 4).toNat 16 16 (e.atomIndices { x0 with b := 0#8 } ⟨8, 4, 0, 12⟩)) fun l =>
        (allPieces l).map (fun q => q.pa) == [0x40080, 0x40090]) = true := by decide +kernel

theorem test_atomic_operations :
    atomNew .add 4 4 0xFFFFFFFF 2 0 = (1, true) ∧ (atomNew .min 5 4 0xFFFFFFFF 2 0).1 = 0xFFFFFFFF ∧ (atomNew .min 4 4 0xFFFFFFFF 2 0).1 = 2 ∧
    atomNew .cas 15 4 5 5 9 = (9, true) ∧ (atomNew .cas 15 4 5 6 9).2 = false ∧ atomNew .fadd 10 4 0x3FC00000 0x40000000 0 = (0x40600000, true) := by decide +kernel

/-- BSET writes each field of R25 alone. -/
theorem test_bset :
    gives (.bset { x0 with d := 7#8, a := 2#8, imm := 5#8, lit := some 1#64 }) pair (.b 7 (buf 0x40000 16 4 2 1)) = true ∧
    gives (.bset { x0 with d := 7#8, a := 2#8, imm := 0#8, lit := some 0x123#64 }) pair (.b 7 (buf 0x123 16 4 2)) = true ∧
    gives (.bset { x0 with d := 7#8, a := 2#8, imm := 2#8, b := 2#8 }) pair (.b 7 (buf 0x40000 16 1 2)) = true := by decide +kernel

/-- A fence of each scope with an own write waiting (R262), and one with none. -/
def waitingWrite : PendWrite := { n := 70, die := 0, core := 0, gang := 1, agent := 2, bytes := [(0x40000, 1#8)], seen := [0], dup := none, excl := false }
def waiting : State := { pair with outq := [waitingWrite], fresh := 80 }
theorem wit_fences : (List.range 5).all (fun k => meets (.fence 1#2 (BitVec.ofNat 3 k) x0) waiting (fun e =>
    waiting.atoms.isEmpty && waiting.outq.all fun p => p.agent == e.a.id && p.dup.isNone && !p.stuck waiting)) = true := by decide +kernel
theorem test_fences :
    nextIs (.fence 3#2 2#3 x0) waiting (fun t => t.outq.all fun p => (List.range 32).all p.seen.contains) = true ∧
    nextIs (.fence 1#2 2#3 x0) waiting (fun t => t.outq.map (fun p => p.seen) == [[0]] && onCurrent (fun _ a => a.before.map (fun n => (n.w, n.scope)) == [(70, 2)]) t) = true ∧
    nextIs (.fence 3#2 4#3 x0) waiting (fun t => t.outq.isEmpty && t.mem.look memDefault 0x40000 == 1#8) = true ∧
    pcIs (.fence 0#2 0#3 x0) waiting 0x1000000C#52 = true ∧ pcIs (.pref { x0 with a := 5#8 }) pair 0x1000000C#52 = true := by decide +kernel

/-! ### The operand store, windows, stage barriers, counters, tiles (R256-R264, R270-R273) -/

/-- Of `pair`, with v10 = 0 and 256, v11 = 2^20 - 4 and 2^20 - 2, v12 = 2^20 - 3; bytes 0 and 1 of line 0 are 0x80 and 0xFF, byte 256 is 7;
lines 0 and 2 are full. -/
def store : State := onAgent (vset [(10, 1, 256#32), (11, 0, 0xFFFFC#32), (11, 1, 0xFFFFE#32), (12, 0, 0xFFFFD#32)])
  (onGang (fun g => { g with os := [(0, 0x80#8), (1, 0xFF#8), (256, 7#8)], full := [0, 2] }) pair)

theorem wit_operand_store :
    meets (.ldo { x0 with ty := 4#5, d := 8#8, a := 10#8 }) store (fun e => clear store e && (osAddrs e { x0 with a := 10#8 } ⟨8, 10, 0, 0⟩).all fun p =>
      decide (p.2 + 4 ≤ 128 * e.g.osLines) && p.2 % 4 == 0 && (e.g.window? p.2).isNone && !e.g.osPoison.contains (lineOf p.2)) = true ∧
    meets (.sto { x0 with ty := 3#5, d := 2#8, a := 11#8 }) store (fun e => (osAddrs e { x0 with a := 11#8 } ⟨2, 11, 0, 0⟩).all fun p =>
      decide (p.2 + 2 ≤ 128 * e.g.osLines) && p.2 % 2 == 0) = true ∧
    meets (.ldo { x0 with ty := 4#5, d := 8#8, a := 12#8 }) store (fun e => ((osAddrs e { x0 with a := 12#8 } ⟨8, 12, 0, 0⟩).find? fun p =>
      decide (128 * e.g.osLines < p.2 + 4)).isSome) = true ∧
    meets (.sto { x0 with ty := 4#5, d := 8#8, a := 10#8, imm := 2#8 }) store (fun e => ((osAddrs e { x0 with a := 10#8, imm := 2#8 } ⟨8, 10, 0, 0⟩).find? fun p =>
      p.2 % 4 != 0).isSome) = true ∧
    meets (.ldc { x0 with ty := 1#5, d := 8#8, a := 10#8, b := 2#8 }) store (fun e => (osAddrs e { x0 with a := 10#8 } ⟨8, 10, 2, 0⟩).all fun p =>
      e.g.full.contains (lineOf p.2)) = true ∧
    meets (.stp { x0 with ty := 1#5, d := 8#8, a := 10#8, b := 2#8, imm := 128#8 }) store (fun e => (osAddrs e { x0 with a := 10#8, imm := 128#8 } ⟨8, 10, 2, 0⟩).all fun p =>
      p.2 == 2 ^ 32 - 128 || !e.g.full.contains (lineOf p.2)) = true := by decide +kernel

theorem test_operand_store :
    causeIs (.ldo { x0 with ty := 4#5, d := 8#8, a := 12#8 }) store 5 = true ∧ causeIs (.sto { x0 with ty := 4#5, d := 8#8, a := 10#8, imm := 2#8 }) store 6 = true ∧
    nextIs (.ldc { x0 with ty := 1#5, d := 8#8, a := 10#8, b := 2#8 }) store (fun t => (owes t).contains (.k 2 true) && (owes t).contains (.v 8 0 0xFFFFFF80#32) &&
      onCurrent (fun g _ => g.full.isEmpty) t) = true ∧
    gives (.ldc { x0 with ty := 1#5, d := 8#8, a := 10#8, b := 2#8 }) (onGang (fun g => { g with full := [0] }) store) (.k 2 false) = true ∧
    gives (.stp { x0 with ty := 1#5, d := 8#8, a := 10#8, b := 2#8 }) store (.k 2 false) = true ∧
    nextIs (.stp { x0 with ty := 1#5, d := 2#8, a := 10#8, b := 2#8, lit := some 128#64 }) store (fun t => (owes t).contains (.k 2 true) && onCurrent (fun g _ =>
      g.full == [0, 1, 2, 3] && g.os.look 0#8 128 == 6#8 && g.os.look 0#8 384 == 7#8) t) = true := by decide +kernel

/-- Window 0 of two lines from line 8, its first line dirty; s5 = 0x50000, s6 = 8, s7 = 2, s8 = 8191, s9 = 0x50001. -/
def windows : State := onAgent (sset [(5, 0x50000#64), (6, 8#64), (7, 2#64), (8, 8191#64), (9, 0x50001#64)])
  (onGang (fun g => { g with stash := g.stash.set 0 ⟨true, 0x50000#52, 2, 8⟩, wlines := [⟨8, 0xA00, true, 0xA00⟩], os := [(1024, 9#8)] }) pair)
def sm (a b c n : BitVec 8) : Instr := .smap { x0 with a := a, b := b, c := c, imm := n }

theorem wit_windows :
    meets (sm 9#8 6#8 7#8 1#8) windows (fun e => (e.a.rs 9).toNat % 128 != 0) = true ∧
    meets (sm 5#8 8#8 7#8 1#8) windows (fun e => e.g.osLines < (e.a.rs 8).toNat + (e.a.rs 7).toNat) = true ∧
    meets (sm 5#8 6#8 7#8 1#8) windows (fun e => mapBad windows e.g 1 0x50000 8 2 == some (some 2)) = true ∧
    meets (sm 5#8 0#8 7#8 1#8) windows (fun e => (mapBad windows e.g 1 0x50000 0 2).isNone && !(e.g.stash.getD 1 default).v) = true ∧
    meets (sm 5#8 0#8 0#8 1#8) windows = true ∧
    meets (.sflush { x0 with imm := 1#8 }) windows (fun e => !(e.g.stash.getD 1 default).v) = true ∧
    meets (.sflush x0) windows (fun e => let w := e.g.stash.getD 0 default
      w.v && clear windows e && e.g.dirtyLines w == [⟨8, 0xA00, true, 0xA00⟩] && (match dirtyAt windows 0xA00 with
        | some p => p.2 == ⟨8, 0xA00, true, 0xA00⟩ && p.1.uid == e.g.uid
        | none => false) && (match translateAll windows e.who .store [(0, [w.vaOf (8 * 128)])] with
        | .ok _ => true
        | .error _ => false) && !frozen windows (0xA00 * 128)) = true ∧
    meets (.sinv x0) windows = true ∧
    meets (.ldo { x0 with ty := 4#5, d := 8#8, a := 10#8, lit := some 1152#64 }) windows (fun e => clear windows e && (e.g.wline? 9).isNone &&
      (osAddrs e { x0 with a := 10#8, lit := some 1152#64 } ⟨8, 10, 0, 0⟩).all fun p => lineOf p.2 == 9 && e.g.window? p.2 == some ⟨true, 0x50000#52, 2, 8⟩ &&
        (match translateAll windows e.who .load [(0, [0x50080]), (1, [0x50080])] with
          | .ok ts => placePiece windows e.who ts (0x50080, 1) == ⟨0x50080, 1, 0x50080, 0x50080, none⟩
          | .error _ => false)) = true := by decide +kernel

theorem test_windows :
    causeIs (sm 9#8 6#8 7#8 1#8) windows 6 = true ∧ causeIs (sm 5#8 8#8 7#8 1#8) windows 5 = true ∧ causeIs (sm 5#8 6#8 7#8 1#8) windows 5 = true ∧
    nextIs (sm 5#8 0#8 7#8 1#8) windows (onCurrent fun g _ => g.stash.getD 1 default == ⟨true, 0x50000#52, 2, 0⟩) = true ∧
    nextIs (.sflush x0) windows (fun t => t.mem.look memDefault 0x50000 == 9#8 && onCurrent (fun g _ => g.dirtyLines (g.stash.getD 0 default) == []) t) = true ∧
    nextIs (.sinv x0) windows (fun t => t.mem.look memDefault 0x50000 == 0#8 && onCurrent (fun g _ => g.wlines.isEmpty) t) = true := by decide +kernel

/-- A barrier of two arrivals at byte 16, one made, 128 bytes expected; s1 = 16, s2 = 2, s3 = 2^20, s4 = 24, s5 = 1, s6 = 1025, s7 = 32. -/
def sb (f : SBar → SBar) : State :=
  let s := onAgent (sset [(1, 16#64), (2, 2#64), (3, 0x100000#64), (4, 24#64), (5, 1#64), (6, 1025#64), (7, 32#64)]) pair
  onGang (fun g => g.putSbar 16 (f { g.sbar 16 with exp := 2, arr := 1, pend := 128 })) s
theorem wit_barriers :
    meets (.sbarv { x0 with a := 3#8 }) (sb id) (fun e => 128 * e.g.osLines ≤ (e.a.rs 3).toNat) = true ∧
    meets (.sbarv { x0 with a := 4#8 }) (sb id) (fun e => (e.a.rs 4).toNat % 16 != 0) = true ∧
    meets (.sbinit { x0 with a := 1#8, b := 6#8 }) (sb id) (fun e => (e.a.rs 6).toNat == 1025) = true ∧
    meets (.sbinit { x0 with a := 1#8, b := 6#8, imm := 0xFF#8 }) (sb id) = true ∧
    meets (.sbwait { x0 with a := 1#8, b := 2#8 }) (sb id) = true ∧
    meets (.sbarv { x0 with a := 7#8 }) (sb id) (fun e => (e.g.sbar 32).exp == 0) = true ∧
    meets (.sbexp { x0 with a := 1#8, b := 2#8 }) (sb id) (fun e => let b := e.g.sbar 16
      quiet (sb id) e && b.exp == 2 && b.arr == 1 && b.pend == 128 && !b.phase) = true ∧
    meets (.sbarv { x0 with a := 1#8 }) (sb id) (fun e => decide (0 < (e.g.sbar 16).pend)) = true ∧
    meets (.sbarv { x0 with a := 1#8 }) (sb fun b => { b with pend := 0 }) (fun e => decide ((e.g.sbar 16).pend ≤ 0) && (e.g.sbar 16).carry == 0) = true ∧
    meets (.sbarv { x0 with a := 1#8 }) (sb fun b => { b with arr := 0, pend := -2 }) (fun e => (e.g.sbar 16).arr + 1 < 2) = true ∧
    meets (.sbwait { x0 with a := 1#8, b := 0#8 }) (sb fun b => { b with phase := true }) (fun e => (e.g.sbar 16).phase) = true ∧
    meets (.sbwait { x0 with a := 1#8, b := 5#8 }) (sb fun b => { b with phase := true }) (fun e => (e.g.sbar 16).phase) = true := by decide +kernel

theorem test_barriers :
    nextIs (.sbinit { x0 with a := 1#8, b := 0#8, imm := 3#8 }) (sb id) (onCurrent fun g _ => (g.sbar 16).exp == 3 && (g.sbar 16).arr == 0 && (g.sbar 16).pend == 0) = true ∧
    causeIs (.sbinit { x0 with a := 1#8, b := 6#8 }) (sb id) 5 = true ∧ causeIs (.sbarv { x0 with a := 4#8 }) (sb id) 6 = true ∧
    nextIs (.sbexp { x0 with a := 1#8, b := 2#8 }) (sb id) (onCurrent fun g _ => (g.sbar 16).pend == 130) = true ∧
    nextIs (.sbarv { x0 with a := 1#8 }) (sb fun b => { b with pend := 0 }) (onCurrent fun g _ => (g.sbar 16).phase && (g.sbar 16).arr == 0) = true ∧
    pcIs (.sbwait { x0 with a := 1#8, b := 5#8 }) (sb id) 0x1000000C#52 = true ∧
    nextIs (.sbwait { x0 with a := 1#8, b := 0#8 }) (sb id) (onCurrent fun _ a => a.pc == 0x10000000#52 && a.st != .runnable) = true ∧
    -- a credit that brings PEND to 0 with every arrival made flips the phase (R116)
    (SBar.mk 128 1 2 2 false false false 0 0).credit 128 = SBar.mk 0 0 1 2 false false true 0 1 ∧
    (SBar.mk 128 1 1 2 false false false 0 0).credit 128 = SBar.mk 0 1 1 2 false false false 0 0 := by decide +kernel

/-- Tiles: t0 of 64 by 32 BF16 at s1 = 0, t1 of 32 by 64, t2 of 64 by 64 F32 at line 128, filled; v11 = 0x11 in every lane; h2 all of 64 ranks;
s2 = 0x4000, s3 = 64, s4 = 0x2000, s5 = 0x80000. -/
def tdefOf (d a rows cols ty lay : Nat) : Instr := .tdef
  { x0 with d := BitVec.ofNat 8 d, a := BitVec.ofNat 8 a, b := BitVec.ofNat 8 (rows - 1),
            c := BitVec.ofNat 8 (cols - 1), ty := BitVec.ofNat 5 ty, e := BitVec.ofNat 8 lay }
def tiles : State :=
  let s := onAgent (fun a => vset ((List.range 64).map fun l => (11, l, 0x11#32)) (sset [(1, 0#64), (2, 0x4000#64), (3, 64#64), (4, 0x2000#64), (5, 0x80000#64)] a)) base
  let s := after (tdefOf 2 2 64 64 10 0) (after (tdefOf 1 4 32 64 9 0) (after (tdefOf 0 1 64 32 9 0) s))
  onWg (fun w => { w with hands := w.hands.set 2 (handOf (List.range 64)) })
    (onAgent (fun a => { a with pc := 0x10000000#52 }) (onGang (fun g => { g with filled := [0, 1, 2] }) s))
def cmdsOf (cls : CmdClass) (n : Nat) (s : State) : State :=
  { s with cmds := (List.range n).map fun k => { (default : Cmd) with id := 200 + k, cls := cls, gang := 1, accepted := some k } }

theorem wit_counters_tiles :
    meets (.waitc { x0 with imm := 63#8 }) (cmdsOf .cp 63 tiles) (fun e => (cmdsOf .cp 63 tiles).cmds.countP (fun c => c.cls == .cp && c.gang == e.g.uid &&
      c.wg == e.a.wg && c.place == e.a.place) == 63) = true ∧
    meets (.waitc { x0 with imm := 0#8 }) (cmdsOf .cp 1 tiles) = true ∧
    meets (tdefOf 3 3 1 1 9 0) tiles (fun e => (e.a.rs 3).toNat % 128 == 64) = true ∧
    meets (tdefOf 3 1 1 1 20 0) tiles (fun e => tdefBad tiles e.g 3 0 1 1 20 0 0 0) = true ∧
    meets (tdefOf 3 5 256 256 9 0) tiles (fun e => !tdefBad tiles e.g 3 4096 256 256 9 0 0 0) = true ∧
    meets (.trel { x0 with d := 0#8 }) tiles = true ∧ meets (.tstat { x0 with d := 5#8, a := 0#8 }) tiles = true := by decide +kernel

theorem test_counters_tiles :
    pcIs (.waitc { x0 with imm := 63#8 }) (cmdsOf .cp 63 tiles) 0x1000000C#52 = true ∧
    nextIs (.waitc { x0 with imm := 0#8 }) (cmdsOf .cp 1 tiles) (onCurrent fun _ a => a.pc == 0x10000000#52 && a.st != .runnable) = true ∧
    causeIs (tdefOf 3 3 1 1 9 0) tiles 6 = true ∧ causeIs (tdefOf 3 1 1 1 20 0) tiles 5 = true ∧
    -- R59, R272: [12:0] line, [26:18] rows, [35:27] columns, [40:36] type, and state FULL in [63:62]
    gives (.tstat { x0 with d := 5#8, a := 2#8 }) tiles (.s 5 (BitVec.ofNat 64 (128 + 64 * 2 ^ 18 + 64 * 2 ^ 27 + 10 * 2 ^ 36 + 2 * 2 ^ 62))) = true ∧
    nextIs (.trel { x0 with d := 0#8 }) tiles (onCurrent fun g _ => g.tile 0 == 0#64 && !g.filled.contains 0) = true := by decide +kernel

/-! ### Commands issue (R113, R274-R283, R254, R292, R303, R311, R327) -/

def issues (i : Instr) (s : State) (p : Cmd → Bool) : Bool := nextIs i s fun t => match t.cmds with
  | [c] => p c && c.accepted == none && c.gang == 1 && c.agent == 2 && onCurrent (fun _ a => a.pc == 0x1000000C#52) t
  | _ => false

theorem wit_matrix_issue :
    meets (.mzero { x0 with d := 15#8 }) tiles (fun e => e.counter tiles .mx == 0) = true ∧
    meets (.mzero { x0 with ty := 11#5, d := 14#8 }) (cmdsOf .mx 62 tiles) (fun e => e.counter (cmdsOf .mx 62 tiles) .mx == 62 && 14 + 1 < e.g.blk.nacc) = true ∧
    ((cmdsOf .mx 63 tiles).env?.any fun e => e.counter (cmdsOf .mx 63 tiles) .mx == 63) = true ∧
    meets (.mma { x0 with ty := 9#5, b := 1#8, c := 11#8, e := 2#8 }) (onAgent (fun a => { a with depth := 1 }) tiles) = true ∧
    meets (.mma { x0 with ty := 9#5, b := 1#8, c := 11#8, e := 2#8 }) (onWg (fun w => { w with g := 32 }) tiles) = true ∧
    meets (.mma { x0 with ty := 9#5, a := 3#8, b := 1#8, c := 11#8, e := 2#8 }) tiles (fun e => tRows (e.g.tile 3) == 0) = true ∧
    meets (.mma { x0 with ty := 9#5, b := 1#8, c := 11#8, e := 2#8 }) (onAgent (vset [(11, 63, 0#32)]) tiles) = true ∧
    meets (.mma { x0 with ty := 9#5, b := 1#8, c := 11#8, e := 3#8 }) tiles = true ∧
    meets (.mma { x0 with ty := 9#5, b := 1#8, c := 11#8, e := 2#8 }) tiles (fun e => tileState tiles e.g 0 == 2 && tileState tiles e.g 1 == 2 &&
      fwOk 0x11 && fwFA 0x11 + 8 == 9 && mmaTilesOk (e.g.tile 0) (e.g.tile 1) 9 0x11) = true ∧
    meets (.mload { x0 with d := 1#8, a := 2#8, b := 11#8 }) tiles (fun e => fwOkMove 0x11 && tRows (e.g.tile 2) == 64 && tCols (e.g.tile 2) == 64 && fwAcc 0x11 == 0) = true ∧
    meets (.mdrain { x0 with d := 2#8, a := 1#8, b := 11#8 }) tiles (fun e => tType (e.g.tile 2) == 10 && !fwAmax 0x11) = true := by decide +kernel

theorem test_matrix_issue :
    issues (.mzero { x0 with d := 15#8 }) tiles (fun c => c.body == .mzero false 15) = true ∧ pcIs (.mzero x0) (cmdsOf .mx 63 tiles) 0x10000000#52 = true ∧
    causeIs (.mma { x0 with ty := 9#5, b := 1#8, c := 11#8, e := 2#8 }) (onAgent (fun a => { a with depth := 1 }) tiles) 8 = true ∧
    causeIs (.mma { x0 with ty := 9#5, b := 1#8, c := 11#8, e := 2#8 }) (onWg (fun w => { w with g := 32 }) tiles) 2 = true ∧
    causeIs (.mma { x0 with ty := 9#5, b := 1#8, c := 11#8, e := 2#8 }) (onAgent (vset [(11, 63, 0#32)]) tiles) 7 = true ∧
    issues (.mma { x0 with ty := 9#5, d := 3#8, b := 1#8, c := 11#8, e := 2#8 }) tiles (fun c => c.body == .mma 3 0 1 9 0x11#32 (List.range 64)) = true ∧
    issues (.mload { x0 with d := 1#8, a := 2#8, b := 11#8 }) tiles (fun c => c.body == .mload 1 2 0x11#32) = true ∧
    issues (.mdrain { x0 with d := 2#8, a := 1#8, b := 11#8 }) tiles (fun c => c.body == .mdrain 2 1 0x11#32 none) = true := by decide +kernel

/-- A command accepted and ready, and what it leaves: MZERO clears; MMA adds 2.0 * 3.0 to element (0, 0). -/
def matrix (b : CmdBody) : State := onGang (fun g => { g with accs := [(0, 0x3F800000#32), (4096, 5#32)], os := [(0, 0#8), (1, 0x40#8), (0x2000, 0x40#8), (0x2001, 0x40#8)].filter fun p => p.2 != 0#8 })
  { tiles with cmds := [{ (default : Cmd) with id := 90, cls := .mx, gang := 1, agent := 2, home := 2, accepted := some 1, body := b }] }
theorem wit_matrix_perform : ([.mzero false 0, .mma 0 0 1 9 0x11#32 [0], .mload 0 2 0x11#32, .mdrain 2 0 0x11#32 none] : List CmdBody).all (fun b =>
    match (matrix b).cmd? 90, (matrix b).gang? 1 with
      | some c, some g => accReady (matrix b) c && Table.wf 0#8 g.os && Table.wf 0#64 g.tiles && Table.wf 0#32 g.accs &&
          g.agents.all fun a => Table.wf 0#32 a.v && Table.wf 0#64 a.s && Table.wf 0#256 a.b
      | _, _ => false) = true := by decide +kernel
/-- R178: 1.0 + 2.0 * 3.0, with FP32 accumulation. -/
theorem test_matrix_perform : onCurrent (fun g _ => (mmaElem (accFmt false) (mmaChunks 9 ((tileRow g (g.tile 0) (mmaK 9) 0).zip (tileCol g (g.tile 1) (mmaK 9) 0)))
    (g.acc false 0 0)).1 == 0x40E00000) (matrix (.mzero false 0)) = true := by decide +kernel

def nums (a n v : Nat) : List (Nat × Byte) := (List.range n).map fun k => (a + k, BitVec.ofNat 8 (v / 2 ^ (8 * k)))
/-- Context 7: its one page of 1 GiB lies at 0 and maps itself (root at 0x800000); its descriptor at 0x900700 with QAREA 0xA80000 and RAREA
0xA00000; send list 5 has 4 entries at 0xB00000 and kitties at 0xB10000. -/
def userMem : List (Nat × Byte) := nums 0x800000 8 7 ++ nums 0x900700 8 (2 ^ 63 + 0x800000 + 4) ++ nums 0x900780 8 1 ++ nums 0x900788 8 0xA80000 ++
  nums 0x900790 8 0xA00000 ++ nums 0xA00140 8 0xB00000 ++ nums 0xA00148 8 2 ++ nums 0xA00150 8 0xB10000
def user (s : State) : State :=
  onGang (fun g => { g with ident := false, asid := 7, raf := (BitVec.ofNat 64 (2 ^ 63 + 0x800000 + 4)) :: List.replicate 15 0#64 })
    { s with mem := s.mem.putAll memDefault userMem, bar0 := { s.bar0 with ctxtbase := 0x900000#52 }, routeV := [5] }

/-- Of `tiles`, two lanes: b4 as in `pair`, b6 zero-mode; s5 = 48; v30 rows 0 and 1; v20-v23 routing entries for route 5 with no alternative;
s10-s16 the descriptor of an auction of 2 rows and columns. -/
def engines : State := onAgent (fun a => { bset [(4, buf 0x40080 32 16 4), (6, buf 0x40000 16 4 2)] (sset [(3, 0#64), (5, 48#64), (6, 0x80000#64), (10, 0x50000#64),
    (11, 0x51000#64), (12, 0x52000#64), (13, BitVec.ofNat 64 (0x40000 + 2 ^ 20 + 2 ^ 30 + 2 ^ 38)), (14, 0x3F8000003F800000#64), (15, 0x3F80000040000000#64), (16, 0x447A0000#64)]
  (vset [(20, 0, 0x60000#32), (20, 1, 0x60010#32), (22, 0, 0xFFFF0005#32), (22, 1, 0xFFFF0005#32), (31, 1, 1#32)] a)) with pk := 2, members := [0, 1] }) tiles
def routing : State := user engines

theorem wit_commands_issue :
    meets (.cpy { x0 with d := 6#8, a := 4#8, c := 5#8, hint := 4#3 }) (cmdsOf .cp 62 engines) (fun e => e.counter (cmdsOf .cp 62 engines) .cp == 62 &&
      !recBad (e.a.b.look 0#256 4).toNat && (e.a.rs 6).toNat % 128 == 0 && decide ((e.a.rs 6).toNat < 128 * e.g.osLines) && decide ((e.a.rs 5).toNat % 16 = 0) &&
      (match planAccess (e.a.b.look 0#256 4).toNat 128 1 [(0, (e.a.rs 0).toNat)] with
        | .lanes [(0, some vs)] => vs.length == 8
        | _ => false)) = true ∧
    meets (.cpo { x0 with d := 0#8, a := 4#8, imm := 0xC0#8 }) engines (fun e => tRows (e.g.tile 0) != 0 && tileState engines e.g 0 != 0) = true ∧
    ((cmdsOf .cp 63 engines).env?.any fun e => e.counter (cmdsOf .cp 63 engines) .cp == 63) = true ∧
    meets (.gath { x0 with d := 2#8, a := 4#8, b := 31#8, imm := 0x40#8 }) engines (fun e => e.lanes == [0, 1] && tRows (e.g.tile 2) == 64 && tLayout (e.g.tile 2) == 0 &&
      !recTrap (e.a.b.look 0#256 4).toNat) = true ∧
    meets (.sred .add { x0 with ty := 4#5, a := 6#8, b := 31#8, c := 11#8 }) engines (fun e => okAcc (access engines e.who .atomic (e.a.b.look 0#256 6).toNat 4 4
      (e.atomIndices { x0 with b := 31#8 } ⟨0, 6, 31, 11⟩)) fun l => (allPieces l).length == 2 && (allPieces l).all fun q => q.dup.isNone) = true ∧
    meets (.vdec { x0 with ty := 9#5, d := 6#8, a := 4#8, c := 5#8 }) engines = true ∧
    meets (.walk { x0 with d := 2#8, a := 4#8, c := 5#8 }) engines (fun e => walkTypes.contains (tType (e.g.tile 2))) = true ∧
    meets (.auct { x0 with a := 10#8 }) engines (fun e => (auctCheck e.g ((List.range 7).map fun k => e.a.rs (10 + k))).isNone) = true ∧
    meets (.rtsend { x0 with d := 20#8 }) routing (fun e => let es := e.lanes.map fun l => (l, e.routeEnt 20 l)
      es.length == 2 && es.all (fun p => p.2.row % 16 == 0) && (match badEnt routing e.unit es with
        | .ok none => true
        | _ => false)) = true ∧
    meets (.rtflush x0) routing = true := by decide +kernel

theorem test_commands_issue :
    issues (.cpy { x0 with d := 6#8, a := 4#8, imm := 0x40#8 }) engines (fun c => c.cls == .cp && c.bar == none && (match c.body with
      | .copy .cpy none 0x80000 (some ws) [] 0 => ws.take 2 == [0x40080, 0x40088] && ws.length == 16
      | _ => false)) = true ∧
    issues (.cpo { x0 with d := 0#8, a := 4#8, c := 5#8, imm := 0x80#8 }) engines (fun c => c.bar == some 48 && (match c.body with
      | .copy .cpo (some 0) _ _ [] 0 => true
      | _ => false)) = true ∧
    issues (.gath { x0 with d := 2#8, a := 4#8, b := 31#8, imm := 0x40#8 }) engines (fun c => c.body == .copy .gath (some 2) 0 none [(0, some 0x40080), (1, some 0x40090)] 0) = true ∧
    issues (.sred .add { x0 with ty := 4#5, a := 6#8, b := 31#8, c := 11#8 }) engines (fun c => c.cls == .rd && (match c.body with
      | .sred is => is.map (fun i => (i.pa, i.val)) == [(0x40000, 0x11), (0x40004, 0x11)]
      | _ => false)) = true ∧
    issues (.vdec { x0 with ty := 9#5, d := 6#8, a := 4#8, c := 5#8 }) engines (fun c => c.cls == .vd && c.bar == some 48) = true ∧
    issues (.walk { x0 with d := 2#8, a := 4#8, c := 5#8 }) engines (fun c => c.cls == .fw) = true ∧
    issues (.auct { x0 with a := 10#8 }) engines (fun c => c.cls == .au) = true ∧
    issues (.rtsend { x0 with d := 20#8 }) routing (fun c => c.body == .rtsend [⟨0x60000, 0xFFFF0005#32, 0#32⟩, ⟨0x60010, 0xFFFF0005#32, 0#32⟩]) = true ∧
    issues (.rtflush x0) routing (fun c => c.body == .rtflush false) = true ∧ pcIs (.cpy { x0 with d := 6#8, a := 4#8, imm := 0x40#8 }) (cmdsOf .cp 63 engines) 0x10000000#52 = true := by
  decide +kernel

/-! ### Spill tokens (R302, R390) -/

def token (t : Token) : State := onAgent (fun a => { a with tokens := a.tokens.set 15 t }) pair
theorem wit_tokens :
    meets (.spill { x0 with d := 2#8, a := 15#8 }) (token .busy) (fun e => e.a.tokens.getD 15 .idle == .busy) = true ∧
    meets (.tokw { x0 with a := 15#8 }) (token (.trap 5)) (fun e => e.a.tokens.getD 15 .idle == .trap 5) = true ∧
    meets (.spill { x0 with d := 2#8, a := 15#8 }) (token .idle) (fun e => 560 ≤ e.g.blk.tlw + 16 * e.a.depth + 15 &&
      (match planAccess (e.a.b.look 0#256 15).toNat 4 1 (e.lanes.map fun l => (l, (1024 * (4096 + 15 - 560) + e.rank l) % 2 ^ 32)) with
        | .lanes ls => ls.length == 2
        | _ => false)) = true ∧
    meets (.fill { x0 with d := 2#8, a := 15#8 }) (token .idle) = true ∧ meets (.tokw { x0 with a := 15#8 }) (token .idle) = true := by decide +kernel
/-- Words of a fill that have still to be written. -/
def filling : State := { pair with cmds := [{ (default : Cmd) with id := 91, cls := .tok, gang := 1, agent := 2, home := 2, body := .fillv 9 15 [(0, 4#32), (1, 5#32)] }] }
theorem wit_token_idle : (match filling.cmd? 91 with
  | some c => c.alive filling && (match envOf filling 1 2 with
    | some e => Table.wf 0#32 e.a.v && Table.wf 0#64 e.a.s && Table.wf 0#256 e.a.b
    | none => false)
  | none => false) = true ∧ ([(0, 4#32), (1, 5#32)].map fun p => (p : Nat × Word).1).Nodup := by decide +kernel
theorem test_tokens :
    pcIs (.spill { x0 with d := 2#8, a := 15#8 }) (token .busy) 0x10000000#52 = true ∧ causeIs (.tokw { x0 with a := 15#8 }) (token (.trap 5)) 5 = true ∧
    pcIs (.tokw { x0 with a := 15#8 }) (token .idle) 0x1000000C#52 = true ∧
    issues (.spill { x0 with d := 2#8, a := 15#8 }) (token .idle) (fun c => match c.body with
      -- R24: word tlw + 16 depth + 15 - 560 of rank 0 and 1, at TLBASE
      | .spill 15 ws => ws == [(0, some (0x30000000 + 4096 * 3551), 6#32), (1, some (0x30000000 + 4096 * 3551 + 4), 7#32)]
      | _ => false) = true ∧
    issues (.fill { x0 with d := 2#8, a := 15#8 }) (token .idle) (fun c => match c.body with
      | .fill 2 15 _ => true
      | _ => false) = true := by decide +kernel

/-! ### The format walker (R330-R334) -/

/-- One level of extent 5; array 0: 3 elements of 4 bytes at 0x70000, the last 9; array 1: 2 of 8 bytes at 0x70080. y1 = 2, y2 = 7, y3 = -1. -/
def wfmt : List DWord := ((((((List.replicate 32 0#64).set 0 1#64).set 2 5#64).set 10 (BitVec.ofNat 64 (0x70000 + 2 * 2 ^ 52))).set 11 3#64).set 12
  (BitVec.ofNat 64 (0x70080 + 3 * 2 ^ 52))).set 13 2#64
def wst : WalkSt :=
  { walkInit [0, 0, 0, 0] [0#32, 0#32, 0#32, 0#32] wfmt with
    y := ((((List.replicate 16 0#32).set 1 2#32).set 2 7#32).set 3 0xFFFFFFFF#32), stack := [8#32],
    bufs := [(0, 0x70000, (List.replicate 128 0#8).set 8 9#8), (1, 0x70080, (List.replicate 128 0#8).set 12 6#8)] }
def walking (st : WalkSt) : State := onGang (fun g => { g with tiles := [(0, BitVec.ofNat 64 (2 * 2 ^ 18 + 3 * 2 ^ 27 + 10 * 2 ^ 36))] })
  { State.reset.withFetchWord 32 0 with
    cur := .walker 3
    cmds := [{ fetchWalk 0#32 with body := .walk 0 none (some st) }] }
theorem wit_walker : (match (walking wst).walk? with
  | some (c, tl, _, st, g) => walkRuns (walking wst) c st g && tl == 0 && fmtNlev st.fmt == 1 && fmtEsz st.fmt 0 == 4 && fmtEsz st.fmt 1 == 8 && fmtCount st.fmt 0 == 3 &&
      tRows (g.tile 0) == 2 && tCols (g.tile 0) == 3 && st.stack.length == 1 && !st.lt && 1 < st.prog.length
  | none => false) = true ∧ (match (walking { wst with lt := true, stack := [1#32, 2#32, 3#32, 4#32], row := 2#32 }).walk? with
  | some (c, _, _, st, g) => walkRuns (walking { wst with lt := true, stack := [1#32, 2#32, 3#32, 4#32], row := 2#32 }) c st g
  | none => false) = true ∧ (match (walking { wst with stack := [] }).walk? with
  | some (c, _, _, st, g) => walkRuns (walking { wst with stack := [] }) c st g
  | none => false) = true := by decide +kernel

def walks (i : Instr) (st : WalkSt) (p : WalkSt → Bool) : Bool := nextIs i (walking st) fun t => match t.cmds with
  | [c] => (match c.body with
    | .walk _ _ (some s) => p s
    | _ => false)
  | _ => false
def puts (i : Instr) (k : Nat) (v : Word) : Bool := walks i wst fun s => s.y.getD k 0#32 == v && s.next == 1 && s.steps == 1
theorem test_walker :
    puts (.wldi 4#4 0x3FFF#14) 4 0x3FFF#32 = true ∧ puts (.wadd 4#4 1#4 2#4 0x3FFF#14) 4 8#32 = true ∧ puts (.wsub 4#4 1#4 2#4) 4 0xFFFFFFFB#32 = true ∧
    puts (.wand 4#4 2#4 3#4) 4 7#32 = true ∧ puts (.wshr 4#4 3#4 31#5) 4 1#32 = true ∧ puts (.wld 4#4 1#4 0#4) 4 9#32 = true ∧
    puts (.wld 4#4 1#4 8#4) 4 5#32 = true ∧ puts (.wrun 4#4 5#4 0#4 1#3) 4 0#32 = true ∧ puts (.wpop 4#4) 4 8#32 = true ∧
    puts (.wbmn 4#4 2#4 1#4 0#3) 4 2#32 = true ∧
    walks (.wcmp 1#4 2#4) wst (fun s => s.lt && !s.eq) = true ∧ walks (.wbr 3#8) wst (fun s => s.next == 3) = true ∧ walks (.wbz 0#4 3#8) wst (fun s => s.next == 3) = true ∧
    walks (.wbz 1#4 3#8) wst (fun s => s.next == 1) = true ∧ walks (.wblt 3#8) wst (fun s => s.next == 1) = true ∧ walks (.wrow 1#4) wst (fun s => s.row == 2#32) = true ∧
    walks (.wpush 2#4) wst (fun s => s.stack == [7#32, 8#32]) = true ∧ walks .wsync wst (fun s => s.bufs.isEmpty) = true ∧
    -- element (0, 2) of the tile: bytes 8 to 11
    walks (.wemit 1#4 2#4) wst (fun s => s.staged == [(8, 7#8)]) = true ∧ walks .wend wst (fun s => s.ended == some (0, 0)) = true ∧
    walks (.wpush 2#4) { wst with stack := [1#32, 2#32, 3#32, 4#32] } (fun s => s.ended == some (4, 0)) = true ∧
    walks (.wpop 2#4) { wst with stack := [] } (fun s => s.ended == some (4, 0)) = true ∧ walks (.wbr 4#8) wst (fun s => s.ended == some (3, 0)) = true ∧
    walks (.wemit 1#4 2#4) { wst with row := 2#32 } (fun s => s.ended == some (6, 0)) = true ∧ walks (.wld 4#4 2#4 0#4) wst (fun s => s.ended == some (5, 0)) = true ∧
    walks (.wrun 4#4 4#4 0#4 1#3) wst (fun s => s.ended == some (2, 0)) = true := by decide +kernel

/-! ### Status registers, traps, fault service, saving (R340-R342, R350-R360) -/

def sr (a : Nat) : Instr := .mfs { x0 with d := 8#8, a := BitVec.ofNat 8 a }
def wsr (d a : Nat) : Instr := .mts { x0 with d := BitVec.ofNat 8 d, a := BitVec.ofNat 8 a }
/-- s1 = 8, s2 = 2^60, s3 = a breakpoint enabled at word 4 of the text. -/
def status : State := onAgent (sset [(1, 8#64), (2, BitVec.ofNat 64 (2 ^ 60)), (3, BitVec.ofNat 64 (2 ^ 59 + 0x40000)), (4, 0x100#64)]) pair

theorem wit_status :
    ([0, 1, 2, 3, 4, 5, 6, 7, 8, 9, 10, 11, 12, 13, 14, 15, 16, 17, 18, 19, 32, 33, 34, 35, 36, 37, 38, 40, 41, 42, 43, 48, 63].all fun a =>
      meets (sr a) status (fun e => e.g.ident)) = true ∧
    meets (sr 18) (userGang status) = true ∧ ([17, 32, 33, 34, 38, 40, 43, 48, 63].all fun d => meets (wsr d 1) status) = true ∧
    (meets (wsr 38 1) status fun e => (e.a.rs 1).getLsbD 3) = true ∧ (meets (wsr 38 4) status fun e => (e.a.rs 4).extractLsb' 8 56 != 0#56) = true ∧
    (meets (wsr 38 0) status fun e => !(e.a.rs 0).getLsbD 3) = true ∧
    (meets (wsr 40 2) status fun e => (e.a.rs 2).extractLsb' 59 2 == 2#2 && (e.a.rs 2).extractLsb' 0 20 == 0#20) = true ∧
    (meets (wsr 43 3) status fun e => (e.a.rs 3).extractLsb' 59 2 == 1#2) = true ∧
    (meets (wsr 43 1) (onAgent (sset [(1, 2#64)]) status) fun e => (e.a.rs 1).extractLsb' 59 2 == 0#2 && (e.a.rs 1).toNat % 4 != 0) = true := by decide +kernel

theorem test_status :
    gives (sr 0) status (.v 8 1 1#32) = true ∧ gives (sr 4) status (.s 8 64#64) = true ∧ gives (sr 5) status (.s 8 64#64) = true ∧ gives (sr 6) status (.s 8 2#64) = true ∧
    gives (sr 13) status (.s 8 256#64) = true ∧ gives (sr 19) status (.s 8 0x2020100404#64) = true ∧ gives (sr 32) status (.s 8 65536#64) = true ∧
    gives (sr 33) status (.s 8 1000000#64) = true ∧ gives (sr 34) status (.s 8 100000#64) = true ∧
    nextIs (wsr 17 1) status (onCurrent fun _ a => a.fflags == 8#5) = true ∧ nextIs (wsr 32 1) status (fun t => (t.die 0).swapthr == 8#64 && (t.die 1).swapthr == 65536#64) = true ∧
    causeIs (wsr 38 1) status 5 = true ∧ nextIs (wsr 48 1) status (onCurrent fun g _ => g.raf.getD 0 0#64 == 8#64) = true := by decide +kernel

theorem wit_traps :
    (meets (.trap { x0 with imm := 255#8 }) pair fun e => !e.a.trap.getLsbD 63 && e.g.blk.traph != 0#52 && e.a.outs.isEmpty) = true ∧ meets (.bkpt x0) pair = true ∧
    (meets (.eret { x0 with imm := 1#8 }) (after (.trap x0) pair) fun e => e.a.trap.getLsbD 63) = true ∧ (meets (.eret x0) pair fun e => !e.a.trap.getLsbD 63) = true ∧
    (meets (.trap x0) (onGang (fun g => { g with blk := { g.blk with traph := 0#52 } }) pair) fun e => e.g.blk.traph == 0#52) = true ∧
    ([0, 15, 16].all fun n => meets (.dmbx { x0 with a := 2#8 }) { pair with mail := [⟨0, 0, List.replicate n 7#64, false⟩] }) = true := by decide +kernel

theorem test_traps :
    nextIs (.trap { x0 with imm := 0xAB#8 }) pair (onCurrent fun _ a => a.trap == 0x800000AB00000310#64 && a.tepc == 0x10000000#64 && a.pc == 0x10001000#52) = true ∧
    causeIs (.bkpt x0) pair 13 = true ∧
    nextIs (.eret { x0 with imm := 1#8 }) (after (.trap x0) pair) (onCurrent fun _ a => a.pc == 0x1000000C#52 && !a.trap.getLsbD 63) = true ∧
    nextIs (.eret x0) (after (.bkpt x0) pair) (onCurrent fun _ a => a.pc == 0x10000000#52 && a.skipDbg) = true ∧
    nextIs (.trap x0) (after (.trap x0) pair) (onCurrent fun g _ => g.dying) = true ∧
    nextIs (.dmbx { x0 with a := 2#8 }) { pair with mail := [⟨0, 0, List.replicate 16 7#64, false⟩] } (fun t =>
      t.mail == [⟨0, 0, List.replicate 15 7#64 ++ [1#64], true⟩]) = true := by decide +kernel

/-- A second gang, uid 9 on core 1, whose warp is parked with token 7; s5 = 7, s6 = 2^63 + 1, s8 = 1, s9 = 2, s10 = 0x60000000000, s11 = 0x1000,
s12 = 0x100, s13 = its name. -/
def service : State := onAgent (sset [(5, 7#64), (6, BitVec.ofNat 64 (2 ^ 63 + 1)), (8, 1#64), (9, 2#64), (10, 0x6000000000#64), (11, 0x1000#64), (12, 0x100#64), (13, 0x100#64)])
  { pair with gangs := pair.gangs ++ [{ fetchGang (.parked 7) with uid := 9, core := 1, asid := 3, raf := List.replicate 16 0#64 }], holds := [⟨.host, 2 ^ 63 + 1, 0, 0, false⟩], fresh := 60,
              tlb := [⟨0, none, 3, 0x1000, 12, 0x5000, true, true, none⟩, ⟨0, none, 4, 0x1000, 12, 0x5000, true, true, none⟩] }
def faulted (n : Nat) : State := service.updDie 0 fun d => { d with faultQ := List.replicate n ⟨1#64, 2#64, 3#64, 4#64⟩ }
def fres (a b : BitVec 8) : Instr := .fres { x0 with a := a, b := b }
theorem wit_service :
    meets (.fpop { x0 with d := 60#8, c := 1#8 }) (faulted 1) (fun e => ((faulted 1).die e.g.die).faultQ.length == 1) = true ∧
    meets (.fpop { x0 with c := 1#8, imm := 1#8 }) service (fun e => (service.die e.g.die).faultQ.isEmpty) = true ∧ meets (.fpop { x0 with c := 1#8 }) service = true ∧
    meets (fres 6#8 0#8) service = true ∧ meets (fres 6#8 8#8) service = true ∧ meets (fres 5#8 9#8) service = true ∧
    meets (fres 5#8 0#8) service (fun e => (service.gangs.filter fun g => g.agents.any fun a => a.st == .parked 7).map (fun g => g.uid) == [9] && e.g.uid == 1) = true ∧
    meets (fres 5#8 8#8) service = true ∧ meets (fres 9#8 0#8) service = true ∧
    meets (.tlbi { x0 with imm := 2#8 }) service (fun e => clear service e && service.gangs.all fun g => g.agents.all fun a => a.outs.isEmpty) = true ∧
    meets (.biasf { x0 with a := 10#8 }) service = true ∧ meets (.biasf { x0 with a := 12#8 }) service = true ∧ meets (.biasf { x0 with a := 11#8 }) service = true ∧
    meets (.biasf { x0 with a := 11#8, imm := 1#8 }) service (fun e => e.a.prog == 0 && service.hostBias.isEmpty && service.flips.isEmpty) = true ∧
    meets (.biasf { x0 with a := 11#8 }) (onAgent (fun a => { a with prog := 1 }) service) = true ∧
    (({ service with flips := [⟨1, true, some (1, 2)⟩] } : State).flips.find? fun g => g.frame == 1).isSome = true := by decide +kernel

theorem test_service :
    nextIs (.fpop { x0 with d := 20#8, c := 1#8 }) (faulted 2) (fun t => (t.die 0).faultQ.length == 1 && (owes t).contains (.s 23 4#64) && (owes t).contains (.k 1 true)) = true ∧
    gives (.fpop { x0 with c := 1#8, imm := 1#8 }) service (.k 1 false) = true ∧ pcIs (.trel x0) pair 0x1000000C#52 = true ∧
    nextIs (fres 6#8 0#8) service (fun t => t.holds.isEmpty) = true ∧ nextIs (fres 6#8 8#8) service (fun t => t.holds.map (fun h => h.denied) == [true]) = true ∧
    nextIs (fres 5#8 0#8) service (fun t => match envOf t 9 2 with
      | some e => e.a.st == .runnable
      | none => false) = true ∧
    nextIs (fres 5#8 8#8) service (fun t => t.deadCtx == [3] && match t.gang? 9 with
      | some g => g.dying
      | none => false) = true ∧
    nextIs (.tlbi { x0 with a := 9#8, imm := 1#8 }) (onAgent (sset [(9, 3#64)]) service) (fun t => t.tlb.map (fun q => q.asid) == [4]) = true ∧
    nextIs (.tlbi { x0 with imm := 2#8 }) service (fun t => t.tlb.isEmpty) = true ∧
    nextIs (.biasf { x0 with a := 11#8, imm := 1#8 }) service (fun t => t.flips == [⟨1, true, some (1, 2)⟩]) = true ∧
    nextIs (.biasFlipComplete 1) { service with flips := [⟨1, true, some (1, 2)⟩] } (fun t => t.flips.isEmpty && t.hostBias == [1]) = true := by decide +kernel

/-- A frame at 0x2000 that holds a saved gang with the system context; s14 = 0x2000. -/
def savedGang : Saved := ⟨0x2000, { fetchGang .runnable with uid := 11 }, .ctxs, none, false, []⟩
def frames : State := onAgent (sset [(14, 0x2000#64)]) { service with saved := [savedGang] }
def ctxs (a b : BitVec 8) : Instr := .ctxs { x0 with a := a, b := b, c := 1#8 }
theorem wit_saving :
    meets (ctxs 13#8 12#8) frames = true ∧ meets (ctxs 13#8 14#8) (onAgent (fun a => { a with prog := 2 }) frames) = true ∧
    meets (ctxs 5#8 14#8) frames (fun e => frames.gangs.all fun g => g.stop.isNone && !(g.die == 0 && g.core == 0 && g.slot == 7) && e.a.prog == 0) = true ∧
    meets (ctxs 13#8 14#8) frames (fun _ => (frames.gangs.find? fun g => g.die == 0 && g.core == 1 && g.slot == 0).isSome) = true ∧
    meets (.ctxl { x0 with a := 12#8, c := 1#8 }) frames = true ∧ meets (.ctxl { x0 with a := 11#8, c := 1#8 }) frames = true ∧
    meets (.ctxl { x0 with a := 14#8, c := 1#8 }) frames (fun e => clear frames e && !frameOk frames savedGang && frameOk frames { savedGang with hdr := fixedBytes (List.replicate 5376 0#8) }) = true := by decide +kernel

theorem test_saving :
    causeIs (ctxs 13#8 12#8) frames 6 = true ∧ gives (ctxs 5#8 14#8) frames (.k 1 false) = true ∧
    nextIs (ctxs 13#8 14#8) frames (fun t => match t.gang? 9 with
      | some g => g.stop == some ⟨.ctxs 0x2000 1 2 1, 100000, false, none, none⟩
      | none => false) = true ∧
    gives (.ctxl { x0 with a := 11#8, c := 1#8 }) frames (.k 1 false) = true := by decide +kernel

/-! ### Queues, completion records, sample groups (R139-R143, R288-R291, R320-R326) -/

/-- Context 7 with queue 3 (2 places, at 0xB20000) and shard 0 (2 places, at 0xB30000), each with these counts; a completion record at 0x40080 and
a group record at 0x100000. s5 = 3, s6 = 511, s7 = 257, s8 = 0x100000, s9 = 2, s10 = 0x101, s11 = 0x1000, s12 = 2^52, s13 = 64, s14 = 1, s15 = 0x100001. -/
def queueMem (posted taken : Nat) (rec' grp0 grp3 : Nat) : List (Nat × Byte) :=
  nums 0xA80060 8 0xB20000 ++ nums 0xA80070 1 1 ++ nums 0xA80078 4 posted ++ nums 0xA8007C 4 taken ++
  nums 0xA82000 8 0xB30000 ++ nums 0xA82010 1 1 ++ nums 0xA82018 4 posted ++ nums 0xA8201C 4 taken ++ nums 0x40080 16 rec' ++ nums 0x100000 8 grp0 ++
  nums 0x100018 8 grp3
def queued (posted taken : Nat) (rec' : Nat := 0) (grp0 : Nat := 2 * 2 ^ 16) (grp3 : Nat := 0) : State :=
  let s := user (onAgent (sset [(5, 3#64), (6, 511#64), (7, 257#64), (8, 0x100000#64), (9, 2#64), (10, 0x101#64), (11, 0x1000#64), (12, BitVec.ofNat 64 (2 ^ 52)),
    (13, 64#64), (14, 1#64), (15, 0x100001#64)]) pair)
  onGang (fun g => { g with blk := { g.blk with qbind := 3 } }) { s with mem := s.mem.putAll memDefault (queueMem posted taken rec' grp0 grp3) }
def okU {α : Type} (r : U α) (p : α → Bool) : Bool := match r with
  | .ok v => p v
  | .error _ => false
def post (d : BitVec 8) : Instr := .qpost { x0 with d := d, a := 4#8, c := 2#8 }

theorem wit_queues :
    (meets (post 5#8) (queued 3 1) fun e => clear (queued 3 1) e && okAcc (access (queued 3 1) e.who .load (e.a.b.look 0#256 4).toNat 32 32 [(0, 0)]) (fun l =>
      let bs := (readBytesOf (allPieces l)).map (homeByte (queued 3 1))
      bs.length == 32 && !entryBad bs && (poisonLane (queued 3 1) e.who l).isNone) &&
      okU (postTarget (queued 3 1) e.unit 3 [] 0) (fun p => p.2 == some 3) && okU (readQ (queued 3 1) e.unit 3) (fun p => match p.2 with
        | some q => q.size == 2 && q.count == 2
        | none => false)) = true ∧
    (meets (post 5#8) (queued 2 1) fun e => okU (readQ (queued 2 1) e.unit 3) (fun p => match p.2 with
        | some q => q.count < q.size && okU (uWriteAddrs (queued 2 1) e.unit (q.ring + 32 * (q.posted % q.size)) 32) (fun l => l.length == 32) &&
            okU (uWriteAddrs (queued 2 1) e.unit (q.va + 24) 4) (fun l => l.length == 4)
        | none => false)) = true ∧
    meets (post 7#8) (queued 0 0) = true ∧ (meets (post 5#8) (queued 0 0 2) fun _ => entryBad ((bytesAt 0x40080 32).map (homeByte (queued 0 0 2)))) = true ∧
    (meets (.qpop x0) (onGang (fun g => { g with blk := { g.blk with qbind := 511 } }) (queued 0 0)) fun e => e.g.blk.qbind == 511) = true ∧
    (meets (.qpop x0) (onGang (fun g => { g with blk := { g.blk with qbind := 255 } }) (queued 0 0)) fun e => okU (readQ (queued 0 0) e.unit 255) fun p => p.2.isNone) = true ∧
    (meets (.qpop x0) (queued 1 1) fun e => (fence (queued 1 1) e 0 3).isSome && okU (readQ (queued 1 1) e.unit 3) fun p => match p.2 with
        | some q => q.count == 0 && !q.closed
        | none => false) = true ∧
    (meets (.qpop x0) (queued 2 1) fun e => okU (uRead (queued 2 1) e.unit 0xB20020 32) fun p => p.2.length == 32) = true ∧
    meets (.launch { x0 with a := 10#8, c := 1#8 }) (queued 0 0) = true ∧ meets (.launch { x0 with a := 12#8, c := 1#8 }) (queued 0 0) = true ∧
    ([0, 4095, 4096].all fun n => meets (.launch { x0 with a := 11#8, c := 1#8 }) { queued 0 0 with dlq := List.replicate n (0, 0) }) = true ∧
    ([0, 1, 2, 1 + 2 ^ 64 * 0x1000 + 2 ^ 55 * 257].all fun w => meets (.cmpl { x0 with d := 20#8, a := 4#8 }) (queued 0 0 w) fun e =>
      okAcc (access (queued 0 0 w) e.who .atomic (e.a.b.look 0#256 4).toNat 16 16 [(0, 0)]) fun l => (allPieces l).all (fun p => p.dup.isNone) &&
        !ownBlocked (queued 0 0 w) e (homeBytesOf (allPieces l)) && ofBytes ((homeBytesOf (allPieces l)).map (homeByte (queued 0 0 w))) == w) = true := by decide +kernel

theorem test_queues :
    causeIs (.qpop x0) (onGang (fun g => { g with blk := { g.blk with qbind := 511 } }) (queued 0 0)) 5 = true ∧
    causeIs (.launch { x0 with a := 10#8, c := 1#8 }) (queued 0 0) 6 = true ∧ causeIs (.launch { x0 with a := 12#8, c := 1#8 }) (queued 0 0) 5 = true ∧
    nextIs (.launch { x0 with a := 11#8, c := 1#8 }) (queued 0 0) (fun t => t.dlq == [(7, 0x1000)] && (owes t).contains (.k 1 true)) = true ∧
    gives (.launch { x0 with a := 11#8, c := 1#8 }) { queued 0 0 with dlq := List.replicate 4096 (0, 0) } (.k 1 false) = true ∧
    nextIs (.completionPostHeld 5) { queued 0 0 with heldPosts := [⟨5, 7, [0], 0, 257, 0x1000, none, none⟩] } (fun t => t.dlq == [(7, 0x1000)] && t.heldPosts.isEmpty) = true := by
  decide +kernel

/-- A post held for each place it may go to. -/
theorem wit_held_posts : (let p : HeldPost := ⟨5, 7, [0x40080], 0, 3, 0x40080, some (List.replicate 32 0#8), some 3⟩
    let h : State := { queued 0 0 with heldPosts := [p] }
    let a : Acc := ⟨unitWho h p.asid (homeDie (p.record.headD 0)), .post p.n, 0#52⟩
    okU (postTarget h a p.qsel (List.replicate 32 0#8) p.shard) (fun q => q.2 == some 3) && okU (readQ h a 3) fun q => match q.2 with
      | some d => d.count == 0 && okU (uWriteAddrs h a d.ring 32) (fun l => l.length == 32)
      | none => false) = true := by decide +kernel

def frk (d a b c : BitVec 8) : Instr := .fork { x0 with d := d, a := a, b := b, c := c }
/-- FORK: a bad address, too few siblings, after the last post, at each post; the other group instructions in each state of a group. -/
theorem wit_groups :
    meets (frk 15#8 9#8 0#8 0#8) (queued 0 0) = true ∧ meets (frk 8#8 14#8 0#8 0#8) (queued 0 0) = true ∧ meets (frk 8#8 9#8 14#8 0#8) (queued 0 0) = true ∧
    meets (frk 8#8 9#8 0#8 12#8) (queued 0 0) = true ∧ meets (frk 8#8 9#8 0#8 0#8) (onAgent (fun a => { a with prog := 3 }) (queued 0 0)) = true ∧
    (meets (frk 8#8 9#8 0#8 0#8) (onAgent (fun a => { a with prog := 2 }) (queued 0 0)) fun e => okU (pickShard (queued 0 0) e.unit 0 0) fun p => p.2 == some 256) = true ∧
    (meets (frk 8#8 13#8 0#8 0#8) (queued 0 0) fun e => (match groupAt e (queued 0 0) .store true true 0x100000 with
      | .ok p => p.2.pa == 0x100000 && !forkBad p.1 p.2.pa 64 && (fence p.1 e 1 3).isSome
      | .error _ => false)) = true ∧
    meets (.grwd { x0 with d := 15#8 }) (queued 0 0) = true ∧ meets (.grwd { x0 with d := 8#8, a := 13#8 }) (queued 0 0) = true ∧
    (meets (.gcancel { x0 with d := 8#8, a := 14#8 }) (queued 0 0) fun e => (match groupAt e (queued 0 0) .atomic false false 0x100000 with
      | .ok p => p.2.pa == 0x100000
      | .error _ => false)) = true ∧
    ([0, 1, 2, 4, 5].all fun st => meets (.gbar { x0 with d := 20#8, a := 8#8 }) (queued 0 0 0 (2 * 2 ^ 16) st) fun e =>
      (match groupAt e (queued 0 0 0 (2 * 2 ^ 16) st) .load true true 0x100000 with
      | .ok p => homeNat p.1 0x100018 8 == st
      | .error _ => false)) = true ∧ meets (.gstat { x0 with d := 20#8, a := 8#8, imm := 2#8 }) (queued 0 0) = true := by decide +kernel

/-- An open group of two, and the messages and the clock that it takes. -/
def group (m : List GrpMsg) (arrived : Nat) : State :=
  let s := queued 0 0 0 (2 + 2 * 2 ^ 16) 1
  { s with grpMsgs := m, groups := [⟨0x100000, 7, 0, 500, 0, false, 0, 0, none⟩], mem := s.mem.putAll memDefault (nums 0x100280 4 arrived) }
theorem wit_group_unit : (match (group [] 1).groups with
    | [g] => homeNat (group [] 1) g.pa 8 % 128 == 2 && homeNat (group [] 1) (g.pa + 0x18) 8 % 16 == 1 && homeNat (group [] 1) (g.pa + 0x280) 4 % 4 == 1
    | _ => false) = true ∧
  (groupStats [0x3F800000, 0x40400000] 2 0).status = 2 ∧ (groupStats [0x3F800000] 2 0).status = 3 ∧ (groupStats [0x3F800000, 0x7FC00000] 2 0).status = 4 := by decide +kernel
theorem test_groups :
    causeIs (frk 15#8 9#8 0#8 0#8) (queued 0 0) 6 = true ∧ causeIs (frk 8#8 14#8 0#8 0#8) (queued 0 0) 5 = true ∧
    causeIs (.gbar { x0 with d := 20#8, a := 8#8 }) (queued 0 0) 5 = true ∧
    nextIs (.grwd { x0 with d := 8#8, a := 14#8, lit := some 0x3F800000#64 }) (queued 0 0) (fun t => t.grpMsgs.map (fun m => (m.pa, m.sibling, m.reward)) == [(0x100000, 1, some 0x3F800000#32)]) = true ∧
    nextIs (.gcancel { x0 with d := 8#8, a := 14#8 }) (queued 0 0) (fun t => t.grpMsgs.map (fun m => m.reward) == [none]) = true ∧
    nextIs (.groupRewardPerform 5) (group [⟨5, 7, 0x100000, 0x100000, 1, some 0x40400000#32, 1, 2, [], []⟩] 0) (fun t =>
      homeNat t 0x100084 4 == 0x40400000 && homeNat t 0x100284 4 == 1 && homeNat t 0x100018 8 == 1 + 2 ^ 16 && t.grpMsgs.isEmpty) = true ∧
    nextIs (.groupCancelPerform 5) (group [⟨5, 7, 0x100000, 0x100000, 1, none, 1, 2, [], []⟩] 0) (fun t =>
      homeNat t 0x100284 4 == 2 && homeNat t 0x100018 8 == 1 + 2 ^ 24) = true ∧
    (groupStats [0x3F800000, 0x40400000] 2 0).mean = 0x4000000000000000 := by decide +kernel

/-! ### Routing (R292-R301, R382) -/

/-- Of `routing`: ring 2 of context 7 (4 rows at 0xD00000) with these counts; route 5 to ring 2 of device 9 by port 1; an entry of list 5 appended,
and its row at 0x60000. s5 = 2, s6 = 3, s8 = 1. -/
def rings (freed popped filled : Nat) : State :=
  let s := onAgent (sset [(5, 2#64), (6, 3#64), (8, 1#64)]) routing
  { s with
    mem := s.mem.putAll memDefault (nums 0xC00040 8 (0xD00000 + 2 ^ 63) ++ nums 0xC00048 2 4 ++ nums 0xC00050 2 7 ++ nums 0xC00054 4 freed ++ nums 0xC00058 4 popped ++
      nums 0xC0005C 4 filled ++ nums 0xE000A0 8 (1 + 2 ^ 52 * 1 + 2 ^ 56 * 2) ++ nums 0xE000AA 2 9 ++ nums 0xB00000 8 0x60000 ++ nums 0xB00008 4 0xFFFF0005 ++ nums 0x60000 1 3)
    bar0 := { s.bar0 with eqtbase := 0xC00000#52, rtbase := 0xE00000#52 }
    ringRows := [⟨2, 0, 9, 1#32⟩, ⟨2, 1, 9, 2#32⟩]
    ringNext := [(2, filled)] }
def recv (a : BitVec 8) (poll : BitVec 8) : Instr := .rtrecv { x0 with d := 24#8, a := a, c := 20#8, imm := poll }
def rel (a b : BitVec 8) : Instr := .rtrel { x0 with a := a, b := b }
def ownRing (s : State) (q : Nat) (e : Env) : Bool := q < 4096 && (ringOf s q).v && (ringOf s q).asid == e.g.asid

theorem wit_rings :
    (meets (recv 6#8 0#8) (rings 0 0 2) fun e => !ownRing (rings 0 0 2) 3 e) = true ∧
    (meets (recv 5#8 0#8) (rings 0 2 2) fun e => ownRing (rings 0 2 2) 2 e && (ringOf (rings 0 2 2) 2).present == 0) = true ∧
    (meets (recv 5#8 1#8) (rings 0 0 2) fun e => ownRing (rings 0 0 2) 2 e && e.lanes.length == 2 && (ringOf (rings 0 0 2) 2).present == 2 &&
      (List.range 2).all fun j => ((rings 0 0 2).ringRows.find? fun w => w.queue == 2 && w.slot == j).isSome) = true ∧
    (meets (rel 5#8 5#8) (rings 0 2 2) fun e => ownRing (rings 0 2 2) 2 e) = true ∧ meets (rel 6#8 0#8) (rings 0 2 2) = true ∧
    meets (rel 5#8 0#8) (rings 0 2 2) = true ∧ meets (rel 5#8 8#8) (rings 0 2 2) = true := by decide +kernel

theorem test_rings :
    causeIs (recv 6#8 0#8) (rings 0 0 2) 5 = true ∧ pcIs (recv 5#8 0#8) (rings 0 2 2) 0x10000000#52 = true ∧
    gives (recv 5#8 0#8) (rings 0 0 2) (.s 20 2#64) = true ∧ gives (recv 5#8 0#8) (rings 0 0 2) (.v 24 1 0xD00080#32) = true ∧
    gives (recv 5#8 0#8) (rings 0 0 2) (.v 26 1 0x90001#32) = true ∧ gives (recv 5#8 1#8) (rings 0 2 2) (.s 20 0#64) = true ∧
    causeIs (rel 5#8 5#8) (rings 0 2 2) 5 = true ∧ nextIs (rel 5#8 8#8) (rings 0 2 2) (fun t => t.freed == [(2, 1)] && homeNat t 0xC00054 4 == 0) = true ∧
    nextIs (rel 5#8 0#8) (rings 0 2 2) (fun t => t.freed.isEmpty && homeNat t 0xC00054 4 == 1) = true := by decide +kernel

def ready (id : Nat) (cls : CmdClass) (b : CmdBody) (s : State) (ph : CmdPhase := .queued) : State :=
  { s with cmds := [{ (default : Cmd) with id := id, cls := cls, gang := 1, asid := (s.gangs.map fun g => g.asid).headD 0, agent := 2, home := 2, accepted := some 1, body := b, phase := ph }] }
def atCmd (s : State) (p : Cmd → Gang → Bool) : Bool := match s.cmds with
  | [c] => (match s.cmd? c.id, s.gang? c.gang with
    | some d, some g => d == c && !g.dying && p c g
    | _, _ => false)
  | _ => false
def entry5 : RouteEnt := ⟨0x60000, 0xFFFF0005#32, 0#32⟩
def sends (held : Nat) : State :=
  let s := ready 92 .rt (.rtsend [entry5]) (rings 0 0 0)
  { s with mem := s.mem.putAll memDefault (nums 0xA00164 4 held) }
theorem wit_send_lists :
    ([0, 3, 4].all fun held => atCmd (sends held) fun c _ => routeReady (sends held) c && okU (readList (sends held) { listAcc (sends held) 7 5 with pc := c.pc } 7 5) fun p =>
      match p.2 with
        | some d => d.size == 4 && d.held == held && okU (uWriteAddrs (sends held) (listAcc (sends held) 7 5) (d.lring + 16 * (held % 4)) 16) fun l => l.length == 16
        | none => false) = true ∧
    (atCmd (ready 92 .rt (.rtflush false) (rings 0 0 0)) fun c _ => routeReady (ready 92 .rt (.rtflush false) (rings 0 0 0)) c) = true := by decide +kernel
theorem test_send_lists :
    nextIs (.sendListAppend 92) (sends 4) (fun t => t.appended.isEmpty) = true ∧
    nextIs (.sendListAppend 92) (sends 3) (fun t => homeNat t 0xB00030 8 == 0x60000 && homeNat t 0xB00038 4 == 0xFFFF0005 && homeNat t 0xA00164 4 == 4 &&
      t.appended.map (fun a => (a.asid, a.route, a.k)) == [(7, 5, 3)]) = true := by decide +kernel

/-- One entry of list 5 flushed, and a frame each of DATA, ACK and RETURN from device 9. -/
def flushed : State := { ready 99 .rt (.rtflush true) (rings 0 0 0) with appended := [⟨30, 7, 5, 0, 1, 0, 0, some 99⟩] }
/-- The one byte of its row has been read. -/
def formed1 : State := { flushed with forming := [(30, 0, [3#8])] }
def frameIn (kind seq : Nat) : List Byte := (FrameH.mk kind (if kind = 0 then 1 else 0) seq 0 9 0 2 5 0 0 0).bytes ++
  (if kind = 0 then [7#8, 0#8, 0#8, 0#8] ++ List.replicate 128 5#8 else [])
/-- All granules of that row but the last have been written to ring 2, or all. -/
def arriving (n : Nat) : State := { flushed with filling := [⟨2, 16 * 9 + 1, (List.range n).map fun g => (0xD00000 + 4 * g, List.replicate 4 5#8)⟩] }
/-- Two entries of one flush, and entries moved to the list before them, between them, behind them. -/
def mixed : State := { flushed with
  appended := [⟨30, 7, 5, 0, 1, 0, 0, some 99⟩, ⟨33, 7, 5, 1, 1, 0, 0, some 99⟩, ⟨34, 7, 5, 2, 1, 0, 0, none⟩]
  parked := [⟨31, 7, 4, 5, entry5, some 99, false, none, true⟩, ⟨35, 7, 4, 5, entry5, some 99, false, none, true⟩, ⟨20, 7, 4, 5, entry5, some 99, false, none, true⟩] }
def route5 : RouteTo := ⟨9, 2, 1, ⟨0#128, 0#16, 0#8⟩⟩
/-- A frame to device 9 that is not answered yet, with the entry of list 5 in it. -/
def sentOne : State := { flushed with appended := [], sent := [⟨9, 1, 0, 2, [⟨40, 7, 5, 5, entry5, some 99, false, none, true⟩]⟩] }
def returnIn : List Byte := (FrameH.mk 2 0 0 0 9 0 2 5 0 0 1).bytes
theorem wit_frames :
    (nextFrame flushed 7 5).length = 1 ∧ routeEntry flushed 5 = some route5 ∧ flushed.listWork = [] ∧
    (flushed.link 1 9).down = false ∧ flushed.bar0.dev.toNat ≠ 9 ∧
    okU (readList flushed (listAcc flushed 7 5) 7 5) (fun p => p.2.isSome) = true ∧ flushed.parked.find? (Parked.unstored 7 5) = none ∧
    okU (readEnts (nextFrame flushed 7 5) flushed) (fun es =>
      es.map (fun p => p.2) == [true] && (unread flushed (es.map fun p => p.1)).length == 1 &&
      (unread formed1 (es.map fun p => p.1)).isEmpty && (es.map fun p => rowBytes formed1 p.1) == [some (3#8 :: List.replicate 127 0#8)]) = true ∧
    ([(0, 0), (0, 1), (1, 0), (1, 1), (2, 0), (2, 1)].all fun p => match frameOf (frameIn p.1 p.2) with
      | some h => h.kind == p.1 && h.seq == p.2 && h.dst == 0 && h.src == 9 && h.queue == 2
      | none => false) = true ∧
    (flushed.link 1 9).rxSeq = 0 ∧ (ringOf flushed 2).v = true ∧ (ringOf flushed 3).v = false ∧ (ringOf flushed 2).free = 4 ∧
    ([0, 31, 32].all fun n => okU (ringSlots (arriving n) 2 (ringOf (arriving n) 2) 0 1) fun p => p.1.length == 1 && p.2.isNone &&
      (unfilled (arriving n) 2 (16 * 9 + 1) (slotGranules (ringOf (arriving n) 2) p.1 [frameRow (frameIn 0 0) 1 0])).length == 32 - n) = true := by and_intros <;> decide +kernel
/-- R123: entries go in the order in which they came to the list. -/
theorem test_frame_order : (nextFrame mixed 7 5).map (fun p => p.n) = [20, 30, 31, 33, 35] := by decide +kernel
theorem test_frames :
    (readRow flushed { n := 30, asid := 7, home := 5, bound := 5, ent := entry5, flush := some 99, kitty := false } 0).forming == [(30, 0, [3#8])] ∧
    nextIs (.frameFormation 7 5) formed1 (fun t => match (t.link 1 9).unacked, t.wire with
      | [(0, d, bs)], [p] => d == route5.dest && p.port == 1 && p.hop == 64 && p.payload == bs && (match frameOf bs with
        | some h => h.kind == 0 && h.nrow == 1 && h.dst == 9 && h.queue == 2 && (frameRow bs 1 0).2.headD 0#8 == 3#8
        | none => false)
      | _, _ => false) = true ∧
    (fillGranule flushed (unitWho flushed 7 0) 2 145 (0xD00000, bytesAt 0xD00000 4, List.replicate 4 5#8)).filling = [⟨2, 145, [(0xD00000, List.replicate 4 5#8)]⟩] ∧
    nextIs (.dataFrame 1 (frameIn 0 0)) (arriving 32) (fun t => (t.link 1 9).rxSeq == 1 && homeNat t 0xC0005C 4 == 1 && t.filling.isEmpty &&
      t.ringRows.contains ⟨2, 0, 9, 7#32⟩ && (frameOf (t.link 1 9).ack).any fun h => h.kind == 1 && h.free == 3 && h.ackseq == 1) = true ∧
    nextIs (.dataFrame 1 (frameIn 0 1)) (arriving 32) (fun t => (t.link 1 9).rxSeq == 0 && homeNat t 0xC0005C 4 == 0 &&
      (frameOf (t.link 1 9).ack).any fun h => h.kind == 1 && h.free == 4 && h.ackseq == 0) = true ∧
    nextIs (.returnFrame 1 returnIn) sentOne (fun t => t.sent.isEmpty && t.parked.map (fun p => (p.home, p.kitty)) == [(5, true)] && homeNat t 0xA00170 4 == 1 &&
      (t.link 1 9).rxSeq == 1) = true := by and_intros <;> decide +kernel

/-- A link with one frame unacknowledged for 16,384 cycles. -/
def late (resends : Nat) : State := { flushed with links := [⟨1, 9, 1, 0, [(0, route5.dest, [1#8])], 0, resends, false, [], [], default⟩], ioClk := [16384, 0] }
/-- The device has the addresses 0 and 6. -/
def addressed : State := { flushed with izsil := { flushed.izsil with net := { flushed.izsil.net with addrs := [6#128, 0#128] } } }
def packetIn (udp : BitVec 16) (ok : Bool) (bs : List Byte) : Packet := ⟨0#128, udp, ok, false, bs, 8#128, 9#16⟩
theorem wit_links : ([0, 64].all fun n => let l := (late n).link 1 9
    !l.unacked.isEmpty && !l.down && l.advanced + 16384 ≤ portClk (late n) 1 && l.resends == n) = true ∧
  (addressed.phase = .ready ∧ (packetIn 0#16 true (frameIn 1 0)).dest ∈ addressed.izsil.net.addrs ∧ addressed.izsil.net.udp = 0#16 ∧
    (frameOf (frameIn 1 0)).isSome = true ∧ frameOf [1#8] = none) := by decide +kernel
theorem test_links :
    nextIs (.resendTimeout 1 9) (late 0) (fun t => (t.link 1 9).resends == 1 && (t.link 1 9).advanced == 16384 && t.wire.map (fun p => p.payload) == [[1#8]]) = true ∧
    nextIs (.resendTimeout 1 9) (late 64) (fun t => t.links.all fun l => l.down) = true ∧
    nextIs (.ethernetPacketReceive 1 (packetIn 0#16 true (frameIn 1 0))) addressed (fun t => t.inputs == [.frame 1 (frameIn 1 0)] &&
      (t.link 1 9).dest == ⟨8#128, 9#16, 0#8⟩) = true ∧
    nextIs (.ethernetPacketReceive 1 (packetIn 1#16 true (frameIn 1 0))) addressed (fun t => t.inputs.isEmpty) = true ∧
    nextIs (.ethernetPacketReceive 1 (packetIn 0#16 false (frameIn 1 0))) addressed (fun t => t.inputs.isEmpty) = true := by decide +kernel

/-! ### Results, writes and coherence (R65, R69, R72-R74, R94, R106, R191) -/

def loadOwed (got : Option (List Byte)) : State :=
  onAgent (fun a => { a with outs := [{ writes := [.s 4 1#64], reads := [{ parts := [⟨bytesAt 0x40000 4, bytesAt 0x40000 4, got⟩], fmt := .lane 8 0 4 false, os := false }] }] }) pair
def owing : State := loadOwed none
def landing : State := loadOwed (some [0x80#8, 0xFF#8, 0xFF#8, 0xFF#8])
def atomPending : PendAtom :=
  { n := 75, die := 0, core := 0, gang := 1, agent := 2, op := .add, ty := 4, w := 4, memSide := true, lanes := [⟨0x40004, 2, 0, 8, 0⟩], dups := [] }
def atoms : State := onAgent (fun a => { a with outs := [{ writes := [], atom := some 75 }] }) { pair with atoms := [atomPending] }
/-- The state when its one lane has performed. -/
def atomDone : State := performSome atoms atomPending atomPending.lanes []
def page : DupPage := ⟨0x40000, 4096, 0x800000⟩
/-- A write to a read-duplicated page, and its collapse with seven acknowledgements. -/
def dup (acks : Nat) : State :=
  { user pair with outq := [{ waitingWrite with dup := some page, held := true }], collapses := [⟨page, List.range acks⟩],
                   mem := (user pair).mem.putAll memDefault [(0x800007, 0x20#8)] }
theorem wit_results :
    (match envOf owing 1 2 with
      | some e => (match e.a.outs with
        | [o] => o.atom.isNone && o.hand.isNone && o.rejected == 0 && o.reads.all (fun l => !l.os && l.waits) && !o.reads.isEmpty && owing.outq.isEmpty
        | _ => false)
      | none => false) = true ∧ (match envOf landing 1 2 with
      | some e => (match e.a.outs with
        | [o] => o.atom.isNone && o.hand.isNone && canLand e.a.outs 0
        | _ => false)
      | none => false) = true ∧
    (waiting.outq.all fun p => !p.stuck waiting && !p.excl) = true ∧ (envOf atoms 1 2).isSome = true ∧ atoms.flips = [] ∧
    (match windows.gang? 1 with
      | some g => (g.wline? 8).isSome
      | none => false) = true ∧
    (match (user pair).gang? 1 with
      | some g => !g.ident && (match walkVa (user pair) (g.raf.getD 0 0#64).toNat 0x40000 .load with
        | .ok q => q.bits == 30
        | _ => false)
      | none => false) = true ∧
    ((dup 7).outq.map fun p => p.dup) = [some page] ∧ (insNat 7 (List.range 7)).length = 8 ∧ (insNat 6 (List.range 6)).length = 7 ∧
    (paDevice 0x5FFFFFFFFF && paDevice 0x10000000000 && !paDevice 0x6000000000) = true := by decide +kernel
theorem test_results :
    nextIs (.loadDataReturn 1 2 0) landing (onCurrent fun _ a => a.v.look 0#32 (64 * 8) == 0xFFFFFF80#32 && a.rs 4 == 1#64 && a.outs.isEmpty) = true ∧
    nextIs (.writePerformAtHome 0 70) waiting (fun t => t.outq.isEmpty && homeByte t 0x40000 == 1#8) = true ∧
    homeNat atomDone 0x40004 4 = 9 ∧ atomDone.atoms = [] ∧ onCurrent (fun _ a => a.outs == [{ writes := [.v 8 0 7#32] }]) atomDone = true ∧
    nextIs (.directoryEvict 0xA00) windows (fun t => homeByte t 0x50000 == 9#8 && onCurrent (fun g _ => g.wlines.isEmpty) t) = true ∧
    nextIs (.pageTableWalk 1 0x40000#52) (user pair) (fun t => (t.tlb.map fun q => (q.core, q.asid, q.va, q.bits, q.pa, q.w)) == [(some 0, 7, 0, 30, 0, true), (none, 7, 0, 30, 0, true)]) = true ∧
    nextIs (.dupCollapseAck 0x40000 7) (dup 7) (fun t => t.collapses.isEmpty && homeByte t 0x800007 == 0#8) = true ∧
    nextIs (.dupCollapseAck 0x40000 6) (dup 6) (fun t => t.collapses == [⟨page, List.range 7⟩]) = true ∧
    nextIs (.eccUncorrectable (.memLine 5)) pair (fun t => t.memPoison == [5]) = true ∧ nextIs (.eccCorrected 3) pair (fun t => t.izsil.soft == 1) = true ∧
    nextIs (.hostCxlMemAccess 0x40000 1 (some [9#8])) { pair with hostBias := [0x40] } (fun t => homeByte t 0x40000 == 9#8) = true ∧
    nextIs (.hostCxlMemAccess 0x40000 1 (some [9#8])) pair (fun t => homeByte t 0x40000 == 0x80#8 && t.flips.map (fun f => (f.frame, f.toHost)) == [(0x40, true)] &&
      t.inputs == [.cxlMem 0x40000 1 (some [9#8])]) = true ∧
    nextIs (.hostWriteToHostMemory 0x8000000000000 [5#8]) pair (fun t => homeByte t 0x8000000000000 == 5#8) = true := by decide +kernel

/-- A release ring with one frame of 4 KiB, of a pool at 0x200000 (R45). -/
def released : State := { pair with mem := Table.putAll memDefault [] (nums 0x100000 8 0 ++ nums 0x100008 8 0x200000 ++ nums 0x100010 8 0x300000 ++ nums 0x100018 8 0x400000 ++
  nums 0x400010 8 (0x201000 + 1) ++ nums 0x201004 1 7) }
theorem wit_frame_release : homeNat released 0x400010 8 % 2 = 1 ∧
    [((0x201000 : Nat), (4096 : Nat)), (0x300008, 8), (0x100000, 8), (0x400010, 8), (0x400008, 8)].Pairwise (fun p q => p.1 + p.2 ≤ q.1 ∨ q.1 + q.2 ≤ p.1) := by
  decide +kernel

/-! ### Engine commands run (R112, R117, R156, R303-R316, R337) -/

/-- A shape record of one dimension, 32 words of 4 bytes at 0x60000. -/
def shape : List (Nat × Byte) := nums 0x40080 8 0x60000 ++ nums 0x40088 8 15 ++ nums 0x40090 8 64 ++ nums 0x400E0 8 32
/-- The one command has read these numbers of memory, by address and bytes. -/
def readIn (l : List (Nat × Nat)) (s : State) : State :=
  { s with cmds := s.cmds.map fun c => { c with got := l.map fun p => (p.1, p.2, homeNat s p.1 p.2) } }
def owing8 (stages : List (List (Nat × List Byte))) (s : State) : State := { s with cmds := s.cmds.map fun c => { c with todo := stages } }
def shapeWords : List (Nat × Nat) := (List.range 16).map fun k => (0x40080 + 8 * k, 8)
def copying : State :=
  let s := ready 93 .cp (.copy .cpy none 0x80000 (some ((List.range 16).map fun k => 0x40080 + 8 * k)) [] 0) engines
  { s with mem := s.mem.putAll memDefault shape }
def moving (m : Move) (line : Option Nat) : State :=
  let s := ready 93 .cp (.copy .cpy none 0x80000 none [] 0) engines .running
  { s with cmds := s.cmds.map fun c => { c with portions := [⟨line, [m], 4, false, none, false, []⟩] }, mem := s.mem.putAll memDefault (nums 0x60000 4 0x01020304) }
/-- A byte from memory to the operand store, and the other way; and a write of the portion that has still to perform, at a frame in a flip or not. -/
def toStore (v : Option Nat) : Move := ⟨false, 0x80000, 0, 8, 0x60000, 0, v⟩
def toMemory (v : Option Nat) : Move := ⟨true, 0x60000, 0, 8, 0x2000, 0, v⟩
def performing (stuck : Bool) : State :=
  let s := moving (toMemory none) none
  { s with cmds := s.cmds.map (fun c => { c with portions := [⟨none, [], 4, false, some 0x60000, true, [70]⟩] }), outq := [{ waitingWrite with bytes := [(0x60000, 4#8)] }],
           flips := if stuck then [⟨0x60, true, none⟩] else [] }
theorem wit_copies :
    (atCmd (readIn shapeWords copying) fun c g => let s := readIn shapeWords copying
      mayStart s c && (match c.body with
      | .copy _ _ raw (some vas) _ _ => okU (readWords s c vas) fun p => !shapeBad p.2 && okU (readExts p.1 c p.2) fun q =>
          !copyBad q.1 g none raw (shapeOf p.2 q.2) && !(copyPortions q.1 .cpy none raw (shapeOf p.2 q.2)).isEmpty
      | _ => false)) = true ∧
    (atCmd copying fun c _ => mayStart copying c && (c.gotAll shapeWords).isNone && shapeWords.all fun p => okU (recNat copying c p.1 p.2) fun _ => true) = true ∧
    (atCmd (ready 93 .cp (.copy .gath (some 2) 0 none [(0, some 0x40000)] 0) engines) fun _ g => !(gathPortions (g.tile 2) [(0, some 0x40000)] 0).isEmpty &&
      (tileRuns (g.tile 2)).all fun r => !g.inWindow r.1 r.2) = true ∧
    (atCmd (moving (toStore none) (some 4096)) fun c _ => okU (uRead (moving (toStore none) (some 4096)) (c.acc (moving (toStore none) (some 4096))) 0x60000 1 c.hint) fun p =>
      p.2.length == 1) = true ∧
    (atCmd (moving (toMemory none) none) fun _ g => g.osPoison.isEmpty && (g.window? 0x2000).isNone) = true ∧
    (atCmd (moving (toStore (some 4)) (some 4096)) fun _ g => (g.window? 0x80000).isNone && g.osq.isEmpty) = true ∧
    (atCmd (moving (toMemory (some 4)) none) fun c g => let s := moving (toMemory (some 4)) none
      g.osq.isEmpty && s.outq.isEmpty && s.atoms.isEmpty && okU (uWriteList s (c.acc s) [0x60000]) fun l => l.length == 1) = true ∧
    ([true, false].all fun st => atCmd (performing st) fun c _ => (performing st).outq.map (fun w => w.n) == [70] &&
      (performing st).outq.all fun w => w.stuck (performing st) == st && w.win.isNone && w.need.isEmpty && w.grp == 0 &&
      c.portions.all fun p => p.moves.isEmpty && p.ids == [70]) = true := by decide +kernel
theorem test_copies :
    nextIs (.copyCommandStart 93) (readIn shapeWords copying) (fun t => t.cmds.map (fun c => (c.phase, c.portions.length, (c.portions.map fun p => p.credit).sum)) == [(.running, 1, 128)]) = true ∧
    nextIs (.copyCommandStart 93) (ready 93 .cp (.copy .cpy none 0x80000 none [] 0) engines) (fun t => t.cmds.map (fun c => (c.phase, c.failed)) == [(.complete, true)]) = true := by decide +kernel

/-- A complete command with a credit of 128 bytes still to make to a barrier at 16, and without. -/
def complete (cr : List Nat) : State :=
  let s := ready 94 .cp (.copy .cpy none 0x80000 none [] 0) (sb fun b => { b with arr := 2 }) .complete
  { s with cmds := s.cmds.map fun c => { c with credits := cr, bar := some 16, flags := 1#5 } }
theorem wit_retire : (let s : State := { pair with cmds := [{ (default : Cmd) with id := 95, gang := 1 }] };
      s.cmds.all fun c => c.id == 95 && c.accepted.isNone && s.cmds.all fun d => !(d.die == c.die && d.core == c.core && d.accepted.isNone) || d == c) = true ∧
    (atCmd (complete [128]) fun c g => c.credits == [128] && c.bar == some 16 && g.osq.isEmpty) = true ∧
    (atCmd (complete []) fun c _ => c.phase == .complete && (complete []).cmds.all fun d => !d.samePlace c || c.id ≤ d.id) = true := by decide +kernel
theorem test_retire :
    nextIs (.stageBarrierCredit 94) (complete [128]) (fun t => t.cmds.map (fun c => c.credits) == [[]] && onCurrent (fun g _ => (g.sbar 16).phase && (g.sbar 16).pend == 0) t) = true ∧
    nextIs (.commandRetire 94) (complete []) (fun t => t.cmds.isEmpty && onCurrent (fun _ a => a.fflags == 1#5) t) = true := by decide +kernel

def decDesc : Option (List Nat) := some ((List.range 4).map fun k => 0x40080 + 8 * k)
/-- A decode of a stream of 16 bytes to 128 operand-store bytes; its state after the start, with a frame's entry to write, and at its end. -/
def decoding (st : Option DecSt) (ph : CmdPhase) : State :=
  let s := ready 96 .vd (.vdec true 0x80000 decDesc st) engines ph
  { s with mem := s.mem.putAll memDefault (nums 0x40080 8 0x70000 ++ nums 0x40088 8 (16 + 2 ^ 32) ++ nums 0x40090 8 0x71000 ++ nums 0x40098 8 128) }
def dst : DecSt := ⟨0x70000, 16, 1, false, 0x71000, 128, 0, 0, 0, none, 0⟩
def decWords : List (Nat × Nat) := (List.range 4).map fun k => (0x40080 + 8 * k, 8)
/-- Beside it, this many decodes that its die's decoders took before. -/
def decoders (n : Nat) (s : State) : State :=
  { s with cmds := (List.range n).map (fun k => { (default : Cmd) with id := 80 + k, cls := .vd, gang := 1, agent := 3 + k, accepted := some 0, phase := .running }) ++ s.cmds }
def ended (n : Nat) (todo : List (List (Nat × List Byte))) : State := owing8 todo (decoding (some { dst with ended := n }) .running)
theorem wit_decodes :
    ([decWords, []].all fun l => atCmd (readIn l (decoding none .queued)) fun c g => let s := readIn l (decoding none .queued)
      mayStart s c && (l.isEmpty || match decDesc with
      | some vas => okU (readWords s c vas) fun p => decOf p.2 == some dst && !decRegionBad p.1 g 0x80000 128
      | none => false)) = true ∧
    (([(0, false), (3, false), (4, true)] : List (Nat × Bool)).all fun p => ((decoders p.1 (decoding none .queued)).cmd? 96).any fun c =>
      decide (Config.decodersPerDie ≤ decodes (decoders p.1 (decoding none .queued)) c fun _ => true) == p.2) = true ∧
    (atCmd (ended 1 [granules 0x71000 (decHeader dst)]) fun c _ => let s := ended 1 [granules 0x71000 (decHeader dst)]
      c.todo.all fun l => l.length == 4 && l.all fun g => okU (uWriteAddrs s (c.acc s) g.1 4) fun as => as.length == 4) = true ∧
    (atCmd (ended 1 []) fun c _ => c.portions.isEmpty && c.todo.isEmpty && decTurn (ended 1 []) c) = true ∧
    (decOf [0x70000 + 2 ^ 52, 16 + 2 ^ 32, 0x71000, 128]).isNone = true := by and_intros <;> decide +kernel
theorem test_decodes :
    nextIs (.decodeStart 96) (readIn decWords (decoding none .queued)) (fun t => t.cmds.map (fun c => (c.phase, c.body)) == [(.running, .vdec true 0x80000 decDesc (some dst))] &&
      t.cmds.map (fun c => c.todo) == [[granules 0x71000 (List.replicate 16 0#8)]]) = true ∧
    nextIs (.decodeStart 96) (decoders 4 (decoding none .queued)) (fun t => (t.cmd? 96).any fun c => c.phase == .queued) = true ∧
    nextIs (.decodeFrame 96) (decoding (some { dst with pending := some 5 }) .running) (fun t => t.cmds.map (fun c => c.body) == [.vdec true 0x80000 decDesc (some dst)]) = true ∧
    nextIs (.decodeFrame 96) (decoding (some { dst with nfr := 1 }) .running) (fun t => t.cmds.map (fun c => (c.body, c.todo)) ==
      [(.vdec true 0x80000 decDesc (some { dst with nfr := 1, ended := 2 }), [granules 0x71000 (decHeader { dst with nfr := 1, ended := 2 })])]) = true ∧
    nextIs (.decodeFrame 96) (ended 1 []) (fun t => t.cmds.map (fun c => c.phase) == [.complete]) = true := by and_intros <;> decide +kernel

/-- The auction of `engines`: capacities 1 and 1, prices 0; scores 3.0 and 1.0 in row 0, 2.0 and 0 in row 1. -/
def auctRegs : List DWord := [0x50000#64, 0x51000#64, 0x52000#64, BitVec.ofNat 64 (0x40000 + 2 ^ 20 + 2 ^ 30 + 2 ^ 38), 0x3F8000003F800000#64, 0x3F80000040000000#64, 0x447A0000#64]
def auctFirst : AuctSt := ⟨0x3F800000#32, 0, 1, [1, 1], [0#32, 0#32], [.unassigned, .unassigned], 0, 0⟩
def auction (st : Option AuctSt) (ph : CmdPhase) : State :=
  let s := onGang (fun g => { g with os := [(0x40002, 0x40#8), (0x40003, 0x40#8), (0x40006, 0x80#8), (0x40007, 0x3F#8), (0x4000B, 0x40#8)].filter fun p => p.2 != 0#8 })
    (ready 97 .au (.auct auctRegs st) engines ph)
  { s with mem := s.mem.putAll memDefault (nums 0x51000 4 0x10001) }
def auctIn : List (Nat × Nat) := [(0x51000, 2), (0x51002, 2), (0x52000, 4), (0x52004, 4)]
def auctNone : AuctSt := { auctFirst with caps := [], prices := [] }
/-- Its inputs: capacities and prices. -/
def inputs2 (caps price : Nat) : State :=
  let s := auction (some auctNone) .running
  readIn auctIn { s with mem := s.mem.putAll memDefault (nums 0x51000 4 caps ++ nums 0x52000 4 price) }
def halted (s : State) : State := onGang (fun g => { g with stop := some ⟨.longWait, 0, false, none, none⟩ }) s
/-- A saved command, whose area holds this in its first row's words. -/
def saved2 (assign : Nat) : State :=
  let s := auction none .saved
  readIn (auctIn ++ (auctD auctRegs).areaVas) { s with mem := s.mem.putAll memDefault (nums 0x50004 4 (3 + 2 ^ 16) ++ nums 0x50008 4 0x3F800000 ++ nums 0x50080 4 assign ++ nums 0x51080 4 0x40400000 ++
    nums 0x50084 4 0xFFFFFFFF) }
theorem wit_auctions :
    (atCmd (auction none .queued) fun c _ => auctTurn (auction none .queued) c && c.open (auction none .queued)) = true ∧
    (atCmd (owing8 [granules 0x50000 (List.replicate 8 0#8)] (auction (some auctNone) .running)) fun c _ => let s := owing8 [granules 0x50000 (List.replicate 8 0#8)] (auction (some auctNone) .running)
      auctTurn s c && c.open s && c.todo.all fun l => !l.isEmpty && l.all fun g => okU (uWriteAddrs s (c.acc s) g.1 4) fun as => as.length == 4) = true ∧
    (([(1, 0), (0x10001, 0x7F800000), (0x10001, 0)] : List (Nat × Nat)).all fun p => atCmd (inputs2 p.1 p.2) fun c _ => auctTurn (inputs2 p.1 p.2) c &&
      okU (readNats (inputs2 p.1 p.2) c true auctIn) fun r => r.2 == [p.1 % 65536, p.1 / 65536, p.2, 0]) = true ∧
    (atCmd (auction (some auctFirst) .running) fun c g => auctTurn (auction (some auctFirst) .running) c && g.osq.isEmpty && !scoreBad g (auctD auctRegs) auctFirst &&
      scoreBad { g with osPoison := [lineOf 0x40000] } (auctD auctRegs) auctFirst && !scoreBad { g with osPoison := [lineOf 0x40000] } (auctD auctRegs) { auctFirst with rows := [.nofeas, .ceil] }) = true ∧
    (atCmd (halted (auction (some auctFirst) .running)) fun c g => g.stop.isSome && auctTurn (halted (auction (some auctFirst) .running)) c) = true ∧
    (atCmd (saved2 0) fun c _ => auctTurn (saved2 0) c && okU (readNats (saved2 0) c false (auctD auctRegs).areaVas) fun r => r.2.length == 8) = true := by and_intros <;> decide +kernel
/-- The round: row 0 bids 3 - 1 + 1 = 3 for column 0 and row 1 bids 2 - 0 + 1 = 3 for it; the lower row keeps it on a tie (R313). -/
theorem test_auctions :
    ((auction (some auctFirst) .running).gangs.all fun g => let st := auctRound g (auctD auctRegs) auctFirst
      st.rounds == 1 && st.prices == [0x40400000#32, 0#32] && (holdersOf st.rows 0).length == 1 && (holdersOf st.rows 1).length == 0) = true ∧
    nextIs (.auctionStart 97) (auction none .queued) (fun t => t.cmds.map (fun c => (c.body, c.todo)) ==
      [(.auct auctRegs (some auctNone), [granules 0x50000 (toBytes 8 (2 ^ 48 + 2 * 2 ^ 20))])]) = true ∧
    nextIs (.auctionStart 97) (inputs2 0x10001 0) (fun t => t.cmds.map (fun c => c.body) == [.auct auctRegs (some auctFirst)]) = true ∧
    nextIs (.auctionStart 97) (inputs2 1 0) (fun t => t.cmds.map (fun c => c.todo) == [[granules 0x50000 (toBytes 8 (2 ^ 48 + 2 * 2 ^ 20 + 0x104))]]) = true ∧
    nextIs (.auctionSave 97) (halted (auction (some auctFirst) .running)) (fun t => t.cmds.map (fun c => (c.phase, c.todo.length)) == [(.running, 2)]) = true ∧
    nextIs (.auctionRestore 97) (saved2 0) (fun t => match (t.cmds.map (fun c => c.body) : List CmdBody) with
      | [.auct _ (some st)] => st.rounds == 3 && st.phases == 1 && st.rows == [.holding 0 0x40400000#32, .unassigned] && st.caps == [1, 1]
      | _ => false) = true := by and_intros <;> decide +kernel

/-! ### Launching, placing, saving (R126-R134, R148-R161, R208, R352-R357, R379) -/

theorem wit_canonical : pair.Inv ∧ pair.Canon ∧ NoWindows pair ∧ pair.bar0.lq.length = 16 ∧ pair.outq = [] ∧ pair.atoms = [] ∧ pair.flips = [] ∧
    pair.memPoison = [] ∧ pair.waiters = [] := by
  unfold State.Inv State.Canon NoWindows Gang.canon Agent.canon
  decide +kernel

/-- A launch block at 0x100000: 3 gangs of one role of 2 warps of 8 lanes and 8 registers, code at 0x3000, its record at 0x40080. -/
def blockAt (ngang role : Nat) : List (Nat × Byte) :=
  nums 0x100000 8 (2 ^ 20 + 2 ^ 17 + ngang * 2 ^ 32) ++ nums 0x100010 8 0x3000 ++ nums 0x100020 8 0x2000 ++ nums 0x100028 8 16 ++ nums 0x100030 8 0x40080 ++
    nums 0x100048 8 511 ++ nums 0x100060 8 (role + 64 * 2 ^ 32) ++ nums 0x100068 8 2
def block3 : Block := blockOf ((List.range 32).map fun k => homeNat { State.reset with mem := Table.putAll memDefault [] (blockAt 3 0) } (0x100000 + 8 * k) 8)
def bare : State := onGang (fun g => { g with blk := { g.blk with cmpla := 0#52 } }) pair
def queueLaunch (ngang role : Nat) : State := { bare with mem := bare.mem.putAll memDefault (blockAt ngang role), dlq := [(0, 0x100000)] }
def hostLaunch (asid base : Nat) (entry : Nat) : State :=
  { bare with
    mem := bare.mem.putAll memDefault (blockAt 3 0 ++ nums 0x101008 8 entry)
    bar0 := { bare.bar0 with lq := bare.bar0.lq.set 2 ⟨BitVec.ofNat 52 base, true, false, BitVec.ofNat 16 asid, 4#5, 2#32, 1#32⟩ } }
/-- All of a block's words but the last have been read. -/
def blockLeft (q : Nat) (s : State) : State :=
  { s with reading := [(q, 0x100000 :: (List.range 31).map fun k => homeNat s (0x100000 + 8 * k) 8)] }
def turnOf (s : State) (q : Nat) : Bool := launchable s q && (List.range 17).any fun j => q == (s.lastVisit + 1 + j) % 17 &&
  (List.range j).all fun i => !launchable s ((s.lastVisit + 1 + i) % 17)
def launchAcc (s : State) (q : Nat) : Acc := ⟨unitWho s 0 0, .launch q, 0#52⟩
def blockRead (s : State) (q : Nat) (p : Option Nat) : Bool :=
  (List.range 32).all (fun k => okU (uReadNat s (launchAcc s q) (0x100000 + 8 * k) 8) fun r => r.2 == homeNat s (0x100000 + 8 * k) 8) &&
    blockError s ((List.range 32).map fun k => homeNat s (0x100000 + 8 * k) 8) == p && okU (uWriteAddrs s (launchAcc s q) 0x40080 16) fun l => l.length == 16
def failsU {α : Type} (r : U α) : Bool := match r with
  | .error (.fail _ _) => true
  | _ => false

theorem wit_launches :
    ((List.range 17).all fun q => !launchable bare q) = true ∧ turnOf (queueLaunch 3 0) 16 = true ∧ blockRead (queueLaunch 3 0) 16 none = true ∧
    blockRead (queueLaunch 0 0) 16 (some 1) = true ∧ blockRead (queueLaunch 3 4) 16 (some 1) = true ∧ turnOf (hostLaunch 5 0x101000 0) 2 = true ∧
    ctxValid (hostLaunch 5 0x101000 0) 5 = false ∧ ctxValid (hostLaunch 0 0 0) 0 = true ∧
    failsU (uReadNat (hostLaunch 0 0x6000000000 0) (launchAcc (hostLaunch 0 0x6000000000 0) 2) 0x6000000008 8) = true ∧
    ([2 ^ 52, 1, 0x100000].all fun v => okU (uReadNat (hostLaunch 0 0x101000 v) (launchAcc (hostLaunch 0 0x101000 v) 2) 0x101008 8) fun p => p.2 == v) = true := by
  and_intros <;> decide +kernel
theorem test_launches :
    nextIs .launchUnitVisit (queueLaunch 3 0) (fun t => t.dlq.length == 1 && t.reading == [(16, [0x100000, homeNat (queueLaunch 3 0) 0x100000 8])]) = true ∧
    nextIs .launchUnitVisit (blockLeft 16 (queueLaunch 3 0)) (fun t => t.dlq.isEmpty && t.lastVisit == 16 && t.grids.map (fun g => (g.blk.ngang, g.blk.code, g.blk.roles)) ==
      [(3, 0x3000#52, [⟨0, 0, 8, 8, 0, 64, 2⟩])]) = true ∧
    nextIs .launchUnitVisit (blockLeft 16 (queueLaunch 0 0)) (fun t => homeNat t 0x40084 2 == 0x101 && t.grids.isEmpty) = true ∧
    nextIs .launchUnitVisit (hostLaunch 0 0x6000000000 0) (fun t => !(lqOf t 2).en && (lqOf t 2).err && (lqOf t 2).head == 1#32) = true ∧
    nextIs .launchUnitVisit (blockLeft 2 (hostLaunch 0 0x101000 0x100000)) (fun t => (lqOf t 2).head == 2#32 && t.grids.length == 1 && t.lastVisit == 2) = true := by
  and_intros <;> decide +kernel

/-- A grid of `block3` with its map at 0x102000, whose byte 0 is this. -/
def placing (map b : Nat) : State :=
  { bare with
    mem := bare.mem.putAll memDefault (nums 0x102000 1 b)
    grids := [⟨50, 0, { block3 with map := BitVec.ofNat 52 map }, 0, [], [1, 2, 3, 4, 5, 6, 7, 0], List.replicate 8 0, false, []⟩] }
def mapAcc (s : State) : Acc := ⟨unitWho s 0 0, .map 50, 0#52⟩
/-- A SPREAD grid: die 3 is dry and its victim, die 4, has these chunks. -/
def spreading (theirs : List Nat) (dry : Nat) : State :=
  { bare with grids := [⟨51, 0, { block3 with ngang := 4096, spread := true }, 0, [[], [], [], [], theirs, [], [], []], [1, 2, 3, 4, 5, 6, 7, 0],
      [0, 0, 0, dry, 0, 0, 0, 0], false, []⟩] }
theorem wit_handout :
    ([3, 7, 255, 9].all fun b => okU (uReadNat (placing 0x102000 b) (mapAcc (placing 0x102000 b)) 0x102000 1) (fun p => p.2 == b) &&
      okU (uWriteAddrs (placing 0x102000 b) (mapAcc (placing 0x102000 b)) 0x40080 16) fun l => l.length == 16) = true ∧
    failsU (uReadNat (placing 0x6000000000 0) (mapAcc (placing 0x6000000000 0)) 0x6000000000 1) = true ∧
    ((placing 0 0).grid? 50).any (fun g => g.pending && !g.blk.spread) = true ∧
    ([([4, 12, 20], 0), ([], 6)].all fun p => let s := spreading p.1 p.2
      (s.grid? 51).any fun g => g.blk.spread && (g.chunks.getD 3 []).isEmpty && !gridWaits s 51 (some 3) && decide (g.dry.getD 3 0 < 7) && (coreFor s 3 g.blk).isSome) = true := by
  and_intros <;> decide +kernel
theorem test_handout :
    nextIs (.gangHandout 50) (placing 0x102000 7) (fun t => t.waitGangs.map (fun w => (w.die, w.idx)) == [(7, 0)] && t.grids.map (fun g => g.next) == [1]) = true ∧
    nextIs (.gangHandout 50) (placing 0x102000 255) (fun t => t.waitGangs.map (fun w => w.die) == [1]) = true ∧
    nextIs (.gangHandout 50) (placing 0x102000 9) (fun t => homeNat t 0x40084 2 == 0x101 && t.waitGangs.length == 1) = true ∧
    nextIs (.gangHandout 50) (placing 0x6000000000 0) (fun t => homeNat t 0x40084 2 == 0x501 && t.waitGangs.isEmpty) = true ∧
    nextIs (.stealMessage 51 3) (spreading [4, 12, 20] 0) (fun t => t.grids.map (fun g => (g.chunks.getD 3 [], g.chunks.getD 4 [], g.victim.getD 3 0)) == [([12, 20], [4], 5)]) = true ∧
    nextIs (.stealMessage 51 3) (spreading [] 6) (fun t => t.grids.map (fun g => g.dry.getD 3 0) == [7]) = true := by
  and_intros <;> decide +kernel

/-- Gang 2 of `block3` waits at die 0, where core 0 holds the gang of `bare`. -/
def toPlace : State := { placing 0x102000 0 with waitGangs := [⟨0, 50, 2, none, 0, 5, 0⟩] }
theorem wit_place : ((placeNext toPlace 0).any fun p => p.2.1 == 1 && (savedFor toPlace p.1).isNone && waitBlock toPlace p.1 == some { block3 with map := 0x102000#52 }) = true ∧
    (placeNext bare 0).isNone = true := by
  and_intros <;> decide +kernel
theorem test_place : nextIs (.gangPlace 0) toPlace (fun t => t.waitGangs.isEmpty && match t.gangs with
    | [_, n] => n.core == 1 && n.idx == 2 && n.agents.map (fun a => (a.pc, a.place, a.pk, a.members.length)) == [(0x3040#52, 0, 8, 8), (0x3040#52, 1, 8, 8)] &&
        n.agents.all fun a => a.rs 1 == 0x2000#64
    | _ => false) = true := by decide +kernel

/-- Of `pair`, the gang stopped for a save for this cause, its warp waiting; a pool frame at 0x200000 that names no other. -/
def stopping (c : StopCause) (hit : Bool) : State :=
  onGang (fun g => { g with stop := some ⟨c, 0, hit, none, none⟩, osLines := 1, accNos := [], wgs := g.wgs.map fun w => { w with vregs := 8 }, agents := g.agents.map fun a => { a with st := .waiting 0 } })
    { bare with mem := bare.mem.putAll memDefault (nums 0x40 8 0x200000), dies := bare.dies.map fun d => { d with clk := 1 } }
def frameless (c : StopCause) : State := { stopping c false with mem := bare.mem }
def outSaved (c : OutCause) (st : AgentSt) (ret : Bool) : State :=
  match bare.gangs with
  | [g] => { bare with
      gangs := []
      saved := [⟨0x200000, { g with agents := g.agents.map fun a => { a with st := st } }, c, none, ret, []⟩]
      waitGangs := if ret then [⟨0, 0, 0, some 0x200000, 0, 5, 0⟩] else [] }
  | _ => bare
def ofGang (s : State) (p : Gang → Bool) : Bool := match s.gang? 1 with
  | some g => p g
  | none => false

theorem wit_saves :
    ([StopCause.longWait, .pageFault, .preempt, .halt 3 7, .ctxs 0x200000 1 2 3].all fun c => ofGang (stopping c false) fun g => !g.dying && saveReady (stopping c false) g &&
      g.osq.isEmpty && g.self.isNone && (stopping c false).cmds.isEmpty && homeNat (stopping c false) 0x40 8 / 4096 % 2 ^ 40 * 4096 == 0x200000 &&
      homeNat (frameless c) 0x40 8 / 4096 % 2 ^ 40 * 4096 == 0) = true ∧
    (ofGang (onGang (fun g => { g with stop := none }) (stopping .longWait false)) fun g => g.agents.any fun a => a.st == .waiting 0) = true ∧
    (ofGang (onAgent (fun a => { a with st := .runnable }) (stopping .preempt false)) fun g => !gangStopped g) = true ∧
    (ofGang (stopping .longWait false) fun g => !gangCond (stopping .longWait false) g) = true ∧
    ((placeNext (outSaved .ctxs .runnable true) 0).any fun p => (savedFor (outSaved .ctxs .runnable true) p.1).any fun v => v.pool.isNone) = true := by
  and_intros <;> decide +kernel
theorem test_saves :
    nextIs (.longWaitThreshold 1) (onGang (fun g => { g with stop := none }) (stopping .longWait false)) (onCurrent fun g _ => g.stop == some ⟨.longWait, 1, false, none, none⟩) = true ∧
    nextIs (.preemptTimeout 1) (onAgent (fun a => { a with st := .runnable }) (stopping .preempt false)) (onCurrent fun g _ => g.dying) = true ∧
    nextIs (.preemptRequest (BitVec.ofNat 64 (2 ^ 63))) (onGang (fun g => { g with blk := { g.blk with preempt := true } }) pair)
      (fun t => t.bar0.busy && onCurrent (fun g _ => g.stop == some ⟨.preempt, 100000, false, none, none⟩) t) = true ∧
    nextIs (.resumeRequest (BitVec.ofNat 64 (2 ^ 62))) (outSaved .preempt .runnable false) (fun t => t.waitGangs.map (fun w => w.frame) == [some 0x200000] &&
      t.saved.map (fun v => v.returning) == [true]) = true := by
  and_intros <;> decide +kernel

/-- A gang whose warp has ended, or which is dying, with a record at 0x40080 that counts down from 3. -/
def ending (dying : Bool) (cmpla : Addr) : State :=
  onGang (fun g => { g with dying := dying, blk := { g.blk with cmpla := cmpla }, agents := g.agents.map fun a => { a with st := .ended } })
    { pair with mem := pair.mem.putAll memDefault (nums 0x40080 16 3) }
theorem wit_ends :
    (ofGang (ending false 0x40080#52) fun g => gangOver (ending false 0x40080#52) g && !g.dying &&
      okU (uWriteAddrs (ending false 0x40080#52) ⟨⟨g.die, 32, 1, 0, g.asid, g.raf, g.ident, g.rafOwn, 0, none⟩, .exit 1, 0#52⟩ 0x40080 16) fun l => l == (List.range 16).map (0x40080 + ·)) = true ∧
    (ofGang (ending true 0x40080#52) fun g => g.dying && decide (g.die < (ending true 0x40080#52).dies.length)) = true := by
  and_intros <;> decide +kernel
theorem test_ends :
    nextIs (.gangComplete 1) (ending false 0x40080#52) (fun t => t.gangs.isEmpty && homeNat t 0x40080 16 == 2) = true ∧
    nextIs (.gangComplete 1) (ending false 0#52) (fun t => t.gangs.isEmpty && homeNat t 0x40080 16 == 3) = true ∧
    nextIs (.gangKill 1) (ending true 0x40080#52) (fun t => t.gangs.isEmpty && homeNat t 0x40080 16 == 2 + 0x701 * 2 ^ 32) = true := by
  and_intros <;> decide +kernel

/-! ### The gang's frame, the host's registers, the controller, the step (R354-R356, R378-R389) -/

/-- The frame of the gang of `stopping`: short enough for the fields of its header. -/
theorem wit_frames_short : (match (stopping .longWait false).gangs with
    | [g] => decide (g.layout.size < 2 ^ 32) && decide (g.agents.length < 2 ^ 16)
    | _ => false) = true ∧ (stopping .longWait false).gangs.all (fun g => g.layout.size == 0x1000 + 1280 + 2048 + 1024 + 256 * 8 + 128 + 256 * g.aside) = true := by
  and_intros <;> decide +kernel

def hosting (f : Bar0 → Bar0) (s : State) : State := { s with bar0 := f s.bar0 }
/-- The host posts to queue 3 of context 7, at 0x40080. -/
def hostPost (posted taken : Nat) : State := hosting (fun b => { b with uqaddr := 0x40080#52 }) (queued posted taken)
def postWord : DWord := BitVec.ofNat 64 (7 + 3 * 2 ^ 32)
def postAcc (s : State) : Acc := ⟨unitWho s 7 0, .host, 0#52⟩
def posting (s : State) : State := hosting (fun b => { b with done := false, full := false, uq := 3#9, uqAsid := 7#16 }) s
theorem wit_host_post :
    ([1, 2].all fun n => let h := posting (hostPost (n + 1) 1)
      ctxValid (hostPost (n + 1) 1) 7 && (hostPost (n + 1) 1).bar0.done && h.waiters.isEmpty && okU (uRead h (postAcc h) 0x40080 32) fun p => p.2.length == 32 && !entryBad p.2 &&
        okU (postTarget h (postAcc h) 3 p.2 0) fun k => k.2 == some 3 && okU (readQ h (postAcc h) 3) fun qu => qu.2.any fun d => d.count == n && d.size == 2 &&
          okU (uWriteAddrs h (postAcc h) (d.ring + 32 * (d.posted % d.size)) 32) fun l => l.length == 32) = true ∧
    ctxValid (hostPost 2 1) 6 = false := by
  and_intros <;> decide +kernel
theorem test_host_post :
    nextIs (.hostQueuePost postWord) (hostPost 3 1) (fun t => t.bar0.full && t.bar0.done && homeNat t 0xA80078 4 == 3) = true ∧
    nextIs (.hostQueuePost postWord) (hostPost 2 1) (fun t => !t.bar0.full && t.bar0.done && homeNat t 0xA80078 4 == 3 && homeByte t 0xB20000 == homeByte t 0x40080) = true ∧
    nextIs (.hostQueuePost (postWord + 256 * 2 ^ 32)) (hostPost 2 1) (fun t => t.izsil.logSeq == 1 && homeNat t 0xA80078 4 == 2) = true := by
  and_intros <;> decide +kernel

/-- Launch queue 2 enabled, with HEAD 0 and places for 16. -/
def enabled (s : State) : State := hosting (fun b => { b with lq := b.lq.set 2 ⟨0#52, true, false, 5#16, 4#5, 0#32, 0#32⟩ }) s
theorem wit_host_registers : pair.phase = .ready ∧ pair.bar0.sbusy = false ∧ (hosting (fun b => { b with sbusy := true }) pair).bar0.sbusy = true ∧
    (∀ g ∈ pair.gangs, ∀ a ∈ g.agents, a.outs = []) ∧ ((enabled pair).bar0.lq.any fun l => l.en) = true ∧ State.reset.phase = .booting ∧
    State.reset.izsil.imageOk = true ∧ State.reset.gangs = [] ∧ ((bare.gangs.all fun g => !g.isFault) && (onGang (fun g => { g with grid := 0 }) bare).gangs.all fun g => g.isFault) = true := by and_intros <;> decide +kernel
theorem test_host_registers :
    nextIs (.launchQueueControl 2 (BitVec.ofNat 64 (2 ^ 63 + 7 * 2 ^ 32 + 3))) pair (fun t => (lqOf t 2).en && (lqOf t 2).asid == 7#16 && (lqOf t 2).lsz == 3#5) = true ∧
    nextIs (.launchQueueControl 2 (BitVec.ofNat 64 (2 ^ 63 + 7 * 2 ^ 32 + 3))) (enabled pair) (fun t => (lqOf t 2).asid == 5#16) = true ∧
    nextIs (.launchDoorbell 2 16#64) (enabled pair) (fun t => (lqOf t 2).tail == 16#32 && (lqOf t 2).en) = true ∧
    nextIs (.launchDoorbell 2 17#64) (enabled pair) (fun t => !(lqOf t 2).en && (lqOf t 2).err) = true ∧
    nextIs (.registerWrite 0x1080 0x1000#64) pair (fun t => (lqOf t 2).base == 0x1000#52) = true ∧
    nextIs (.registerWrite 0x1080 0x1000#64) (enabled pair) (fun t => (lqOf t 2).base == 0#52) = true ∧
    nextIs (.registerWrite 0x2010 0x40080#64) pair (fun t => t.bar0.uqaddr == 0x40080#52) = true ∧
    nextIs (.tableBaseWrite 0x2028 0x20000#64) pair (fun t => t.bar0.rtbase == 0x20000#52) = true ∧
    nextIs (.tableBaseWrite 0x2038 0x20000#64) pair (fun t => t.bar0.ctxtbase == 0#52 && t.izsil.logSeq == 1) = true ∧
    nextIs (.tableBaseWrite 0x2030 0x20000#64) (enabled pair) (fun t => t.bar0.eqtbase == 0#52 && t.izsil.logSeq == 1) = true ∧
    nextIs (.routeSync (BitVec.ofNat 64 (2 ^ 63))) pair (fun t => t.bar0.sbusy) = true ∧
    nextIs (.contextSync (BitVec.ofNat 64 (2 ^ 63 + 7))) (user pair) (fun t => !t.bar0.cbusy && t.gangs.map (fun g => g.raf) == [ctxRaf (user pair) 7]) = true := by
  and_intros <;> decide +kernel
theorem test_controller :
    nextIs .powerOn State.reset (fun t => t.bar0.ready && t.gangs.map (fun g => (g.die, g.core, g.agents.length)) == (List.range 8).map fun d => (d, 0, 2)) = true ∧
    nextIs .powerOn { State.reset with izsil := { State.reset.izsil with imageOk := false } } (fun t => t.bar0.recov && t.gangs.isEmpty) = true ∧
    nextIs .moduleReset { pair with mem := pair.mem.putAll memDefault [(Config.hostBase, 1#8)] } (fun t => t.phase == .booting && t.mem == [(Config.hostBase, 1#8)]) = true ∧
    nextIs (.powerLoss true) pair (fun t => !t.izsil.imageOk && t.mem.isEmpty) = true ∧
    nextIs (.fencedCoreMapUpdate [5, 256, 5]) pair (fun t => t.izsil.fenced == [5] && t.fenced.isEmpty) = true ∧
    nextIs .powerLimit pair (fun t => t.dies.all fun d => d.slow) = true ∧ nextIs (.thermalThrottle 3) pair (fun t => (t.die 3).slow && !(t.die 2).slow) = true ∧
    nextIs (.thermalStop 9) pair (fun t => t.phase == .stopped) = true := by
  and_intros <;> decide +kernel

/-- Where a step may run an agent of `pair`, and a walk of `engines`' frame word. -/
theorem wit_step : (envOf pair 1 2).any (fun e => e.g.ident && e.g.rafOwn.isEmpty && decide (e.a.pc.toNat + 20 ≤ 0x6000000000)) = true ∧
    (match decode ((List.range 20).map fun j => homeByte base (fetchAddr + j)) with
      | .ok (i, _) => i == .nop m0
      | .error _ => false) = true := by and_intros <;> decide +kernel
/-- A state of which the invariants hold and which steps. -/
theorem wit_step_keeps : (State.reset.withFetchWord 32 0).Inv ∧ (State.reset.withFetchWord 32 0).Canon := by
  unfold State.Inv State.Canon Gang.canon Agent.canon
  decide +kernel
theorem test_step : (match step (State.reset.withFetchWord 32 0) with
  | .next t => onCurrent (fun _ a => a.pc == BitVec.ofNat 52 (fetchAddr + 4)) { t with cur := .agent 1 2 }
  | _ => false) = true := by decide +kernel

/-! ### Further clauses: waits, captured reads, windows, acceptance, rendezvous, frames, scheduling -/

/-- A pack whose token 3 is busy; a frame in a flip under an atomic of the agent's, which has an acquire to make. -/
def packed : State := onAgent (fun a => { a with isPack := true, apply := some 5, tokens := a.tokens.set 3 .busy }) donors
def flipped (s : State) : State := { s with flips := [⟨0x40, true, none⟩] }
theorem wit_waits :
    meets (.done m0) packed (fun e => e.a.tokens.contains .busy && e.a.isPack) = true ∧ meets (.exit m0) packed (fun e => (heldTrap e.a).isNone) = true ∧
    (flipped atoms).env?.any (fun e => (readsIn (flipped atoms) e).isNone) = true ∧
    (onAgent (fun a => { a with acq := some 3 }) (flipped atoms)).env?.any (fun e =>
      (acquireFirst (onAgent (fun a => { a with acq := some 3 }) (flipped atoms)) e).isNone) = true ∧
    meets (.fence 0#2 3#3 x0) (onAgent (fun a => { a with outs := [] }) (flipped atoms)) (fun e => (readsIn (flipped atoms) e).isNone) = true ∧
    ([0, 2, 3].all fun o => (List.range 5).all fun k => meets (.fence (BitVec.ofNat 2 o) (BitVec.ofNat 3 k) x0) waiting fun e => match readsIn waiting e with
      | some s1 => s1.outq == [waitingWrite] && !osOwed s1 e.g.uid (fun p => p.agent == e.a.id) && !waitingWrite.held &&
          (List.range 32).all (fun c => showable s1 { e.who with core := c } waitingWrite) && !stuckSel s1 (observed s1 e.who)
      | none => false) = true ∧
    ((flipped waiting).outq.all fun p => p.stuck (flipped waiting)) = true := by
  and_intros <;> decide +kernel

/-- A command that fills or drains tile 0. -/
def moved0 (op : CopyOp) : State :=
  { tiles with cmds := [{ (default : Cmd) with id := 200, cls := .cp, gang := 1, accepted := some 0, body := .copy op (some 0) 0 none [] 0 }] }
/-- The format word 0x11 with AMAX in every lane. -/
def amaxed : State := onAgent (fun a => vset ((List.range 64).map fun l => (11, l, 0x80011#32)) (bset [(4, buf 0x40080 32 16 4)] a)) tiles
theorem wit_matrix_waits :
    ([CopyOp.cpy, .cpo].all fun o => meets (.mma { x0 with ty := 9#5, b := 1#8, c := 11#8, e := 2#8 }) (moved0 o) fun e =>
      (tileState (moved0 o) e.g 0 == 1 || tileState (moved0 o) e.g 0 == 3) && e.a.voted.isNone && tileState (moved0 o) e.g 1 == 2) = true ∧
    meets (.mma { x0 with ty := 9#5, b := 1#8, c := 11#8, e := 2#8 }) (onAgent (fun a => { a with voted := some (0x11#32, [0, 63]) }) tiles) (fun e =>
      e.a.voted == some (0x11#32, [0, 63]) && tileState tiles e.g 0 == 2 && mmaTilesOk (e.g.tile 0) (e.g.tile 1) 9 0x11) = true ∧
    ([Instr.mload { x0 with d := 1#8, a := 2#8, b := 11#8 }, .mdrain { x0 with d := 2#8, a := 1#8, b := 11#8 }].all fun i =>
      meets i (onAgent (vset [(11, 63, 0#32)]) tiles) fun e =>
        (List.range e.a.pk).find? (fun l => (e.v32 11 l).toNat != (e.v32 11 0).toNat) == some 63) = true ∧
    meets (.mdrain { x0 with d := 2#8, a := 1#8, b := 11#8, c := 4#8 }) amaxed (fun e => fwOkMove 0x80011 && fwAmax 0x80011 &&
      (match planAccess (e.a.b.look 0#256 4).toNat 4 1 [(0, e.sIndex 0 0)] with
        | .lanes [(0, some ps)] => ps.flatMap (fun p => bytesAt p.1 p.2) == bytesAt 0x40080 4
        | _ => false)) = true ∧
    meets (.trel { x0 with d := 0#8 }) (moved0 .cpy) (fun e => (moved0 .cpy).cmds.any fun c => c.gang == e.g.uid && !c.tileDone && c.fills 0) = true := by
  and_intros <;> decide +kernel

/-- A matrix command that has read part of its tiles early, beside a poisoned line of one of them or not. -/
def earlyTile (poison : List Nat) : State :=
  let s := matrix (.mma 0 0 1 9 0x11#32 [0])
  onGang (fun g => { g with osPoison := poison }) { s with cmds := s.cmds.map fun c => { c with early := (s.gang? 1).map fun g => g.os } }
theorem wit_matrix_early : ([[], [0]].all fun poison => match (earlyTile poison).cmd? 90, (earlyTile poison).gang? 1 with
    | some c, some g => accReady (earlyTile poison) c && g.osq.isEmpty && c.early == some g.os && (elemBytes (g.tile 0) 0 0).map lineOf == [0, 0] &&
        g.osPoison.contains 0 == !poison.isEmpty
    | _, _ => false) = true := by decide +kernel

theorem wit_window_stores :
    meets (.sto { x0 with ty := 4#5, d := 2#8, a := 10#8, lit := some 1024#64 }) windows (fun e => quiet windows e && !e.g.osPoison.contains 8 &&
      (osAddrs e { x0 with a := 10#8, lit := some 1024#64 } ⟨2, 10, 0, 0⟩).all fun p => decide (p.2 + 4 ≤ 128 * e.g.osLines) && p.2 % 4 == 0 &&
        lineOf p.2 == 8 && e.g.window? p.2 == some ⟨true, 0x50000#52, 2, 8⟩ && e.g.wline? 8 == some ⟨8, 0xA00, true, 0xA00⟩) = true := by decide +kernel
/-- Through a DIRTY window line a store waits as one of its agent's, and the agent reads it (R55, R80). -/
theorem test_window_store : nextIs (.sto { x0 with ty := 4#5, d := 2#8, a := 10#8, lit := some 1024#64 }) windows (fun t =>
    homeByte t 0x50000 == 9#8 && onCurrent (fun g _ => g.os.look 0#8 1024 == 9#8) t && t.env?.any fun e => viewByte t e.who 0x50000 == 7#8) = true := by decide +kernel

/-- Commands of two agents, offered in the cycles 2 and 1, of warps ready since the cycles 5 and 3 of the second agent's; whether the core has
accepted one in this cycle. -/
def offered (clk : Nat) (taken : Bool) : State :=
  atClk clk { pair with
    cmds := [{ (default : Cmd) with id := 95, gang := 1, agent := 2, since := 5, offer := 6 }, { (default : Cmd) with id := 96, gang := 1, agent := 3, since := 3, offer := 7 }]
    accepts := if taken then [(0, 0, clk)] else [] }
def adding : State := ready 98 .rd (.sred [⟨.add, 4, 0x40000, 5, 0x40000⟩]) pair
theorem wit_accept : ((offered 8 false).cmds.all fun c => c.accepted.isNone && decide (c.offer < ((offered 8 false).die 0).clk)) = true ∧
    ((offered 7 false).cmds.map fun c => decide (c.offer < ((offered 7 false).die 0).clk)) = [true, false] ∧ (0, 0, ((offered 8 true).die 0).clk) ∈ (offered 8 true).accepts := by
  and_intros <;> decide +kernel
theorem wit_reduction_order : (match adding.cmd? 98 with
  | some c => issuerFirst adding (c.acc adding).who (bytesAt 0x40000 4) = some adding
  | none => False) := by rfl
/-- A core accepts one command in a cycle, that of the warp ready longest, and after the cycle of its offer (R156). -/
theorem test_accept : nextIs (.engineCommandAccept 0 0) (offered 8 true) (fun t => t.cmds.map (fun c => c.accepted.isSome) == [false, false]) = true ∧
    (oldestOffered (offered 8 false) 0 0).map (fun c => c.id) = [96] ∧ (oldestOffered (offered 7 false) 0 0).map (fun c => c.id) = [95] := by
  and_intros <;> decide +kernel

/-- The command's flags go to the apply of the pack that issued it, when the pack has ended (R173). -/
def orphan : State := onGang (fun g => { g with applies := [{ applied with packs := [77] }] })
  { complete [] with cmds := (complete []).cmds.map fun c => { c with home := 77 } }
theorem wit_flag_home :
    (atCmd orphan fun c g => c.phase == .complete && g.agents.all (fun a => a.id != c.home) && g.applies.any fun q => q.packs.contains c.home) = true ∧
    nextIs (.commandRetire 94) orphan (fun t => t.gangs.all fun g => g.applies.map (fun q => q.flags) == [1#5]) = true := by decide +kernel

/-- An open instance of an apply, with one party there. -/
def opened (clk : Nat) : State :=
  onGang (fun g => { g with rdvs := [⟨40, .apply, 0, none, 0x10000000#52, 2, none, [2], 0, 0, 0, 0, 0x10000400#52, 5⟩] })
    { donors with dies := donors.dies.map fun d => { d with clk := clk } }
theorem wit_rendezvous_timeout : ([4, 5].all fun k => (opened k).gangs.all fun g => g.rdvs.all fun r =>
      r.kind == .apply && r.arrived == [2] && r.due == 5 && ((opened k).die g.die).clk == k) = true ∧
    nextIs (.rendezvousTimeout 1 40) (opened 4) (fun t => t.gangs.all fun g => g.rdvs.length == 1 && g.agents.all fun a => a.trap == 0#64) = true ∧
    nextIs (.rendezvousTimeout 1 40) (opened 5) (fun t => t.gangs.all fun g => g.rdvs.isEmpty && g.agents.all fun a => a.trap.toNat % 32 == 10) = true := by
  and_intros <;> decide +kernel

/-- A fault gang whose warp traps dies (R43). -/
theorem wit_fault_gang : (meets (.trap x0) (onGang (fun g => { g with grid := 0 }) pair) fun e => e.g.isFault && e.g.blk.traph != 0#52) = true ∧
    nextIs (.trap x0) (onGang (fun g => { g with grid := 0 }) pair) (onCurrent fun g _ => g.dying) = true := by decide +kernel

/-- A pool frame that the gang has taken already; a gang out at a `WAITC` whose condition is true, and at one whose is not. -/
def framed (c : StopCause) : State := onGang (fun g => { g with stop := some ⟨c, 0, false, some 0x200000, none⟩ }) (stopping c false)
def outWaiting (n : Nat) : State :=
  let s := cmdsOf .cp n (outSaved .longWait (.waiting 0) false)
  { s with mem := s.mem.putAll memDefault ((bytesAt 0x10000000 12).zip (bytesOf (Instr.waitc x0).encode)) }
theorem wit_frames_taken :
    ([StopCause.longWait, .pageFault, .preempt, .halt 3 7, .halt 2 7].all fun c => ofGang (framed c) fun g => !g.dying && saveReady (framed c) g && g.osq.isEmpty && g.agents.map (fun a => a.id) == [2]) = true ∧
    (ofGang (stopping .longWait true) fun g => g.stop.any fun p => p.hit && p.frame.isNone) = true ∧
    ((outWaiting 0).saved.all fun v => v.swapped && comesBack (outWaiting 0) v.gang) = true ∧
    ((outWaiting 1).saved.all fun v => v.swapped && !gangCond (outWaiting 1) v.gang) = true := by
  and_intros <;> decide +kernel

def waitsU {α : Type} (r : U α) : Bool := match r with
  | .error (.wait _) => true
  | _ => false
/-- A block at an address that context 7 does not map, one at no memory, and one of a context that is dead. -/
theorem wit_block_reads :
    (let s : State := { user bare with dlq := [(7, 2 ^ 30)] }
     turnOf s 16 && waitsU (uReadNat s ⟨unitWho s 7 0, .launch 16, 0#52⟩ (2 ^ 30) 8)) = true ∧
    (let s : State := { bare with dlq := [(0, 0x6000000000)] }
     turnOf s 16 && failsU (uReadNat s (launchAcc s 16) 0x6000000000 8)) = true ∧
    (let s : State := { blockLeft 16 (queueLaunch 3 0) with deadCtx := [0] }
     s.deadCtx.contains 0 && s.reading.length == 1) = true := by
  and_intros <;> decide +kernel

/-- A held post of the device launch queue, full or not, and one that has not found its queue yet. -/
theorem wit_held_targets : ([0, 4095, 4096].all fun n => ({ queued 0 0 with dlq := List.replicate n (0, 0) } : State).dlq.length == n) = true ∧
    (let p : HeldPost := ⟨5, 7, [0x40080], 0, 3, 0x40080, some (List.replicate 32 0#8), none⟩
     let h : State := { queued 2 0 with heldPosts := [p] }
     let a : Acc := ⟨unitWho h p.asid (homeDie (p.record.headD 0)), .post p.n, 0#52⟩
     okU (postTarget h a p.qsel (List.replicate 32 0#8) p.shard) (fun q => q.2 == some 3) && okU (readQ h a 3) fun q => q.2.any fun d => d.size ≤ d.count) = true := by
  and_intros <;> decide +kernel

/-- FORK's reads are its own writes' (R79), and a shard has room. -/
theorem wit_fork_order : (meets (frk 8#8 13#8 0#8 0#8) (queued 0 0) fun e => (match groupAt e (queued 0 0) .store true true 0x100000 with
      | .ok p => (match (fence p.1 e 1 3).bind fun s => rmwFirst s e.who (bytesAt p.2.pa 1024) with
        | some s2 => !forkBad s2 p.2.pa 64
        | none => false)
      | .error _ => false)) = true ∧
    (queued 0 0).env?.any (fun e => okU (firstQ (queued 0 0) e.unit ((List.range 64).map shardQ)) fun q => q.2.isSome) = true := by
  and_intros <;> decide +kernel

/-- Two agents of one quadrant, ready since the cycles 1 and 2; the second has issued in this cycle or not. -/
def rivals (stood : Nat) : State := onGang (fun g => { g with agents := g.agents.flatMap fun a =>
  [{ a with ready := some 1 }, { a with id := 3, ready := some 2, stood := stood }] }) { pair with dies := pair.dies.map fun d => { d with clk := 9 } }
def agentsOf (s : State) : List Nat := (agentMoves s).filterMap fun m => match m with
  | .agent 1 id => some id
  | _ => none
/-- R155: the older goes, unless the other has stood ready through 64 issue cycles of the quadrant. -/
theorem wit_scheduling : agentsOf (rivals 0) = [2] ∧ agentsOf (rivals 64) = [3] ∧
    ((rivals 0).gangs.all fun g => g.agents.all fun a => mayIssue (rivals 0) g a && a.ready.isSome && !a.issuedAt 9 && g.quad a == 0) = true := by
  and_intros <;> decide +kernel

/-! ### Further clauses: posts of FORK, the global queue, entries that continue, several parties, walks, asked saves -/

theorem wit_canonical_user : (queued 0 0).Inv ∧ NoWindows (queued 0 0) ∧ flushed.Inv ∧ NoWindows flushed := by
  unfold State.Inv NoWindows
  decide +kernel

/-- Of two posts, the first or the last is next; a shard has room for both, for one, for none. -/
def forking (prog posted : Nat) : State := onAgent (fun a => { a with prog := prog }) (queued posted 0)
theorem wit_fork_posts : (([(1, 0), (1, 1), (2, 1), (2, 2)] : List (Nat × Nat)).all fun p => meets (frk 8#8 9#8 0#8 0#8) (forking p.1 p.2) fun e =>
    okU (pickShard (forking p.1 p.2) e.unit 0 0) (fun u => u.2 == some 256) && okU (readQ (forking p.1 p.2) e.unit 256) fun q => q.2.any fun d =>
      d.size == 2 && d.count == p.2 && okU (uWriteAddrs (forking p.1 p.2) e.unit (d.ring + 32 * (d.posted % d.size)) 32) fun l => l.length == 32) = true := by
  decide +kernel
theorem test_fork_posts :
    nextIs (frk 8#8 9#8 0#8 0#8) (forking 2 0) (fun t => onCurrent (fun _ a => a.pc == 0x1000000C#52) t && homeNat t 0xA82018 4 == 1 && homeNat t 0xB30000 8 == 2 ^ 48 &&
      homeNat t 0xB30010 8 == 0x100000 && homeNat t 0xB30018 8 == 1) = true ∧
    nextIs (frk 8#8 9#8 0#8 0#8) (forking 1 0) (fun t => onCurrent (fun _ a => a.pc == 0x1000000C#52) t && homeNat t 0xA82018 4 == 2) = true ∧
    nextIs (frk 8#8 9#8 0#8 0#8) (forking 1 1) (fun t => onCurrent (fun _ a => a.pc == 0x10000000#52 && a.prog == 2) t && homeNat t 0xA82018 4 == 2) = true ∧
    nextIs (frk 8#8 9#8 0#8 0#8) (forking 2 2) (fun t => onCurrent (fun _ a => a.pc == 0x10000000#52) t && homeNat t 0xA82018 4 == 2) = true := by
  and_intros <;> decide +kernel

/-- The last sibling of a group of two arrives, with the rewards 0 and 3, or is cancelled (R325: mean 1.5; too few for the quorum). -/
theorem test_group_ends :
    nextIs (.groupRewardPerform 5) (group [⟨5, 7, 0x100000, 0x100000, 1, some 0x40400000#32, 1, 2, [], []⟩] 1) (fun t => homeNat t 0x100018 8 % 16 == 2 &&
      homeNat t 0x100030 8 == 0x3FF8000000000000 && t.groups.isEmpty && t.grpMsgs.isEmpty) = true ∧
    nextIs (.groupCancelPerform 5) (group [⟨5, 7, 0x100000, 0x100000, 1, none, 1, 2, [], []⟩] 1) (fun t => homeNat t 0x100018 8 % 16 == 3 && t.groups.isEmpty) = true := by
  and_intros <;> decide +kernel

/-- A gang bound to the global queue. -/
def global (posted taken : Nat) : State := onGang (fun g => { g with blk := { g.blk with qbind := 256 } }) (queued posted taken)
/-- Queue 3 holds one entry that continues as sibling i of the group at g, whose status and sibling words are these. -/
def continues (g i status sib : Nat) : State :=
  let s := queued 1 0 0 (2 + 2 * 2 ^ 16) status
  { s with mem := s.mem.putAll memDefault (nums 0xB20000 8 (0x100 + 2 ^ 48) ++ nums 0xB20010 8 g ++ nums 0xB20018 8 i ++ nums 0x100280 4 sib ++ nums 0x100284 4 sib) }
theorem wit_pops :
    (meets (.qpop x0) (global 0 0) fun e => okU (firstQ (global 0 0) e.unit (scanOrder e.g.die e.g.core)) fun p => p.2 == some 256) = true ∧
    (meets (.qpop x0) (global 1 0) fun e => e.g.blk.qbind == 256 && okU (readQ (global 1 0) e.unit 256) (fun q => q.2.any fun d => d.count == 1) &&
      okU (uRead (global 1 0) e.unit 0xB30000 32) fun r => r.2.length == 32) = true ∧
    (([(0x100001, 0, 1, 0), (0x100000, 64, 1, 0), (2 ^ 52, 0, 1, 0), (0x100000, 2, 1, 0), (0x100000, 1, 2, 0), (0x100000, 0, 1, 2), (0x100000, 1, 1, 0)] : List (Nat × Nat × Nat × Nat)).all
      fun p => let s := continues p.1 p.2.1 p.2.2.1 p.2.2.2
      meets (.qpop x0) s fun e => okU (uRead s e.unit 0xB20000 32) (fun r => ofBytes (r.2.take 8) == 0x100 + 2 ^ 48) &&
        okU (uWrite s e.unit 0xA8007C (toBytes 4 1)) (fun t => okU (readQ t e.unit 3) fun q => q.2.any fun d => d.count == 0 && !d.closed) &&
        (p.1 != 0x100000 || okU (uReadNat s e.unit (0x100000 + 0x280 + 4 * p.2.1) 4) fun r => r.2 == if p.2.1 < 2 then p.2.2.2 else 0)) = true := by
  and_intros <;> decide +kernel
theorem test_pops :
    nextIs (.qpop x0) (global 1 0) (fun t => homeNat t 0xA8201C 4 == 1 && homeNat t 0xA8007C 4 == 0 && (owes t).contains (.k 1 true)) = true ∧
    nextIs (.qpop x0) (global 0 0) (fun t => t.waiters.map (fun w => w.queue) == [256]) = true ∧
    nextIs (.qpop x0) (continues 0x100000 1 1 0) (fun t => homeNat t 0x100284 4 == 4 && homeNat t 0xA8007C 4 == 1 &&
      onCurrent (fun _ a => a.bind.any fun b => b.group == 0x100000 && b.sibling == 1) t) = true ∧
    nextIs (.qpop x0) (continues 0x100000 0 1 2) (fun t => homeNat t 0x100280 4 == 2 && homeNat t 0xA8007C 4 == 1 && t.waiters.length == 1 && t.izsil.logSeq == 0) = true ∧
    nextIs (.qpop x0) (continues 0x100001 0 1 0) (fun t => t.izsil.logSeq == 1 && homeNat t 0xA8007C 4 == 1 && t.waiters.length == 1) = true := by
  and_intros <;> decide +kernel

/-- Warp 3 beside warp 2, with these members, in this state; hand 2 names the ranks 0, of warp 2, and 63. -/
def parties (members : List Nat) (st : AgentSt) (rs : List Rdv) : State :=
  onGang (fun g => { g with rdvs := rs, agents := g.agents.flatMap fun a => [{ a with members := [0], pk := 1 }, { a with id := 3, place := 1, members := members, pk := 1, st := st }] }) donors
def theirs (k : RdvKind) (hand : Nat) : Rdv := ⟨41, k, 0, none, 0x10000000#52, hand, none, [3], 30, 1, 31, 1, 0x10000400#52, 5⟩
def applyAt : Instr := .apply m0 4#17 2#4 30#8 1#4 31#8 1#4
theorem wit_parties :
    (([[63], [5]] : List (List Nat)).all fun ms => let s := parties ms (.waiting 0) [theirs .apply 2]
      meets applyAt s fun e => decide (e.a.depth < 4) && Agent.hasRank e.a (e.hand s 2 &&& e.hand s 0) && !e.g.waitsIn e.a.id && e.a.st == .runnable &&
        openRdv e { (default : Rdv) with kind := .apply, wg := e.a.wg, inside := e.a.apply, addr := e.a.pc, hand := 2 } == some (theirs .apply 2) && s.handQ.isEmpty) = true ∧
    meets applyAt (parties [63] .runnable []) (fun e => e.g.rdvs.isEmpty && (e.g.agents.map fun b => Agent.hasRank b (e.hand (parties [63] .runnable []) 2)) == [true, true]) = true ∧
    (([(.bar, .barHand { x0 with a := 2#8 }, 2), (.barGang, .barGang x0, 0)] : List (RdvKind × Instr × Nat)).all fun p => meets p.2.1 (parties [63] (.waiting 0) [theirs p.1 p.2.2]) (fun e =>
      openRdv e { (default : Rdv) with kind := p.1, wg := e.a.wg, inside := e.a.apply, addr := e.a.pc, hand := p.2.2 } == some (theirs p.1 p.2.2)) &&
      meets p.2.1 (parties [63] .runnable [])) = true := by
  and_intros <;> decide +kernel
theorem test_parties :
    nextIs applyAt (parties [63] (.waiting 0) [theirs .apply 2]) (fun t => t.gangs.all fun g => g.rdvs.isEmpty && match g.applies with
      | [ap] => ap.members == [0, 63] && ap.block == 0x10000400#52 && ap.va == 30 && g.agents.all fun a => ap.donors.contains a.id && a.st == .donor ap.n
      | _ => false) = true ∧
    nextIs applyAt (parties [5] (.waiting 0) [theirs .apply 2]) (fun t => t.gangs.all fun g => match g.applies, g.agents with
      | [ap], [_, b] => ap.donors == [2] && b.st == .runnable && b.pc == 0x1000000C#52
      | _, _ => false) = true ∧
    nextIs applyAt (parties [63] .runnable []) (fun t => t.gangs.all fun g => g.applies.isEmpty && g.rdvs.map (fun r => r.arrived) == [[2]]) = true ∧
    (([(.bar, .barHand { x0 with a := 2#8 }, 2), (.barGang, .barGang x0, 0)] : List (RdvKind × Instr × Nat)).all fun p =>
      nextIs p.2.1 (parties [63] (.waiting 0) [theirs p.1 p.2.2]) (fun t => t.gangs.all fun g => g.rdvs.isEmpty && g.agents.all fun a => a.pc == 0x1000000C#52 && a.st == .runnable) &&
      nextIs p.2.1 (parties [63] .runnable []) fun t => t.gangs.all fun g => g.rdvs.map (fun r => r.arrived) == [[2]] && g.agents.all fun a => a.pc == 0x10000000#52) = true := by
  and_intros <;> decide +kernel

/-- Between the largest finite value and the next step beyond it: what rounds beyond overflows (R169, R170). -/
theorem test_overflow :
    Fmt.f32.round 0 false false (2 ^ 25 - 1) 103 = (0x7F800000, OF ||| NX) ∧ Fmt.f32.round 0 false false (2 ^ 26 - 3) 102 = (0x7F7FFFFF, NX) ∧
    Fmt.f32.round 1 false false (2 ^ 25 - 1) 103 = (0x7F7FFFFF, NX) ∧ Fmt.f32.round 2 false false (2 ^ 26 - 3) 102 = (0x7F800000, OF ||| NX) ∧
    Fmt.f32.round 3 false false (2 ^ 26 - 3) 102 = (0x7F7FFFFF, NX) ∧ Fmt.f32.round 1 false false 1 128 = (0x7F7FFFFF, OF ||| NX) ∧
    Fmt.f32.round 0 true false 1 128 = (0x7F7FFFFF, OF ||| NX) := by
  decide +kernel

/-- YIELD: the next cycle of its quadrant passes without its agent (R204). -/
theorem test_yield : nextIs (.yield m0) pair (fun t => (t.gangs.all fun g => g.agents.all fun a => a.idle == 2 && !mayIssue (atClk 1 t) g a && mayIssue (atClk 2 t) g a)) = true := by
  decide +kernel

/-- An instruction with the mark SP stops first, with its counter full or not (R193, R160). -/
theorem test_safe_point : ([Instr.nop ⟨true, false⟩, .cpy { x0 with m := ⟨true, false⟩, d := 6#8, a := 4#8, c := 5#8 }].all fun i =>
    nextIs i (halted (cmdsOf .cp 63 engines)) (onCurrent fun _ a => a.stopped && a.pc == 0x10000000#52) && nextIs i (cmdsOf .cp 63 engines) (onCurrent fun _ a => !a.stopped)) = true := by
  decide +kernel

/-- MTS of a region (R340, R43). -/
def mts48 : Instr := .mts { x0 with d := 48#8, a := 5#8 }
def regioned (v : DWord) : State := onAgent (sset [(5, v)]) (onGang (fun g => { g with rafOwn := [0, 3] }) pair)
theorem test_regions : nextIs mts48 (regioned 5#64) (onCurrent fun g _ => g.raf.getD 0 0#64 == 5#64 && g.raf.length == 16) = true := by
  decide +kernel

/-- A trap whose agent is owed what cannot come yet is held and taken later (R350). -/
theorem wit_trap_pends : (flipped atoms).env?.any (fun e => !e.quiet (e.landAll (flipped atoms)) && !e.a.trap.getLsbD 63 && e.g.blk.traph != 0#52 && !e.g.isFault) = true := by
  decide +kernel
theorem test_trap_pends : (flipped atoms).env?.any (fun e => onCurrent (fun _ a => a.pend == some (⟨⟨10, 0, none⟩, 5, 0, 3, e.a.pc⟩, false) && a.trap == 0#64)
    (takeTrap (flipped atoms) e ⟨⟨10, 0, none⟩, 5, 0, 3, e.a.pc⟩)) = true := by
  decide +kernel

/-- A write of the agent held by a collapse; nothing held, with a write waiting or not. -/
theorem wit_fences_held : (dup 3).env?.any (fun e => ownHeld (dup 3) e == (waitingWrite.agent == e.a.id)) = true ∧ waiting.env?.any (fun e => !ownHeld waiting e && waiting.scs.isEmpty) = true ∧
    meets (.fence 1#2 3#3 x0) waiting = true ∧ nextIs (.fence 1#2 3#3 x0) waiting (fun t => t.outq == waiting.outq && onCurrent (fun _ a => a.pc == 0x1000000C#52) t) = true := by
  and_intros <;> decide +kernel

/-- The gang at core 1 asked by this one; one that stops for another cause. -/
def asks (c : StopCause) : State := { frames with gangs := frames.gangs.map fun g => if g.uid = 9 then { g with stop := some ⟨c, 0, false, none, none⟩ } else g }
def asking (n : Nat) (s : State) : State := onAgent (fun a => { a with prog := n }) s
theorem wit_asked :
    ([0, 1].all fun n => meets (ctxs 13#8 14#8) (asking n (asks (.ctxs 0x2000 1 2 1))) fun e => (asks (.ctxs 0x2000 1 2 1)).gangs.any fun g => match g.stop with
      | some p => p.cause == .ctxs 0x2000 e.g.uid e.a.id 1
      | none => false) = true ∧
    meets (ctxs 13#8 14#8) (asking 1 frames) (fun _ => frames.gangs.all fun g => g.stop.isNone) = true ∧
    ([StopCause.preempt, .longWait, .pageFault].all fun c => meets (ctxs 13#8 14#8) (asks c) fun _ => (asks c).gangs.any fun g => g.core == 1 && g.die == 0 && g.slot == 0 && g.stop.isSome) = true := by
  and_intros <;> decide +kernel
theorem test_asked :
    nextIs (ctxs 13#8 14#8) (asking 0 (asks (.ctxs 0x2000 1 2 1))) (fun t => owes t == [] && onCurrent (fun _ a => a.pc == 0x10000000#52) t) = true ∧
    gives (ctxs 13#8 14#8) (asking 1 frames) (.k 1 false) = true ∧
    nextIs (ctxs 13#8 14#8) (asks .preempt) (fun t => (t.gang? 9).any fun g => g.stop == some ⟨.preempt, 0, false, none, none⟩) = true ∧
    nextIs (ctxs 13#8 14#8) (asks .longWait) (fun t => (t.gang? 9).any fun g => g.stop == some ⟨.ctxs 0x2000 1 2 1, 100000, false, none, none⟩) = true := by
  and_intros <;> decide +kernel

/-- A walk of one instruction at 0x70004 to tile 2; its descriptor at 0x40080, its format record at 0x72000, of this element type. -/
def tile2Type : Nat := (engines.gangs.map fun g => tType (g.tile 2)).headD 0
def walkWords : List (Nat × Nat) := (List.range 4).map fun k => (0x40080 + 8 * k, 8)
def formWords : List (Nat × Nat) := (0x70000, 8) :: (List.range 32).map fun k => (0x72000 + 8 * k, 8)
def toWalk (desc ty : Nat) (got : List (Nat × Nat)) : State :=
  let s := ready 100 .fw (.walk 2 (some (walkWords.map fun p => p.1)) none) engines
  readIn got { s with mem := s.mem.putAll memDefault (nums 0x40080 8 desc ++ nums 0x40088 8 0x72000 ++ nums 0x40090 8 (5 + 6 * 2 ^ 32) ++ nums 0x40098 8 0x73000 ++ nums 0x70004 4 0xAB ++
    nums 0x72000 8 (256 * ty)) }
theorem wit_walk_start :
    (([(0x70004, walkWords), (0x70004, walkWords ++ formWords), (0x70005, walkWords)] : List (Nat × List (Nat × Nat))).all fun p => atCmd (toWalk p.1 tile2Type p.2) fun c g =>
      let s := toWalk p.1 tile2Type p.2
      mayStart s c && walkTurn s c && g.stop.isNone && (tileRuns (g.tile 2)).all (fun r => !g.inWindow r.1 r.2) &&
        okU (readWords s c (walkWords.map fun q => q.1)) fun r => walkDescBad r.2 == (p.1 == 0x70005)) = true ∧
    ((toWalk 0x70004 tile2Type []).cmds.all fun c => c.gotAll walkWords == none && (c.gotAll formWords).isNone) = true := by
  and_intros <;> decide +kernel
theorem test_walk_start :
    nextIs (.walkStart 100) (toWalk 0x70004 tile2Type (walkWords ++ formWords)) (fun t => t.cmds.all fun c => match c.body with
      | .walk 2 _ (some st) => st.prog == [0xAB#32] && st.y.take 3 == [0#32, 5#32, 6#32] && st.ended.isNone && st.stat == 0x73000
      | _ => false) = true ∧
    nextIs (.walkStart 100) (toWalk 0x70004 (tile2Type + 1) (walkWords ++ formWords)) (fun t => t.cmds.all fun c => match c.body with
      | .walk 2 _ (some st) => st.ended == some (9, 0)
      | _ => false) = true ∧
    nextIs (.walkStart 100) (toWalk 0x70005 tile2Type walkWords) (fun t => t.cmds.all fun c => c.phase == .complete && c.failed) = true := by
  and_intros <;> decide +kernel

/-- Die 4 is about to place the one chunk of its grid; it is not, no core of it being there. -/
def oneChunk (none' : Bool) : State :=
  let s := spreading [4] 0
  { s with grids := s.grids.map (fun g => { g with blk := { g.blk with ngang := 3 } }), fenced := if none' then (List.range 32).map (128 + ·) else [] }
theorem wit_own_chunk : ([true, false].all fun b => ((oneChunk b).grid? 51).any fun g => g.ownFirst (oneChunk b) 4 == !b) = true := by decide +kernel
theorem test_own_chunk : nextIs (.stealMessage 51 3) (oneChunk false) (fun t => t.grids.map (fun g => g.chunks.getD 4 []) == [[4]]) = true ∧
    nextIs (.stealMessage 51 3) (oneChunk true) (fun t => t.grids.map (fun g => (g.chunks.getD 3 [], g.chunks.getD 4 [])) == [([4], [])]) = true := by
  and_intros <;> decide +kernel

/-- The host's reads: the ready bit, a size that is not 8, device memory, and memory before READY (R377, R378, R389). -/
theorem test_host_reads :
    (barRead (hosting (fun b => { b with ready := true, dev := 5#16 }) pair) 0 8).host.answer = toBytes 8 (2 ^ 63 + 5) ∧ (barRead pair 0 4).host.answer = [0#8, 0#8, 0#8, 0#8] ∧
    (barRead (enabled pair) 0x1088 8).host.answer = toBytes 8 (2 ^ 63 + 5 * 2 ^ 32 + 4) ∧
    nextIs (.hostCxlMemAccess 0x40000 2 none) { pair with hostBias := [0x40] } (fun t => t.host.answer == [0x80#8, 0xFF#8]) = true ∧
    nextIs (.hostCxlMemAccess 0x40000 2 none) State.reset (fun t => t.host.answer == [0#8, 0#8]) = true ∧
    nextIs .powerOn { State.reset with izsil := { State.reset.izsil with fenced := [0, 33] } } (fun t => t.gangs.map (fun g => (g.die, g.core)) ==
      (0, 1) :: (List.range 7).map fun d => (d + 1, 0)) = true := by
  and_intros <;> decide +kernel

/-- A DATA frame for a ring that context 7 does not have. -/
theorem test_no_ring : nextIs (.dataFrame 1 ((FrameH.mk 0 1 0 0 9 0 3 5 0 0 0).bytes ++ [7#8, 0#8, 0#8, 0#8] ++ List.replicate 128 5#8)) flushed (fun t =>
    (t.link 1 9).rxSeq == 1 && match (t.link 1 9).unacked with
      | [(0, _, bs)] => (frameOf bs).any fun h => h.kind == 2 && h.rmask == 1 && h.rseq == 0 && h.free == 0
      | _ => false) = true := by
  decide +kernel

end Sys2Proof.Slice0Tests
end

section
/-! Every step keeps memory in canonical form (O11): for each operation of the model either that it leaves memory alone (`_mem`), or that it
keeps it canonical (`_memCanon`, and `_canon` where its result is no plain state); then for every instruction and event, every move, the step. -/

namespace Sys2Proof.Machine

/-! ### The predicate that is carried along through the model (O11) -/

/-- Memory in canonical form, as a predicate that the simplifier treats as one symbol. -/
def MemCanon (m : Table Byte) : Prop := Memory.wf m

theorem inv_iff (s : State) : s.Inv ↔ MemCanon s.mem := Iff.rfl

@[simp] theorem putAll_memCanon {m : Table Byte} (l : List (Nat × Byte)) (hm : MemCanon m) : MemCanon (m.putAll memDefault l) :=
  putAll_mem_wf m l hm

@[simp] theorem keep_memCanon {m : Table Byte} (p : Nat → Bool) (hm : MemCanon m) : MemCanon (Table.keep m p) := Table.wf_keep _ _ hm

@[simp] theorem memCanon_ite {c : Prop} [Decidable c] (s t : State) :
    MemCanon (if c then s else t).mem ↔ if c then MemCanon s.mem else MemCanon t.mem := by
  split <;> rfl

/-- A fold keeps the canonical form where each of its steps does. -/
theorem foldl_memCanon {α : Type} (f : State → α → State) (l : List α) {s : State}
    (hf : ∀ s a, MemCanon s.mem → MemCanon (f s a).mem) (hm : MemCanon s.mem) : MemCanon (l.foldl f s).mem :=
  foldl_keeps (fun s : State => MemCanon s.mem) f l s (fun s a _ hs => hf s a hs) hm

/-! ### Memory in canonical form: the memory system, agents and traps -/

@[simp] theorem dirRead_mem (s : State) (die core line hint : Nat) : (dirRead s die core line hint).mem = s.mem := by
  unfold dirRead
  simp only []
  repeat' split
  all_goals simp

@[simp] theorem showSel_mem (s : State) (who : Who) (sel : PendWrite → Bool) (cores : List Nat) : (showSel s who sel cores).mem = s.mem := by
  unfold showSel
  split <;> simp

@[simp] theorem noteSeen_mem (s : State) (who : Who) (as : List Nat) : (noteSeen s who as).mem = s.mem := by
  unfold noteSeen
  simp only []
  repeat' split
  all_goals simp

@[simp] theorem resolveAfter_mem (s : State) (gang id : Nat) (ws : List Nat) : (resolveAfter s gang id ws).mem = s.mem := by
  unfold resolveAfter
  split <;> rfl

@[simp] theorem noteRead_mem (s : State) (who : Who) (as : List Nat) (hint : Nat) : (noteRead s who as hint).mem = s.mem := by
  simp [noteRead, foldl_mem]

@[simp] theorem supply_memCanon (s : State) (line : Nat) (hm : MemCanon s.mem) : MemCanon (supply s line).mem := supply_mem_wf s line hm

@[simp] theorem ownLine_memCanon (s : State) (line : Nat) (hm : MemCanon s.mem) : MemCanon (ownLine s line).mem := ownLine_mem_wf s line hm

@[simp] theorem applyHome_memCanon (s : State) (bytes : List (Nat × Byte)) (hm : MemCanon s.mem) :
    MemCanon (applyHome s bytes).mem := applyHome_mem_wf s bytes hm

@[simp] theorem ownThrough_memCanon (s : State) (uid osLine line : Nat) (hm : MemCanon s.mem) :
    MemCanon (ownThrough s uid osLine line).mem := ownThrough_mem_wf s uid osLine line hm

@[simp] theorem performSel_memCanon (s : State) (sel : PendWrite → Bool) (hm : MemCanon s.mem) :
    MemCanon (performSel s sel).mem := performSel_mem_wf s sel hm

@[simp] theorem unitPut_memCanon (s : State) (bytes : List (Nat × Byte)) (hm : MemCanon s.mem) :
    MemCanon (unitPut s bytes).mem := unitPut_mem_wf s bytes hm

@[simp] theorem pushWrite_mem (s : State) (who : Who) (p : PendWrite) : (pushWrite s who p).mem = s.mem := rfl

@[simp] theorem pushParts_mem (who : Who) (i : StoreInfo) (fuel : Nat) (s : State) (bytes : List (Nat × Byte)) :
    (pushParts s who i bytes fuel).mem = s.mem := by
  induction fuel generalizing s bytes with
  | zero => rfl
  | succ fuel ih =>
    unfold pushParts
    split
    · rfl
    · simp [ih]

@[simp] theorem clearPoison_mem (s : State) (as : List Nat) : (clearPoison s as).mem = s.mem := by
  unfold clearPoison
  split <;> rfl

@[simp] theorem noteTlb_mem (s : State) (who : Who) (ts : List Trans) : (noteTlb s who ts).mem = s.mem := by
  unfold noteTlb
  refine foldl_mem _ _ _ fun s t => ?_
  split <;> rfl

@[simp] theorem osNote_mem (s : State) (uid agent : Nat) (as : List Nat) : (osNote s uid agent as).mem = s.mem := by
  simp [osNote]

@[simp] theorem forget_mem (s : State) (e : Env) (os : Bool) (as : List Nat) : (forget s e os as).mem = s.mem := by
  unfold forget
  split <;> rfl

@[simp] theorem dropAhead_mem (s : State) (e : Env) : (dropAhead s e).mem = s.mem := by
  unfold dropAhead
  split <;> rfl

@[simp] theorem noteParts_mem (s : State) (e : Env) (hit : List (LoadReq × LoadPart)) : (noteParts s e hit).mem = s.mem := by
  unfold noteParts
  simp only []
  split <;> split <;> simp [foldl_mem]

@[simp] theorem settle_mem (s : State) (e : Env) (sel : LoadReq → LoadPart → Bool) : (settle s e sel).mem = s.mem := by
  unfold settle
  split
  · rfl
  · simp only [Env.set_mem, forget_mem]
    split <;> split <;> simp

@[simp] theorem fixRecords_mem (s : State) (who : Who) (upto : Nat) (as : List Nat) : (fixRecords s who upto as).mem = s.mem := by
  unfold fixRecords
  split <;> rfl

@[simp] theorem performLane_memCanon (s : State) (p : PendAtom) (l : AtomLane) (hm : MemCanon s.mem) : MemCanon (performLane s p l).1.mem := by
  unfold performLane
  extract_lets as s1 qs s2 s3 chain s4 old had s5 ms s6
  have h2 : MemCanon s2.mem := by
    unfold s2 s1
    split <;> simp [hm]
  have h4 : MemCanon s4.mem := by simp [s4, s3, h2]
  have h6 : MemCanon s6.mem := by simp [s6, s5, h4]
  split
  simp [h6]

@[simp] theorem performLanes_memCanon (p : PendAtom) (ls : List AtomLane) (s : State) (ws : List RegWrite) (hm : MemCanon s.mem) :
    MemCanon (performLanes p ls s ws).1.mem := by
  induction ls generalizing s ws with
  | nil => exact hm
  | cons l r ih => exact ih _ _ (performLane_memCanon s p l hm)

@[simp] theorem performSome_memCanon (s : State) (p : PendAtom) (now later : List AtomLane) (hm : MemCanon s.mem) :
    MemCanon (performSome s p now later).mem :=
  performLanes_memCanon p now _ [] hm

@[simp] theorem performAtom_memCanon (s : State) (p : PendAtom) (hm : MemCanon s.mem) : MemCanon (performAtom s p).mem :=
  performSome_memCanon s p p.lanes [] hm

@[simp] theorem performOneLane_memCanon (s : State) (p : PendAtom) (hm : MemCanon s.mem) : MemCanon (performOneLane s p).mem := by
  unfold performOneLane
  simp only []
  split
  · exact performAtom_memCanon s p hm
  · exact performSome_memCanon s p _ _ hm

@[simp] theorem settleAtoms_memCanon (s : State) (agent : Nat) (sel : PendAtom → Bool) (hm : MemCanon s.mem) :
    MemCanon (settleAtoms s agent sel).mem := by
  unfold settleAtoms
  refine foldl_memCanon _ _ (fun s p hs => ?_) hm
  split
  · split <;> simp [hs]
  · exact hs

@[simp] theorem ownFirst_memCanon (s : State) (e : Env) (as : List Nat) (hm : MemCanon s.mem) : MemCanon (ownFirst s e as).mem := by
  simp [ownFirst, hm]

@[simp] theorem landOut_mem (s : State) (e : Env) (n : Nat) : (landOut s e n).mem = s.mem := by
  unfold landOut
  simp only []
  repeat' split
  all_goals simp

@[simp] theorem landAll_memCanon (e : Env) (fuel : Nat) (s : State) (hm : MemCanon s.mem) : MemCanon (landAll s e fuel).mem := by
  induction fuel generalizing s with
  | zero => exact hm
  | succ fuel ih =>
    unfold landAll
    simp only []
    split
    · simp [hm]
    · split <;> simp [hm, ih]

@[simp] theorem Env.landAll_memCanon (e : Env) (s : State) (hm : MemCanon s.mem) : MemCanon (Env.landAll e s).mem := by
  simp [Env.landAll, hm]

@[simp] theorem acquire_mem (s : State) (e : Env) (scope : Nat) : (acquire s e scope).mem = s.mem := by
  unfold acquire
  simp only []
  split <;> simp

@[simp] theorem release_mem (s : State) (e : Env) (scope : Nat) : (release s e scope).mem = s.mem := by
  unfold release
  simp only []
  split <;> simp

@[simp] theorem scJoin_mem (s : State) (e : Env) (scope : Nat) : (scJoin s e scope).mem = s.mem := by
  unfold scJoin
  split <;> rfl

@[simp] theorem scLeave_mem (s : State) (e : Env) (scope : Nat) : (scLeave s e scope).mem = s.mem := by
  unfold scLeave
  simp only []
  split <;> simp

theorem readsIn_memCanon {s t : State} (e : Env) (hm : MemCanon s.mem) (ht : readsIn s e = some t) : MemCanon t.mem := by
  unfold readsIn at ht
  grind [settle_mem, settleAtoms_memCanon]

theorem fence_memCanon {s t : State} (e : Env) (order scope : Nat) (hm : MemCanon s.mem) (ht : fence s e order scope = some t) : MemCanon t.mem := by
  unfold fence at ht
  grind [readsIn_memCanon, acquire_mem, scJoin_mem, osFlush_mem, scLeave_mem, performSel_memCanon, showSel_mem]

theorem fenceFor_memCanon {s t : State} (e : Env) (order scope : Nat) (hm : MemCanon s.mem) (ht : fenceFor s e order scope = some t) :
    MemCanon t.mem := by
  unfold fenceFor at ht
  grind [fence_memCanon, release_mem, Option.map_eq_some_iff]

theorem relIn_mem {s t : State} (e : Env) (ids : List Nat) (ht : relIn s e ids = some t) : t.mem = s.mem := by
  unfold relIn at ht
  grind [osFlush_mem, noteAgent_mem]

@[simp] theorem Env.pend_mem (e : Env) (s : State) (t : Trap) (debug : Bool) : (Env.pend e s t debug).mem = s.mem := rfl

@[simp] theorem takeTrap_memCanon (s : State) (e : Env) (t : Trap) (hm : MemCanon s.mem) : MemCanon (takeTrap s e t).mem := by
  simp [takeTrap, hm]

@[simp] theorem leaveTrap_mem (s : State) (e : Env) (skip : Bool) : (leaveTrap s e skip).mem = s.mem := rfl

@[simp] theorem takeDebug_memCanon (s : State) (e : Env) (t : Trap) (hm : MemCanon s.mem) : MemCanon (takeDebug s e t).mem := by
  unfold takeDebug
  simp only []
  split
  · split <;> simp [hm]
  · exact takeTrap_memCanon s e t hm

@[simp] theorem advance_memCanon (s : State) (e : Env) (h : Hdr) (pc : Addr) (hm : MemCanon s.mem) : MemCanon (advance s e h pc).mem := by
  unfold advance
  simp only []
  split
  · exact takeDebug_memCanon _ _ _ hm
  · exact hm

/-- Memory is in canonical form in the state that an instruction's own effect leaves. -/
def ResCanon : Res → Prop
  | .done t => MemCanon t.mem
  | .jump t _ => MemCanon t.mem
  | .stay t => MemCanon t.mem
  | .wait t => MemCanon t.mem
  | .gone t => MemCanon t.mem
  | .trap .. => True
  | .page .. => True

@[simp] theorem resCanon_done (t : State) : ResCanon (.done t) ↔ MemCanon t.mem := Iff.rfl

@[simp] theorem resCanon_jump (t : State) (pc : Addr) : ResCanon (.jump t pc) ↔ MemCanon t.mem := Iff.rfl

@[simp] theorem resCanon_stay (t : State) : ResCanon (.stay t) ↔ MemCanon t.mem := Iff.rfl

@[simp] theorem resCanon_wait (t : State) : ResCanon (.wait t) ↔ MemCanon t.mem := Iff.rfl

@[simp] theorem resCanon_gone (t : State) : ResCanon (.gone t) ↔ MemCanon t.mem := Iff.rfl

@[simp] theorem resCanon_trap (t : TrapInfo) (code : Nat) : ResCanon (.trap t code) := trivial

@[simp] theorem resCanon_page (k : AccKind) (ps : List FaultPage) : ResCanon (.page k ps) := trivial

@[simp] theorem resCanon_result (e : Env) (s : State) (ws : List RegWrite) (f : BitVec 5) : ResCanon (e.result s ws f) ↔ MemCanon s.mem := Iff.rfl

@[simp] theorem resCanon_ite {c : Prop} [Decidable c] (r q : Res) : ResCanon (if c then r else q) ↔ if c then ResCanon r else ResCanon q := by
  split <;> rfl

/-- Memory is in canonical form in the state that an outcome answers. -/
def OutCanon : Outcome → Prop
  | .next t => MemCanon t.mem
  | .fault _ => True
  | .refused _ => True

@[simp] theorem outCanon_next (t : State) : OutCanon (.next t) ↔ MemCanon t.mem := Iff.rfl

@[simp] theorem outCanon_fault (r : Fault) : OutCanon (.fault r) := trivial

@[simp] theorem outCanon_refused (r : Refusal) : OutCanon (.refused r) := trivial

@[simp] theorem outCanon_ite {c : Prop} [Decidable c] (o p : Outcome) : OutCanon (if c then o else p) ↔ if c then OutCanon o else OutCanon p := by
  split <;> rfl

@[simp] theorem finish_memCanon (s : State) (e : Env) (h : Hdr) (r : Res) (hm : MemCanon s.mem) (hr : ResCanon r) :
    MemCanon (finish s e h r).mem := by
  cases r with
  | done t => exact advance_memCanon t e h _ hr
  | jump t pc => exact advance_memCanon t e h pc hr
  | stay t => exact hr
  | wait t => exact hr
  | trap t code =>
    simp only [finish]
    split
    · exact takeDebug_memCanon s e _ hm
    · exact takeTrap_memCanon s e _ hm
  | page k ps =>
    unfold finish
    rw [pageFault_mem]
    exact hm
  | gone t => exact hr

theorem issue_memCanon (h : Hdr) (s : State) (e : Env) (body : State → Env → Res) (hm : MemCanon s.mem) (hb : ResCanon (body s e)) :
    MemCanon (issue h s e body).mem := by
  have hf := finish_memCanon s e h _ hm hb
  unfold issue
  simp only []
  repeat' split
  all_goals simp [hm, hf]

theorem run_canon (h : Env → Hdr) {s : State} {body : State → Env → Res} (hm : MemCanon s.mem) (hb : ∀ e, ResCanon (body s e)) :
    OutCanon (run h s body) := by
  unfold run
  split
  · trivial
  · exact issue_memCanon _ s _ body hm (hb _)

theorem runBase_canon (i : Instr) (m : Marks) (words : Nat) {s : State} {body : State → Env → Res} (hm : MemCanon s.mem)
    (hb : ∀ e, ResCanon (body s e)) : OutCanon (runBase i m words s body) := run_canon _ hm hb

theorem runWait_canon (i : Instr) (m : Marks) (words : Nat) {s : State} {body : State → Env → Res} (hm : MemCanon s.mem)
    (hb : ∀ e, ResCanon (body s e)) : OutCanon (runWait i m words s body) := run_canon _ hm hb

theorem runVec_canon (i : Instr) (m : Marks) (words : Nat) (regs : List Nat) {s : State} {body : State → Env → Res} (hm : MemCanon s.mem)
    (hb : ∀ e, ResCanon (body s e)) : OutCanon (runVec i m words regs s body) := run_canon _ hm hb

theorem runExt_canon (i : Instr) (x : Ext) {s : State} {body : State → Env → Regs → Res} (hm : MemCanon s.mem)
    (hb : ∀ e r, ResCanon (body s e r)) : OutCanon (runExt i x s body) := run_canon _ hm fun e => hb e _

/-! ### Memory in canonical form: agents, hands, rendezvous, loads and stores, windows -/

theorem execHfence_canon (x : Ext) (s : State) (hm : MemCanon s.mem) : OutCanon (execHfence x s) := by
  refine runExt_canon _ _ hm fun e r => ?_
  simp [hm]

@[simp] theorem takeAhead_mem (s : State) (e : Env) : (takeAhead s e).mem = s.mem := by
  unfold takeAhead
  split <;> simp

@[simp] theorem startReads_memCanon (s : State) (e : Env) (o : Out) (homes : List Nat) (rejected : Nat) (hm : MemCanon s.mem) :
    MemCanon (startReads s e o homes rejected).mem := by
  simp [startReads, hm]

@[simp] theorem startLoad_memCanon (s : State) (e : Env) (o : Out) (ts : List Trans) (hm : MemCanon s.mem) : MemCanon (startLoad s e o ts).mem := by
  simp [startLoad, hm]

@[simp] theorem loadThrough_canon (e : Env) (s : State) (rc w align : Nat) (idx : List (Nat × Nat)) (fmt : Nat → LoadFmt) (hint : Nat)
    (hand : Option Nat) (hm : MemCanon s.mem) : ResCanon (loadThrough e s rc w align idx fmt hint hand) := by
  unfold loadThrough
  simp only []
  repeat' split
  all_goals simp [hm]

@[simp] theorem startStore_memCanon (s : State) (e : Env) (parts : List (List (Nat × Byte) × Option DupPage)) (ts : List Trans) (hint : Nat)
    (hm : MemCanon s.mem) : MemCanon (startStore s e parts ts hint).mem := by
  unfold startStore
  simp only []
  rw [foldl_mem _ _ _ fun s p => pushParts_mem _ _ _ s _]
  simp [hm]

@[simp] theorem storeThrough_canon (e : Env) (s : State) (rc w align : Nat) (idx : List (Nat × Nat)) (data : Nat → Nat) (hint : Nat)
    (hm : MemCanon s.mem) : ResCanon (storeThrough e s rc w align idx data hint) := by
  unfold storeThrough
  split <;> simp [hm]

theorem execLd_canon (x : Ext) (s : State) (hm : MemCanon s.mem) : OutCanon (execLd x s) := by
  refine runExt_canon _ _ hm fun e r => ?_
  simp [hm]

theorem execSt_canon (x : Ext) (s : State) (hm : MemCanon s.mem) : OutCanon (execSt x s) := by
  refine runExt_canon _ _ hm fun e r => ?_
  simp [hm]

theorem execLds_canon (x : Ext) (s : State) (hm : MemCanon s.mem) : OutCanon (execLds x s) := by
  refine runExt_canon _ _ hm fun e r => ?_
  simp [hm]

theorem execSts_canon (x : Ext) (s : State) (hm : MemCanon s.mem) : OutCanon (execSts x s) := by
  refine runExt_canon _ _ hm fun e r => ?_
  simp [hm]

@[simp] theorem startAtom_mem (s : State) (e : Env) (p : PendAtom) (zero : List RegWrite) (acq : Bool) (scope : Nat) :
    (startAtom s e p zero acq scope).mem = s.mem := by
  unfold startAtom
  split <;> rfl

theorem execAtom_canon (o : AtomOp) (x : Ext) (s : State) (hm : MemCanon s.mem) : OutCanon (execAtom o x s) := by
  refine runExt_canon _ _ hm fun e r => ?_
  simp only []
  repeat' split
  all_goals simp [hm]

theorem execPref_canon (x : Ext) (s : State) (hm : MemCanon s.mem) : OutCanon (execPref x s) := by
  refine runExt_canon _ _ hm fun e r => ?_
  simp only []
  split
  · exact hm
  · simp [foldl_mem, hm]

theorem execBld_canon (x : Ext) (s : State) (hm : MemCanon s.mem) : OutCanon (execBld x s) := by
  refine runExt_canon _ _ hm fun e r => ?_
  simp [hm]

theorem execHld_canon (x : Ext) (s : State) (hm : MemCanon s.mem) : OutCanon (execHld x s) := by
  refine runExt_canon _ _ hm fun e r => ?_
  simp [hm]

theorem execHst_canon (x : Ext) (s : State) (hm : MemCanon s.mem) : OutCanon (execHst x s) := by
  refine runExt_canon _ _ hm fun e r => ?_
  simp [hm]

theorem execFence_canon (order : BitVec 2) (scope : BitVec 3) (x : Ext) (s : State) (hm : MemCanon s.mem) : OutCanon (execFence order scope x s) := by
  refine runExt_canon _ _ hm fun e r => ?_
  grind [ResCanon, fenceFor_memCanon]

@[simp] theorem takeParts_mem (s : State) (e : Env) (o : Out) : (takeParts s e o).mem = s.mem := by
  simp [takeParts]

theorem execLoadDataReturn_canon (gang agent n : Nat) (s : State) (hm : MemCanon s.mem) : OutCanon (execLoadDataReturn gang agent n s) := by
  unfold execLoadDataReturn
  simp only []
  repeat' split
  all_goals simp [hm]

theorem execMissRetry_canon (gang agent n : Nat) (s : State) (hm : MemCanon s.mem) : OutCanon (execMissRetry gang agent n s) := by
  unfold execMissRetry
  simp [hm]

theorem execWritePerformAtHome_canon (die n : Nat) (s : State) (hm : MemCanon s.mem) : OutCanon (execWritePerformAtHome die n s) := by
  unfold execWritePerformAtHome
  simp [hm]

@[simp] theorem branch_canon (e : Env) (s : State) (taken : Bool) (off : ℤ) (hm : MemCanon s.mem) : ResCanon (branch e s taken off) := by
  unfold branch
  simp [hm]

theorem execBrc_canon (m : Marks) (off : BitVec 17) (inv : Bool) (k : BitVec 3) (s : State) (hm : MemCanon s.mem) :
    OutCanon (execBrc m off inv k s) := by
  refine runBase_canon _ _ _ hm fun e => ?_
  simp [hm]

theorem execBhe_canon (m : Marks) (off : BitVec 17) (h : BitVec 4) (s : State) (hm : MemCanon s.mem) : OutCanon (execBhe m off h s) := by
  refine runBase_canon _ _ _ hm fun e => ?_
  simp [hm]

theorem execBhn_canon (m : Marks) (off : BitVec 17) (h : BitVec 4) (s : State) (hm : MemCanon s.mem) : OutCanon (execBhn m off h s) := by
  refine runBase_canon _ _ _ hm fun e => ?_
  simp [hm]

theorem execLoop_canon (m : Marks) (off : BitVec 15) (n : BitVec 6) (s : State) (hm : MemCanon s.mem) : OutCanon (execLoop m off n s) := by
  refine runBase_canon _ _ _ hm fun e => ?_
  grind [branch_canon, Env.addOut_mem]

@[simp] theorem pushCall_canon (e : Env) (s : State) (ret dest : Addr) (hm : MemCanon s.mem) : ResCanon (pushCall e s ret dest) := by
  unfold pushCall
  simp only []
  repeat' split
  all_goals simp [hm]

theorem execCall_canon (m : Marks) (off : BitVec 21) (s : State) (hm : MemCanon s.mem) : OutCanon (execCall m off s) := by
  refine runWait_canon _ _ _ hm fun e => ?_
  simp [hm]

theorem execCalls_canon (m : Marks) (n : BitVec 6) (s : State) (hm : MemCanon s.mem) : OutCanon (execCalls m n s) := by
  refine runWait_canon _ _ _ hm fun e => ?_
  simp [hm]

theorem execRet_canon (m : Marks) (s : State) (hm : MemCanon s.mem) : OutCanon (execRet m s) := by
  refine runWait_canon _ _ _ hm fun e => ?_
  simp only []
  repeat' split
  all_goals simp [hm]

@[simp] theorem resumePast_memCanon (s : State) (uid : Nat) (ids : List Nat) (hm : MemCanon s.mem) : MemCanon (resumePast s uid ids).mem := by
  unfold resumePast
  split
  · exact hm
  · refine foldl_memCanon _ _ (fun s id hs => ?_) hm
    split <;> simp [hs]

theorem syncOut_memCanon (uid : Nat) (ids : List Nat) {s t : State} {ms : List Nat} (hm : MemCanon s.mem)
    (ht : syncOut uid ids s = some (t, ms)) : MemCanon t.mem := by
  induction ids generalizing s t ms with
  | nil => grind [syncOut]
  | cons id r ih =>
    unfold syncOut at ht
    grind [readsIn_memCanon, release_mem, Option.map_eq_some_iff]

theorem syncIn_mem (uid : Nat) (ids who : List Nat) {s t : State} (ht : syncIn uid ids who s = some t) : t.mem = s.mem := by
  induction who generalizing s t with
  | nil => grind [syncIn]
  | cons id r ih =>
    unfold syncIn at ht
    grind [relIn_mem, acquire_mem, Option.bind_eq_some_iff]

theorem syncAll_memCanon {s t : State} (uid : Nat) (who : List Nat) (hm : MemCanon s.mem) (ht : syncAll s uid who = some t) : MemCanon t.mem := by
  obtain ⟨⟨s1, ids⟩, h1, h2⟩ := Option.bind_eq_some_iff.1 ht
  rw [syncIn_mem uid ids who h2]
  exact syncOut_memCanon uid who hm h1

@[simp] theorem dropRdv_mem (s : State) (uid n : Nat) : (dropRdv s uid n).mem = s.mem := rfl

@[simp] theorem completeApply_memCanon (s : State) (e : Env) (r : Rdv) (m : Hand) (hm : MemCanon s.mem) :
    MemCanon (completeApply s e r m).mem := by
  unfold completeApply
  simp only []
  split
  · exact resumePast_memCanon _ _ _ hm
  · split
    · exact hm
    · have hs := syncOut_memCanon _ _ hm ‹_›
      exact resumePast_memCanon _ _ _ hs

@[simp] theorem completeBar_memCanon (s : State) (uid : Nat) (r : Rdv) (due : List Nat) (hm : MemCanon s.mem) :
    MemCanon (completeBar s uid r due).mem := by
  unfold completeBar
  split
  · exact hm
  · next ht => exact resumePast_memCanon _ _ _ (by simpa using syncAll_memCanon _ _ hm ht)

@[simp] theorem recheck_memCanon (s : State) (uid n : Nat) (hm : MemCanon s.mem) : MemCanon (recheck s uid n).mem := by
  unfold recheck
  split
  · exact hm
  split
  · exact hm
  split
  · simpa using hm
  split
  · exact hm
  simp only []
  split
  · split
    · exact completeBar_memCanon _ _ _ _ hm
    · exact hm
  split
  · exact hm
  split
  · split
    · exact completeApply_memCanon _ _ _ _ hm
    · exact completeBar_memCanon _ _ _ _ hm
  split
  · exact hm
  split
  · exact hm
  · exact resumePast_memCanon _ _ _ (by simpa using hm)

@[simp] theorem recheckAll_memCanon (s : State) (uid : Nat) (hm : MemCanon s.mem) : MemCanon (recheckAll s uid).mem := by
  unfold recheckAll
  split
  · exact hm
  · exact foldl_memCanon _ _ (fun s n hs => recheck_memCanon s uid n hs) hm

@[simp] theorem arrive_canon (e : Env) (s : State) (r : Rdv) (hm : MemCanon s.mem) : ResCanon (arrive e s r) := by
  unfold arrive
  extract_lets n join joined s1 s2
  have h1 : MemCanon s1.mem := by
    unfold s1
    split <;> exact hm
  have h2 : MemCanon s2.mem := recheck_memCanon s1 _ n h1
  split
  · split <;> exact h2
  · exact h2

theorem execApply_canon (m : Marks) (off : BitVec 17) (h : BitVec 4) (va : BitVec 8) (nc : BitVec 4) (vb : BitVec 8) (nw : BitVec 4) (s : State)
    (hm : MemCanon s.mem) : OutCanon (execApply m off h va nc vb nw s) := by
  refine run_canon _ hm fun e => ?_
  simp [hm]

theorem execBarHand_canon (x : Ext) (s : State) (hm : MemCanon s.mem) : OutCanon (execBarHand x s) := by
  refine runExt_canon _ _ hm fun e r => ?_
  simp [hm]

theorem execBarGang_canon (x : Ext) (s : State) (hm : MemCanon s.mem) : OutCanon (execBarGang x s) := by
  refine runExt_canon _ _ hm fun e r => ?_
  simp [hm]

theorem landIds_mem {s t : State} (uid : Nat) (ids : List Nat) (ht : landIds s uid ids = some t) : t.mem = s.mem := by
  unfold landIds at ht
  grind [osFlush_mem]

theorem execPackFormation_canon (gang apply : Nat) (s : State) (hm : MemCanon s.mem) : OutCanon (execPackFormation gang apply s) := by
  unfold execPackFormation
  split
  · exact hm
  split
  · exact hm
  split
  · exact hm
  split
  · exact hm
  · next t ht =>
    have h := landIds_mem _ _ ht
    simpa [h] using hm

theorem endPack_memCanon {s t : State} (e : Env) (hm : MemCanon s.mem) (ht : endPack s e = some t) : MemCanon t.mem := by
  unfold endPack at ht
  obtain ⟨⟨s1, ids⟩, h1, rfl⟩ := Option.map_eq_some_iff.1 ht
  have hs := syncOut_memCanon _ _ hm h1
  simpa using hs

@[simp] theorem donePack_canon (s : State) (e : Env) (hm : MemCanon s.mem) : ResCanon (donePack s e) := by
  unfold donePack
  grind [ResCanon, endPack_memCanon]

@[simp] theorem raiseHeld_canon (s : State) (e : Env) (n cause words : Nat) (hm : MemCanon s.mem) : ResCanon (raiseHeld s e n cause words) := by
  unfold raiseHeld
  grind [ResCanon, takeTrap_memCanon, Env.set_mem]

theorem execDone_canon (m : Marks) (s : State) (hm : MemCanon s.mem) : OutCanon (execDone m s) := by
  refine runWait_canon _ _ _ hm fun e => ?_
  grind [ResCanon, raiseHeld_canon, donePack_canon]

theorem execExit_canon (m : Marks) (s : State) (hm : MemCanon s.mem) : OutCanon (execExit m s) := by
  refine runWait_canon _ _ _ hm fun e => ?_
  split
  · exact raiseHeld_canon s e _ _ _ hm
  split
  · exact hm
  simp only []
  split
  · simpa using hm
  have hp : MemCanon (e.pushHand s 0 (handOf e.a.members) 0#1024).mem := by simpa using hm
  split
  · exact hm
  · next ht => exact endPack_memCanon e hp ht

theorem execApplyJoin_canon (gang apply : Nat) (s : State) (hm : MemCanon s.mem) : OutCanon (execApplyJoin gang apply s) := by
  unfold execApplyJoin
  simp only []
  split
  · exact hm
  · split
    · exact hm
    · split
      · exact hm
      · split
        · exact hm
        · rename_i t ht
          obtain ⟨s1, h1, h2⟩ := Option.bind_eq_some_iff.1 ht
          have hs : MemCanon t.mem := by simpa [syncIn_mem _ _ _ h2, landIds_mem _ _ h1] using hm
          refine foldl_memCanon _ _ (fun s id hs => ?_) hs
          split
          · split <;> simp [hs]
          · exact hs

theorem execRendezvousTimeout_canon (gang n : Nat) (s : State) (hm : MemCanon s.mem) : OutCanon (execRendezvousTimeout gang n s) := by
  unfold execRendezvousTimeout
  split
  · exact hm
  · split
    · exact hm
    · split
      · exact hm
      · refine foldl_memCanon _ _ (fun s id hs => ?_) hm
        split <;> simp [hs]

@[simp] theorem commitHand_mem (s : State) (w : HandWrite) : (commitHand s w).mem = s.mem := rfl

theorem execHandWriteCommit_canon (die core : Nat) (s : State) (hm : MemCanon s.mem) : OutCanon (execHandWriteCommit die core s) := by
  unfold execHandWriteCommit
  simp only []
  split
  · exact hm
  · split
    · exact hm
    · refine foldl_memCanon _ _ (fun s uid hs => recheckAll_memCanon s uid hs) ?_
      rw [foldl_mem _ _ _ fun s g => State.updGang_mem s g endDead, foldl_mem _ _ _ commitHand_mem]
      exact hm

@[simp] theorem fillRead_memCanon (s : State) (e : Env) (f : FillLine) (hm : MemCanon s.mem) : MemCanon (fillRead s e f).mem := by
  simp [fillRead, hm]

@[simp] theorem fillWrite_memCanon (s : State) (e : Env) (f : FillLine) (hm : MemCanon s.mem) : MemCanon (fillWrite s e f).mem := by
  simp [fillWrite, hm]

@[simp] theorem startCollapse_mem (s : State) (d : DupPage) : (startCollapse s d).mem = s.mem := by
  unfold startCollapse
  split <;> rfl

theorem fillWindows_ok_memCanon (e : Env) {s t : State} (write : Bool) (acc : List (Nat × Nat)) (hm : MemCanon s.mem)
    (ht : fillWindows e s write acc = .ok t) : MemCanon t.mem := by
  unfold fillWindows at ht
  have hf (f : List FillLine) (s : State) (hs : MemCanon s.mem) :
      MemCanon (f.foldl (fun s f => if write then fillWrite s e f else fillRead s e f) s).mem :=
    foldl_memCanon _ _ (fun s f hs => by simp [hs]) hs
  grind [noteTlb_mem]

theorem fillWindows_error_canon (e : Env) {s : State} {r : Res} (write : Bool) (acc : List (Nat × Nat)) (hm : MemCanon s.mem)
    (hr : fillWindows e s write acc = .error r) : ResCanon r := by
  unfold fillWindows at hr
  grind [ResCanon, Env.set_mem, startCollapse_mem]

@[simp] theorem osOwnFirst_mem (s : State) (e : Env) (as : List Nat) : (osOwnFirst s e as).mem = s.mem := by
  simp [osOwnFirst]

theorem execLdo_canon (x : Ext) (s : State) (hm : MemCanon s.mem) : OutCanon (execLdo x s) := by
  refine runExt_canon _ _ hm fun e r => ?_
  simp only []
  split
  · trivial
  · split
    · exact fillWindows_error_canon e false _ hm ‹_›
    · have ht := fillWindows_ok_memCanon e false _ hm ‹_›
      split
      · trivial
      · split <;> simp [ht]

@[simp] theorem windowStore_mem (e : Env) (grp w : Nat) (data : Nat → Nat) (s : State) (p : Nat × Nat) :
    (windowStore e grp w data s p).mem = s.mem := by
  unfold windowStore
  split <;> simp

@[simp] theorem plainStore_mem (e : Env) (grp w : Nat) (data : Nat → Nat) (s : State) (p : Nat × Nat) :
    (plainStore e grp w data s p).mem = s.mem := rfl

@[simp] theorem storeLanes_mem (e : Env) (s : State) (w : Nat) (data : Nat → Nat) (acc : List (Nat × Nat)) :
    (storeLanes e s w data acc).mem = s.mem := by
  unfold storeLanes
  refine foldl_mem _ _ _ fun s p => ?_
  simp only []
  split <;> simp

theorem execSto_canon (x : Ext) (s : State) (hm : MemCanon s.mem) : OutCanon (execSto x s) := by
  refine runExt_canon _ _ hm fun e r => ?_
  simp only []
  split
  · trivial
  · split
    · exact fillWindows_error_canon e true _ hm ‹_›
    · have ht := fillWindows_ok_memCanon e true _ hm ‹_›
      split <;> simp [ht]

theorem osReady_mem {s t : State} (e : Env) (as : List Nat) (ht : osReady s e as = some t) : t.mem = s.mem := by
  unfold osReady at ht
  grind [osNote_mem, osOwnFirst_mem]

@[simp] theorem consumeLines_mem (e : Env) (s : State) (x : Ext) (r : Regs) (w : Nat) (acc : List (Nat × Nat)) :
    (consumeLines e s x r w acc).mem = s.mem := by
  simp [consumeLines]

theorem execLdc_canon (x : Ext) (s : State) (hm : MemCanon s.mem) : OutCanon (execLdc x s) := by
  refine runExt_canon _ _ hm fun e r => ?_
  simp only []
  split
  · trivial
  · split
    · exact fillWindows_error_canon e false _ hm ‹_›
    · have ht := fillWindows_ok_memCanon e false _ hm ‹_›
      split
      · exact ht
      · split
        · trivial
        · split
          · exact ht
          · rename_i u hu
            obtain ⟨s2, h2, h3⟩ := Option.bind_eq_some_iff.1 hu
            obtain ⟨s1, h1, h2⟩ := Option.bind_eq_some_iff.1 h2
            have hs1 : MemCanon s1.mem := osReady_mem _ _ h1 ▸ ht
            have hs : MemCanon u.mem := relIn_mem _ _ h3 ▸ fence_memCanon _ _ _ hs1 h2
            split <;> simp [hs]

@[simp] theorem fillLines_mem (e : Env) (s : State) (x : Ext) (r : Regs) (w : Nat) (acc : List (Nat × Nat)) :
    (fillLines e s x r w acc).mem = s.mem := by
  simp [fillLines, foldl_mem]

theorem execStp_canon (x : Ext) (s : State) (hm : MemCanon s.mem) : OutCanon (execStp x s) := by
  refine runExt_canon _ _ hm fun e r => ?_
  simp only []
  split
  · trivial
  · split
    · exact fillWindows_error_canon e true _ hm ‹_›
    · have ht := fillWindows_ok_memCanon e true _ hm ‹_›
      split
      · exact ht
      · split
        · exact ht
        · rename_i u hu
          obtain ⟨s1, h1, h2⟩ := Option.bind_eq_some_iff.1 hu
          have hs : MemCanon u.mem := by
            rw [osReady_mem _ _ h2, release_mem]
            exact readsIn_memCanon _ ht h1
          split <;> simp [hs]

@[simp] theorem cleanLine_memCanon (s : State) (uid : Nat) (l : WLine) (hm : MemCanon s.mem) : MemCanon (cleanLine s uid l).mem := by
  simp [cleanLine, hm]

theorem settleWindow_memCanon {s t : State} (uid : Nat) (w : StashEnt) (hm : MemCanon s.mem) (ht : settleWindow s uid w = some t) :
    MemCanon t.mem := by
  unfold settleWindow at ht
  grind [performSel_memCanon]

theorem writeBack_ok_memCanon (e : Env) {s t : State} (w : StashEnt) (hm : MemCanon s.mem) (ht : writeBack e s w = .ok t) : MemCanon t.mem := by
  unfold writeBack at ht
  have hf (ls : List WLine) (s : State) (hs : MemCanon s.mem) : MemCanon (ls.foldl (fun s l => cleanLine s e.g.uid l) s).mem :=
    foldl_memCanon _ _ (fun s l hs => cleanLine_memCanon s _ l hs) hs
  grind [settleWindow_memCanon, noteTlb_mem]

theorem writeBack_error_canon (e : Env) {s : State} {r : Res} (w : StashEnt) (hm : MemCanon s.mem) (hr : writeBack e s w = .error r) :
    ResCanon r := by
  unfold writeBack at hr
  grind [ResCanon, settleWindow_memCanon]

theorem execSmap_canon (x : Ext) (s : State) (hm : MemCanon s.mem) : OutCanon (execSmap x s) := by
  refine runExt_canon _ _ hm fun e r => ?_
  grind [ResCanon, writeBack_ok_memCanon, writeBack_error_canon, osFlush_mem, Env.setGang_mem]

theorem execSflush_canon (x : Ext) (s : State) (hm : MemCanon s.mem) : OutCanon (execSflush x s) := by
  refine runExt_canon _ _ hm fun e r => ?_
  simp only []
  split
  · exact hm
  · split
    · exact writeBack_error_canon e _ hm ‹_›
    · exact writeBack_ok_memCanon e _ hm ‹_›

theorem execSinv_canon (x : Ext) (s : State) (hm : MemCanon s.mem) : OutCanon (execSinv x s) := by
  refine runExt_canon _ _ hm fun e r => ?_
  simp only []
  split
  · exact hm
  split
  · exact hm
  · next ht => simpa using settleWindow_memCanon _ _ hm ht

@[simp] theorem barWrites_mem (s : State) (uid a : Nat) : (barWrites s uid a).mem = s.mem := by
  simp [barWrites]

@[simp] theorem creditBar_mem (s : State) (uid : Nat) (bar : Option Nat) (f : SBar → SBar) : (creditBar s uid bar f).mem = s.mem := by
  unfold creditBar
  split <;> simp

theorem sbReady_mem {s t : State} (e : Env) (a : Nat) (ht : sbReady e s a = some t) : t.mem = s.mem := by
  unfold sbReady at ht
  grind [osReady_mem]

@[simp] theorem sbUpdate_canon (e : Env) (s : State) (a : Nat) (inRange fresh rd wr : Bool) (f : SBar → SBar) (rels : Gang → Gang)
    (hm : MemCanon s.mem) : ResCanon (sbUpdate e s a inRange fresh rd wr f rels) := by
  unfold sbUpdate
  split
  · exact hm
  · next t ht =>
    have h := sbReady_mem e a ht
    split
    · trivial
    · simpa [h] using hm

theorem execSbinit_canon (x : Ext) (s : State) (hm : MemCanon s.mem) : OutCanon (execSbinit x s) := by
  refine runExt_canon _ _ hm fun e r => ?_
  simp [hm]

theorem execSbexp_canon (x : Ext) (s : State) (hm : MemCanon s.mem) : OutCanon (execSbexp x s) := by
  refine runExt_canon _ _ hm fun e r => ?_
  simp [hm]

theorem execSbarv_canon (x : Ext) (s : State) (hm : MemCanon s.mem) : OutCanon (execSbarv x s) := by
  refine runExt_canon _ _ hm fun e r => ?_
  grind [ResCanon, readsIn_memCanon, sbUpdate_canon, release_mem]

@[simp] theorem waitBar_mem (e : Env) (s : State) (a : Option Nat) : (waitBar e s a).mem = s.mem := rfl

theorem execSbwait_canon (x : Ext) (s : State) (hm : MemCanon s.mem) : OutCanon (execSbwait x s) := by
  refine runExt_canon _ _ hm fun e r => ?_
  simp only []
  split
  · exact hm
  · rename_i t ht
    have hs : MemCanon t.mem := sbReady_mem _ _ ht ▸ hm
    split
    · trivial
    · split
      · exact hs
      · split
        · exact hs
        · rename_i u hu
          obtain ⟨s1, h1, h2⟩ := Option.bind_eq_some_iff.1 hu
          rw [resCanon_done, waitBar_mem, relIn_mem _ _ h2]
          exact fence_memCanon _ _ _ hs h1

theorem execWaitc_canon (x : Ext) (s : State) (hm : MemCanon s.mem) : OutCanon (execWaitc x s) := by
  refine runExt_canon _ _ hm fun e r => ?_
  simp [hm]

theorem execTdef_canon (x : Ext) (s : State) (hm : MemCanon s.mem) : OutCanon (execTdef x s) := by
  refine runExt_canon _ _ hm fun e r => ?_
  simp [hm]

theorem execTrel_canon (x : Ext) (s : State) (hm : MemCanon s.mem) : OutCanon (execTrel x s) := by
  refine runExt_canon _ _ hm fun e r => ?_
  simp [hm]

/-! ### Memory in canonical form: units, commands, tokens, copies -/

@[simp] theorem failAcc_mem (s : State) (a : Acc) (va cause : Nat) : (failAcc s a va cause).state.mem = s.mem := by
  simp [failAcc, UStop.state]

@[simp] theorem engineFault_mem (s : State) (a : Acc) (k : AccKind) (va cause level : Nat) : (engineFault s a k va cause level).mem = s.mem := by
  unfold engineFault
  split <;> rfl

theorem uXlat_error_mem (s : State) (a : Acc) (k : AccKind) (va : Nat) {u : UStop} (hu : uXlat s a k va = .error u) :
    u.state.mem = s.mem := by
  unfold uXlat at hu
  grind [failAcc_mem, engineFault_mem, UStop.state]

theorem uTrans_error_mem (s : State) (a : Acc) (k : AccKind) (l : List (Nat × Nat)) {u : UStop} (hu : uTrans s a k l = .error u) :
    u.state.mem = s.mem := by
  induction l generalizing u with
  | nil => simp [uTrans] at hu
  | cons p r ih =>
    unfold uTrans at hu
    grind [uXlat_error_mem]

theorem issuerFirst_memCanon {s t : State} (who : Who) (as : List Nat) (hm : MemCanon s.mem) (ht : issuerFirst s who as = some t) :
    MemCanon t.mem := by
  unfold issuerFirst at ht
  grind [settleAtoms_memCanon, settle_mem]

theorem issuerOs_mem {s t : State} (who : Who) (as : List Nat) (ht : issuerOs s who as = some t) : t.mem = s.mem := by
  unfold issuerOs at ht
  grind [settle_mem, osFlush_mem]

@[simp] theorem cmdShow_mem (s : State) (who : Who) : (cmdShow s who).mem = s.mem := by
  unfold cmdShow
  split <;> simp

theorem uReadAddrs_error_mem (s : State) (a : Acc) (va n : Nat) {u : UStop} (hu : uReadAddrs s a va n = .error u) : u.state.mem = s.mem := by
  unfold uReadAddrs at hu
  grind [uTrans_error_mem, failAcc_mem, UStop.state]

theorem uRead_ok_memCanon {s t : State} (a : Acc) (va n hint : Nat) {bs : List Byte} (hm : MemCanon s.mem)
    (ht : uRead s a va n hint = .ok (t, bs)) : MemCanon t.mem := by
  unfold uRead at ht
  grind [issuerFirst_memCanon, noteRead_mem]

theorem uRead_error_memCanon {s : State} (a : Acc) (va n hint : Nat) {u : UStop} (hm : MemCanon s.mem)
    (hu : uRead s a va n hint = .error u) : MemCanon u.state.mem := by
  unfold uRead at hu
  grind [issuerFirst_memCanon, → uReadAddrs_error_mem, UStop.state]

theorem uReadNat_ok_memCanon {s t : State} (a : Acc) (va n hint : Nat) {v : Nat} (hm : MemCanon s.mem)
    (ht : uReadNat s a va n hint = .ok (t, v)) : MemCanon t.mem := by
  unfold uReadNat at ht
  grind [uRead_ok_memCanon]

theorem uReadNat_error_memCanon {s : State} (a : Acc) (va n hint : Nat) {u : UStop} (hm : MemCanon s.mem)
    (hu : uReadNat s a va n hint = .error u) : MemCanon u.state.mem := by
  unfold uReadNat at hu
  grind [→ uRead_error_memCanon]

theorem uWriteAddrs_error_mem (s : State) (a : Acc) (va n : Nat) {u : UStop} (hu : uWriteAddrs s a va n = .error u) : u.state.mem = s.mem := by
  unfold uWriteAddrs at hu
  grind [uTrans_error_mem, startCollapse_mem, UStop.state]

@[simp] theorem uPut_memCanon (s : State) (who : Who) (bytes : List (Nat × Byte)) (hm : MemCanon s.mem) : MemCanon (uPut s who bytes).mem := by
  have hs (as : List Nat) : MemCanon ((issuerFirst s who as).getD s).mem := by
    cases h : issuerFirst s who as with
    | none => exact hm
    | some t => exact issuerFirst_memCanon who as hm h
  unfold uPut
  refine applyHome_memCanon _ _ ?_
  rw [clearPoison_mem]
  refine performSel_memCanon _ _ ?_
  rw [cmdShow_mem]
  exact hs _

theorem uWrite_ok_memCanon {s t : State} (a : Acc) (va : Nat) (bs : List Byte) (hm : MemCanon s.mem) (ht : uWrite s a va bs = .ok t) :
    MemCanon t.mem := by
  unfold uWrite at ht
  grind [uPut_memCanon]

theorem uWrite_error_mem {s : State} (a : Acc) (va : Nat) (bs : List Byte) {u : UStop} (hu : uWrite s a va bs = .error u) :
    u.state.mem = s.mem := by
  unfold uWrite at hu
  grind [→ uWriteAddrs_error_mem]

theorem rmwFirst_memCanon {s t : State} (who : Who) (as : List Nat) (hm : MemCanon s.mem) (ht : rmwFirst s who as = some t) :
    MemCanon t.mem := by
  unfold rmwFirst at ht
  split at ht
  · simp at ht
  · obtain ⟨s1, h1, rfl⟩ := Option.map_eq_some_iff.1 ht
    have hs := issuerFirst_memCanon who as hm h1
    exact performSel_memCanon _ _ (by rwa [cmdShow_mem])

@[simp] theorem UStop.res_canon (e : Env) (x : Ext) (u : UStop) (hu : MemCanon u.state.mem) : ResCanon (u.res e x) := by
  cases u with
  | wait s => exact hu
  | fail s c => exact takeTrap_memCanon s e _ hu

@[simp] theorem toDistributor_mem (s : State) (frame : Nat) : (toDistributor s frame).mem = s.mem := by
  unfold toDistributor
  split
  · rfl
  · split <;> rfl

@[simp] theorem conditionTrue_mem (s : State) (uid : Nat) : (conditionTrue s uid).mem = s.mem := by
  unfold conditionTrue
  split
  · rfl
  · split <;> simp

@[simp] theorem State.updCmd_mem (s : State) (id : Nat) (f : Cmd → Cmd) : (State.updCmd s id f).mem = s.mem := rfl

@[simp] theorem State.dropCmd_mem (s : State) (id : Nat) : (State.dropCmd s id).mem = s.mem := rfl

@[simp] theorem issueCmd_mem (e : Env) (s : State) (cls : CmdClass) (bar : Option Nat) (body : CmdBody) (hint : Nat) :
    (issueCmd e s cls bar body hint).mem = s.mem := rfl

@[simp] theorem setErr_mem (s : State) (c : Cmd) : (setErr s c).mem = s.mem := by
  simp [setErr]

@[simp] theorem failCmd_mem (s : State) (c : Cmd) : (failCmd s c).mem = s.mem := by
  unfold failCmd
  split <;> simp

@[simp] theorem completeCmd_mem (s : State) (id : Nat) : (completeCmd s id).mem = s.mem := rfl

theorem execEngineCommandAccept_canon (die core : Nat) (s : State) (hm : MemCanon s.mem) : OutCanon (execEngineCommandAccept die core s) := by
  unfold execEngineCommandAccept
  simp only []
  repeat' split
  all_goals simp [hm]

theorem recNat_ok_memCanon {s t : State} (c : Cmd) (va n : Nat) {v : Nat} (hm : MemCanon s.mem) (ht : recNat s c va n = .ok (t, v)) :
    MemCanon t.mem := by
  unfold recNat at ht
  grind [uRead_ok_memCanon]

theorem recNat_error_memCanon {s : State} (c : Cmd) (va n : Nat) {u : UStop} (hm : MemCanon s.mem) (hu : recNat s c va n = .error u) :
    MemCanon u.state.mem := by
  unfold recNat at hu
  grind [→ uRead_error_memCanon, UStop.state]

theorem readNats_ok_eq {s t : State} (c : Cmd) (records : Bool) (l : List (Nat × Nat)) {vs : List Nat}
    (ht : readNats s c records l = .ok (t, vs)) : t = s := by
  unfold readNats at ht
  grind

theorem readNats_error_memCanon {s : State} (c : Cmd) (records : Bool) (l : List (Nat × Nat)) {u : UStop} (hm : MemCanon s.mem)
    (hu : readNats s c records l = .error u) : MemCanon u.state.mem := by
  unfold readNats at hu
  grind [recNat_ok_memCanon, → recNat_error_memCanon, uReadNat_ok_memCanon, → uReadNat_error_memCanon, State.updCmd_mem, UStop.state]

/-- Memory is in canonical form in the state that an attempt to write leaves. -/
def TodoCanon : Todo → Prop
  | .none => True
  | .ok t => MemCanon t.mem
  | .wait t => MemCanon t.mem
  | .fail t => MemCanon t.mem

theorem writeTodo_canon (s : State) (c : Cmd) (hm : MemCanon s.mem) : TodoCanon (writeTodo s c) := by
  unfold writeTodo
  grind [TodoCanon, uWrite_ok_memCanon, → uWrite_error_mem, State.updCmd_mem, UStop.state]

@[simp] theorem dropStage_mem (s : State) (c : Cmd) : (dropStage s c).mem = s.mem := rfl

theorem uWriteList_error_mem (s : State) (a : Acc) (vas : List Nat) {u : UStop} (hu : uWriteList s a vas = .error u) : u.state.mem = s.mem := by
  induction vas generalizing u with
  | nil => simp [uWriteList] at hu
  | cons va r ih =>
    unfold uWriteList at hu
    grind [→ uWriteAddrs_error_mem]

@[simp] theorem skipLine_mem (s : State) (c : Cmd) (line : Nat) : (skipLine s c line).mem = s.mem := by
  simp [skipLine]

/-- Memory is in canonical form in the state that a move leaves. -/
def MoveCanon : MoveEnd → Prop
  | .ok t => MemCanon t.mem
  | .wait t => MemCanon t.mem
  | .fail t => MemCanon t.mem

theorem readGranule_canon (s : State) (c : Cmd) (m : Move) (hm : MemCanon s.mem) : MoveCanon (readGranule s c m) := by
  unfold readGranule
  grind [MoveCanon, issuerOs_mem, skipLine_mem, failAcc_mem, State.updCmd_mem, uRead_ok_memCanon, → uRead_error_memCanon, UStop.state]

@[simp] theorem noteRecords_mem (s : State) (c : Cmd) (bytes : List (Nat × Byte)) : (noteRecords s c bytes).mem = s.mem := rfl

theorem copyHomes_error_mem (s : State) (a : Acc) (vas : List Nat) {u : UStop} (hu : copyHomes s a vas = .error u) : u.state.mem = s.mem := by
  induction vas generalizing u with
  | nil => simp [copyHomes] at hu
  | cons va r ih =>
    unfold copyHomes at hu
    grind [uXlat_error_mem]

theorem writeGranule_canon (s : State) (c : Cmd) (k : Nat) (ms : List Move) (hm : MemCanon s.mem) : MoveCanon (writeGranule s c k ms) := by
  unfold writeGranule
  grind [MoveCanon, → copyHomes_error_mem, issuerFirst_memCanon, State.updCmd_mem, pushWrite_mem, noteRecords_mem, issuerOs_mem, cmdShow_mem,
    State.updGang_mem, UStop.state]

@[simp] theorem portionsDone_mem (s : State) (c : Cmd) : (portionsDone s c).mem = s.mem := by
  unfold portionsDone
  simp only []
  repeat' split
  all_goals simp

@[simp] theorem clearWhole_mem (s : State) (c : Cmd) (p : Portion) : (clearWhole s c p).mem = s.mem := by
  unfold clearWhole
  repeat' split
  all_goals rfl

@[simp] theorem finishPortion_memCanon (s : State) (c : Cmd) (k : Nat) (p : Portion) (hm : MemCanon s.mem) :
    MemCanon (finishPortion s c k p).mem := by
  unfold finishPortion
  split <;> simp [hm]

theorem portionAt_canon (s : State) (c : Cmd) (k j : Nat) (hm : MemCanon s.mem) : MoveCanon (portionAt s c k j) := by
  unfold portionAt
  grind [MoveCanon, finishPortion_memCanon, readGranule_canon, writeGranule_canon]

@[simp] theorem stepPortion_memCanon (s : State) (c : Cmd) (hm : MemCanon s.mem) : MemCanon (stepPortion s c).mem := by
  have h := portionAt_canon s c (Config.choose s.tick 0 % c.portions.length) (Config.choose s.tick 1) hm
  unfold stepPortion
  grind [MoveCanon, failCmd_mem]

@[simp] theorem mergeAmax_memCanon (s : State) (c : Cmd) (t m : Nat) (word : Word) (vas : List Nat) (a : Nat) (hm : MemCanon s.mem) :
    MemCanon (mergeAmax s c t m word vas a).mem := by
  unfold mergeAmax
  grind [completeCmd_mem, State.updCmd_mem, → uWriteList_error_mem, failAcc_mem, rmwFirst_memCanon, applyHome_memCanon, UStop.state]

@[simp] theorem walkStatus_memCanon (s : State) (c : Cmd) (t : DWord) (st : WalkSt) (hm : MemCanon s.mem) :
    MemCanon (walkStatus s c t st).mem := by
  have h := writeTodo_canon s c hm
  unfold walkStatus
  grind [TodoCanon, completeCmd_mem, setErr_mem, State.updCmd_mem]

theorem execEnginePortionComplete_canon (cmd : Nat) (s : State) (hm : MemCanon s.mem) : OutCanon (execEnginePortionComplete cmd s) := by
  unfold execEnginePortionComplete
  grind [OutCanon, stepPortion_memCanon, mergeAmax_memCanon, walkStatus_memCanon]

theorem execStageBarrierCredit_canon (cmd : Nat) (s : State) (hm : MemCanon s.mem) : OutCanon (execStageBarrierCredit cmd s) := by
  unfold execStageBarrierCredit
  grind [OutCanon, creditBar_mem, State.updCmd_mem]

@[simp] theorem mergeFlags_mem (s : State) (c : Cmd) : (mergeFlags s c).mem = s.mem := by
  unfold mergeFlags
  split <;> rfl

theorem execCommandRetire_canon (cmd : Nat) (s : State) (hm : MemCanon s.mem) : OutCanon (execCommandRetire cmd s) := by
  unfold execCommandRetire
  split <;> simp [hm]

theorem execSred_canon (o : AtomOp) (x : Ext) (s : State) (hm : MemCanon s.mem) : OutCanon (execSred o x s) := by
  refine runExt_canon _ _ hm fun e r => ?_
  simp only []
  repeat' split
  all_goals simp [hm]

@[simp] theorem takeItem_mem (s : State) (c : Cmd) (i : RedItem) : (takeItem s c i).mem = s.mem := by
  unfold takeItem
  simp only []
  repeat' split
  all_goals simp

@[simp] theorem mergeItems_memCanon (wg : Cmd) (fuel : Nat) (s : State) (i : RedItem) (hm : MemCanon s.mem) :
    MemCanon (mergeItems wg fuel s i).1.mem := by
  induction fuel generalizing s i with
  | zero => exact hm
  | succ fuel ih =>
    unfold mergeItems
    simp only []
    split
    · exact hm
    · split
      · exact hm
      · split
        · rename_i h1
          have hs := rmwFirst_memCanon _ _ hm h1
          exact ih _ _ (by simpa using hs)
        · exact hm

@[simp] theorem performRed_memCanon (s : State) (c : Cmd) (i : RedItem) (hm : MemCanon s.mem) : MemCanon (performRed s c i).mem := by
  simp [performRed, hm]

theorem execMemorySideAtomic_canon (n : Nat) (s : State) (hm : MemCanon s.mem) : OutCanon (execMemorySideAtomic n s) := by
  unfold execMemorySideAtomic
  split
  · rw [outCanon_next, memCanon_ite]
    split
    · exact performOneLane_memCanon s _ hm
    · exact hm
  split
  · exact hm
  simp only []
  split
  · simp [hm]
  split
  · exact hm
  split
  · exact hm
  · next ht =>
    have h := rmwFirst_memCanon _ _ hm ht
    exact performRed_memCanon _ _ _ (mergeItems_memCanon _ _ _ _ (by simpa using h))

@[simp] theorem spillStart_canon (e : Env) (s : State) (x : Ext) (tok : Nat) (body : List (Nat × Option Nat) → CmdBody) (hm : MemCanon s.mem) :
    ResCanon (spillStart e s x tok body) := by
  unfold spillStart
  simp only []
  repeat' split
  all_goals simp [hm]

theorem execSpill_canon (x : Ext) (s : State) (hm : MemCanon s.mem) : OutCanon (execSpill x s) := by
  refine runExt_canon _ _ hm fun e r => ?_
  simp [hm]

theorem execFill_canon (x : Ext) (s : State) (hm : MemCanon s.mem) : OutCanon (execFill x s) := by
  refine runExt_canon _ _ hm fun e r => ?_
  simp [hm]

theorem execTokw_canon (x : Ext) (s : State) (hm : MemCanon s.mem) : OutCanon (execTokw x s) := by
  refine runExt_canon _ _ hm fun e r => ?_
  split <;> simp [hm]

@[simp] theorem endToken_mem (s : State) (c : Cmd) (tok : Nat) (t : Token) : (endToken s c tok t).mem = s.mem := rfl

@[simp] theorem spillWord_memCanon (s : State) (c : Cmd) (tok : Nat) (words : List (Nat × Option Nat × Word)) (hm : MemCanon s.mem) :
    MemCanon (spillWord s c tok words).mem := by
  unfold spillWord
  grind [endToken_mem, uWrite_ok_memCanon, → uWrite_error_mem, State.updCmd_mem, UStop.state]

@[simp] theorem fillWord_memCanon (s : State) (c : Cmd) (reg tok : Nat) (words : List (Nat × Option Nat)) (hm : MemCanon s.mem) :
    MemCanon (fillWord s c reg tok words).mem := by
  unfold fillWord
  grind [endToken_mem, readNats_ok_eq, → readNats_error_memCanon, State.updCmd_mem, UStop.state]

theorem execTokenIdle_canon (cmd : Nat) (s : State) (hm : MemCanon s.mem) : OutCanon (execTokenIdle cmd s) := by
  unfold execTokenIdle
  simp only []
  repeat' split
  all_goals simp [hm]

/-! ### Memory in canonical form: auctions, copies, decodes, lane and scalar instructions -/

theorem execAuct_canon (x : Ext) (s : State) (hm : MemCanon s.mem) : OutCanon (execAuct x s) := by
  refine runExt_canon _ _ hm fun e r => ?_
  simp only []
  repeat' split
  all_goals simp [hm]

theorem execAust_canon (x : Ext) (s : State) (hm : MemCanon s.mem) : OutCanon (execAust x s) := by
  refine runExt_canon _ _ hm fun e r => ?_
  grind [ResCanon, loadThrough_canon, Env.set_mem]

@[simp] theorem setAuct_mem (s : State) (c : Cmd) (regs : List DWord) (st : AuctSt) : (setAuct s c regs st).mem = s.mem := rfl

@[simp] theorem auctEnd_mem (s : State) (c : Cmd) (regs : List DWord) (d : AuctD) (st : AuctSt) : (auctEnd s c regs d st).mem = s.mem := rfl

@[simp] theorem auctFail_mem (s : State) (c : Cmd) (regs : List DWord) (d : AuctD) (st : AuctSt) (reason : Nat) :
    (auctFail s c regs d st reason).mem = s.mem := rfl

@[simp] theorem auctWrite_memCanon (s : State) (c : Cmd) (after : State → State) (hm : MemCanon s.mem) (ha : MemCanon (after s).mem) :
    MemCanon (auctWrite s c after).mem := by
  have h := writeTodo_canon s c hm
  unfold auctWrite
  grind [TodoCanon, completeCmd_mem, State.updCmd_mem]

@[simp] theorem auctInputs_memCanon (s : State) (c : Cmd) (regs : List DWord) (d : AuctD) (st : AuctSt) (hm : MemCanon s.mem) :
    MemCanon (auctInputs s c regs d st).mem := by
  unfold auctInputs
  grind [→ readNats_ok_eq, → readNats_error_memCanon, auctFail_mem, setAuct_mem, UStop.state]

theorem execAuctionStart_canon (cmd : Nat) (s : State) (hm : MemCanon s.mem) : OutCanon (execAuctionStart cmd s) := by
  unfold execAuctionStart
  simp only []
  repeat' split
  all_goals simp [hm]

theorem execAuctionRound_canon (cmd : Nat) (s : State) (hm : MemCanon s.mem) : OutCanon (execAuctionRound cmd s) := by
  unfold execAuctionRound
  grind [OutCanon, auctWrite_memCanon, completeCmd_mem, logEvent_mem, issuerOs_mem, State.updCmd_mem, setAuct_mem, auctEnd_mem]

theorem execAuctionSave_canon (cmd : Nat) (s : State) (hm : MemCanon s.mem) : OutCanon (execAuctionSave cmd s) := by
  unfold execAuctionSave
  split
  · exact hm
  split
  · split
    · exact hm
    split
    · exact auctWrite_memCanon s _ _ hm (by simpa using hm)
    split
    · exact hm
    · simpa using hm
  · exact hm

theorem execAuctionRestore_canon (cmd : Nat) (s : State) (hm : MemCanon s.mem) : OutCanon (execAuctionRestore cmd s) := by
  unfold execAuctionRestore
  split
  · exact hm
  · split
    · simp only []
      split
      · exact hm
      · grind [OutCanon, → readNats_ok_eq, → readNats_error_memCanon, auctFail_mem, setAuct_mem, completeCmd_mem, UStop.state]
    · exact hm

theorem readWords_error_memCanon {s : State} (c : Cmd) (vas : List Nat) {u : UStop} (hm : MemCanon s.mem)
    (hu : readWords s c vas = .error u) : MemCanon u.state.mem := readNats_error_memCanon c true _ hm hu

theorem readWords_ok_eq {s t : State} (c : Cmd) (vas : List Nat) {ws : List Nat} (ht : readWords s c vas = .ok (t, ws)) : t = s :=
  readNats_ok_eq c true _ ht

theorem readExts_error_memCanon {s : State} (c : Cmd) (ws : List Nat) {u : UStop} (hm : MemCanon s.mem)
    (hu : readExts s c ws = .error u) : MemCanon u.state.mem := by
  unfold readExts at hu
  grind [→ readNats_error_memCanon]

theorem readExts_ok_eq {s t : State} (c : Cmd) (ws : List Nat) {es : List Nat} (ht : readExts s c ws = .ok (t, es)) : t = s := by
  unfold readExts at ht
  grind [→ readNats_ok_eq]

@[simp] theorem startWith_mem (s : State) (c : Cmd) (ps : List Portion) : (startWith s c ps).mem = s.mem := by
  unfold startWith
  split <;> simp

theorem execCopyCommandStart_canon (cmd : Nat) (s : State) (hm : MemCanon s.mem) : OutCanon (execCopyCommandStart cmd s) := by
  unfold execCopyCommandStart
  split
  · exact hm
  · split
    · simp only []
      split
      · exact hm
      · split
        · split <;> simp [hm]
        · split
          · simp [hm]
          · grind [OutCanon, → readWords_ok_eq, → readWords_error_memCanon, → readExts_ok_eq, → readExts_error_memCanon,
              failCmd_mem, startWith_mem, UStop.state]
    · exact hm

@[simp] theorem startCopy_canon (e : Env) (s : State) (x : Ext) (r : Regs) (op : CopyOp) (hm : MemCanon s.mem) : ResCanon (startCopy e s x r op) := by
  unfold startCopy
  grind [ResCanon, issueCmd_mem]

theorem execCpy_canon (x : Ext) (s : State) (hm : MemCanon s.mem) : OutCanon (execCpy x s) := by
  refine runExt_canon _ _ hm fun e r => ?_
  simp [hm]

theorem execCpo_canon (x : Ext) (s : State) (hm : MemCanon s.mem) : OutCanon (execCpo x s) := by
  refine runExt_canon _ _ hm fun e r => ?_
  simp [hm]

theorem execGath_canon (x : Ext) (s : State) (hm : MemCanon s.mem) : OutCanon (execGath x s) := by
  refine runExt_canon _ _ hm fun e r => ?_
  simp only []
  repeat' split
  all_goals simp [hm]

theorem execVdec_canon (x : Ext) (s : State) (hm : MemCanon s.mem) : OutCanon (execVdec x s) := by
  refine runExt_canon _ _ hm fun e r => ?_
  simp only []
  repeat' split
  all_goals simp [hm]

theorem execVdstat_canon (x : Ext) (s : State) (hm : MemCanon s.mem) : OutCanon (execVdstat x s) := by
  refine runExt_canon _ _ hm fun e r => ?_
  grind [ResCanon, loadThrough_canon, Env.set_mem]

@[simp] theorem setDec_mem (s : State) (c : Cmd) (bf16 : Bool) (dst : Nat) (desc : Option (List Nat)) (st : DecSt) :
    (setDec s c bf16 dst desc st).mem = s.mem := rfl

@[simp] theorem decOwe_mem (s : State) (c : Cmd) (st : DecSt) (entry : List (Nat × List Byte)) : (decOwe s c st entry).mem = s.mem := rfl

@[simp] theorem decWrite_memCanon (s : State) (c : Cmd) (after : State → State) (hm : MemCanon s.mem) (ha : MemCanon (after s).mem) :
    MemCanon (decWrite s c after).mem := by
  have h := writeTodo_canon s c hm
  unfold decWrite
  grind [TodoCanon, dropStage_mem]

theorem execDecodeStart_canon (cmd : Nat) (s : State) (hm : MemCanon s.mem) : OutCanon (execDecodeStart cmd s) := by
  unfold execDecodeStart
  split
  · exact hm
  · split
    · split
      · exact hm
      · grind [OutCanon, → readWords_ok_eq, → readWords_error_memCanon, failCmd_mem, decOwe_mem, setDec_mem, State.updCmd_mem, UStop.state]
    · exact hm

/-- Memory is in canonical form in the state that the reading of a stream leaves. -/
def StreamCanon : StreamEnd → Prop
  | .whole t => MemCanon t.mem
  | .cut t => MemCanon t.mem
  | .wait t => MemCanon t.mem

theorem readStream_canon (a : Acc) (fuel : Nat) (s : State) (va n : Nat) (hm : MemCanon s.mem) :
    StreamCanon (readStream a fuel s va n).2 := by
  induction fuel generalizing s va n with
  | zero => exact hm
  | succ fuel ih =>
    unfold readStream
    grind [StreamCanon, uRead_ok_memCanon, → uRead_error_memCanon, UStop.state]

/-- Memory is in canonical form in the state that the search for the next frame leaves. -/
def FrameCanon : NextFrame → Prop
  | .frame t _ _ => MemCanon t.mem
  | .finished t _ => MemCanon t.mem
  | .wait t => MemCanon t.mem

theorem nextAv1_canon (s : State) (c : Cmd) (st : DecSt) (hm : MemCanon s.mem) : FrameCanon (nextAv1 s c st) := by
  have h := readStream_canon (c.acc s) (st.srcLen / 128 + 2) s st.src st.srcLen hm
  unfold nextAv1
  grind [StreamCanon, FrameCanon]

@[simp] theorem startFrame_memCanon (s : State) (c : Cmd) (bf16 : Bool) (dst : Nat) (desc : Option (List Nat)) (st : DecSt)
    (hm : MemCanon s.mem) : MemCanon (startFrame s c bf16 dst desc st).mem := by
  have h := nextAv1_canon s c st hm
  unfold startFrame
  grind [FrameCanon, decOwe_mem, setDec_mem, State.updCmd_mem]

theorem execDecodeFrame_canon (cmd : Nat) (s : State) (hm : MemCanon s.mem) : OutCanon (execDecodeFrame cmd s) := by
  unfold execDecodeFrame
  grind [OutCanon, decWrite_memCanon, setDec_mem, completeCmd_mem, startFrame_memCanon]

theorem laneOp_canon (i : Instr) (x : Ext) (wideD : Bool) (s : State) (f : Env → Regs → Nat → Nat) (hm : MemCanon s.mem) :
    OutCanon (laneOp i x wideD s f) := runExt_canon _ _ hm fun _ _ => hm

theorem laneBase_canon (i : Instr) (m : Marks) (words : Nat) (regs : List Nat) (d : Nat) (s : State) (f : Env → Nat → Nat) (hm : MemCanon s.mem) :
    OutCanon (laneBase i m words regs d s f) := runVec_canon _ _ _ _ hm fun _ => hm

theorem salu_canon (i : Instr) (x : Ext) (s : State) (f : Nat → Nat → Nat) (hm : MemCanon s.mem) :
    OutCanon (salu i x s f) := runExt_canon _ _ hm fun _ _ => hm

theorem laneF_canon (i : Instr) (x : Ext) (wideD : Bool) (s : State) (f : Env → Regs → Nat → Nat × BitVec 5) (hm : MemCanon s.mem) :
    OutCanon (laneF i x wideD s f) := runExt_canon _ _ hm fun _ _ => hm

theorem laneFBase_canon (i : Instr) (m : Marks) (words : Nat) (regs : List Nat) (d : Nat) (s : State) (f : Env → Nat → Nat × BitVec 5)
    (hm : MemCanon s.mem) : OutCanon (laneFBase i m words regs d s f) := runVec_canon _ _ _ _ hm fun _ => hm

theorem float2_canon (i : Instr) (x : Ext) (wideD : Bool) (s : State) (op : Fmt → Nat → Nat → Nat × BitVec 5) (hm : MemCanon s.mem) :
    OutCanon (float2 i x wideD s op) := laneF_canon _ _ _ _ _ hm

theorem float1_canon (i : Instr) (x : Ext) (wideD : Bool) (s : State) (op : Fmt → Nat → Nat × BitVec 5) (hm : MemCanon s.mem) :
    OutCanon (float1 i x wideD s op) := laneF_canon _ _ _ _ _ hm

theorem execBfpq_canon (x : Ext) (s : State) (hm : MemCanon s.mem) : OutCanon (execBfpq x s) := by
  refine runExt_canon _ _ hm fun e r => ?_
  simp [hm]

theorem execBfpx_canon (x : Ext) (s : State) (hm : MemCanon s.mem) : OutCanon (execBfpx x s) := by
  unfold execBfpx
  grind [laneF_canon]

theorem execLred_canon (o : RedOp) (x : Ext) (s : State) (hm : MemCanon s.mem) : OutCanon (execLred o x s) := by
  refine runExt_canon _ _ hm fun e r => ?_
  simp only []
  repeat' split
  all_goals simp [hm]

/-! ### Memory in canonical form: queues, completion records, the routing engine -/

/-- Memory is in canonical form in the state that a unit's access leaves, in one that stops it too. -/
def UCanon {α : Type} : U (State × α) → Prop
  | .ok p => MemCanon p.1.mem
  | .error u => MemCanon u.state.mem

/-- Memory is in canonical form in the state of an access that is stopped. -/
def StopCanon {α : Type} : U α → Prop
  | .ok _ => True
  | .error u => MemCanon u.state.mem

theorem uRead_canon (s : State) (a : Acc) (va n hint : Nat) (hm : MemCanon s.mem) : UCanon (uRead s a va n hint) := by
  cases h : uRead s a va n hint with
  | ok p => exact uRead_ok_memCanon a va n hint hm h
  | error u => exact uRead_error_memCanon a va n hint hm h

theorem uReadNat_canon (s : State) (a : Acc) (va n hint : Nat) (hm : MemCanon s.mem) : UCanon (uReadNat s a va n hint) := by
  cases h : uReadNat s a va n hint with
  | ok p => exact uReadNat_ok_memCanon a va n hint hm h
  | error u => exact uReadNat_error_memCanon a va n hint hm h

theorem rmwFirst_getD_memCanon (s : State) (who : Who) (as : List Nat) (hm : MemCanon s.mem) :
    MemCanon ((rmwFirst s who as).getD s).mem := by
  cases h : rmwFirst s who as with
  | none => exact hm
  | some t => exact rmwFirst_memCanon who as hm h

theorem readQ_canon (s : State) (a : Acc) (u : Nat) (hm : MemCanon s.mem) : UCanon (readQ s a u) := by
  unfold readQ
  grind [UCanon, rmwFirst_getD_memCanon, uReadNat_canon]

theorem firstQ_canon (s : State) (a : Acc) (l : List Nat) (hm : MemCanon s.mem) : UCanon (firstQ s a l) := by
  induction l generalizing s with
  | nil => exact hm
  | cons u r ih =>
    have h := readQ_canon s a u hm
    unfold firstQ
    grind [UCanon]

theorem pickShard_canon (s : State) (a : Acc) (data own : Nat) (hm : MemCanon s.mem) : UCanon (pickShard s a data own) := by
  unfold pickShard
  split
  · exact firstQ_canon s a _ hm
  · exact hm
  · exact firstQ_canon s a _ hm

theorem takeCont_canon (s : State) (a : Acc) (entry : List Byte) (hm : MemCanon s.mem) : UCanon (takeCont s a entry) := by
  unfold takeCont
  grind [UCanon, uRead_canon, uReadNat_canon, → uWrite_ok_memCanon, → uWrite_error_mem, logEvent_mem, UStop.state]

theorem popQ_canon (a : Acc) (u fuel : Nat) (s : State) (hm : MemCanon s.mem) : UCanon (popQ a u fuel s) := by
  induction fuel generalizing s with
  | zero => exact hm
  | succ fuel ih =>
    have h := readQ_canon s a u hm
    unfold popQ
    split <;> rename_i hq <;> rw [hq] at h
    · exact h
    · exact h
    split
    · exact h
    split
    · exact h
    have h1 := uRead_canon _ a (QDesc.slot ‹_› (QDesc.taken ‹_›)) 32 0 h
    split <;> rename_i hr <;> rw [hr] at h1
    · exact h1
    simp only []
    split
    · grind [UCanon, uRead_canon, → uWrite_ok_memCanon, → uWrite_error_mem]
    · grind [UCanon, takeCont_canon, → uWrite_ok_memCanon, → uWrite_error_mem]

@[simp] theorem dropWaiter_mem (s : State) (e : Env) : (dropWaiter s e).mem = s.mem := rfl

@[simp] theorem receive_mem (s : State) (e : Env) (p : Pop) : (receive s e p).mem = s.mem := by
  unfold receive
  simp only []
  repeat' split
  all_goals simp

@[simp] theorem wakeQ_memCanon (s : State) (asid u : Nat) (hm : MemCanon s.mem) : MemCanon (wakeQ s asid u).mem := by
  unfold wakeQ
  grind [UCanon, popQ_canon, takeTrap_memCanon, advance_memCanon, receive_mem, dropWaiter_mem, conditionTrue_mem, UStop.state]

theorem postQ_canon (s : State) (a : Acc) (u : Nat) (entry : List Byte) (hm : MemCanon s.mem) : UCanon (postQ s a u entry) := by
  unfold postQ
  grind [UCanon, readQ_canon, → uWriteAddrs_error_mem, uPut_memCanon, wakeQ_memCanon]

theorem postTarget_canon (s : State) (a : Acc) (q : Nat) (entry : List Byte) (own : Nat) (hm : MemCanon s.mem) :
    UCanon (postTarget s a q entry own) := by
  unfold postTarget
  split
  · exact pickShard_canon s a _ own hm
  · exact firstQ_canon s a _ hm

theorem execQpost_canon (x : Ext) (s : State) (hm : MemCanon s.mem) : OutCanon (execQpost x s) := by
  refine runExt_canon _ _ hm fun e r => ?_
  simp only []
  split
  · trivial
  split
  · trivial
  · trivial
  next l ts ha =>
  split
  · trivial
  split
  · trivial
  split
  · exact hm
  have hs : MemCanon (ownFirst (noteTlb s e.who ts) e (homeBytesOf (allPieces l))).mem := by simp [hm]
  split
  · trivial
  split
  · trivial
  split
  · exact hs
  next t hf =>
  have ht := fence_memCanon e 1 3 (by simpa using hs) hf
  grind [ResCanon, UCanon, postTarget_canon, postQ_canon, UStop.res_canon, resCanon_result]

theorem popAny_canon (a : Acc) (l : List Nat) (s : State) (hm : MemCanon s.mem) : UCanon (popAny a l s) := by
  induction l generalizing s with
  | nil => exact hm
  | cons u r ih =>
    have h := popQ_canon a u popFuel s hm
    unfold popAny
    grind [UCanon]

theorem execQpop_canon (x : Ext) (s : State) (hm : MemCanon s.mem) : OutCanon (execQpop x s) := by
  refine runExt_canon _ _ hm fun e _ => ?_
  split
  · trivial
  · grind [ResCanon, UCanon, firstQ_canon, popAny_canon, Env.setGang_mem, receive_mem, UStop.res_canon]

theorem execLaunch_canon (x : Ext) (s : State) (hm : MemCanon s.mem) : OutCanon (execLaunch x s) := by
  refine runExt_canon _ _ hm fun e r => ?_
  simp only []
  repeat' split
  all_goals simp [hm]
  case _ => exact fence_memCanon e 1 3 hm ‹_›

@[simp] theorem recordErr_memCanon (s : State) (rec' : List Nat) (code : Nat) (hm : MemCanon s.mem) : MemCanon (recordErr s rec' code).mem := by
  simp [recordErr, hm]

@[simp] theorem dropPost_mem (s : State) (n : Nat) : (dropPost s n).mem = s.mem := rfl

@[simp] theorem failPost_memCanon (s : State) (p : HeldPost) (code : Nat) (hm : MemCanon s.mem) : MemCanon (failPost s p code).mem := by
  unfold failPost
  split
  · exact hm
  · exact recordErr_memCanon _ _ _ (by simpa using hm)

@[simp] theorem HeldPost.note_mem (p : HeldPost) (s : State) (entry : Option (List Byte)) (target : Nat) :
    (HeldPost.note p s entry target).mem = s.mem := rfl

@[simp] theorem makePost_memCanon (s : State) (p : HeldPost) (bs : List Byte) (hm : MemCanon s.mem) : MemCanon (makePost s p bs).mem := by
  unfold makePost
  grind [UCanon, postTarget_canon, postQ_canon, failPost_memCanon, dropPost_mem, HeldPost.note_mem, UStop.state]

@[simp] theorem tryPost_memCanon (s : State) (n : Nat) (hm : MemCanon s.mem) : MemCanon (tryPost s n).mem := by
  unfold tryPost
  grind [UCanon, uRead_canon, failPost_memCanon, makePost_memCanon, dropPost_mem, HeldPost.note_mem, UStop.state]

theorem decrement_memCanon {s t : State} (who : Who) (shard : Nat) (rec' : List Nat) {n : Nat} (hm : MemCanon s.mem)
    (ht : decrement s who shard rec' = some (t, n)) : MemCanon t.mem := by
  unfold decrement at ht
  obtain ⟨s1, h1, h2⟩ := Option.map_eq_some_iff.1 ht
  have hs := rmwFirst_memCanon who rec' hm h1
  grind [recordErr_memCanon, applyHome_memCanon, tryPost_memCanon]

theorem execCmpl_canon (x : Ext) (s : State) (hm : MemCanon s.mem) : OutCanon (execCmpl x s) := by
  refine runExt_canon _ _ hm fun e r => ?_
  simp only []
  split
  · trivial
  split
  · trivial
  · trivial
  next l ts ha =>
  split
  · trivial
  split
  · exact hm
  split
  · simpa using hm
  split
  · exact hm
  have hs : MemCanon (ownFirst (noteTlb s e.who ts) e (homeBytesOf (allPieces l))).mem := by simp [hm]
  split
  · exact hs
  next t old h =>
  obtain ⟨u, h1, h2⟩ := Option.bind_eq_some_iff.1 h
  exact (resCanon_result ..).2 (decrement_memCanon _ _ _ (fence_memCanon e 1 3 hs h1) h2)

theorem execCompletionPostHeld_canon (n : Nat) (s : State) (hm : MemCanon s.mem) : OutCanon (execCompletionPostHeld n s) := by
  unfold execCompletionPostHeld
  simp [hm]

theorem readList_canon (s : State) (a : Acc) (asid route : Nat) (hm : MemCanon s.mem) : UCanon (readList s a asid route) := by
  unfold readList
  grind [UCanon, uReadNat_canon]

@[simp] theorem freeSlot_mem (s : State) (asid route : Nat) (kitty : Bool) (size k : Nat) : (freeSlot s asid route kitty size k).mem = s.mem := rfl

/-- Memory is in canonical form in the state that a step leaves, done or put off. -/
def StepCanon : Except State State → Prop
  | .ok t => MemCanon t.mem
  | .error t => MemCanon t.mem

theorem listStep_canon (s : State) (w : ListWork) (hm : MemCanon s.mem) : StepCanon (listStep s w) := by
  unfold listStep
  grind [StepCanon, UCanon, readList_canon, → uWrite_ok_memCanon, → uWrite_error_mem, freeSlot_mem, UStop.state]

@[simp] theorem bump_memCanon (s : State) (asid route off n : Nat) (ent : Option Nat) (hm : MemCanon s.mem) :
    MemCanon (bump s asid route off n ent).mem := by
  have h := listStep_canon s ⟨asid, route, off, n, ent⟩ hm
  unfold bump
  grind [StepCanon]

theorem routeOk_canon (s : State) (a : Acc) (r : Nat) (hm : MemCanon s.mem) : StopCanon (routeOk s a r) := by
  have h := readList_canon s a a.who.asid r hm
  unfold routeOk
  grind [StopCanon, UCanon]

theorem entOk_canon (s : State) (a : Acc) (e : RouteEnt) (hm : MemCanon s.mem) : StopCanon (entOk s a e) := by
  unfold entOk
  grind [StopCanon, routeOk_canon]

theorem badEnt_canon (s : State) (a : Acc) (l : List (Nat × RouteEnt)) (hm : MemCanon s.mem) : StopCanon (badEnt s a l) := by
  induction l with
  | nil => trivial
  | cons p r ih =>
    have h := entOk_canon s a p.2 hm
    unfold badEnt
    grind [StopCanon]

theorem execRtsend_canon (x : Ext) (s : State) (hm : MemCanon s.mem) : OutCanon (execRtsend x s) := by
  refine runExt_canon _ _ hm fun e r => ?_
  have h := badEnt_canon s e.unit (e.lanes.map fun l => (l, e.routeEnt r.d l)) hm
  grind [ResCanon, StopCanon, UStop.res_canon, issueCmd_mem]

@[simp] theorem flushDone_mem (s : State) : (flushDone s).mem = s.mem := rfl

@[simp] theorem appendEnt_memCanon (s : State) (c : Cmd) (e : RouteEnt) (rest : List RouteEnt) (hm : MemCanon s.mem) :
    MemCanon (appendEnt s c e rest).mem := by
  unfold appendEnt
  grind [UCanon, readList_canon, → uWrite_ok_memCanon, → uWrite_error_mem, freeSlot_mem, completeCmd_mem, State.updCmd_mem, UStop.state]

@[simp] theorem takeFlush_memCanon (s : State) (c : Cmd) (hm : MemCanon s.mem) : MemCanon (takeFlush s c).mem := by
  unfold takeFlush
  extract_lets mine lists n s1 s2
  exact foldl_memCanon _ _ (fun t l ht => bump_memCanon t l.1 l.2 oFLUSHED (n l) none ht) hm

theorem execSendListAppend_canon (cmd : Nat) (s : State) (hm : MemCanon s.mem) : OutCanon (execSendListAppend cmd s) := by
  unfold execSendListAppend
  grind [OutCanon, completeCmd_mem, appendEnt_memCanon, takeFlush_memCanon]

@[simp] theorem State.putLink_mem (s : State) (l : Link) : (State.putLink s l).mem = s.mem := rfl

@[simp] theorem netSend_mem (s : State) (port : Nat) (dest : NetDest) (bs : List Byte) : (netSend s port dest bs).mem = s.mem := rfl

@[simp] theorem sendCounted_mem (s : State) (l : Link) (dest : NetDest) (bs : List Byte) : (sendCounted s l dest bs).mem = s.mem := by
  unfold sendCounted
  simp only []
  split <;> simp

@[simp] theorem sendAck_mem (s : State) (port peer x free : Nat) : (sendAck s port peer x free).mem = s.mem := by
  unfold sendAck
  simp only []
  split <;> simp

@[simp] theorem ackTo_mem (s : State) (port peer ack : Nat) : (ackTo s port peer ack).mem = s.mem := by
  unfold ackTo
  simp only []
  repeat' split
  all_goals simp

@[simp] theorem acceptEnt_memCanon (s : State) (p : Parked) (hm : MemCanon s.mem) : MemCanon (acceptEnt s p).mem := by
  simp [acceptEnt, hm]

@[simp] theorem discardEnt_memCanon (s : State) (p : Parked) (hm : MemCanon s.mem) : MemCanon (discardEnt s p).mem := by
  simp [discardEnt, hm]

@[simp] theorem parkEnt_memCanon (s : State) (p : Parked) (hm : MemCanon s.mem) : MemCanon (parkEnt s p).mem := by
  simp [parkEnt, hm]

@[simp] theorem returnEnt_memCanon (s : State) (p : Parked) (hm : MemCanon s.mem) : MemCanon (returnEnt s p).mem := by
  simp [returnEnt, hm]

@[simp] theorem storeEnt_memCanon (s : State) (asid route : Nat) (d : LDesc) (p : Parked) (hm : MemCanon s.mem) :
    MemCanon (storeEnt s asid route d p).mem := by
  unfold storeEnt
  grind [→ uWrite_ok_memCanon, → uWrite_error_mem, UStop.state]

@[simp] theorem settleEnts_memCanon (s : State) (ps : List Parked) (back : Nat → Bool) (hm : MemCanon s.mem) :
    MemCanon (settleEnts s ps back).mem := by
  refine foldl_memCanon _ _ (fun t p ht => ?_) hm
  split
  · exact returnEnt_memCanon t p.2 ht
  · exact acceptEnt_memCanon t p.2 ht

@[simp] theorem resend_memCanon (dev queue f : Nat) (s : State) (hm : MemCanon s.mem) : MemCanon (resend dev queue f s).mem := by
  induction f generalizing s with
  | zero => exact hm
  | succ f ih =>
    unfold resend
    simp only []
    split
    · exact hm
    split
    · exact hm
    · refine ih _ ?_
      exact bump_memCanon _ _ _ _ _ _ hm

@[simp] theorem reportFree_memCanon (s : State) (dev queue f : Nat) (hm : MemCanon s.mem) : MemCanon (reportFree s dev queue f).mem := by
  simp [reportFree, hm]

@[simp] theorem putRing_memCanon (s : State) (r : Ring) (off v : Nat) (hm : MemCanon s.mem) : MemCanon (putRing s r off v).mem := by
  simp [putRing, hm]

theorem ringSlots_canon (s : State) (x : Nat) (r : Ring) (k n : Nat) (hm : MemCanon s.mem) : StopCanon (ringSlots s x r k n) := by
  induction n generalizing k with
  | zero => trivial
  | succ n ih =>
    unfold ringSlots
    grind [StopCanon, → uWriteAddrs_error_mem, UStop.state]

theorem ringSlots_ok_mem {s t : State} (x : Nat) (r : Ring) (k n : Nat) {l : List (List Nat)}
    (ht : ringSlots s x r k n = .ok (l, some t)) : t.mem = s.mem := by
  induction n generalizing k l with
  | zero => simp [ringSlots] at ht
  | succ n ih =>
    unfold ringSlots at ht
    grind [→ uWriteAddrs_error_mem, UStop.state]

@[simp] theorem fillGranule_memCanon (s : State) (who : Who) (x key : Nat) (g : Nat × List Nat × List Byte) (hm : MemCanon s.mem) :
    MemCanon (fillGranule s who x key g).mem := by
  simp [fillGranule, hm]

@[simp] theorem unfill_mem (s : State) (key : Nat → Bool) : (unfill s key).mem = s.mem := rfl

/-- Memory is in canonical form in the state that the taking of rows leaves, done or put off. -/
def RowsCanon : Except State (State × Nat × Nat) → Prop
  | .ok p => MemCanon p.1.mem
  | .error t => MemCanon t.mem

theorem takeRows_canon (s : State) (x src key : Nat) (rows : List (Word × List Byte)) (hm : MemCanon s.mem) :
    RowsCanon (takeRows s x src key rows) := by
  have h := ringSlots_canon s x (ringOf s x) (ringOf s x).next (min (ringOf s x).free rows.length) hm
  unfold takeRows
  extract_lets r
  split
  · simpa [RowsCanon] using hm
  split
  · exact hm
  split
  · next hr => rw [hr] at h; exact h
  next slots failed hr =>
  have hf : MemCanon (failed.getD s).mem := by
    cases failed with
    | none => exact hm
    | some t =>
      have ht := ringSlots_ok_mem x _ _ _ hr
      simpa [ht] using hm
  extract_lets t
  split
  · exact fillGranule_memCanon t _ _ _ _ hf
  · simp only [RowsCanon]
    exact putRing_memCanon _ _ _ _ (by simpa using hf)

theorem readEnts_canon (l : List Parked) (s : State) (hm : MemCanon s.mem) : StopCanon (readEnts l s) := by
  induction l generalizing s with
  | nil => trivial
  | cons p r ih =>
    unfold readEnts
    grind [StopCanon, UCanon, readList_canon, uRead_canon, UStop.state]

@[simp] theorem readRow_memCanon (s : State) (p : Parked) (g : Nat) (hm : MemCanon s.mem) : MemCanon (readRow s p g).mem := by
  unfold readRow
  grind [UCanon, uRead_canon, UStop.state]

@[simp] theorem takeEnts_mem (s : State) (ps : List Parked) : (takeEnts s ps).mem = s.mem := rfl

@[simp] theorem dispatchFrame_memCanon (s : State) (route : Nat) (t : RouteTo) (rows : List (Parked × List Byte)) (hm : MemCanon s.mem) :
    MemCanon (dispatchFrame s route t rows).mem := by
  unfold dispatchFrame
  grind [RowsCanon, takeRows_canon, settleEnts_memCanon, takeEnts_mem, sendCounted_mem]

theorem discardAll_memCanon (s : State) (l : List Parked) (hm : MemCanon s.mem) : MemCanon (l.foldl discardEnt s).mem :=
  foldl_memCanon _ _ (fun t p ht => discardEnt_memCanon t p ht) hm

theorem parkAll_memCanon (s : State) (l : List Parked) (hm : MemCanon s.mem) : MemCanon (l.foldl parkEnt s).mem :=
  foldl_memCanon _ _ (fun t p ht => parkEnt_memCanon t p ht) hm

@[simp] theorem formFrame_memCanon (s : State) (route : Nat) (ps lost : List Parked) (hm : MemCanon s.mem) :
    MemCanon (formFrame s route ps lost).mem := by
  unfold formFrame
  grind [discardAll_memCanon, parkAll_memCanon, takeEnts_mem, unfill_mem, logEvent_mem, flushDone_mem, readRow_memCanon, dispatchFrame_memCanon]

theorem execFrameFormation_canon (asid route : Nat) (s : State) (hm : MemCanon s.mem) : OutCanon (execFrameFormation asid route s) := by
  have h := readList_canon s (listAcc s asid route) asid route hm
  unfold execFrameFormation
  grind [OutCanon, StepCanon, UCanon, StopCanon, listStep_canon, readEnts_canon, storeEnt_memCanon, formFrame_memCanon]

@[simp] theorem settleSent_memCanon (s : State) (port peer : Nat) (hm : MemCanon s.mem) : MemCanon (settleSent s port peer).mem := by
  refine foldl_memCanon _ _ (fun t u ht => ?_) hm
  exact settleEnts_memCanon _ _ _ ht

theorem onFrame_canon (kind port : Nat) (bs : List Byte) (s : State) (act : State → FrameH → Except State State) (hm : MemCanon s.mem)
    (ha : ∀ h, StepCanon (act s h)) : OutCanon (onFrame kind port bs s act) := by
  unfold onFrame
  grind [OutCanon, StepCanon, logEvent_mem]

@[simp] theorem afterFrame_memCanon (s : State) (port : Nat) (h : FrameH) (report : Bool) (hm : MemCanon s.mem) :
    MemCanon (afterFrame s port h report).mem := by
  simp [afterFrame, hm]

@[simp] theorem answer_mem (s : State) (port : Nat) (h : FrameH) (n free : Nat) : (answer s port h n free).mem = s.mem := by
  unfold answer
  split <;> simp

theorem execDataFrame_canon (port : Nat) (frame : List Byte) (s : State) (hm : MemCanon s.mem) : OutCanon (execDataFrame port frame s) := by
  refine onFrame_canon _ _ _ _ _ hm fun h => ?_
  grind [StepCanon, RowsCanon, takeRows_canon, sendAck_mem, State.putLink_mem, afterFrame_memCanon, answer_mem]

theorem execAckFrame_canon (port : Nat) (frame : List Byte) (s : State) (hm : MemCanon s.mem) : OutCanon (execAckFrame port frame s) := by
  refine onFrame_canon _ _ _ _ _ hm fun h => ?_
  grind [StepCanon, afterFrame_memCanon]

theorem execReturnFrame_canon (port : Nat) (frame : List Byte) (s : State) (hm : MemCanon s.mem) :
    OutCanon (execReturnFrame port frame s) := by
  refine onFrame_canon _ _ _ _ _ hm fun h => ?_
  grind [StepCanon, sendAck_mem, State.putLink_mem, settleEnts_memCanon, afterFrame_memCanon]

theorem execResendTimeout_canon (port peer : Nat) (s : State) (hm : MemCanon s.mem) : OutCanon (execResendTimeout port peer s) := by
  unfold execResendTimeout
  simp only []
  split
  · exact hm
  · split
    · exact hm
    · exact foldl_memCanon _ _ (fun t u ht => ht) hm

theorem execEthernetPacketReceive_canon (port : Nat) (packet : Packet) (s : State) (hm : MemCanon s.mem) :
    OutCanon (execEthernetPacketReceive port packet s) := by
  unfold execEthernetPacketReceive
  split <;> simp [hm]

theorem execPacketTaken_canon (s : State) (hm : MemCanon s.mem) : OutCanon (execPacketTaken s) := hm

theorem execRtrecv_canon (x : Ext) (s : State) (hm : MemCanon s.mem) : OutCanon (execRtrecv x s) := by
  refine runExt_canon _ _ hm fun e r => ?_
  simp only []
  repeat' split
  all_goals simp [hm]

@[simp] theorem advanceFree_mem (q : Nat) (g : Ring) (fuel f : Nat) (s : State) : (advanceFree q g fuel f s).1.mem = s.mem := by
  induction fuel generalizing f s with
  | zero => rfl
  | succ fuel ih =>
    unfold advanceFree
    grind

@[simp] theorem reportRing_memCanon (s : State) (q : Nat) (hm : MemCanon s.mem) : MemCanon (reportRing s q).mem := by
  refine reportFree_memCanon _ _ _ _ ?_
  exact foldl_memCanon _ _ (fun t l ht => by simpa using ht) hm

theorem execRtrel_canon (x : Ext) (s : State) (hm : MemCanon s.mem) : OutCanon (execRtrel x s) := by
  refine runExt_canon _ _ hm fun e r => ?_
  grind [ResCanon, fence_memCanon, advanceFree_mem, reportRing_memCanon, putRing_memCanon]

@[simp] theorem discardGang_memCanon (s : State) (gang : Nat) (kill : Bool) (hm : MemCanon s.mem) : MemCanon (discardGang s gang kill).mem := by
  unfold discardGang
  refine discardAll_memCanon _ _ (foldl_memCanon _ _ (fun t a ht => bump_memCanon t _ _ _ _ _ ht) ?_)
  split <;> exact hm

/-! ### Memory in canonical form: system instructions, the fetch, sample groups -/

@[simp] theorem devPut_memCanon (s : State) (a n v : Nat) (hm : MemCanon s.mem) : MemCanon (devPut s a n v).mem := by
  simp [devPut, hm]

@[simp] theorem wordFirst_memCanon (s : State) (a : Nat) (hm : MemCanon s.mem) : MemCanon (wordFirst s a).mem := by
  simp [wordFirst, hm]

@[simp] theorem pushFrame_memCanon (s : State) (die frame : Nat) (hm : MemCanon s.mem) : MemCanon (pushFrame s die frame).mem := by
  unfold pushFrame
  exact devPut_memCanon _ _ _ _ (devPut_memCanon _ _ _ _ (wordFirst_memCanon _ _ hm))

theorem execMfs_canon (x : Ext) (s : State) (hm : MemCanon s.mem) : OutCanon (execMfs x s) := by
  refine runExt_canon _ _ hm fun e r => ?_
  simp [hm]

theorem execMts_canon (x : Ext) (s : State) (hm : MemCanon s.mem) : OutCanon (execMts x s) := by
  refine runExt_canon _ _ hm fun e r => ?_
  split <;> simp [hm]

theorem execTrap_canon (x : Ext) (s : State) (hm : MemCanon s.mem) : OutCanon (execTrap x s) := by
  refine runExt_canon _ _ hm fun e r => ?_
  simp

theorem execBkpt_canon (x : Ext) (s : State) (hm : MemCanon s.mem) : OutCanon (execBkpt x s) := by
  refine runExt_canon _ _ hm fun e r => ?_
  simp

@[simp] theorem mailPush_mem (s : State) (die core : Nat) (w : DWord) : (mailPush s die core w).mem = s.mem := rfl

theorem execEret_canon (x : Ext) (s : State) (hm : MemCanon s.mem) : OutCanon (execEret x s) := by
  refine runExt_canon _ _ hm fun e r => ?_
  simp [hm]

theorem execFpop_canon (x : Ext) (s : State) (hm : MemCanon s.mem) : OutCanon (execFpop x s) := by
  refine runExt_canon _ _ hm fun e r => ?_
  split <;> simp [hm]

@[simp] theorem resumeToken_mem (s : State) (tok : Nat) : (resumeToken s tok).mem = s.mem := by
  unfold resumeToken
  simp only []
  repeat' split
  all_goals simp

@[simp] theorem denyToken_mem (s : State) (tok : Nat) : (denyToken s tok).mem = s.mem := by
  unfold denyToken
  split
  · rfl
  · split <;> simp

theorem execFres_canon (x : Ext) (s : State) (hm : MemCanon s.mem) : OutCanon (execFres x s) := by
  refine runExt_canon _ _ hm fun e r => ?_
  split <;> simp [hm]

theorem removeTlb_mem {s t : State} (mode asid va size : Nat) (ht : removeTlb s mode asid va size = some t) : t.mem = s.mem := by
  unfold removeTlb at ht
  grind

theorem execTlbi_canon (x : Ext) (s : State) (hm : MemCanon s.mem) : OutCanon (execTlbi x s) := by
  refine runExt_canon _ _ hm fun e r => ?_
  split
  · exact hm
  · next t hf =>
    have ht := fence_memCanon e 2 3 hm hf
    split
    · exact ht
    · next u hu =>
      have hv := removeTlb_mem _ _ _ _ hu
      simpa [hv] using ht

theorem execBiasf_canon (x : Ext) (s : State) (hm : MemCanon s.mem) : OutCanon (execBiasf x s) := by
  refine runExt_canon _ _ hm fun e r => ?_
  simp [hm]

theorem execCtxs_canon (x : Ext) (s : State) (hm : MemCanon s.mem) : OutCanon (execCtxs x s) := by
  refine runExt_canon _ _ hm fun e r => ?_
  simp only []
  repeat' split
  all_goals simp [hm]

theorem ownFrame_memCanon {s t : State} (e : Env) (a n : Nat) (hm : MemCanon s.mem) (ht : ownFrame s e a n = some t) : MemCanon t.mem := by
  unfold ownFrame at ht
  grind [settleAtoms_memCanon, performSel_memCanon]

theorem execCtxl_canon (x : Ext) (s : State) (hm : MemCanon s.mem) : OutCanon (execCtxl x s) := by
  refine runExt_canon _ _ hm fun e r => ?_
  simp only []
  split
  · trivial
  split
  · exact hm
  split
  · exact hm
  split
  · exact hm
  next t ht =>
  have hc := ownFrame_memCanon e _ _ hm ht
  split
  · exact hc
  · simp [hc]

@[simp] theorem fetch_mem (s : State) (e : Env) : (fetch s e).1.mem = s.mem := by
  unfold fetch
  split
  · rfl
  · simp only []
    split <;> simp

@[simp] theorem issueBad_memCanon (s : State) (e : Env) (b : Bad) (hm : MemCanon s.mem) : MemCanon (issueBad s e b).mem :=
  issue_memCanon _ s e _ hm hm

@[simp] theorem fetchFailed_memCanon (s : State) (e : Env) (f : Fetched) (hm : MemCanon s.mem) : MemCanon (fetchFailed s e f).mem := by
  cases f with
  | instr i => exact hm
  | bad b => exact issueBad_memCanon s e b hm
  | trap c => exact takeTrap_memCanon s e _ hm
  | page ps =>
    rw [fetchFailed, pageFault_mem]
    exact hm

@[simp] theorem grpPut_memCanon (s : State) (off n val pa : Nat) (hm : MemCanon s.mem) : MemCanon (grpPut s off n val pa).mem := by
  simp [grpPut, hm]

@[simp] theorem grpSet_memCanon (s : State) (pa lo n v : Nat) (hm : MemCanon s.mem) : MemCanon (grpSet s pa lo n v).mem := by
  simp [grpSet, hm]

@[simp] theorem sibSet_memCanon (s : State) (pa i bit : Nat) (hm : MemCanon s.mem) : MemCanon (sibSet s pa i bit).mem := by
  simp [sibSet, hm]

@[simp] theorem State.updGrp_mem (s : State) (pa : Nat) (f : GrpAge → GrpAge) : (State.updGrp s pa f).mem = s.mem := rfl

@[simp] theorem writeAge_memCanon (s : State) (g : GrpAge) (hm : MemCanon s.mem) : MemCanon (writeAge s g).mem := by
  simp [writeAge, hm]

@[simp] theorem releaseGroup_memCanon (s : State) (pa : Nat) (timeout : Bool) (hm : MemCanon s.mem) :
    MemCanon (releaseGroup s pa timeout).mem := by
  unfold releaseGroup
  extract_lets arr missing st s1 s2 s3 w w1 w2 s4
  have h1 : MemCanon s1.mem := foldl_memCanon _ _ (fun t i ht => sibSet_memCanon t pa i 4 ht) hm
  clear_value s1
  have h2 : MemCanon s2.mem := foldl_memCanon _ _ (fun t p ht => grpPut_memCanon t _ _ _ _ ht) h1
  clear_value s2
  have h3 : MemCanon s3.mem := by
    unfold s3
    split
    · exact grpPut_memCanon _ _ _ _ _ (grpPut_memCanon _ _ _ _ _ h2)
    · exact h2
  clear_value s3
  have h4 : MemCanon s4.mem := grpPut_memCanon _ _ _ _ _ h3
  clear_value s4
  split
  · exact h4
  · dsimp only
    exact writeAge_memCanon _ _ h4

@[simp] theorem releaseTest_memCanon (s : State) (pa : Nat) (hm : MemCanon s.mem) : MemCanon (releaseTest s pa).mem := by
  simp [releaseTest, hm]

/-- Memory is in canonical form in the state that an instruction's translation of a group address leaves, or in the one that it ends in. -/
def GroupCanon {α : Type} : Except Res (State × α) → Prop
  | .ok p => MemCanon p.1.mem
  | .error q => ResCanon q

theorem groupAt_canon (e : Env) (s : State) (k : AccKind) (rd own : Bool) (va : Nat) (hm : MemCanon s.mem) :
    GroupCanon (groupAt e s k rd own va) := by
  unfold groupAt
  grind [GroupCanon, ResCanon, startCollapse_mem, noteTlb_mem, ownFirst_memCanon]

@[simp] theorem forkRecord_memCanon (s : State) (pa n die ctx : Nat) (hm : MemCanon s.mem) : MemCanon (forkRecord s pa n die ctx).mem := by
  unfold forkRecord
  grind [applyHome_memCanon, clearPoison_mem, grpPut_memCanon]

@[simp] theorem forkPosts_canon (e : Env) (x : Ext) (ent g ctx n left : Nat) (s : State) (hm : MemCanon s.mem) :
    ResCanon (forkPosts e x ent g ctx n left s) := by
  induction left generalizing s with
  | zero => exact hm
  | succ left ih =>
    unfold forkPosts
    grind [ResCanon, UCanon, pickShard_canon, postQ_canon, UStop.res_canon, Env.set_mem]

theorem execFork_canon (x : Ext) (s : State) (hm : MemCanon s.mem) : OutCanon (execFork x s) := by
  refine runExt_canon _ _ hm fun e r => ?_
  simp only []
  split
  · trivial
  split
  · trivial
  split
  · exact forkPosts_canon _ _ _ _ _ _ _ _ hm
  have hg := groupAt_canon e s .store true true (groupVa (e.rs r.d)) hm
  split <;> rename_i hq <;> rw [hq] at hg
  · exact hg
  split
  · exact hg
  next t ht =>
  obtain ⟨u, h1, h2⟩ := Option.bind_eq_some_iff.1 ht
  have hc := rmwFirst_memCanon _ _ (fence_memCanon e 1 3 hg h1) h2
  split
  · trivial
  have hf := firstQ_canon t e.unit ((List.range 64).map shardQ) hc
  split <;> rename_i hr <;> rw [hr] at hf
  · exact UStop.res_canon _ _ _ hf
  · trivial
  split
  · exact hf
  · refine forkPosts_canon _ _ _ _ _ _ _ _ ?_
    rw [Env.set_mem]
    dsimp only
    exact forkRecord_memCanon _ _ _ _ _ hf

@[simp] theorem sendMsg_canon (e : Env) (s : State) (g i : Nat) (reward : Option Word) (hm : MemCanon s.mem) :
    ResCanon (sendMsg e s g i reward) := by
  have h := groupAt_canon e s .atomic false false (groupVa g) hm
  unfold sendMsg
  grind [ResCanon, GroupCanon]

theorem execGrwd_canon (x : Ext) (s : State) (hm : MemCanon s.mem) : OutCanon (execGrwd x s) := by
  refine runExt_canon _ _ hm fun e r => ?_
  simp [hm]

theorem execGcancel_canon (x : Ext) (s : State) (hm : MemCanon s.mem) : OutCanon (execGcancel x s) := by
  refine runExt_canon _ _ hm fun e r => ?_
  simp [hm]

@[simp] theorem dropMsg_mem (s : State) (m : GrpMsg) : (dropMsg s m).mem = s.mem := by
  unfold dropMsg
  split <;> simp

@[simp] theorem tagMsg_mem (s : State) (m : GrpMsg) : (tagMsg s m).mem = s.mem := by
  unfold tagMsg
  split <;> simp

@[simp] theorem abandonMsg_mem (s : State) (m : GrpMsg) : (abandonMsg s m).mem = s.mem := by
  simp [abandonMsg]

@[simp] theorem performReward_memCanon (s : State) (pa i : Nat) (v : Word) (hm : MemCanon s.mem) : MemCanon (performReward s pa i v).mem := by
  unfold performReward
  split <;> grind [grpSet_memCanon, sibSet_memCanon, grpPut_memCanon, releaseTest_memCanon]

theorem execGroupRewardPerform_canon (n : Nat) (s : State) (hm : MemCanon s.mem) : OutCanon (execGroupRewardPerform n s) := by
  unfold execGroupRewardPerform
  grind [OutCanon, abandonMsg_mem, tagMsg_mem, performReward_memCanon, dropMsg_mem]

@[simp] theorem notifySib_mem (s : State) (pa i : Nat) : (notifySib s pa i).mem = s.mem := rfl

@[simp] theorem performCancel_memCanon (s : State) (pa i : Nat) (hm : MemCanon s.mem) : MemCanon (performCancel s pa i).mem := by
  unfold performCancel
  split <;> grind [grpSet_memCanon, sibSet_memCanon, releaseTest_memCanon, notifySib_mem]

theorem execGroupCancelPerform_canon (n : Nat) (s : State) (hm : MemCanon s.mem) : OutCanon (execGroupCancelPerform n s) := by
  unfold execGroupCancelPerform
  grind [OutCanon, abandonMsg_mem, tagMsg_mem, performCancel_memCanon, dropMsg_mem]

theorem execCancelRedirect_canon (gang agent : Nat) (s : State) (hm : MemCanon s.mem) : OutCanon (execCancelRedirect gang agent s) := by
  unfold execCancelRedirect
  simp only []
  repeat' split
  all_goals simp [hm]

theorem execGroupDeadline_canon (grp : Nat) (s : State) (hm : MemCanon s.mem) : OutCanon (execGroupDeadline grp s) := by
  unfold execGroupDeadline
  split
  · exact hm
  · split
    · exact hm
    · exact releaseGroup_memCanon _ _ _ (by simpa using hm)

theorem execGroupAgeWrite_canon (grp : Nat) (s : State) (hm : MemCanon s.mem) : OutCanon (execGroupAgeWrite grp s) := by
  unfold execGroupAgeWrite
  split
  · exact hm
  · split
    · exact hm
    · exact writeAge_memCanon _ _ (by simpa using hm)

theorem execGroupAgePause_canon (grp : Nat) (s : State) (hm : MemCanon s.mem) : OutCanon (execGroupAgePause grp s) := by
  unfold execGroupAgePause
  split
  · exact hm
  simp only []
  split
  · exact hm
  · refine grpSet_memCanon _ _ _ _ _ ?_
    split
    · exact hm
    · exact writeAge_memCanon _ _ (by simpa using hm)

@[simp] theorem noteResidency_mem (s : State) : (noteResidency s).mem = s.mem := by
  unfold noteResidency
  split <;> rfl

theorem readGroup_canon (e : Env) (s : State) (g w : Nat) (hm : MemCanon s.mem) : GroupCanon (readGroup e s g w) := by
  have h := groupAt_canon e s .load true true (groupVa g) hm
  unfold readGroup
  grind [ResCanon, GroupCanon, Env.set_mem, noteRead_mem]

theorem execGbar_canon (x : Ext) (s : State) (hm : MemCanon s.mem) : OutCanon (execGbar x s) := by
  refine runExt_canon _ _ hm fun e r => ?_
  have h := readGroup_canon e s (e.rs r.a) 3 hm
  grind [ResCanon, GroupCanon, resCanon_result]

theorem execGstat_canon (x : Ext) (s : State) (hm : MemCanon s.mem) : OutCanon (execGstat x s) := by
  refine runExt_canon _ _ hm fun e r => ?_
  have h := readGroup_canon e s (e.rs r.a) x.imm.toNat hm
  grind [ResCanon, GroupCanon, resCanon_result]

/-! ### Memory in canonical form: stops, saves, launches, placements, ends -/

theorem execLongWaitThreshold_canon (gang : Nat) (s : State) (hm : MemCanon s.mem) : OutCanon (execLongWaitThreshold gang s) := by
  unfold execLongWaitThreshold
  split <;> simp [hm]

@[simp] theorem settleBusy_mem (s : State) : (settleBusy s).mem = s.mem := rfl

@[simp] theorem resumeContext_mem (s : State) (asid : Nat) : (resumeContext s asid).mem = s.mem := by
  unfold resumeContext
  exact foldl_mem _ _ _ fun s v => toDistributor_mem s v.frame

theorem execPreemptRequest_canon (w : DWord) (s : State) (hm : MemCanon s.mem) : OutCanon (execPreemptRequest w s) := by
  unfold execPreemptRequest
  simp [hm]

theorem execResumeRequest_canon (w : DWord) (s : State) (hm : MemCanon s.mem) : OutCanon (execResumeRequest w s) := by
  unfold execResumeRequest
  simp [hm]

theorem execPreemptTimeout_canon (gang : Nat) (s : State) (hm : MemCanon s.mem) : OutCanon (execPreemptTimeout gang s) := by
  unfold execPreemptTimeout
  split <;> simp [hm]

theorem execWatchedCondition_canon (gang : Nat) (s : State) (hm : MemCanon s.mem) : OutCanon (execWatchedCondition gang s) := by
  unfold execWatchedCondition
  grind [OutCanon, conditionTrue_mem, toDistributor_mem]

@[simp] theorem requeueWalks_mem (s : State) (uid : Nat) : (requeueWalks s uid).mem = s.mem := by
  unfold requeueWalks
  exact foldl_mem _ _ _ fun _ _ => rfl

@[simp] theorem resumeInPlace_mem (s : State) (g : Gang) : (resumeInPlace s g).mem = s.mem := by
  simp [resumeInPlace]

@[simp] theorem tellAsker_mem (s : State) (p : Stop) : (tellAsker s p).mem = s.mem := by
  unfold tellAsker
  split <;> rfl

@[simp] theorem tellHalt_memCanon (s : State) (g : Gang) (p : Stop) (frame : Nat) (pool : Bool) (hm : MemCanon s.mem) :
    MemCanon (tellHalt s g p frame pool).mem := by
  unfold tellHalt
  split <;> simp [hm]

theorem landStores_memCanon {s t : State} (g : Gang) (hm : MemCanon s.mem) (ht : landStores s g = some t) : MemCanon t.mem := by
  unfold landStores at ht
  grind [osFlush_mem, performSel_memCanon]

@[simp] theorem saveTo_memCanon (s : State) (g : Gang) (p : Stop) (frame : Nat) (pool : Option Nat) (hm : MemCanon s.mem) :
    MemCanon (saveTo s g p frame pool).mem := by
  unfold saveTo
  extract_lets image as s1 s2 g1 v s3 s4 hit
  have h2 : MemCanon s2.mem := applyHome_memCanon _ _ (by simp [s1, hm])
  clear_value s2
  have h3 : MemCanon s3.mem := h2
  clear_value s3
  have h4 : MemCanon s4.mem := tellHalt_memCanon _ _ _ _ _ (by simpa using h3)
  clear_value s4
  split
  · simpa using h4
  · exact h4

theorem popFrame_ok_memCanon {s t : State} (die : Nat) {f : Nat} (hm : MemCanon s.mem) (ht : popFrame s die = some (t, f)) :
    MemCanon t.mem := by
  unfold popFrame at ht
  grind [wordFirst_memCanon, devPut_memCanon]

@[simp] theorem takeFrame_memCanon (s : State) (g : Gang) (p : Stop) (hm : MemCanon s.mem) : MemCanon (takeFrame s g p).mem := by
  unfold takeFrame
  simp only []
  split
  · exact hm
  split
  · next t f ht => simpa using popFrame_ok_memCanon _ hm ht
  · split
    · simpa using hm
    · exact hm

theorem execGangSave_canon (gang : Nat) (s : State) (hm : MemCanon s.mem) : OutCanon (execGangSave gang s) := by
  unfold execGangSave
  split
  · exact hm
  split
  · exact hm
  split
  · exact hm
  split
  · exact takeFrame_memCanon s _ _ hm
  split
  · exact hm
  split
  · exact hm
  · rw [outCanon_next]
    split
    · exact hm
    split
    · exact hm
    · next ht => exact saveTo_memCanon _ _ _ _ _ (landStores_memCanon _ hm ht)
  · simp only [outCanon_next]
    split
    · exact hm
    split
    · exact hm
    · next ht =>
      have h := landStores_memCanon _ hm ht
      refine saveTo_memCanon _ _ _ _ _ ?_
      split
      · exact pushFrame_memCanon _ _ _ h
      · exact h

theorem withRecord_canon (s : State) (a : Acc) (cmpla : Addr) (f : State → List Nat → State) (hm : MemCanon s.mem)
    (hf : ∀ as, MemCanon (f s as).mem) : StepCanon (withRecord s a cmpla f) := by
  unfold withRecord
  grind [StepCanon, → uWriteAddrs_error_mem, UStop.state]

@[simp] theorem updLq_mem (s : State) (q : Nat) (f : LaunchQ → LaunchQ) : (updLq s q f).mem = s.mem := rfl

@[simp] theorem tookEntry_mem (s : State) (q : Nat) : (tookEntry s q).mem = s.mem := by
  unfold tookEntry
  split <;> rfl

@[simp] theorem stopQueue_mem (s : State) (q : Nat) : (stopQueue s q).mem = s.mem := rfl

@[simp] theorem newGrid_mem (s : State) (asid : Nat) (b : Block) : (newGrid s asid b).mem = s.mem := rfl

theorem blockFailed_canon (s : State) (a : Acc) (ws : List Nat) (code : Nat) (hm : MemCanon s.mem) :
    StepCanon (blockFailed s a ws code) := by
  unfold blockFailed
  simp only []
  split
  · simpa [StepCanon] using hm
  · exact withRecord_canon _ _ _ _ hm fun as => recordErr_memCanon s as code hm

@[simp] theorem judgeBlock_memCanon (s : State) (q asid : Nat) (ws : List Nat) (unread : Bool) (hm : MemCanon s.mem) :
    MemCanon (judgeBlock s q asid ws unread).mem := by
  unfold judgeBlock
  split
  · split
    · simpa using hm
    · rw [tookEntry_mem, newGrid_mem]
      exact hm
  · next code _ =>
    have h := blockFailed_canon s ⟨unitWho s asid 0, .launch q, 0#52⟩ ws code hm
    split <;> rename_i hr <;> rw [hr] at h
    · exact h
    · rw [tookEntry_mem]
      exact h

@[simp] theorem takeBlock_memCanon (s : State) (q asid va : Nat) (ws : List Nat) (hm : MemCanon s.mem) :
    MemCanon (takeBlock s q asid va ws).mem := by
  have h := uReadNat_canon s ⟨unitWho s asid 0, .launch q, 0#52⟩ (va + 8 * ws.length) 8 0 hm
  unfold takeBlock
  extract_lets keep
  split
  · exact judgeBlock_memCanon _ _ _ _ _ hm
  split <;> rename_i hr <;> rw [hr] at h
  · exact h
  · exact judgeBlock_memCanon _ _ _ _ _ h
  · split
    · exact h
    · exact judgeBlock_memCanon _ _ _ _ _ h

@[simp] theorem takeEntry_memCanon (s : State) (q : Nat) (hm : MemCanon s.mem) : MemCanon (takeEntry s q).mem := by
  unfold takeEntry
  extract_lets l asid a
  split
  · simpa using hm
  split <;> rename_i hr
  · exact uReadNat_error_memCanon _ _ _ _ hm hr
  · have ht := uReadNat_error_memCanon _ _ _ _ hm hr
    rw [stopQueue_mem]
    exact ht
  · have ht := uReadNat_ok_memCanon _ _ _ _ hm hr
    split
    · simpa using ht
    split
    · simpa using ht
    · exact takeBlock_memCanon _ _ _ _ _ ht

theorem execLaunchUnitVisit_canon (s : State) (hm : MemCanon s.mem) : OutCanon (execLaunchUnitVisit s) := by
  unfold execLaunchUnitVisit
  split
  · exact takeBlock_memCanon _ _ _ _ _ hm
  · rw [outCanon_next]
    split
    · exact hm
    · split
      · exact hm
      · exact takeBlock_memCanon _ _ _ _ _ hm
    · exact takeEntry_memCanon _ _ hm

@[simp] theorem State.updGrid_mem (s : State) (n : Nat) (f : Grid → Grid) : (State.updGrid s n f).mem = s.mem := rfl

@[simp] theorem dropGrids_mem (s : State) : (dropGrids s).mem = s.mem := rfl

theorem execGangHandout_canon (grid : Nat) (s : State) (hm : MemCanon s.mem) : OutCanon (execGangHandout grid s) := by
  unfold execGangHandout
  split
  · exact hm
  next g _ =>
  split
  · exact hm
  have hw (t : State) (a : Acc) (code : Nat) (ht : MemCanon t.mem) : StepCanon (withRecord t a g.blk.cmpla fun s as => recordErr s as code) :=
    withRecord_canon _ _ _ _ ht fun as => recordErr_memCanon t as code ht
  simp only []
  split <;> rename_i hr
  · exact uReadNat_error_memCanon _ _ _ _ hm hr
  · have hc := hw _ ⟨unitWho s g.asid 0, .map grid, 0#52⟩ 5 (uReadNat_error_memCanon _ _ _ _ hm hr)
    simp only [UStop.state] at hc
    split <;> rename_i hk <;> rw [hk] at hc
    · exact hc
    · rw [outCanon_next, dropGrids_mem]
      exact hc
  · have ht := uReadNat_ok_memCanon _ _ _ _ hm hr
    have hc := hw _ ⟨unitWho s g.asid 0, .map grid, 0#52⟩ 1 ht
    split <;> rename_i hk
    · split at hk
      · simp at hk
      · rw [hk] at hc
        exact hc
    · split at hk
      · cases hk
        exact ht
      · rw [hk] at hc
        exact hc

theorem execStealMessage_canon (grid die : Nat) (s : State) (hm : MemCanon s.mem) : OutCanon (execStealMessage grid die s) := by
  unfold execStealMessage
  split
  · exact hm
  split <;> exact hm

@[simp] theorem moveCmds_mem (s : State) (uid die core : Nat) : (moveCmds s uid die core).mem = s.mem := by
  simp [moveCmds]

@[simp] theorem clearMark_memCanon (s : State) (frame : Nat) (hm : MemCanon s.mem) : MemCanon (clearMark s frame).mem := by
  simp [clearMark, hm]

@[simp] theorem restoreGang_memCanon (s : State) (v : Saved) (core : Nat) (f : Fit) (hm : MemCanon s.mem) :
    MemCanon (restoreGang s v core f).mem := by
  have h (t : State) (uid die core : Nat) (ht : MemCanon t.mem) : MemCanon (moveCmds (clearMark t v.frame) uid die core).mem := by
    rw [moveCmds_mem]
    exact clearMark_memCanon _ _ ht
  unfold restoreGang
  simp only []
  split
  · exact pushFrame_memCanon _ _ _ (h _ _ _ _ hm)
  · exact h _ _ _ _ hm

@[simp] theorem passOver_mem (s : State) (c : WaitGang) : (passOver s c).mem = s.mem := rfl

@[simp] theorem leaveWait_mem (s : State) (c : WaitGang) (b : Block) : (leaveWait s c b).mem = s.mem := by
  unfold leaveWait
  split <;> rfl

theorem execGangPlace_canon (die : Nat) (s : State) (hm : MemCanon s.mem) : OutCanon (execGangPlace die s) := by
  unfold execGangPlace
  grind [OutCanon, passOver_mem, leaveWait_mem, restoreGang_memCanon, dropGrids_mem, addGang_mem]

@[simp] theorem removeGang_mem (s : State) (uid : Nat) : (removeGang s uid).mem = s.mem := rfl

theorem finishRecord_canon (s : State) (g : Gang) (killed : Bool) (hm : MemCanon s.mem) : StepCanon (finishRecord s g killed) := by
  unfold finishRecord
  grind [StepCanon, performSel_memCanon, → uWriteAddrs_error_mem, decrement_memCanon, recordErr_memCanon, logEvent_mem, UStop.state]

theorem exitLines_canon (g : Gang) (l : List WLine) (s : State) (hm : MemCanon s.mem) : StepCanon (exitLines g l s) := by
  induction l generalizing s with
  | nil => exact hm
  | cons w r ih =>
    unfold exitLines
    grind [StepCanon, → uXlat_error_mem, State.updGang_mem, cleanLine_memCanon, UStop.state]

theorem execGangComplete_canon (gang : Nat) (s : State) (hm : MemCanon s.mem) : OutCanon (execGangComplete gang s) := by
  unfold execGangComplete
  split
  · exact hm
  split
  · exact hm
  split
  · exact hm
  next t ht =>
  have hc := landStores_memCanon _ hm ht
  grind [OutCanon, StepCanon, exitLines_canon, finishRecord_canon, discardGang_memCanon, removeGang_mem]

@[simp] theorem cancelCmds_mem (s : State) (uid : Nat) (keep : Cmd → Bool) : (cancelCmds s uid keep).mem = s.mem := rfl

theorem finishLine_canon (id k fuel : Nat) (s : State) (hm : MemCanon s.mem) : StepCanon (finishLine id k fuel s) := by
  induction fuel generalizing s with
  | zero => exact hm
  | succ fuel ih =>
    unfold finishLine
    split
    · exact hm
    next c p _ =>
    have h := portionAt_canon s c k 0 hm
    grind [StepCanon, MoveCanon]

theorem finishLines_canon (id : Nat) (l : List (Nat × Portion)) (s : State) (hm : MemCanon s.mem) : StepCanon (finishLines id l s) := by
  induction l generalizing s with
  | nil => exact hm
  | cons p r ih =>
    unfold finishLines
    grind [StepCanon, finishLine_canon]

theorem finishCopies_canon (l : List Cmd) (s : State) (hm : MemCanon s.mem) : StepCanon (finishCopies l s) := by
  induction l generalizing s with
  | nil => exact hm
  | cons c r ih =>
    have h := finishLines_canon c.id (enumFrom 0 c.portions) s hm
    unfold finishCopies
    grind [StepCanon, State.dropCmd_mem]

@[simp] theorem dropSaved_memCanon (s : State) (uid : Nat) (hm : MemCanon s.mem) : MemCanon (dropSaved s uid).mem := by
  unfold dropSaved
  split
  · exact hm
  · dsimp only
    split
    · exact pushFrame_memCanon _ _ _ hm
    · exact hm

@[simp] theorem faultGangGone_mem (s : State) (g : Gang) : (faultGangGone s g).mem = s.mem := by
  unfold faultGangGone
  split <;> rfl

@[simp] theorem dropHeld_memCanon (s : State) (g : Gang) (hm : MemCanon s.mem) : MemCanon (dropHeld s g).mem := by
  unfold dropHeld
  extract_lets mine s1
  split
  · rw [State.updGang_mem]
    exact pushFrame_memCanon s1 _ _ hm
  · exact hm

@[simp] theorem killGang_memCanon (s : State) (g : Gang) (hm : MemCanon s.mem) : MemCanon (killGang s g).mem := by
  unfold killGang
  extract_lets s1
  have h1 : MemCanon s1.mem := hm
  clear_value s1
  have hc := finishCopies_canon (s1.cmds.filter fun c => c.gang == g.uid && c.begunCopy) s1 h1
  split <;> rename_i hr <;> rw [hr] at hc
  · exact hc
  have hf := finishRecord_canon (cancelCmds (discardGang (dropHeld _ g) g.uid true) g.uid fun _ => false) g true
    (discardGang_memCanon _ _ _ (dropHeld_memCanon _ _ hc))
  split <;> rename_i hk <;> rw [hk] at hf
  · exact hf
  · rw [faultGangGone_mem, removeGang_mem]
    exact dropSaved_memCanon _ _ hf

theorem execGangKill_canon (gang : Nat) (s : State) (hm : MemCanon s.mem) : OutCanon (execGangKill gang s) := by
  unfold execGangKill
  grind [OutCanon, killGang_memCanon]

/-! ### Memory in canonical form: the memory system by itself, the host, matrix commands, walks -/

@[simp] theorem evictLine_memCanon (s : State) (line : Nat) (hm : MemCanon s.mem) : MemCanon (evictLine s line).mem := evictLine_mem_wf s line hm

@[simp] theorem flushLine_memCanon (s : State) (line : Nat) (hm : MemCanon s.mem) : MemCanon (flushLine s line).mem := flushLine_mem_wf s line hm

theorem execPageTableWalk_canon (gang : Nat) (va : Addr) (s : State) (hm : MemCanon s.mem) : OutCanon (execPageTableWalk gang va s) := by
  unfold execPageTableWalk
  simp only []
  repeat' split
  all_goals simp [hm]

theorem execStashRemoteRequest_canon (gang line : Nat) (write : Bool) (s : State) (hm : MemCanon s.mem) :
    OutCanon (execStashRemoteRequest gang line write s) := by
  unfold execStashRemoteRequest
  split <;> simp [hm]

theorem execDirectoryEvict_canon (line : Nat) (s : State) (hm : MemCanon s.mem) : OutCanon (execDirectoryEvict line s) := by
  unfold execDirectoryEvict
  simp [hm]

theorem execDupCollapse_canon (die n : Nat) (s : State) (hm : MemCanon s.mem) : OutCanon (execDupCollapse die n s) := by
  unfold execDupCollapse
  grind [OutCanon, startCollapse_mem]

@[simp] theorem performHeld_memCanon (s : State) (n : Nat) (hm : MemCanon s.mem) : MemCanon (performHeld s n).mem := by
  unfold performHeld
  simp only []
  split <;> simp [hm]

theorem performAllHeld_memCanon (s : State) (l : List Nat) (hm : MemCanon s.mem) : MemCanon (l.foldl performHeld s).mem :=
  foldl_memCanon _ _ (fun t n ht => performHeld_memCanon t n ht) hm

@[simp] theorem endCollapse_memCanon (s : State) (d : DupPage) (hm : MemCanon s.mem) : MemCanon (endCollapse s d).mem := by
  unfold endCollapse
  simp only []
  refine performAllHeld_memCanon _ _ ?_
  exact applyHome_memCanon _ _ (wordFirst_memCanon _ _ hm)

theorem execDupCollapseAck_canon (page die : Nat) (s : State) (hm : MemCanon s.mem) : OutCanon (execDupCollapseAck page die s) := by
  unfold execDupCollapseAck
  split <;> simp [hm]

theorem execBiasFlipComplete_canon (frame : Nat) (s : State) (hm : MemCanon s.mem) : OutCanon (execBiasFlipComplete frame s) := by
  have h : MemCanon ((frameLines frame).foldl flushLine s).mem := foldl_memCanon _ _ (fun t l ht => flushLine_memCanon t l ht) hm
  unfold execBiasFlipComplete
  split
  · exact hm
  · simp only [outCanon_next, memCanon_ite]
    split
    · exact h
    · exact hm

@[simp] theorem hostPut_memCanon (s : State) (bytes : List (Nat × Byte)) (hm : MemCanon s.mem) :
    MemCanon (hostPut s bytes).mem := hostPut_mem_wf s bytes hm

@[simp] theorem hostAnswer_mem (s : State) (bs : List Byte) : (hostAnswer s bs).mem = s.mem := rfl

theorem execHostCxlMemAccess_canon (addr len : Nat) (bytes : Option (List Byte)) (s : State) (hm : MemCanon s.mem) :
    OutCanon (execHostCxlMemAccess addr len bytes s) := by
  unfold execHostCxlMemAccess
  simp only []
  repeat' split
  all_goals simp [hm]

theorem execHostWriteToHostMemory_canon (addr : Nat) (bytes : List Byte) (s : State) (hm : MemCanon s.mem) :
    OutCanon (execHostWriteToHostMemory addr bytes s) := by
  unfold execHostWriteToHostMemory
  simp [hm]

theorem execEccUncorrectable_canon (loc : EccSite) (s : State) (hm : MemCanon s.mem) : OutCanon (execEccUncorrectable loc s) := by
  unfold execEccUncorrectable
  split <;> simp [hm]

theorem execEccCorrected_canon (code : Nat) (s : State) (hm : MemCanon s.mem) : OutCanon (execEccCorrected code s) := by
  unfold execEccCorrected
  simp [hm]

@[simp] theorem zeroFrame_memCanon (s : State) (a n : Nat) (hm : MemCanon s.mem) : MemCanon (zeroFrame s a n).mem := zeroFrame_mem_wf s a n hm

theorem execFrameRelease_canon (desc : Nat) (s : State) (hm : MemCanon s.mem) : OutCanon (execFrameRelease desc s) := by
  unfold execFrameRelease
  simp only []
  split
  · exact hm
  · exact devPut_memCanon _ _ _ _ (devPut_memCanon _ _ _ _ (devPut_memCanon _ _ _ _ (devPut_memCanon _ _ _ _
      (wordFirst_memCanon _ _ (zeroFrame_memCanon _ _ _ hm)))))

@[simp] theorem cfgAccess_mem (s : State) (off n : Nat) (bytes : Option (List Byte)) : (cfgAccess s off n bytes).mem = s.mem := by
  unfold cfgAccess
  split <;> rfl

@[simp] theorem barRead_mem (s : State) (off n : Nat) : (barRead s off n).mem = s.mem := rfl

theorem execRegisterWrite_canon (off : Nat) (w : DWord) (s : State) (hm : MemCanon s.mem) : OutCanon (execRegisterWrite off w s) := by
  unfold execRegisterWrite
  simp [hm]

theorem execLaunchQueueControl_canon (q : Nat) (w : DWord) (s : State) (hm : MemCanon s.mem) : OutCanon (execLaunchQueueControl q w s) := hm

theorem execLaunchDoorbell_canon (q : Nat) (w : DWord) (s : State) (hm : MemCanon s.mem) : OutCanon (execLaunchDoorbell q w s) := by
  unfold execLaunchDoorbell
  simp [hm]

@[simp] theorem postDone_mem (s : State) (full : Bool) : (postDone s full).mem = s.mem := rfl

@[simp] theorem hostPost_memCanon (s : State) (hm : MemCanon s.mem) : MemCanon (hostPost s).mem := by
  unfold hostPost
  grind [UCanon, uRead_canon, postTarget_canon, postQ_canon, postDone_mem, logEvent_mem, UStop.state]

theorem execHostQueuePost_canon (w : DWord) (s : State) (hm : MemCanon s.mem) : OutCanon (execHostQueuePost w s) := by
  unfold execHostQueuePost
  simp [hm]

theorem execRouteSync_canon (w : DWord) (s : State) (hm : MemCanon s.mem) : OutCanon (execRouteSync w s) := by
  unfold execRouteSync
  simp [hm]

theorem execContextSync_canon (w : DWord) (s : State) (hm : MemCanon s.mem) : OutCanon (execContextSync w s) := by
  unfold execContextSync
  simp only []
  split
  · exact hm
  split
  · exact hm
  · next t ht =>
    have hs := removeTlb_mem _ _ _ _ ht
    simpa [hs] using hm

theorem execTableBaseWrite_canon (off : Nat) (w : DWord) (s : State) (hm : MemCanon s.mem) : OutCanon (execTableBaseWrite off w s) := by
  unfold execTableBaseWrite
  simp [hm]

@[simp] theorem resetModule_memCanon (s : State) (hm : MemCanon s.mem) : MemCanon (resetModule s).mem := resetModule_mem_wf s hm

theorem execModuleReset_canon (s : State) (hm : MemCanon s.mem) : OutCanon (execModuleReset s) := by
  unfold execModuleReset
  simp [hm]

@[simp] theorem placeFaultGang_memCanon (s : State) (die : Nat) (hm : MemCanon s.mem) :
    MemCanon (placeFaultGang s die).mem := placeFaultGang_mem_wf s die hm

@[simp] theorem writeCtx0_memCanon (s : State) (hm : MemCanon s.mem) : MemCanon (writeCtx0 s).mem := writeCtx0_mem_wf s hm

theorem execPowerOn_canon (s : State) (hm : MemCanon s.mem) : OutCanon (execPowerOn s) := by
  unfold execPowerOn
  split
  · exact hm
  split
  · exact hm
  · simp only [outCanon_next, logEvent_mem]
    refine foldl_memCanon _ _ (fun t d ht => placeFaultGang_memCanon t d ht) (writeCtx0_memCanon _ ?_)
    dsimp only
    exact keep_memCanon _ hm

@[simp] theorem writeImage_mem (s : State) (image : List Byte) : (writeImage s image).mem = s.mem := rfl

theorem execFirmwareUpdate_canon (addr len : Nat) (s : State) (hm : MemCanon s.mem) : OutCanon (execFirmwareUpdate addr len s) := by
  unfold execFirmwareUpdate
  simp [hm]

theorem execRecoveryGo_canon (w : DWord) (s : State) (hm : MemCanon s.mem) : OutCanon (execRecoveryGo w s) := by
  unfold execRecoveryGo
  simp only []
  split
  · exact hm
  split
  · simpa using hm
  · exact resetModule_memCanon _ (by simpa using hm)

theorem execSpdmRequest_canon (req : List Byte) (s : State) (hm : MemCanon s.mem) : OutCanon (execSpdmRequest req s) := hm

theorem execFencedCoreMapUpdate_canon (map : List Nat) (s : State) (hm : MemCanon s.mem) : OutCanon (execFencedCoreMapUpdate map s) := hm

theorem execIzsilConfigSet_canon (cfg : NetConfig) (s : State) (hm : MemCanon s.mem) : OutCanon (execIzsilConfigSet cfg s) := hm

theorem execPowerLimit_canon (s : State) (hm : MemCanon s.mem) : OutCanon (execPowerLimit s) := hm

theorem execThermalThrottle_canon (die : Nat) (s : State) (hm : MemCanon s.mem) : OutCanon (execThermalThrottle die s) := hm

theorem execThermalStop_canon (code : Nat) (s : State) (hm : MemCanon s.mem) : OutCanon (execThermalStop code s) := hm

theorem execPowerLoss_canon (midWrite : Bool) (s : State) (hm : MemCanon s.mem) : OutCanon (execPowerLoss midWrite s) := by
  unfold execPowerLoss
  simp [hm]

@[simp] theorem tileWait_canon (e : Env) (s : State) (ts : List Nat) (w : Nat) (rows : List Nat) (body : CmdBody) (hm : MemCanon s.mem) :
    ResCanon (tileWait e s ts w rows body) := by
  unfold tileWait
  simp [hm]

theorem execMma_canon (x : Ext) (s : State) (hm : MemCanon s.mem) : OutCanon (execMma x s) := by
  refine runExt_canon _ _ hm fun e r => ?_
  simp only []
  repeat' split
  all_goals simp [hm]

theorem execMload_canon (x : Ext) (s : State) (hm : MemCanon s.mem) : OutCanon (execMload x s) := by
  refine runExt_canon _ _ hm fun e r => ?_
  simp only []
  repeat' split
  all_goals simp [hm]

theorem execMdrain_canon (x : Ext) (s : State) (hm : MemCanon s.mem) : OutCanon (execMdrain x s) := by
  refine runExt_canon _ _ hm fun e r => ?_
  simp only []
  repeat' split
  all_goals simp [hm]

@[simp] theorem putAcc_mem (s : State) (c : Cmd) (pair : Bool) (m : Nat) (vs : List (Nat × Nat × FFlags)) : (putAcc s c pair m vs).mem = s.mem := rfl

@[simp] theorem performMma_mem (s : State) (g : Gang) (c : Cmd) (m ta tb ty : Nat) (rows : List Nat) :
    (performMma s g c m ta tb ty rows).mem = s.mem := rfl

@[simp] theorem performMload_mem (s : State) (g : Gang) (c : Cmd) (m t w : Nat) : (performMload s g c m t w).mem = s.mem := rfl

@[simp] theorem performMdrain_mem (s : State) (g : Gang) (c : Cmd) (t m w : Nat) (am : Option (List Nat × Nat)) :
    (performMdrain s g c t m w am).mem = s.mem := rfl

@[simp] theorem withTiles_mem (s : State) (c : Cmd) (as : List Nat) (perform : State → Gang → State)
    (hp : ∀ t g, (perform t g).mem = t.mem) : (withTiles s c as perform).mem = s.mem := by
  unfold withTiles
  split
  · split
    · exact hp s _
    · rfl
  split
  · rfl
  split
  · rfl
  next t ht =>
  have h := issuerOs_mem _ _ ht
  split
  · rfl
  · split
    · simpa using h
    split
    · simpa using h
    · rw [hp, h]

theorem execMatrixCommandPerform_canon (cmd : Nat) (s : State) (hm : MemCanon s.mem) : OutCanon (execMatrixCommandPerform cmd s) := by
  unfold execMatrixCommandPerform
  split
  · exact hm
  split
  · exact hm
  split
  · exact hm
  split
  · simpa using hm
  · rw [outCanon_next, withTiles_mem _ _ _ _ fun t g => performMma_mem t g _ _ _ _ _ _]
    exact hm
  · rw [outCanon_next, withTiles_mem _ _ _ _ fun t g => performMload_mem t g _ _ _ _]
    exact hm
  · simpa using hm
  · exact hm

theorem execWalk_canon (x : Ext) (s : State) (hm : MemCanon s.mem) : OutCanon (execWalk x s) := by
  refine runExt_canon _ _ hm fun e r => ?_
  simp only []
  repeat' split
  all_goals simp [hm]

@[simp] theorem putWalk_mem (s : State) (c : Cmd) (t : Nat) (desc : Option (List Nat)) (st : WalkSt) : (putWalk s c t desc st).mem = s.mem := rfl

@[simp] theorem endWalk_mem (s : State) (c : Cmd) (t : Nat) (desc : Option (List Nat)) (st : WalkSt) (reason pc : Nat) :
    (endWalk s c t desc st reason pc).mem = s.mem := by
  unfold endWalk
  simp only []
  split <;> simp

theorem execWalkStart_canon (cmd : Nat) (s : State) (hm : MemCanon s.mem) : OutCanon (execWalkStart cmd s) := by
  unfold execWalkStart
  split
  · exact hm
  split
  · split
    · exact hm
    split
    · simpa using hm
    split
    · simpa using hm
    split <;> rename_i hr
    · exact readWords_error_memCanon _ _ hm hr
    · rw [outCanon_next, failCmd_mem]
      exact readWords_error_memCanon _ _ hm hr
    · cases readWords_ok_eq _ _ hr
      split
      · simpa using hm
      simp only []
      split <;> rename_i hk
      · exact readNats_error_memCanon _ _ _ hm hk
      · rw [outCanon_next, endWalk_mem]
        exact readNats_error_memCanon _ _ _ hm hk
      · cases readNats_ok_eq _ _ _ hk
        simp [hm]
  · exact hm

/-- Memory is in canonical form in the state that a walker instruction's own effect leaves. -/
def WalkCanon : WRes → Prop
  | .next _ => True
  | .jump .. => True
  | .done => True
  | .fault _ => True
  | .read t _ => MemCanon t.mem
  | .lost t => MemCanon t.mem
  | .hold t _ => MemCanon t.mem

theorem runWalk_canon (i : Instr) {s : State} {body : State → Cmd → Gang → Nat → WalkSt → WRes} (hm : MemCanon s.mem)
    (hb : ∀ c g t st, WalkCanon (body s c g t st)) : OutCanon (runWalk i s body) := by
  unfold runWalk
  split
  · trivial
  next c t desc st g _ =>
  split
  · exact hm
  have h : WalkCanon (if i.wellFormed then body s c g t st else .fault 2) := by
    split
    · exact hb c g t st
    · trivial
  simp only []
  split <;> rename_i hr <;> rw [hr] at h <;> simp only [outCanon_next, memCanon_ite, endWalk_mem, putWalk_mem, ite_self]
  all_goals first | exact hm | exact h

theorem execWbz_canon (ya : BitVec 4) (t : BitVec 8) (s : State) (hm : MemCanon s.mem) : OutCanon (execWbz ya t s) := by
  refine runWalk_canon _ hm fun c g n st => ?_
  split <;> trivial

theorem execWblt_canon (t : BitVec 8) (s : State) (hm : MemCanon s.mem) : OutCanon (execWblt t s) := by
  refine runWalk_canon _ hm fun c g n st => ?_
  split <;> trivial

/-- Memory is in canonical form in the state of a walk's read, done or not. -/
def ReadCanon {α : Type} : Except WRes (State × α) → Prop
  | .ok p => MemCanon p.1.mem
  | .error r => WalkCanon r

theorem walkLine_canon (s : State) (c : Cmd) (st : WalkSt) (src va : Nat) (hm : MemCanon s.mem) : ReadCanon (walkLine s c st src va) := by
  unfold walkLine
  grind [ReadCanon, WalkCanon, UCanon, uRead_canon, UStop.state]

theorem walkElem_canon (s : State) (c : Cmd) (st : WalkSt) (src k : Nat) (hm : MemCanon s.mem) : ReadCanon (walkElem s c st src k) := by
  have h := walkLine_canon s c st src (fmtBase st.fmt src + k * fmtEsz st.fmt src) hm
  unfold walkElem
  grind [ReadCanon]

theorem execWld_canon (yd ya src : BitVec 4) (s : State) (hm : MemCanon s.mem) : OutCanon (execWld yd ya src s) := by
  refine runWalk_canon _ hm fun c g t st => ?_
  have h := walkElem_canon s c st src.toNat (st.r ya).toNat hm
  grind [ReadCanon, WalkCanon]

theorem walkBit_canon (c : Cmd) (src hi fuel : Nat) (s : State) (st : WalkSt) (lo : Nat) (hm : MemCanon s.mem) :
    ReadCanon (walkBit c src hi fuel s st lo) := by
  induction fuel generalizing s st lo with
  | zero => exact hm
  | succ fuel ih =>
    have h := walkLine_canon s c st src (fmtBase st.fmt src + lo / 8) hm
    unfold walkBit
    grind [ReadCanon, WalkCanon]

theorem execWbmn_canon (yd ya yb : BitVec 4) (src : BitVec 3) (s : State) (hm : MemCanon s.mem) : OutCanon (execWbmn yd ya yb src s) := by
  refine runWalk_canon _ hm fun c g t st => ?_
  have h := walkBit_canon c src.toNat (st.r yb).toNat (((st.r yb).toNat - (st.r ya).toNat) / 1024 + 2) s st (st.scan.getD (st.r ya).toNat) hm
  grind [ReadCanon, WalkCanon]

theorem execWrun_canon (yd yb ya : BitVec 4) (src : BitVec 3) (s : State) (hm : MemCanon s.mem) : OutCanon (execWrun yd yb ya src s) := by
  refine runWalk_canon _ hm fun c g t st => ?_
  have h := walkElem_canon s c st src.toNat (st.r ya).toNat hm
  grind [ReadCanon, WalkCanon]

theorem execWemit_canon (ya yb : BitVec 4) (s : State) (hm : MemCanon s.mem) : OutCanon (execWemit ya yb s) := by
  refine runWalk_canon _ hm fun c g t st => ?_
  simp only []
  split <;> trivial

theorem execWpush_canon (ya : BitVec 4) (s : State) (hm : MemCanon s.mem) : OutCanon (execWpush ya s) := by
  refine runWalk_canon _ hm fun c g t st => ?_
  split <;> trivial

theorem execWpop_canon (yd : BitVec 4) (s : State) (hm : MemCanon s.mem) : OutCanon (execWpop yd s) := by
  refine runWalk_canon _ hm fun c g t st => ?_
  split <;> trivial

theorem walkFault_canon (cmd reason : Nat) (s : State) (hm : MemCanon s.mem) : OutCanon (walkFault cmd reason s) := by
  unfold walkFault
  grind [OutCanon, endWalk_mem]

theorem execWalkerStepLimit_canon (cmd : Nat) (s : State) (hm : MemCanon s.mem) : OutCanon (execWalkerStepLimit cmd s) := by
  unfold execWalkerStepLimit
  grind [OutCanon, endWalk_mem]

theorem execWalkStop_canon (cmd : Nat) (s : State) (hm : MemCanon s.mem) : OutCanon (execWalkStop cmd s) := by
  unfold execWalkStop
  grind [OutCanon, State.updCmd_mem]

/-! ### Every instruction and event -/

/-- Every instruction, walker word and event keeps memory in canonical form: one arm per constructor, the arms of one kind together. -/
theorem exec_canon (i : Instr) (s : State) (hm : MemCanon s.mem) : OutCanon (exec i s) := by
  cases i with
  | nop _ | bra _ _ | horBase _ _ _ _ | handBase _ _ _ _ | handnBase _ _ _ _ | hxorBase _ _ _ _ | hnotBase _ _ _ | hmovBase _ _ _ | hcntBase _ _ _
  | hfirstBase _ _ _ | hmembBase _ _ _ _ _ | hposBase _ _ _ _ _ | saddBase _ _ _ _ _ | smovBase _ _ _ =>
    dsimp only [exec]
    exact runBase_canon _ _ _ hm fun _ => hm
  | yield _ =>
    dsimp only [exec]
    exact runWait_canon _ _ _ hm fun _ => hm
  | iaddBase _ _ _ _ _ | isubBase _ _ _ _ _ | andBase _ _ _ _ _ | orBase _ _ _ _ _ | xorBase _ _ _ _ _ | shlBase _ _ _ _ _ | shrBase _ _ _ _ _
  | movBase _ _ _ =>
    dsimp only [exec]
    exact laneBase_canon _ _ _ _ _ _ _ hm
  | faddBase _ _ _ _ _ | fmulBase _ _ _ _ _ =>
    dsimp only [exec]
    exact laneFBase_canon _ _ _ _ _ _ _ hm
  | htest _ _ _ | htesti _ _ _ | hbit _ _ | horExt _ | handExt _ | handnExt _ | hxorExt _ | hnotExt _ | hmovExt _ | hcntExt _ | hfirstExt _
  | hmembExt _ | hposExt _ | hpick _ | hrange _ | smovExt _ | smovi _ | scmp _ _ | kop _ _ | lscan _ _ _ | vlane _ | topki _ _ | bset _ | tstat _
  | mzero _ | rtflush _ | dmbx _ =>
    dsimp only [exec]
    exact runExt_canon _ _ hm fun _ _ => hm
  | iaddExt _ | isubExt _ | imul _ | imulh _ | imad _ | imin _ | imax _ | iabs _ | iset _ _ | sel _ | andExt _ | orExt _ | xorExt _ | lut3 _
  | shlExt _ | shrExt _ | sar _ | fshl _ | fshr _ | popc _ | clz _ | brev _ | bfe _ | bfi _ | movExt _ | movi _ | shfl _ _ | vbcast _ | fmtw _ =>
    dsimp only [exec]
    exact laneOp_canon _ _ _ _ _ hm
  | saddExt _ | ssub _ | smul _ | sand _ | sor _ | sxor _ | sshl _ | sshr _ | smin _ | smax _ =>
    dsimp only [exec]
    exact salu_canon _ _ _ _ hm
  | faddExt _ | fsub _ | fmulExt _ | fmin _ | fmax _ | fset _ _ =>
    dsimp only [exec]
    exact float2_canon _ _ _ _ _ hm
  | ffma _ | fdiv _ | cvt _ _ =>
    dsimp only [exec]
    exact laneF_canon _ _ _ _ _ hm
  | fclass _ | frnd _ | fsqrt _ | frcp _ | frsq _ | fexp2 _ | flog2 _ | fsin _ | fcos _ | ftanh _ =>
    dsimp only [exec]
    exact float1_canon _ _ _ _ _ hm
  | wend | wldi _ _ | wadd _ _ _ _ | wsub _ _ _ | wand _ _ _ | wshr _ _ _ | wcmp _ _ | wbr _ | wrow _ | wsync =>
    dsimp only [exec]
    exact runWalk_canon _ hm fun _ _ _ _ => trivial
  | brc m off inv k => exact execBrc_canon m off inv k s hm
  | bhe m off h => exact execBhe_canon m off h s hm
  | bhn m off h => exact execBhn_canon m off h s hm
  | loop m off n => exact execLoop_canon m off n s hm
  | call m off => exact execCall_canon m off s hm
  | calls m a => exact execCalls_canon m a s hm
  | ret m => exact execRet_canon m s hm
  | apply m off h va nc vb nw => exact execApply_canon m off h va nc vb nw s hm
  | done m => exact execDone_canon m s hm
  | exit m => exact execExit_canon m s hm
  | hfence x => exact execHfence_canon x s hm
  | lred o x => exact execLred_canon o x s hm
  | bfpq x => exact execBfpq_canon x s hm
  | bfpx x => exact execBfpx_canon x s hm
  | ld x => exact execLd_canon x s hm
  | st x => exact execSt_canon x s hm
  | lds x => exact execLds_canon x s hm
  | sts x => exact execSts_canon x s hm
  | atom o x => exact execAtom_canon o x s hm
  | sred o x => exact execSred_canon o x s hm
  | pref x => exact execPref_canon x s hm
  | ldo x => exact execLdo_canon x s hm
  | sto x => exact execSto_canon x s hm
  | ldc x => exact execLdc_canon x s hm
  | stp x => exact execStp_canon x s hm
  | smap x => exact execSmap_canon x s hm
  | sflush x => exact execSflush_canon x s hm
  | sinv x => exact execSinv_canon x s hm
  | bld x => exact execBld_canon x s hm
  | hld x => exact execHld_canon x s hm
  | hst x => exact execHst_canon x s hm
  | fence order scope x => exact execFence_canon order scope x s hm
  | waitc x => exact execWaitc_canon x s hm
  | sbinit x => exact execSbinit_canon x s hm
  | sbexp x => exact execSbexp_canon x s hm
  | sbarv x => exact execSbarv_canon x s hm
  | sbwait x => exact execSbwait_canon x s hm
  | barHand x => exact execBarHand_canon x s hm
  | barGang x => exact execBarGang_canon x s hm
  | tdef x => exact execTdef_canon x s hm
  | trel x => exact execTrel_canon x s hm
  | mma x => exact execMma_canon x s hm
  | mload x => exact execMload_canon x s hm
  | mdrain x => exact execMdrain_canon x s hm
  | cpy x => exact execCpy_canon x s hm
  | cpo x => exact execCpo_canon x s hm
  | gath x => exact execGath_canon x s hm
  | qpost x => exact execQpost_canon x s hm
  | qpop x => exact execQpop_canon x s hm
  | launch x => exact execLaunch_canon x s hm
  | cmpl x => exact execCmpl_canon x s hm
  | rtsend x => exact execRtsend_canon x s hm
  | rtrecv x => exact execRtrecv_canon x s hm
  | rtrel x => exact execRtrel_canon x s hm
  | spill x => exact execSpill_canon x s hm
  | fill x => exact execFill_canon x s hm
  | tokw x => exact execTokw_canon x s hm
  | vdec x => exact execVdec_canon x s hm
  | vdstat x => exact execVdstat_canon x s hm
  | auct x => exact execAuct_canon x s hm
  | aust x => exact execAust_canon x s hm
  | fork x => exact execFork_canon x s hm
  | grwd x => exact execGrwd_canon x s hm
  | gbar x => exact execGbar_canon x s hm
  | gcancel x => exact execGcancel_canon x s hm
  | gstat x => exact execGstat_canon x s hm
  | walk x => exact execWalk_canon x s hm
  | mfs x => exact execMfs_canon x s hm
  | mts x => exact execMts_canon x s hm
  | trap x => exact execTrap_canon x s hm
  | bkpt x => exact execBkpt_canon x s hm
  | eret x => exact execEret_canon x s hm
  | fpop x => exact execFpop_canon x s hm
  | fres x => exact execFres_canon x s hm
  | tlbi x => exact execTlbi_canon x s hm
  | biasf x => exact execBiasf_canon x s hm
  | ctxs x => exact execCtxs_canon x s hm
  | ctxl x => exact execCtxl_canon x s hm
  | wbz ya t => exact execWbz_canon ya t s hm
  | wblt t => exact execWblt_canon t s hm
  | wld yd ya src => exact execWld_canon yd ya src s hm
  | wbmn yd ya yb src => exact execWbmn_canon yd ya yb src s hm
  | wrun yd yb ya src => exact execWrun_canon yd yb ya src s hm
  | wemit ya yb => exact execWemit_canon ya yb s hm
  | wpush ya => exact execWpush_canon ya s hm
  | wpop yd => exact execWpop_canon yd s hm
  | packFormation gang apply => exact execPackFormation_canon gang apply s hm
  | applyJoin gang apply => exact execApplyJoin_canon gang apply s hm
  | handWriteCommit die core => exact execHandWriteCommit_canon die core s hm
  | stageBarrierCredit cmd => exact execStageBarrierCredit_canon cmd s hm
  | matrixCommandPerform cmd => exact execMatrixCommandPerform_canon cmd s hm
  | copyCommandStart cmd => exact execCopyCommandStart_canon cmd s hm
  | enginePortionComplete cmd => exact execEnginePortionComplete_canon cmd s hm
  | commandRetire cmd => exact execCommandRetire_canon cmd s hm
  | completionPostHeld n => exact execCompletionPostHeld_canon n s hm
  | sendListAppend cmd => exact execSendListAppend_canon cmd s hm
  | frameFormation asid route => exact execFrameFormation_canon asid route s hm
  | tokenIdle cmd => exact execTokenIdle_canon cmd s hm
  | decodeStart cmd => exact execDecodeStart_canon cmd s hm
  | decodeFrame cmd => exact execDecodeFrame_canon cmd s hm
  | auctionStart cmd => exact execAuctionStart_canon cmd s hm
  | auctionRound cmd => exact execAuctionRound_canon cmd s hm
  | auctionSave cmd => exact execAuctionSave_canon cmd s hm
  | auctionRestore cmd => exact execAuctionRestore_canon cmd s hm
  | groupRewardPerform n => exact execGroupRewardPerform_canon n s hm
  | groupCancelPerform n => exact execGroupCancelPerform_canon n s hm
  | cancelRedirect gang agent => exact execCancelRedirect_canon gang agent s hm
  | groupDeadline grp => exact execGroupDeadline_canon grp s hm
  | groupAgeWrite grp => exact execGroupAgeWrite_canon grp s hm
  | groupAgePause grp => exact execGroupAgePause_canon grp s hm
  | walkStart cmd => exact execWalkStart_canon cmd s hm
  | walkerStepLimit cmd => exact execWalkerStepLimit_canon cmd s hm
  | walkStop cmd => exact execWalkStop_canon cmd s hm
  | loadDataReturn gang agent n => exact execLoadDataReturn_canon gang agent n s hm
  | pageTableWalk gang va => exact execPageTableWalk_canon gang va s hm
  | missRetry gang agent n => exact execMissRetry_canon gang agent n s hm
  | writePerformAtHome die n => exact execWritePerformAtHome_canon die n s hm
  | memorySideAtomic n => exact execMemorySideAtomic_canon n s hm
  | stashRemoteRequest gang line write => exact execStashRemoteRequest_canon gang line write s hm
  | directoryEvict line => exact execDirectoryEvict_canon line s hm
  | dupCollapse die n => exact execDupCollapse_canon die n s hm
  | dupCollapseAck page die => exact execDupCollapseAck_canon page die s hm
  | biasFlipComplete frame => exact execBiasFlipComplete_canon frame s hm
  | hostCxlMemAccess addr len bytes => exact execHostCxlMemAccess_canon addr len bytes s hm
  | eccUncorrectable loc => exact execEccUncorrectable_canon loc s hm
  | eccCorrected code => exact execEccCorrected_canon code s hm
  | frameRelease desc => exact execFrameRelease_canon desc s hm
  | launchUnitVisit => exact execLaunchUnitVisit_canon s hm
  | gangHandout grid => exact execGangHandout_canon grid s hm
  | stealMessage grid die => exact execStealMessage_canon grid die s hm
  | gangPlace die => exact execGangPlace_canon die s hm
  | engineCommandAccept die core => exact execEngineCommandAccept_canon die core s hm
  | longWaitThreshold gang => exact execLongWaitThreshold_canon gang s hm
  | gangSave gang => exact execGangSave_canon gang s hm
  | watchedCondition gang => exact execWatchedCondition_canon gang s hm
  | rendezvousTimeout gang n => exact execRendezvousTimeout_canon gang n s hm
  | gangComplete gang => exact execGangComplete_canon gang s hm
  | gangKill gang => exact execGangKill_canon gang s hm
  | preemptRequest w => exact execPreemptRequest_canon w s hm
  | preemptTimeout gang => exact execPreemptTimeout_canon gang s hm
  | resumeRequest w => exact execResumeRequest_canon w s hm
  | dataFrame port frame => exact execDataFrame_canon port frame s hm
  | ackFrame port frame => exact execAckFrame_canon port frame s hm
  | returnFrame port frame => exact execReturnFrame_canon port frame s hm
  | resendTimeout port peer => exact execResendTimeout_canon port peer s hm
  | ethernetPacketReceive port packet => exact execEthernetPacketReceive_canon port packet s hm
  | recoveryGo w => exact execRecoveryGo_canon w s hm
  | launchQueueControl q w => exact execLaunchQueueControl_canon q w s hm
  | launchDoorbell q w => exact execLaunchDoorbell_canon q w s hm
  | hostQueuePost w => exact execHostQueuePost_canon w s hm
  | routeSync w => exact execRouteSync_canon w s hm
  | contextSync w => exact execContextSync_canon w s hm
  | tableBaseWrite off w => exact execTableBaseWrite_canon off w s hm
  | registerWrite off w => exact execRegisterWrite_canon off w s hm
  | powerOn => exact execPowerOn_canon s hm
  | moduleReset => exact execModuleReset_canon s hm
  | firmwareUpdate addr len => exact execFirmwareUpdate_canon addr len s hm
  | spdmRequest req => exact execSpdmRequest_canon req s hm
  | fencedCoreMapUpdate map => exact execFencedCoreMapUpdate_canon map s hm
  | izsilConfigSet cfg => exact execIzsilConfigSet_canon cfg s hm
  | powerLimit => exact execPowerLimit_canon s hm
  | thermalThrottle die => exact execThermalThrottle_canon die s hm
  | thermalStop code => exact execThermalStop_canon code s hm
  | powerLoss midWrite => exact execPowerLoss_canon midWrite s hm
  | hostWriteToHostMemory addr bytes => exact execHostWriteToHostMemory_canon addr bytes s hm

/-! ### Every move, and the step -/

@[simp] theorem tickOn_mem (s : State) : (tickOn s).mem = s.mem := rfl

@[simp] theorem beginStep_mem (exec : Instr → State → Outcome) (s : State) : (beginStep exec s).mem = s.mem :=
  noteResidency_mem s

/-! ### Inputs -/

theorem barWrite_canon (off : Nat) (w : DWord) (s : State) (hm : MemCanon s.mem) : OutCanon (barWrite off w s) := by
  unfold barWrite
  split
  · exact execRecoveryGo_canon w s hm
  split
  · exact execLaunchQueueControl_canon _ w s hm
  split
  · exact execLaunchDoorbell_canon _ w s hm
  split
  · split
    · exact execPreemptRequest_canon w s hm
    · exact execResumeRequest_canon w s hm
  split
  · exact execHostQueuePost_canon w s hm
  split
  · exact execRouteSync_canon w s hm
  split
  · exact execTableBaseWrite_canon off w s hm
  split
  · exact execContextSync_canon w s hm
  · exact execRegisterWrite_canon off w s hm

theorem inputRun_canon (i : Input) (s : State) (hm : MemCanon s.mem) : OutCanon (inputRun i s) := by
  cases i with
  | write off w => exact barWrite_canon off w s hm
  | bar0 off n bs =>
    cases bs with
    | none => simpa [inputRun] using hm
    | some bs =>
      dsimp only [inputRun]
      split
      · exact barWrite_canon _ _ s hm
      · exact hm
  | cxlMem a n bs => exact execHostCxlMemAccess_canon a n bs s hm
  | hostMem a n bs =>
    dsimp only [inputRun]
    split
    · exact hm
    · exact execHostCxlMemAccess_canon _ n bs s hm
  | cfgSpace off n bs => simpa [inputRun] using hm
  | msix n a d k => exact hm
  | hdm t d => exact hm
  | hostStore a bs => exact execHostWriteToHostMemory_canon a bs s hm
  | packet port p => exact execEthernetPacketReceive_canon port p s hm
  | frame port bs =>
    dsimp only [inputRun]
    split
    · exact execDataFrame_canon port bs s hm
    split
    · exact execReturnFrame_canon port bs s hm
    · exact execAckFrame_canon port bs s hm
  | eccUncorrectable loc => exact execEccUncorrectable_canon loc s hm
  | eccCorrected c => exact execEccCorrected_canon c s hm
  | moduleReset => exact execModuleReset_canon s hm
  | firmwareUpdate a n => exact execFirmwareUpdate_canon a n s hm
  | spdm req => exact execSpdmRequest_canon req s hm
  | fencedMap m => exact execFencedCoreMapUpdate_canon m s hm
  | config c => exact execIzsilConfigSet_canon c s hm
  | powerLimit => exact execPowerLimit_canon s hm
  | throttle d => exact execThermalThrottle_canon d s hm
  | thermalStop c => exact execThermalStop_canon c s hm
  | powerLoss mid => exact execPowerLoss_canon mid s hm

theorem takeInput_canon (i : Input) (s : State) (hm : MemCanon s.mem) : OutCanon (takeInput i s) := by
  unfold takeInput
  simp only []
  split
  · exact inputRun_canon i _ hm
  · exact hm

/-! ### Turns -/

theorem acquireFirst_memCanon {s t : State} (e : Env) (hm : MemCanon s.mem) (ht : acquireFirst s e = some t) : MemCanon t.mem := by
  unfold acquireFirst at ht
  split at ht
  · cases ht
    exact hm
  · obtain ⟨u, hu, rfl⟩ := Option.map_eq_some_iff.1 ht
    rw [Env.set_mem]
    exact fence_memCanon e 0 _ hm hu

theorem agentTurn_canon (gang agent : Nat) (s : State) (hm : MemCanon s.mem) : OutCanon (agentTurn exec gang agent s) := by
  unfold agentTurn
  simp only []
  split
  · exact hm
  next e _ =>
  split
  · rw [outCanon_next, memCanon_ite]
    split
    · exact takeDebug_memCanon _ e _ hm
    · exact takeTrap_memCanon _ e _ hm
  split
  · rw [outCanon_next, Env.hold_mem]
    exact hm
  next t ht =>
  have hf : MemCanon (fetch t (e.now t)).1.mem := by
    rw [fetch_mem]
    exact acquireFirst_memCanon (s := { s with cur := .agent gang agent }) e hm ht
  split <;> rename_i hr <;> rw [hr] at hf
  · split
    · exact execCancelRedirect_canon gang agent _ hf
    · exact exec_canon _ _ hf
  · exact fetchFailed_memCanon _ _ _ hf

theorem issueTurn_canon (gang agent : Nat) (s : State) (hm : MemCanon s.mem) : OutCanon (issueTurn exec gang agent s) := by
  have h := agentTurn_canon gang agent s hm
  unfold issueTurn
  split
  · next hr _ =>
    rw [hr] at h
    exact h
  · exact h

theorem wordTurn_canon (cmd : Nat) (s : State) (hm : MemCanon s.mem) : OutCanon (wordTurn exec cmd s) := by
  unfold wordTurn
  simp only []
  split
  · exact hm
  split
  · exact exec_canon _ _ hm
  · exact walkFault_canon _ _ _ hm

/-- A move keeps memory in canonical form. -/
def Turn.Keeps (m : Turn) : Prop := ∀ s, MemCanon s.mem → OutCanon (m.run exec s)

theorem Turn.agent_keeps (gang agent : Nat) : (Turn.agent gang agent).Keeps := issueTurn_canon gang agent

theorem Turn.word_keeps (cmd : Nat) : (Turn.word cmd).Keeps := wordTurn_canon cmd

/-- Each of a list of moves keeps memory in canonical form. -/
def MovesKeep (l : List Turn) : Prop := ∀ m ∈ l, m.Keeps

@[simp] theorem movesKeep_nil : MovesKeep [] := by simp [MovesKeep]

@[simp] theorem movesKeep_cons (m : Turn) (l : List Turn) : MovesKeep (m :: l) ↔ m.Keeps ∧ MovesKeep l := List.forall_mem_cons

@[simp] theorem movesKeep_append (l k : List Turn) : MovesKeep (l ++ k) ↔ MovesKeep l ∧ MovesKeep k := List.forall_mem_append

theorem movesKeep_flatMap {α : Type} (xs : List α) (f : α → List Turn) (h : ∀ a, MovesKeep (f a)) : MovesKeep (xs.flatMap f) := by
  intro m hm
  obtain ⟨a, -, ha⟩ := List.mem_flatMap.1 hm
  exact h a m ha

theorem movesKeep_eventsOf {α : Type} (xs : List α) (p : α → Bool) (f : α → State → Outcome)
    (h : ∀ a s, MemCanon s.mem → OutCanon (f a s)) : MovesKeep (eventsOf xs p f) := by
  intro m hm
  obtain ⟨a, -, rfl⟩ := List.mem_map.1 hm
  exact h a

theorem movesKeep_event (f : State → Outcome) (h : ∀ s, MemCanon s.mem → OutCanon (f s)) : MovesKeep [.event f] := by
  rw [movesKeep_cons]
  exact ⟨h, movesKeep_nil⟩

/-! ### The moves of a state -/

theorem inputMoves_keep (s : State) : MovesKeep (inputMoves s) := movesKeep_eventsOf _ _ _ takeInput_canon

theorem dueMoves_keep (s : State) : MovesKeep (dueMoves s) := by
  simp only [dueMoves, movesKeep_append, and_assoc]
  refine ⟨movesKeep_eventsOf _ _ _ fun w => execHandWriteCommit_canon w.1 w.2.1, movesKeep_eventsOf _ _ _ fun g => execLongWaitThreshold_canon g.uid,
    movesKeep_flatMap _ _ fun g => movesKeep_eventsOf _ _ _ fun r => execRendezvousTimeout_canon g.uid r.n,
    movesKeep_eventsOf _ _ _ fun g => execPreemptTimeout_canon g.uid, movesKeep_eventsOf _ _ _ fun l => execResendTimeout_canon l.port l.peer,
    movesKeep_eventsOf _ _ _ fun g => execGroupDeadline_canon g.pa, movesKeep_eventsOf _ _ _ fun g => execGroupAgeWrite_canon g.pa,
    movesKeep_eventsOf _ _ _ fun g => execGroupAgePause_canon g.pa⟩

theorem agentMoves_keep (s : State) : MovesKeep (agentMoves s) := by
  refine movesKeep_flatMap _ _ fun g m hm => ?_
  obtain ⟨a, -, rfl⟩ := List.mem_map.1 hm
  exact Turn.agent_keeps g.uid a.id

theorem walkMoves_keep (s : State) (c : Cmd) (st : WalkSt) : MovesKeep (walkMoves s c st) := by
  unfold walkMoves
  split
  · exact movesKeep_nil
  split
  · simpa using Turn.word_keeps c.id
  split
  · exact movesKeep_nil
  split
  · exact movesKeep_event _ (execWalkStop_canon c.id)
  split
  · exact movesKeep_event _ (execWalkerStepLimit_canon c.id)
  · exact movesKeep_nil

theorem bodyMoves_keep (s : State) (c : Cmd) : MovesKeep (bodyMoves s c) := by
  unfold bodyMoves
  simp only []
  split
  · exact movesKeep_event _ (execCopyCommandStart_canon c.id)
  · exact movesKeep_event _ (execMatrixCommandPerform_canon c.id)
  · exact movesKeep_event _ (execMatrixCommandPerform_canon c.id)
  · exact movesKeep_event _ (execMatrixCommandPerform_canon c.id)
  · exact movesKeep_event _ (execMatrixCommandPerform_canon c.id)
  · exact movesKeep_event _ (execAuctionStart_canon c.id)
  · exact movesKeep_event _ (execWalkStart_canon c.id)
  · exact movesKeep_event _ (execDecodeStart_canon c.id)
  · simp only [movesKeep_cons, movesKeep_nil, and_true]
    exact ⟨execAuctionStart_canon c.id, execAuctionRound_canon c.id, execAuctionSave_canon c.id⟩
  · exact movesKeep_event _ (execAuctionRestore_canon c.id)
  · exact walkMoves_keep s c _
  · exact movesKeep_event _ (execDecodeFrame_canon c.id)
  · exact movesKeep_nil
  · exact movesKeep_event _ (execMemorySideAtomic_canon c.id)
  · exact movesKeep_event _ (execSendListAppend_canon c.id)
  · exact movesKeep_event _ (execSendListAppend_canon c.id)
  · exact movesKeep_event _ (execTokenIdle_canon c.id)
  · exact movesKeep_event _ (execTokenIdle_canon c.id)
  · exact movesKeep_event _ (execTokenIdle_canon c.id)
  · exact movesKeep_nil

/-- A move made under a condition keeps memory in canonical form where the move does. -/
theorem movesKeep_event_if (b : Prop) [Decidable b] (f : State → Outcome) (h : ∀ s, MemCanon s.mem → OutCanon (f s)) :
    MovesKeep (if b then [.event f] else []) := by
  split
  · exact movesKeep_event f h
  · exact movesKeep_nil

theorem movesKeep_event_unless (b : Prop) [Decidable b] (f : State → Outcome) (h : ∀ s, MemCanon s.mem → OutCanon (f s)) :
    MovesKeep (if b then [] else [.event f]) := by
  split
  · exact movesKeep_nil
  · exact movesKeep_event f h

theorem cmdMoves_keep (s : State) (c : Cmd) : MovesKeep (cmdMoves s c) := by
  unfold cmdMoves
  split
  · exact movesKeep_event _ (execEngineCommandAccept_canon c.die c.core)
  · simp only [movesKeep_append, and_assoc]
    exact ⟨bodyMoves_keep s c, movesKeep_event_if _ _ (execEnginePortionComplete_canon c.id),
      movesKeep_event_unless _ _ (execStageBarrierCredit_canon c.id), movesKeep_event_if _ _ (execCommandRetire_canon c.id)⟩

theorem engineMoves_keep (s : State) : MovesKeep (engineMoves s) := by
  simp only [engineMoves, movesKeep_append, and_assoc]
  exact ⟨movesKeep_flatMap _ _ (cmdMoves_keep s), movesKeep_eventsOf _ _ _ fun p => execCompletionPostHeld_canon p.n,
    movesKeep_eventsOf _ _ _ fun l => execFrameFormation_canon l.1 l.2, movesKeep_event_unless _ _ execPacketTaken_canon,
    movesKeep_eventsOf _ _ _ fun m => execGroupRewardPerform_canon m.n, movesKeep_eventsOf _ _ _ fun m => execGroupCancelPerform_canon m.n,
    movesKeep_eventsOf _ _ _ fun g => execGroupAgeWrite_canon g.pa, movesKeep_eventsOf _ _ _ fun g => execGroupAgePause_canon g.pa⟩

theorem resultMoves_keep (g : Gang) (a : Agent) : MovesKeep (resultMoves g a) := by
  simp only [resultMoves, movesKeep_append]
  exact ⟨movesKeep_eventsOf _ _ _ fun o => execLoadDataReturn_canon g.uid a.id o.1, movesKeep_eventsOf _ _ _ fun o => execMissRetry_canon g.uid a.id o.1⟩

theorem memoryMoves_keep (s : State) : MovesKeep (memoryMoves s) := by
  have hw (g : Gang) (w : WLine) : MovesKeep [.event (execStashRemoteRequest g.uid w.line false), .event (execStashRemoteRequest g.uid w.line true)] := by
    simp only [movesKeep_cons, movesKeep_nil, and_true]
    exact ⟨execStashRemoteRequest_canon g.uid w.line false, execStashRemoteRequest_canon g.uid w.line true⟩
  simp only [memoryMoves, movesKeep_append, and_assoc]
  exact ⟨movesKeep_eventsOf _ _ _ fun w => execHandWriteCommit_canon w.1 w.2, movesKeep_flatMap _ _ fun g => movesKeep_flatMap _ _ (resultMoves_keep g),
    movesKeep_flatMap _ _ fun g => movesKeep_eventsOf _ _ _ fun a => execPageTableWalk_canon g.uid a.pc,
    movesKeep_flatMap _ _ fun g => movesKeep_flatMap _ _ (hw g), movesKeep_eventsOf _ _ _ fun p => execWritePerformAtHome_canon p.die p.n,
    movesKeep_eventsOf _ _ _ fun p => execMemorySideAtomic_canon p.n, movesKeep_eventsOf _ _ _ fun d => execDirectoryEvict_canon d.line,
    movesKeep_eventsOf _ _ _ fun p => execDupCollapse_canon p.die p.n, movesKeep_eventsOf _ _ _ fun p => execDupCollapse_canon p.die p.n,
    movesKeep_flatMap _ _ fun c => movesKeep_eventsOf _ _ _ fun d => execDupCollapseAck_canon c.page.base d,
    movesKeep_eventsOf _ _ _ fun f => execBiasFlipComplete_canon f.frame, movesKeep_eventsOf _ _ _ execFrameRelease_canon⟩

theorem gangMoves_keep (s : State) : MovesKeep (gangMoves s) := by
  simp only [gangMoves, movesKeep_append, and_assoc]
  refine ⟨movesKeep_flatMap _ _ fun g => ?_, movesKeep_eventsOf _ _ _ fun g => execGangSave_canon g.uid,
    movesKeep_eventsOf _ _ _ fun g => execWatchedCondition_canon g.uid, movesKeep_eventsOf _ _ _ fun v => execWatchedCondition_canon v.gang.uid,
    movesKeep_eventsOf _ _ _ fun g => execGangComplete_canon g.uid, movesKeep_eventsOf _ _ _ fun g => execGangKill_canon g.uid,
    movesKeep_eventsOf _ _ _ fun v => execGangKill_canon v.gang.uid⟩
  rw [movesKeep_append]
  exact ⟨movesKeep_eventsOf _ _ _ fun a => execPackFormation_canon g.uid a.n, movesKeep_eventsOf _ _ _ fun a => execApplyJoin_canon g.uid a.n⟩

theorem launchMoves_keep (s : State) : MovesKeep (launchMoves s) := by
  simp only [launchMoves, movesKeep_append, and_assoc]
  refine ⟨movesKeep_event_if _ _ execLaunchUnitVisit_canon, movesKeep_eventsOf _ _ _ fun g => execGangHandout_canon g.n,
    movesKeep_flatMap _ _ fun g => ?_, movesKeep_eventsOf _ _ _ execGangPlace_canon, movesKeep_event_unless _ _ (execHostQueuePost_canon 0#64),
    movesKeep_event_if _ _ (execRouteSync_canon 0#64)⟩
  split
  · exact movesKeep_eventsOf _ _ _ fun d => execStealMessage_canon g.n d
  · exact movesKeep_nil

theorem moves_keep (s : State) : MovesKeep (moves s) := by
  unfold moves
  split
  · exact (movesKeep_cons _ _).2 ⟨execPowerOn_canon, inputMoves_keep s⟩
  · split
    · next h => exact h ▸ dueMoves_keep s
    · simp only [movesKeep_append, and_assoc]
      exact ⟨agentMoves_keep s, engineMoves_keep s, memoryMoves_keep s, gangMoves_keep s, launchMoves_keep s, inputMoves_keep s⟩
  · exact inputMoves_keep s
  · exact inputMoves_keep s

/-! ### The step -/

theorem step_canon (s : State) (hm : MemCanon s.mem) : OutCanon (step s) := by
  have hb : MemCanon (beginStep exec s).mem := by rwa [beginStep_mem]
  have hk := moves_keep (beginStep exec s)
  unfold step stepWith
  simp only []
  split
  · exact hb
  · next m h => exact hk m (by simp [h]) _ hb
  · next m ms _ h =>
    refine hk _ ?_ _ hb
    have hlt : Config.pick s.tick % (ms.length + 1) < (m :: ms).length := Nat.mod_lt _ (Nat.succ_pos ms.length)
    rw [h, List.getD_eq_getElem _ _ hlt]
    exact List.getElem_mem hlt

/-- Settles O11: every move that a step can make keeps memory in canonical form. -/
theorem stepKeepsMemoryCanonical : Obligations.StepKeepsMemoryCanonical := by
  intro s t hs ht
  have h := step_canon s ((inv_iff s).1 hs)
  rw [ht] at h
  exact (inv_iff t).2 h

end Sys2Proof.Machine
end

section
/-! LAW. Every step keeps the operand stores, tiles, accumulators and registers of every gang in canonical form (sections 03, 07): the mirror, for the
tables, of the development about memory above. The predicates `AgentTables`, `GangTables` and `StateTables` speak of the fields that hold the tables, so
that an update of any other field leaves them as they are; a lemma `f_tabs` says that `f` keeps the form, for every operation, instruction and event in
the order of the model, and the last theorem settles O12. -/

namespace Sys2Proof.Machine

/-! ### Canonical tables, as predicates on the fields that hold them (O12) -/

/-- The vector, scalar and buffer registers of an agent in canonical form. -/
def AgentTables (v : Table Word) (s : Table DWord) (b : Table Rec) : Prop := Table.wf 0#32 v = true ∧ Table.wf 0#64 s = true ∧ Table.wf 0#256 b = true

/-- A gang's operand store, tile table and accumulators, and the registers of its agents, in canonical form. -/
def GangTables (os : Table Byte) (tiles : Table DWord) (accs : Table Word) (agents : List Agent) : Prop :=
  Table.wf 0#8 os = true ∧ Table.wf 0#64 tiles = true ∧ Table.wf 0#32 accs = true ∧ ∀ a ∈ agents, a.canon

/-- The tables of resident and of saved gangs in canonical form. -/
def StateTables (gangs : List Gang) (saved : List Saved) : Prop := (∀ g ∈ gangs, g.canon) ∧ ∀ v ∈ saved, v.gang.canon

@[simp] theorem agentTables_self (a : Agent) : AgentTables a.v a.s a.b ↔ a.canon := Iff.rfl

@[simp] theorem gangTables_self (g : Gang) : GangTables g.os g.tiles g.accs g.agents ↔ g.canon := Iff.rfl

@[simp] theorem stateTables_self (s : State) : StateTables s.gangs s.saved ↔ s.Canon := Iff.rfl

@[simp] theorem State.canon_mk {phase cur tick fresh inputs dies ioClk gangs saved cmds holds handQ mem memPoison hostBias flips outq atoms tlb dir l1 l2 tags scs issues accepts
    collapses mail routeV fenced waiters heldPosts grpMsgs groups links sent wire listWork filling parked appended forming ringRows freed ringNext served
    dlq reading lastVisit grids waitGangs deadCtx freeLists bar0 host izsil} :
    (State.mk phase cur tick fresh inputs dies ioClk gangs saved cmds holds handQ mem memPoison hostBias flips outq atoms tlb dir l1 l2 tags scs issues accepts
    collapses mail routeV fenced waiters heldPosts grpMsgs groups links sent wire listWork filling parked appended forming ringRows freed ringNext served
    dlq reading lastVisit grids waitGangs deadCtx freeLists bar0 host izsil).Canon ↔ StateTables gangs saved := Iff.rfl

@[simp] theorem Gang.canon_mk {uid grid idx asid blk die core slot slots osFirst osLines accNos tileNos agents wgs raf ident rafOwn os osq osTags full rels osPoison stash wlines
    tiles filled accs rdvs applies dbg wp self stop dying} :
    (Gang.mk uid grid idx asid blk die core slot slots osFirst osLines accNos tileNos agents wgs raf ident rafOwn os osq osTags full rels osPoison stash wlines
    tiles filled accs rdvs applies dbg wp self stop dying).canon ↔ GangTables os tiles accs agents := Iff.rfl

@[simp] theorem Agent.canon_mk {id isPack wg place depth apply pk members pc st stopped v s k i b fflags trap tepc tinfo rcnt rcache tokens outs bind notice skipDbg prog obs heard
    before after acq ready stood issued voted sbw ahead dupWait pend idle} :
    (Agent.mk id isPack wg place depth apply pk members pc st stopped v s k i b fflags trap tepc tinfo rcnt rcache tokens outs bind notice skipDbg prog obs heard
    before after acq ready stood issued voted sbw ahead dupWait pend idle).canon ↔ AgentTables v s b := Iff.rfl

/-! ### Canonical form: agents -/

/-- Registers that nothing has written are in canonical form. -/
theorem Agent.canon_of_empty (a : Agent) (hv : a.v = []) (hs : a.s = []) (hb : a.b = []) : a.canon := by
  unfold Agent.canon
  rw [hv, hs, hb]
  exact ⟨rfl, rfl, rfl⟩

theorem Agent.canon_default : (default : Agent).canon := Agent.canon_of_empty _ rfl rfl rfl

@[simp] theorem Agent.canon_ite {c : Prop} [Decidable c] (a b : Agent) : (if c then a else b).canon ↔ if c then a.canon else b.canon := by
  split <;> rfl

@[simp] theorem Agent.hold_canon (a : Agent) : a.hold.canon ↔ a.canon := by
  simp [Agent.hold]

@[simp] theorem Agent.fresh_canon (a : Agent) : a.fresh.canon ↔ a.canon := by
  simp [Agent.fresh]

@[simp] theorem Agent.setTrap_canon (a : Agent) (tick : Nat) (t : Trap) (act : Bool) : (a.setTrap tick t act).canon ↔ a.canon := by
  simp [Agent.setTrap]

@[simp] theorem Agent.setToken_canon (a : Agent) (n : Nat) (t : Token) : (a.setToken n t).canon ↔ a.canon := by
  simp [Agent.setToken]

@[simp] theorem Agent.unwait_canon (a : Agent) : a.unwait.canon ↔ a.canon := by
  unfold Agent.unwait
  split <;> simp

@[simp] theorem Agent.wait_canon (due : Nat) (a : Agent) : (a.wait due).canon ↔ a.canon := by
  unfold Agent.wait
  split <;> simp

@[simp] theorem wakeAgent_canon (a : Agent) : (wakeAgent a).canon ↔ a.canon := by
  simp [wakeAgent]

/-- A register write keeps the canonical form (R191). -/
theorem Agent.land_canon (a : Agent) (w : RegWrite) (ha : a.canon) : (a.land w).canon := by
  obtain ⟨hv, hs, hb⟩ := ha
  cases w with
  | v reg lane val => exact ⟨Table.wf_put _ _ _ hv, hs, hb⟩
  | s n val =>
    dsimp only [Agent.land]
    split
    · exact ⟨hv, hs, hb⟩
    · exact ⟨hv, Table.wf_put _ _ _ hs, hb⟩
  | k n val =>
    dsimp only [Agent.land]
    split <;> exact ⟨hv, hs, hb⟩
  | i n val => exact ⟨hv, hs, hb⟩
  | b n val => exact ⟨hv, hs, Table.wf_put _ _ _ hb⟩

theorem landWrites_canon (ws : List RegWrite) {a : Agent} (ha : a.canon) : (ws.foldl Agent.land a).canon :=
  foldl_keeps Agent.canon _ _ _ (fun b w _ hb => b.land_canon w hb) ha

/-! ### Canonical form: gangs -/

@[simp] theorem Gang.canon_ite {c : Prop} [Decidable c] (g h : Gang) : (if c then g else h).canon ↔ if c then g.canon else h.canon := by
  split <;> rfl

theorem mem_updWhere {α : Type} {P : α → Prop} {p : α → Bool} {f : α → α} {l : List α} (hl : ∀ a ∈ l, P a) (hf : ∀ a, P a → P (f a)) :
    ∀ a ∈ updWhere p f l, P a := by
  intro a ha
  obtain ⟨b, hb, rfl⟩ := List.mem_map.1 ha
  split
  · exact hf b (hl b hb)
  · exact hl b hb

theorem Gang.canon.agent {g : Gang} (hg : g.canon) {a : Agent} (ha : a ∈ g.agents) : a.canon := hg.2.2.2 a ha

/-- A gang whose agents alone change. -/
theorem Gang.canon.withAgents {g : Gang} (hg : g.canon) {as : List Agent} (ha : ∀ a ∈ as, a.canon) : GangTables g.os g.tiles g.accs as := by
  obtain ⟨ho, ht, hc, -⟩ := hg
  exact ⟨ho, ht, hc, ha⟩

@[simp] theorem gangTables_updAgents {os : Table Byte} {tiles : Table DWord} {accs : Table Word} {as : List Agent} (p : Agent → Bool) (f : Agent → Agent)
    (h : GangTables os tiles accs as) (hf : ∀ a, a.canon → (f a).canon) : GangTables os tiles accs (updWhere p f as) := by
  obtain ⟨ho, ht, hc, ha⟩ := h
  exact ⟨ho, ht, hc, mem_updWhere ha hf⟩

@[simp] theorem gangTables_mapAgents {os : Table Byte} {tiles : Table DWord} {accs : Table Word} {as : List Agent} (f : Agent → Agent)
    (h : GangTables os tiles accs as) (hf : ∀ a, a.canon → (f a).canon) : GangTables os tiles accs (as.map f) := by
  obtain ⟨ho, ht, hc, ha⟩ := h
  exact ⟨ho, ht, hc, List.forall_mem_map.2 fun a hm => hf a (ha a hm)⟩

@[simp] theorem gangTables_putOs {os : Table Byte} {tiles : Table DWord} {accs : Table Word} {as : List Agent} (bytes : List (Nat × Byte))
    (h : GangTables os tiles accs as) : GangTables (os.putAll 0#8 bytes) tiles accs as := by
  obtain ⟨ho, hr⟩ := h
  exact ⟨Table.wf_putAll _ _ ho, hr⟩

@[simp] theorem gangTables_putTile {os : Table Byte} {tiles : Table DWord} {accs : Table Word} {as : List Agent} (n : Nat) (w : DWord)
    (h : GangTables os tiles accs as) : GangTables os (tiles.put 0#64 n w) accs as := by
  obtain ⟨ho, ht, hr⟩ := h
  exact ⟨ho, Table.wf_put _ _ _ ht, hr⟩

@[simp] theorem gangTables_putAccs {os : Table Byte} {tiles : Table DWord} {accs : Table Word} {as : List Agent} (l : List (Nat × Word))
    (h : GangTables os tiles accs as) : GangTables os tiles (Table.putAll 0#32 accs l) as := by
  obtain ⟨ho, ht, hc, ha⟩ := h
  exact ⟨ho, ht, Table.wf_putAll _ _ hc, ha⟩

theorem Gang.updAgent_canon (g : Gang) (id : Nat) {f : Agent → Agent} (hf : ∀ a, a.canon → (f a).canon) (hg : g.canon) : (g.updAgent id f).canon := by
  obtain ⟨ho, ht, hc, ha⟩ := hg
  exact ⟨ho, ht, hc, mem_updWhere ha hf⟩

@[simp] theorem Gang.osPerform_canon (g : Gang) (sel : OsWrite → Bool) (hg : g.canon) : (g.osPerform sel).canon := by
  unfold Gang.osPerform
  split
  · exact hg
  · obtain ⟨ho, hr⟩ := hg
    exact ⟨foldl_keeps (fun m => Table.wf 0#8 m = true) _ _ _ (fun m p _ hm => Table.wf_putAll m _ hm) ho, hr⟩

@[simp] theorem Gang.setOsTags_canon (g : Gang) (as : List Nat) (ms : List Need) : (g.setOsTags as ms).canon ↔ g.canon := by
  unfold Gang.setOsTags
  simp only []
  split <;> simp

@[simp] theorem Gang.noteHit_canon (g : Gang) : g.noteHit.canon ↔ g.canon := by
  simp [Gang.noteHit]

@[simp] theorem Gang.setFull_canon (g : Gang) (lines : List Nat) (full : Bool) : (g.setFull lines full).canon ↔ g.canon := by
  unfold Gang.setFull
  split <;> simp

@[simp] theorem Gang.setRel_canon (g : Gang) (key : Nat) (ids : List Nat) : (g.setRel key ids).canon ↔ g.canon := by
  simp [Gang.setRel]

@[simp] theorem Gang.addRel_canon (g : Gang) (key : Nat) (ids : List Nat) : (g.addRel key ids).canon ↔ g.canon := by
  simp [Gang.addRel]

@[simp] theorem Gang.dropLines_canon (g : Gang) (w : StashEnt) : (g.dropLines w).canon ↔ g.canon := by
  simp [Gang.dropLines]

@[simp] theorem Gang.setStash_canon (g : Gang) (n : Nat) (w : StashEnt) : (g.setStash n w).canon ↔ g.canon := by
  simp [Gang.setStash]

@[simp] theorem Gang.ask_canon (g : Gang) (c : StopCause) (due : Nat) : (g.ask c due).canon ↔ g.canon := by
  unfold Gang.ask
  repeat' split
  all_goals simp

@[simp] theorem Gang.pushOs_canon (g : Gang) (w : OsWrite) (first : Bool) : (g.pushOs w first).canon ↔ g.canon := by
  unfold Gang.pushOs
  repeat' split
  all_goals simp

@[simp] theorem Gang.putOs_canon (g : Gang) (bytes : List (Nat × Byte)) (hg : g.canon) : (g.putOs bytes).canon := by
  obtain ⟨ho, hr⟩ := (g.setOsTags_canon (bytes.map fun b => b.1) []).2 hg
  exact ⟨Table.wf_putAll _ _ hg.1, hr⟩

@[simp] theorem Gang.flipRels_canon (g : Gang) (a : Nat) (ph : Bool) (n : Nat) : (g.flipRels a ph n).canon ↔ g.canon := by
  induction n generalizing g ph with
  | zero => rfl
  | succ n ih =>
    unfold Gang.flipRels
    simp [ih]

@[simp] theorem Gang.putSbar_canon (g : Gang) (a : Nat) (b : SBar) (hg : g.canon) : (g.putSbar a b).canon := by
  unfold Gang.putSbar
  simp [hg]

@[simp] theorem setWLine_canon (g : Gang) (bytes : List Byte) (w : WLine) (hg : g.canon) : (setWLine g bytes w).canon := by
  simp [setWLine, hg]

@[simp] theorem endDead_canon (g : Gang) (hg : g.canon) : (endDead g).canon := by
  simp [endDead, hg]

@[simp] theorem Gang.relArrival_canon (g : Gang) (a : Nat) (ids : List Nat) : (g.relArrival a ids).canon ↔ g.canon := by
  unfold Gang.relArrival
  simp only []
  repeat' split
  all_goals simp

@[simp] theorem Gang.mixEarly_canon (g : Gang) (tick : Nat) (early : Option (Table Byte)) (as : List Nat) (hg : g.canon) :
    (g.mixEarly tick early as).canon := by
  unfold Gang.mixEarly
  split <;> simp [hg]

@[simp] theorem Gang.giveFlags_canon (g : Gang) (home : Nat) (f : BitVec 5) (hg : g.canon) : (g.giveFlags home f).canon := by
  unfold Gang.giveFlags
  split
  · exact g.updAgent_canon home (fun a ha => ha) hg
  · exact hg

@[simp] theorem unpark_canon (tok : Nat) (g : Gang) (hg : g.canon) : (unpark tok g).canon := by
  unfold unpark
  simp [hg]

@[simp] theorem Gang.asleep_canon (g : Gang) (keep : Bool) (clk : Nat) (hg : g.canon) : (g.asleep keep clk).canon := by
  unfold Gang.asleep
  simp [hg]

@[simp] theorem dropPage_canon (die : Nat) (d : DupPage) (g : Gang) (hg : g.canon) : (dropPage die d g).canon := by
  unfold dropPage
  simp [hg]

@[simp] theorem rehomeReads_canon (die copy size : Nat) (g : Gang) (hg : g.canon) : (rehomeReads die copy size g).canon := by
  unfold rehomeReads
  simp [hg]

/-! ### Canonical form: plain updates of the state -/

@[simp] theorem canon_ite {c : Prop} [Decidable c] (s t : State) : (if c then s else t).Canon ↔ if c then s.Canon else t.Canon := by
  split <;> rfl

@[simp] theorem stateTables_updGangs {gs : List Gang} {vs : List Saved} (p : Gang → Bool) (f : Gang → Gang) (h : StateTables gs vs)
    (hf : ∀ g, g.canon → (f g).canon) : StateTables (updWhere p f gs) vs :=
  ⟨mem_updWhere h.1 hf, h.2⟩

@[simp] theorem stateTables_mapGangs {gs : List Gang} {vs : List Saved} (f : Gang → Gang) (h : StateTables gs vs)
    (hf : ∀ g, g.canon → (f g).canon) : StateTables (gs.map f) vs :=
  ⟨List.forall_mem_map.2 fun g hm => hf g (h.1 g hm), h.2⟩

@[simp] theorem stateTables_updSaved {gs : List Gang} {vs : List Saved} (p : Saved → Bool) (f : Saved → Saved) (h : StateTables gs vs)
    (hf : ∀ v, v.gang.canon → (f v).gang.canon) : StateTables gs (updWhere p f vs) :=
  ⟨h.1, mem_updWhere h.2 hf⟩

@[simp] theorem stateTables_mapSaved {gs : List Gang} {vs : List Saved} (f : Saved → Saved) (h : StateTables gs vs)
    (hf : ∀ v, v.gang.canon → (f v).gang.canon) : StateTables gs (vs.map f) :=
  ⟨h.1, List.forall_mem_map.2 fun v hm => hf v (h.2 v hm)⟩

@[simp] theorem stateTables_filterGangs {gs : List Gang} {vs : List Saved} (p : Gang → Bool) (h : StateTables gs vs) : StateTables (gs.filter p) vs :=
  ⟨fun g hg => h.1 g (List.mem_of_mem_filter hg), h.2⟩

@[simp] theorem stateTables_filterSaved {gs : List Gang} {vs : List Saved} (p : Saved → Bool) (h : StateTables gs vs) : StateTables gs (vs.filter p) :=
  ⟨h.1, fun v hv => h.2 v (List.mem_of_mem_filter hv)⟩

@[simp] theorem stateTables_addGang {gs : List Gang} {vs : List Saved} (g : Gang) : StateTables (gs ++ [g]) vs ↔ StateTables gs vs ∧ g.canon := by
  simp only [StateTables, List.forall_mem_append, List.forall_mem_singleton]
  exact and_right_comm

@[simp] theorem stateTables_addSaved {gs : List Gang} {vs : List Saved} (v : Saved) : StateTables gs (vs ++ [v]) ↔ StateTables gs vs ∧ v.gang.canon := by
  simp only [StateTables, List.forall_mem_append, List.forall_mem_singleton]
  exact and_assoc.symm

@[simp] theorem stateTables_updGang {vs : List Saved} (s : State) (uid : Nat) (f : Gang → Gang) (h : StateTables s.gangs vs)
    (hf : ∀ g, g.canon → (f g).canon) : StateTables (s.updGang uid f).gangs vs :=
  stateTables_updGangs _ f h hf

@[simp] theorem updGang_tabs (s : State) (uid : Nat) (f : Gang → Gang) (hc : s.Canon) (hf : ∀ g, g.canon → (f g).canon) : (s.updGang uid f).Canon :=
  stateTables_updGangs _ f hc hf

@[simp] theorem stateTables_updAgent {vs : List Saved} (s : State) (uid id : Nat) (f : Agent → Agent) (h : StateTables s.gangs vs)
    (hf : ∀ a, a.canon → (f a).canon) : StateTables (s.updAgent uid id f).gangs vs :=
  stateTables_updGangs _ _ h fun g hg => g.updAgent_canon id hf hg

@[simp] theorem updAgent_tabs (s : State) (uid id : Nat) (f : Agent → Agent) (hc : s.Canon) (hf : ∀ a, a.canon → (f a).canon) :
    (s.updAgent uid id f).Canon :=
  stateTables_updAgent s uid id f hc hf

@[simp] theorem Env.stateTables_set {vs : List Saved} (e : Env) (s : State) (f : Agent → Agent) (h : StateTables s.gangs vs)
    (hf : ∀ a, a.canon → (f a).canon) : StateTables (e.set s f).gangs vs :=
  stateTables_updAgent s _ _ f h hf

@[simp] theorem Env.set_tabs (e : Env) (s : State) (f : Agent → Agent) (hc : s.Canon) (hf : ∀ a, a.canon → (f a).canon) : (e.set s f).Canon :=
  updAgent_tabs s _ _ f hc hf

@[simp] theorem Env.stateTables_setGang {vs : List Saved} (e : Env) (s : State) (f : Gang → Gang) (h : StateTables s.gangs vs)
    (hf : ∀ g, g.canon → (f g).canon) : StateTables (e.setGang s f).gangs vs :=
  stateTables_updGang s _ f h hf

@[simp] theorem Env.setGang_tabs (e : Env) (s : State) (f : Gang → Gang) (hc : s.Canon) (hf : ∀ g, g.canon → (f g).canon) : (e.setGang s f).Canon :=
  updGang_tabs s _ f hc hf

@[simp] theorem updDie_tabs (s : State) (d : Nat) (f : Die → Die) : (s.updDie d f).Canon ↔ s.Canon := by
  simp [State.updDie]

@[simp] theorem logEvent_tabs (s : State) (ev : Ev) (d : List Nat) : (logEvent s ev d).Canon ↔ s.Canon := by
  simp [logEvent]

@[simp] theorem dropHold_tabs (s : State) (h : Holder) : (dropHold s h).Canon ↔ s.Canon := by
  simp [dropHold]

@[simp] theorem Env.pushHand_tabs (e : Env) (s : State) (r : Nat) (m v : Hand) : (e.pushHand s r m v).Canon ↔ s.Canon := by
  simp [Env.pushHand]

@[simp] theorem Env.stateTables_addOut {vs : List Saved} (e : Env) (s : State) (o : Out) (h : StateTables s.gangs vs) : StateTables (e.addOut s o).gangs vs :=
  e.stateTables_set s _ h fun a ha => by simp [ha]

@[simp] theorem Env.addOut_tabs (e : Env) (s : State) (o : Out) (hc : s.Canon) : (e.addOut s o).Canon := by
  simp [Env.addOut, hc]

@[simp] theorem Env.addFlags_tabs (e : Env) (s : State) (f : BitVec 5) (hc : s.Canon) : (e.addFlags s f).Canon := by
  simp [Env.addFlags, hc]

@[simp] theorem Env.hold_tabs (e : Env) (s : State) (hc : s.Canon) : (e.hold s).Canon := by
  simp [Env.hold, hc]

@[simp] theorem markDying_tabs (s : State) (uid : Nat) (hc : s.Canon) : (markDying s uid).Canon := by
  simp [markDying, hc]

@[simp] theorem killContext_tabs (s : State) (asid : Nat) (hc : s.Canon) : (killContext s asid).Canon := by
  simp [killContext, hc]

/-- A fold keeps the canonical form where each of its steps does. -/
theorem foldl_tabs {α : Type} (f : State → α → State) (l : List α) {s : State} (hf : ∀ s a, s.Canon → (f s a).Canon) (hc : s.Canon) :
    (l.foldl f s).Canon :=
  foldl_keeps State.Canon f l s (fun s a _ hs => hf s a hs) hc

/-! ### Canonical form: the memory system -/

@[simp] theorem setTags_tabs (s : State) (as : List Nat) (ms : List Need) : (setTags s as ms).Canon ↔ s.Canon := by
  unfold setTags
  simp only []
  split <;> simp

@[simp] theorem trackLine_tabs (s : State) (cl line : Nat) (own : Bool) : (trackLine s cl line own).Canon ↔ s.Canon := by
  simp [trackLine]

@[simp] theorem allocL2_tabs (s : State) (line hint : Nat) : (allocL2 s line hint).Canon ↔ s.Canon := by
  unfold allocL2
  split <;> simp

@[simp] theorem allocL1_tabs (s : State) (die core line hint : Nat) : (allocL1 s die core line hint).Canon ↔ s.Canon := by
  unfold allocL1
  simp only []
  split <;> simp

@[simp] theorem holdL1_tabs (s : State) (had : Bool) (die core line hint : Nat) : (holdL1 s had die core line hint).Canon ↔ s.Canon := by
  unfold holdL1
  simp only
  split <;> split <;> simp

@[simp] theorem dropClean_tabs (s : State) (die core : Nat) (ls : List Nat) (hc : s.Canon) : (dropClean s die core ls).Canon := by
  simp [dropClean, hc]

@[simp] theorem showPairs_tabs (s : State) (l : List (Nat × Nat)) (hc : s.Canon) : (showPairs s l).Canon := by
  unfold showPairs
  refine foldl_tabs _ _ (fun s x hs => ?_) (by simpa using hc)
  split <;> simp [hs]

@[simp] theorem noteAgent_tabs (s : State) (who : Who) (ids : List Nat) (ms : List Need) (hc : s.Canon) : (noteAgent s who ids ms).Canon := by
  unfold noteAgent
  simp only [State.canon_mk]
  exact stateTables_updGangs _ _ hc fun g hg => by simp [hg]

@[simp] theorem clearGroup_tabs (s : State) (p : PendWrite) (hc : s.Canon) : (clearGroup s p).Canon := by
  unfold clearGroup
  split
  · exact hc
  · simp only [State.canon_mk]
    refine stateTables_mapGangs _ hc fun g hg => ?_
    split <;> simp [hg]

@[simp] theorem supply_tabs (s : State) (line : Nat) (hc : s.Canon) : (supply s line).Canon := by
  unfold supply
  split <;> simp [hc]

@[simp] theorem dropWin_tabs (s : State) (line : Nat) (keep : Option (Nat × Nat)) (hc : s.Canon) : (dropWin s line keep).Canon := by
  simp [dropWin, hc]

@[simp] theorem ownLine_tabs (s : State) (line : Nat) (hc : s.Canon) : (ownLine s line).Canon := by
  simp [ownLine, hc]

@[simp] theorem ownWindow_tabs (s : State) (uid : Nat) (w : WLine) (hc : s.Canon) : (ownWindow s uid w).Canon := by
  unfold ownWindow
  extract_lets mine s1 own
  have h1 : s1.Canon := by
    unfold s1
    split <;> simp [hc]
  simp only [State.canon_mk]
  exact stateTables_updGangs _ own h1 fun g hg => by simp [own, hg]

@[simp] theorem fillOwned_tabs (s : State) (uid osLine line : Nat) (hc : s.Canon) : (fillOwned s uid osLine line).Canon := by
  unfold fillOwned
  simp only [State.canon_mk]
  exact stateTables_updGangs _ _ (ownLine_tabs s line hc) fun g hg => by simp [hg]

@[simp] theorem ownThrough_tabs (s : State) (uid osLine line : Nat) (hc : s.Canon) : (ownThrough s uid osLine line).Canon := by
  unfold ownThrough
  split <;> simp [hc]

@[simp] theorem applyHome_tabs (s : State) (bytes : List (Nat × Byte)) (hc : s.Canon) : (applyHome s bytes).Canon := by
  unfold applyHome
  simp only [setTags_tabs, State.canon_mk, stateTables_self]
  exact foldl_tabs _ _ ownLine_tabs hc

@[simp] theorem winPut_tabs (s : State) (w : WinRef) (line : Nat) (bytes : List (Nat × Byte)) (hc : s.Canon) : (winPut s w line bytes).Canon := by
  unfold winPut
  simp only [setTags_tabs, State.canon_mk]
  exact stateTables_updGangs _ _ (ownThrough_tabs s w.gang w.line line hc) fun g hg => by simp [hg]

@[simp] theorem performOne_tabs (s : State) (p : PendWrite) (hc : s.Canon) : (performOne s p).Canon := by
  unfold performOne
  extract_lets ms s1 drop s2 s3
  have h1 : s1.Canon := by
    unfold s1
    split <;> simp [hc]
  have h3 : s3.Canon := by
    unfold s3
    split
    · split <;> simp [s2, h1]
    · simp [s2, h1]
  simp [h3]

@[simp] theorem performSel_tabs (s : State) (sel : PendWrite → Bool) (hc : s.Canon) : (performSel s sel).Canon := by
  unfold performSel
  refine foldl_keeps (fun a : State × List PendWrite => a.1.Canon) _ _ _ (fun a p _ ha => ?_) hc
  split
  · exact ha
  · split
    · exact ha
    · exact performOne_tabs _ _ ha

@[simp] theorem unitPut_tabs (s : State) (bytes : List (Nat × Byte)) (hc : s.Canon) : (unitPut s bytes).Canon := by
  simp [unitPut, hc]

@[simp] theorem evictLine_tabs (s : State) (line : Nat) (hc : s.Canon) : (evictLine s line).Canon := ownLine_tabs s line hc

@[simp] theorem flushLine_tabs (s : State) (line : Nat) (hc : s.Canon) : (flushLine s line).Canon := ownLine_tabs s line hc

@[simp] theorem hostPut_tabs (s : State) (bytes : List (Nat × Byte)) (hc : s.Canon) : (hostPut s bytes).Canon :=
  unitPut_tabs _ _ (foldl_tabs _ _ flushLine_tabs hc)

@[simp] theorem osLand_tabs (s : State) (g : Gang) (p : OsWrite) (hc : s.Canon) : (osLand s g p).Canon := by
  unfold osLand
  simp only []
  refine updGang_tabs _ _ _ ?_ fun g hg => by simp [hg]
  split <;> simp [hc]

@[simp] theorem osPass_tabs (g : Gang) (s : State) (ps : List OsWrite) (hc : s.Canon) : (osPass g s ps).Canon := by
  unfold osPass
  refine foldl_keeps (fun a : State × List OsWrite => a.1.Canon) _ _ _ (fun a p _ ha => ?_) hc
  split
  · exact osLand_tabs _ g p ha
  · exact ha

@[simp] theorem osPasses_tabs (uid : Nat) (sel : OsWrite → Bool) (n : Nat) (s : State) (hc : s.Canon) : (osPasses uid sel n s).Canon := by
  induction n generalizing s with
  | zero => exact hc
  | succ n ih =>
    unfold osPasses
    split
    · exact hc
    · split
      · exact hc
      · exact ih _ (osPass_tabs _ s _ hc)

@[simp] theorem osFlush_tabs (s : State) (uid : Nat) (sel : OsWrite → Bool) (hc : s.Canon) : (osFlush s uid sel).Canon := by
  unfold osFlush
  split <;> simp [hc]

@[simp] theorem pageFault_tabs (s : State) (e : Env) (k : AccKind) (ps : List FaultPage) (hc : s.Canon) : (pageFault s e k ps).Canon := by
  unfold pageFault
  simp only []
  split
  · exact e.hold_tabs s hc
  · refine e.setGang_tabs _ _ (by simp [hc]) fun g hg => ?_
    split <;> simp [hg]

/-! ### Tables in canonical form: the memory system, agents and traps -/

@[simp] theorem dirRead_tabs (s : State) (die core line hint : Nat) (hc : s.Canon) : (dirRead s die core line hint).Canon := by
  unfold dirRead
  simp only []
  repeat' split
  all_goals simp [hc]

@[simp] theorem showSel_tabs (s : State) (who : Who) (sel : PendWrite → Bool) (cores : List Nat) (hc : s.Canon) :
    (showSel s who sel cores).Canon := by
  unfold showSel
  split <;> simp [hc]

@[simp] theorem noteSeen_tabs (s : State) (who : Who) (as : List Nat) (hc : s.Canon) : (noteSeen s who as).Canon := by
  unfold noteSeen
  simp only []
  repeat' split
  all_goals simp [hc]

@[simp] theorem resolveAfter_tabs (s : State) (gang id : Nat) (ws : List Nat) (hc : s.Canon) : (resolveAfter s gang id ws).Canon := by
  unfold resolveAfter
  split
  · exact hc
  · simp only [State.canon_mk]
    exact stateTables_updGangs _ _ hc fun g hg => by simp [hg]

@[simp] theorem noteRead_tabs (s : State) (who : Who) (as : List Nat) (hint : Nat) (hc : s.Canon) : (noteRead s who as hint).Canon := by
  unfold noteRead
  exact foldl_tabs _ _ (fun s l hs => dirRead_tabs s _ _ l hint hs) (noteSeen_tabs s who as hc)

@[simp] theorem pushWrite_tabs (s : State) (who : Who) (p : PendWrite) (hc : s.Canon) : (pushWrite s who p).Canon := by
  simp [pushWrite, hc]

@[simp] theorem pushParts_tabs (who : Who) (i : StoreInfo) (fuel : Nat) (s : State) (bytes : List (Nat × Byte)) (hc : s.Canon) :
    (pushParts s who i bytes fuel).Canon := by
  induction fuel generalizing s bytes with
  | zero => exact hc
  | succ fuel ih =>
    unfold pushParts
    split
    · exact hc
    · simp [ih, hc]

@[simp] theorem clearPoison_tabs (s : State) (as : List Nat) (hc : s.Canon) : (clearPoison s as).Canon := by
  unfold clearPoison
  split <;> simp [hc]

@[simp] theorem noteTlb_tabs (s : State) (who : Who) (ts : List Trans) (hc : s.Canon) : (noteTlb s who ts).Canon := by
  unfold noteTlb
  refine foldl_tabs _ _ (fun s t hs => ?_) hc
  split <;> simp [hs]

@[simp] theorem osNote_tabs (s : State) (uid agent : Nat) (as : List Nat) (hc : s.Canon) : (osNote s uid agent as).Canon := by
  simp [osNote, hc]

@[simp] theorem forget_tabs (s : State) (e : Env) (os : Bool) (as : List Nat) (hc : s.Canon) : (forget s e os as).Canon := by
  unfold forget
  split <;> simp [hc]

@[simp] theorem dropAhead_tabs (s : State) (e : Env) (hc : s.Canon) : (dropAhead s e).Canon := by
  unfold dropAhead
  split <;> simp [hc]

@[simp] theorem noteParts_tabs (s : State) (e : Env) (hit : List (LoadReq × LoadPart)) (hc : s.Canon) : (noteParts s e hit).Canon := by
  unfold noteParts
  extract_lets plain as s1 ms s2
  have h1 : s1.Canon := foldl_tabs _ _ (fun s h hs => foldl_tabs _ _ (fun s l hs => dirRead_tabs s _ _ l _ hs) hs) (noteSeen_tabs s _ as hc)
  have h2 : s2.Canon := by
    unfold s2
    split <;> simp [h1]
  split
  · exact h2
  · exact foldl_tabs _ _ (fun s o hs => resolveAfter_tabs s _ _ _ hs) h2

@[simp] theorem settle_tabs (s : State) (e : Env) (sel : LoadReq → LoadPart → Bool) (hc : s.Canon) : (settle s e sel).Canon := by
  unfold settle
  split
  · exact hc
  · extract_lets os s0 now s1 s2 take
    have h0 : s0.Canon := by
      unfold s0
      split <;> simp [hc]
    have h1 : s1.Canon := by
      unfold s1
      split <;> simp [h0]
    exact e.set_tabs s2 _ (by simp [s2, h1]) fun a ha => by simp [ha]

@[simp] theorem fixRecords_tabs (s : State) (who : Who) (upto : Nat) (as : List Nat) (hc : s.Canon) : (fixRecords s who upto as).Canon := by
  unfold fixRecords
  split <;> simp [hc]

@[simp] theorem performLane_tabs (s : State) (p : PendAtom) (l : AtomLane) (hc : s.Canon) : (performLane s p l).1.Canon := by
  unfold performLane
  extract_lets as s1 qs s2 s3 chain s4 old had s5 ms s6
  have h2 : s2.Canon := by
    unfold s2 s1
    split <;> simp [hc]
  have h4 : s4.Canon := by simp [s4, s3, h2]
  have h6 : s6.Canon := by simp [s6, s5, h4]
  split
  simp [h6]

@[simp] theorem performLanes_tabs (p : PendAtom) (ls : List AtomLane) (s : State) (ws : List RegWrite) (hc : s.Canon) :
    (performLanes p ls s ws).1.Canon := by
  induction ls generalizing s ws with
  | nil => exact hc
  | cons l r ih => exact ih _ _ (performLane_tabs s p l hc)

@[simp] theorem performSome_tabs (s : State) (p : PendAtom) (now later : List AtomLane) (hc : s.Canon) : (performSome s p now later).Canon := by
  unfold performSome
  simp only []
  refine updAgent_tabs _ _ _ _ (performLanes_tabs p now _ [] ?_) fun a ha => by simp [ha]
  simpa using hc

@[simp] theorem performAtom_tabs (s : State) (p : PendAtom) (hc : s.Canon) : (performAtom s p).Canon := performSome_tabs s p p.lanes [] hc

@[simp] theorem performOneLane_tabs (s : State) (p : PendAtom) (hc : s.Canon) : (performOneLane s p).Canon := by
  unfold performOneLane
  simp only []
  split
  · exact performAtom_tabs s p hc
  · exact performSome_tabs s p _ _ hc

@[simp] theorem settleAtoms_tabs (s : State) (agent : Nat) (sel : PendAtom → Bool) (hc : s.Canon) : (settleAtoms s agent sel).Canon := by
  unfold settleAtoms
  refine foldl_tabs _ _ (fun s p hs => ?_) hc
  split
  · split <;> simp [hs]
  · exact hs

@[simp] theorem ownFirst_tabs (s : State) (e : Env) (as : List Nat) (hc : s.Canon) : (ownFirst s e as).Canon := by
  unfold ownFirst
  exact forget_tabs _ e _ _ (settleAtoms_tabs _ _ _ (settle_tabs s e _ hc))

@[simp] theorem landOut_tabs (s : State) (e : Env) (n : Nat) (hc : s.Canon) : (landOut s e n).Canon := by
  unfold landOut
  split
  · exact hc
  · refine e.set_tabs _ _ ?_ fun a ha => ?_
    · split <;> simp [hc]
    · simpa using landWrites_canon _ ha

@[simp] theorem landAll_tabs (e : Env) (fuel : Nat) (s : State) (hc : s.Canon) : (landAll s e fuel).Canon := by
  induction fuel generalizing s with
  | zero => exact hc
  | succ fuel ih =>
    unfold landAll
    have hs := settle_tabs _ e (fun _ _ => true) (settleAtoms_tabs s e.a.id (fun _ => true) hc)
    simp only []
    split
    · exact hs
    · split
      · exact hs
      · exact ih _ (landOut_tabs _ e 0 hs)

@[simp] theorem Env.landAll_tabs (e : Env) (s : State) (hc : s.Canon) : (Env.landAll e s).Canon := by
  simp [Env.landAll, hc]

@[simp] theorem acquire_tabs (s : State) (e : Env) (scope : Nat) (hc : s.Canon) : (acquire s e scope).Canon := by
  unfold acquire
  simp only []
  split <;> simp [hc]

@[simp] theorem release_tabs (s : State) (e : Env) (scope : Nat) (hc : s.Canon) : (release s e scope).Canon := by
  unfold release
  simp only []
  split <;> simp [hc]

@[simp] theorem scJoin_tabs (s : State) (e : Env) (scope : Nat) (hc : s.Canon) : (scJoin s e scope).Canon := by
  unfold scJoin
  split <;> simp [hc]

@[simp] theorem scLeave_tabs (s : State) (e : Env) (scope : Nat) (hc : s.Canon) : (scLeave s e scope).Canon := by
  unfold scLeave
  simp only []
  split <;> simp [hc]

theorem readsIn_tabs {s t : State} (e : Env) (hc : s.Canon) (ht : readsIn s e = some t) : t.Canon := by
  unfold readsIn at ht
  grind [settle_tabs, settleAtoms_tabs]

theorem fence_tabs {s t : State} (e : Env) (order scope : Nat) (hc : s.Canon) (ht : fence s e order scope = some t) : t.Canon := by
  unfold fence at ht
  grind [readsIn_tabs, acquire_tabs, scJoin_tabs, osFlush_tabs, scLeave_tabs, performSel_tabs, showSel_tabs]

theorem fenceFor_tabs {s t : State} (e : Env) (order scope : Nat) (hc : s.Canon) (ht : fenceFor s e order scope = some t) : t.Canon := by
  unfold fenceFor at ht
  grind [fence_tabs, release_tabs, Option.map_eq_some_iff]

theorem relIn_tabs {s t : State} (e : Env) (ids : List Nat) (hc : s.Canon) (ht : relIn s e ids = some t) : t.Canon := by
  unfold relIn at ht
  grind [osFlush_tabs, noteAgent_tabs]

@[simp] theorem Env.pend_tabs (e : Env) (s : State) (t : Trap) (debug : Bool) (hc : s.Canon) : (Env.pend e s t debug).Canon := by
  simp [Env.pend, hc]

@[simp] theorem takeTrap_tabs (s : State) (e : Env) (t : Trap) (hc : s.Canon) : (takeTrap s e t).Canon := by
  simp [takeTrap, hc]

@[simp] theorem leaveTrap_tabs (s : State) (e : Env) (skip : Bool) (hc : s.Canon) : (leaveTrap s e skip).Canon := by
  simp [leaveTrap, hc]

@[simp] theorem takeDebug_tabs (s : State) (e : Env) (t : Trap) (hc : s.Canon) : (takeDebug s e t).Canon := by
  unfold takeDebug
  simp only []
  split
  · split
    · simp [hc]
    · refine e.setGang_tabs _ _ (e.set_tabs _ _ (e.landAll_tabs s hc) fun a ha => by simp [ha]) fun g hg => ?_
      split <;> simp [hg]
  · exact takeTrap_tabs s e t hc

@[simp] theorem advance_tabs (s : State) (e : Env) (h : Hdr) (pc : Addr) (hc : s.Canon) : (advance s e h pc).Canon := by
  unfold advance
  extract_lets s1
  have h1 : s1.Canon := e.set_tabs s _ hc fun a ha => by simp [ha]
  split
  · exact takeDebug_tabs _ _ _ h1
  · exact h1

/-- The tables are in canonical form in the state that an instruction's own effect leaves. -/
def ResTabs : Res → Prop
  | .done t => t.Canon
  | .jump t _ => t.Canon
  | .stay t => t.Canon
  | .wait t => t.Canon
  | .gone t => t.Canon
  | .trap .. => True
  | .page .. => True

@[simp] theorem resTabs_done (t : State) : ResTabs (.done t) ↔ t.Canon := Iff.rfl

@[simp] theorem resTabs_jump (t : State) (pc : Addr) : ResTabs (.jump t pc) ↔ t.Canon := Iff.rfl

@[simp] theorem resTabs_stay (t : State) : ResTabs (.stay t) ↔ t.Canon := Iff.rfl

@[simp] theorem resTabs_wait (t : State) : ResTabs (.wait t) ↔ t.Canon := Iff.rfl

@[simp] theorem resTabs_gone (t : State) : ResTabs (.gone t) ↔ t.Canon := Iff.rfl

@[simp] theorem resTabs_trap (t : TrapInfo) (code : Nat) : ResTabs (.trap t code) := trivial

@[simp] theorem resTabs_page (k : AccKind) (ps : List FaultPage) : ResTabs (.page k ps) := trivial

@[simp] theorem resTabs_result (e : Env) (s : State) (ws : List RegWrite) (f : BitVec 5) (hc : s.Canon) : ResTabs (e.result s ws f) := by
  simp [Env.result, hc]

@[simp] theorem resTabs_ite {c : Prop} [Decidable c] (r q : Res) : ResTabs (if c then r else q) ↔ if c then ResTabs r else ResTabs q := by
  split <;> rfl

/-- The tables are in canonical form in the state that an outcome answers. -/
def OutTabs : Outcome → Prop
  | .next t => t.Canon
  | .fault _ => True
  | .refused _ => True

@[simp] theorem outTabs_next (t : State) : OutTabs (.next t) ↔ t.Canon := Iff.rfl

@[simp] theorem outTabs_fault (r : Fault) : OutTabs (.fault r) := trivial

@[simp] theorem outTabs_refused (r : Refusal) : OutTabs (.refused r) := trivial

@[simp] theorem outTabs_ite {c : Prop} [Decidable c] (o p : Outcome) : OutTabs (if c then o else p) ↔ if c then OutTabs o else OutTabs p := by
  split <;> rfl

@[simp] theorem finish_tabs (s : State) (e : Env) (h : Hdr) (r : Res) (hc : s.Canon) (hr : ResTabs r) : (finish s e h r).Canon := by
  cases r with
  | done t => exact advance_tabs t e h _ hr
  | jump t pc => exact advance_tabs t e h pc hr
  | stay t => exact e.set_tabs t _ hr fun a ha => by simp [ha]
  | wait t => exact e.set_tabs t _ hr fun a ha => by simp [ha]
  | trap t code =>
    simp only [finish]
    split
    · exact takeDebug_tabs s e _ hc
    · exact takeTrap_tabs s e _ hc
  | page k ps => exact pageFault_tabs s e k ps hc
  | gone t => exact hr

theorem issue_tabs (h : Hdr) (s : State) (e : Env) (body : State → Env → Res) (hc : s.Canon) (hb : ResTabs (body s e)) :
    (issue h s e body).Canon := by
  have hf := finish_tabs s e h _ hc hb
  unfold issue
  simp only []
  repeat' split
  all_goals simp [hc, hf]

theorem run_tabs (h : Env → Hdr) {s : State} {body : State → Env → Res} (hc : s.Canon) (hb : ∀ e, ResTabs (body s e)) : OutTabs (run h s body) := by
  unfold run
  split
  · trivial
  · exact issue_tabs _ s _ body hc (hb _)

theorem runBase_tabs (i : Instr) (m : Marks) (words : Nat) {s : State} {body : State → Env → Res} (hc : s.Canon) (hb : ∀ e, ResTabs (body s e)) :
    OutTabs (runBase i m words s body) :=
  run_tabs _ hc hb

theorem runWait_tabs (i : Instr) (m : Marks) (words : Nat) {s : State} {body : State → Env → Res} (hc : s.Canon) (hb : ∀ e, ResTabs (body s e)) :
    OutTabs (runWait i m words s body) :=
  run_tabs _ hc hb

theorem runVec_tabs (i : Instr) (m : Marks) (words : Nat) (regs : List Nat) {s : State} {body : State → Env → Res} (hc : s.Canon) (hb : ∀ e, ResTabs (body s e)) :
    OutTabs (runVec i m words regs s body) :=
  run_tabs _ hc hb

theorem runExt_tabs (i : Instr) (x : Ext) {s : State} {body : State → Env → Regs → Res} (hc : s.Canon) (hb : ∀ e r, ResTabs (body s e r)) :
    OutTabs (runExt i x s body) :=
  run_tabs _ hc fun e => hb e _

/-! ### Tables in canonical form: agents, hands, rendezvous, loads and stores, windows -/

theorem execHfence_tabs (x : Ext) (s : State) (hc : s.Canon) : OutTabs (execHfence x s) := by
  refine runExt_tabs _ _ hc fun e r => ?_
  simp [hc]

@[simp] theorem takeAhead_tabs (s : State) (e : Env) (hc : s.Canon) : (takeAhead s e).Canon := by
  unfold takeAhead
  split <;> simp [hc]

@[simp] theorem startReads_tabs (s : State) (e : Env) (o : Out) (homes : List Nat) (rejected : Nat) (hc : s.Canon) :
    (startReads s e o homes rejected).Canon := by
  unfold startReads
  extract_lets s1 u s2 s3
  have h2 : s2.Canon := ownFirst_tabs _ e homes (takeAhead_tabs s e hc)
  have h3 : s3.Canon := by
    unfold s3
    split <;> simp [h2]
  simp [h3]

@[simp] theorem startLoad_tabs (s : State) (e : Env) (o : Out) (ts : List Trans) (hc : s.Canon) : (startLoad s e o ts).Canon := by
  simp [startLoad, hc]

@[simp] theorem loadThrough_tabs (e : Env) (s : State) (rc w align : Nat) (idx : List (Nat × Nat)) (fmt : Nat → LoadFmt) (hint : Nat)
    (hand : Option Nat) (hc : s.Canon) :
    ResTabs (loadThrough e s rc w align idx fmt hint hand) := by
  unfold loadThrough
  simp only []
  repeat' split
  all_goals simp [hc]

@[simp] theorem startStore_tabs (s : State) (e : Env) (parts : List (List (Nat × Byte) × Option DupPage)) (ts : List Trans) (hint : Nat)
    (hc : s.Canon) :
    (startStore s e parts ts hint).Canon := by
  unfold startStore
  refine foldl_tabs _ _ (fun s p hs => pushParts_tabs _ _ _ s _ hs) ?_
  exact fixRecords_tabs _ _ _ _ (ownFirst_tabs _ e _ (noteTlb_tabs s _ _ hc))

@[simp] theorem storeThrough_tabs (e : Env) (s : State) (rc w align : Nat) (idx : List (Nat × Nat)) (data : Nat → Nat) (hint : Nat) (hc : s.Canon) :
    ResTabs (storeThrough e s rc w align idx data hint) := by
  unfold storeThrough
  split <;> simp [hc]

theorem execLd_tabs (x : Ext) (s : State) (hc : s.Canon) : OutTabs (execLd x s) := by
  refine runExt_tabs _ _ hc fun e r => ?_
  simp [hc]

theorem execSt_tabs (x : Ext) (s : State) (hc : s.Canon) : OutTabs (execSt x s) := by
  refine runExt_tabs _ _ hc fun e r => ?_
  simp [hc]

theorem execLds_tabs (x : Ext) (s : State) (hc : s.Canon) : OutTabs (execLds x s) := by
  refine runExt_tabs _ _ hc fun e r => ?_
  simp [hc]

theorem execSts_tabs (x : Ext) (s : State) (hc : s.Canon) : OutTabs (execSts x s) := by
  refine runExt_tabs _ _ hc fun e r => ?_
  simp [hc]

@[simp] theorem startAtom_tabs (s : State) (e : Env) (p : PendAtom) (zero : List RegWrite) (acq : Bool) (scope : Nat) (hc : s.Canon) :
    (startAtom s e p zero acq scope).Canon := by
  unfold startAtom
  split <;> simp [hc]

theorem execAtom_tabs (o : AtomOp) (x : Ext) (s : State) (hc : s.Canon) : OutTabs (execAtom o x s) := by
  refine runExt_tabs _ _ hc fun e r => ?_
  have hs (ts : List Trans) (as : List Nat) : (ownFirst (noteTlb s e.who ts) e as).Canon := by simp [hc]
  simp only []
  repeat' split
  all_goals simp [hc, hs]

theorem execPref_tabs (x : Ext) (s : State) (hc : s.Canon) : OutTabs (execPref x s) := by
  refine runExt_tabs _ _ hc fun e r => ?_
  simp only []
  split
  · exact hc
  · exact foldl_tabs _ _ (fun s l hs => dirRead_tabs s _ _ l _ hs) hc

theorem execBld_tabs (x : Ext) (s : State) (hc : s.Canon) : OutTabs (execBld x s) := by
  refine runExt_tabs _ _ hc fun e r => ?_
  simp [hc]

theorem execHld_tabs (x : Ext) (s : State) (hc : s.Canon) : OutTabs (execHld x s) := by
  refine runExt_tabs _ _ hc fun e r => ?_
  simp [hc]

theorem execHst_tabs (x : Ext) (s : State) (hc : s.Canon) : OutTabs (execHst x s) := by
  refine runExt_tabs _ _ hc fun e r => ?_
  simp [hc]

theorem execFence_tabs (order : BitVec 2) (scope : BitVec 3) (x : Ext) (s : State) (hc : s.Canon) : OutTabs (execFence order scope x s) := by
  refine runExt_tabs _ _ hc fun e r => ?_
  grind [ResTabs, fenceFor_tabs]

@[simp] theorem takeParts_tabs (s : State) (e : Env) (o : Out) (hc : s.Canon) : (takeParts s e o).Canon := by
  simp [takeParts, hc]

theorem execLoadDataReturn_tabs (gang agent n : Nat) (s : State) (hc : s.Canon) : OutTabs (execLoadDataReturn gang agent n s) := by
  unfold execLoadDataReturn
  simp only []
  repeat' split
  all_goals simp [hc]

theorem execMissRetry_tabs (gang agent n : Nat) (s : State) (hc : s.Canon) : OutTabs (execMissRetry gang agent n s) := by
  unfold execMissRetry
  simp [hc]

theorem execWritePerformAtHome_tabs (die n : Nat) (s : State) (hc : s.Canon) : OutTabs (execWritePerformAtHome die n s) := by
  unfold execWritePerformAtHome
  simp [hc]

@[simp] theorem branch_tabs (e : Env) (s : State) (taken : Bool) (off : ℤ) (hc : s.Canon) : ResTabs (branch e s taken off) := by
  unfold branch
  simp [hc]

theorem execBrc_tabs (m : Marks) (off : BitVec 17) (inv : Bool) (k : BitVec 3) (s : State) (hc : s.Canon) : OutTabs (execBrc m off inv k s) := by
  refine runBase_tabs _ _ _ hc fun e => ?_
  simp [hc]

theorem execBhe_tabs (m : Marks) (off : BitVec 17) (h : BitVec 4) (s : State) (hc : s.Canon) : OutTabs (execBhe m off h s) := by
  refine runBase_tabs _ _ _ hc fun e => ?_
  simp [hc]

theorem execBhn_tabs (m : Marks) (off : BitVec 17) (h : BitVec 4) (s : State) (hc : s.Canon) : OutTabs (execBhn m off h s) := by
  refine runBase_tabs _ _ _ hc fun e => ?_
  simp [hc]

theorem execLoop_tabs (m : Marks) (off : BitVec 15) (n : BitVec 6) (s : State) (hc : s.Canon) : OutTabs (execLoop m off n s) := by
  refine runBase_tabs _ _ _ hc fun e => ?_
  grind [branch_tabs, Env.addOut_tabs]

@[simp] theorem pushCall_tabs (e : Env) (s : State) (ret dest : Addr) (hc : s.Canon) : ResTabs (pushCall e s ret dest) := by
  unfold pushCall
  simp only []
  repeat' split
  all_goals simp [hc]

theorem execCall_tabs (m : Marks) (off : BitVec 21) (s : State) (hc : s.Canon) : OutTabs (execCall m off s) := by
  refine runWait_tabs _ _ _ hc fun e => ?_
  simp [hc]

theorem execCalls_tabs (m : Marks) (n : BitVec 6) (s : State) (hc : s.Canon) : OutTabs (execCalls m n s) := by
  refine runWait_tabs _ _ _ hc fun e => ?_
  simp [hc]

theorem execRet_tabs (m : Marks) (s : State) (hc : s.Canon) : OutTabs (execRet m s) := by
  refine runWait_tabs _ _ _ hc fun e => ?_
  extract_lets dest pop
  have hp (t : State) (more : List DWord) (ht : t.Canon) : (pop t more).Canon := e.set_tabs t _ ht fun a ha => by simp [ha]
  have hr (ts : List Trans) (as homes : List Nat) : (noteRead (ownFirst (noteTlb s e.who ts) e homes) e.who as).Canon :=
    noteRead_tabs _ _ as 0 (ownFirst_tabs _ e homes (noteTlb_tabs s _ ts hc))
  simp only []
  repeat' split
  all_goals simp [hc, hp, hr]

@[simp] theorem resumePast_tabs (s : State) (uid : Nat) (ids : List Nat) (hc : s.Canon) : (resumePast s uid ids).Canon := by
  unfold resumePast
  split
  · exact hc
  · refine foldl_tabs _ _ (fun s id hs => ?_) (by simp [hc])
    split <;> simp [hs]

theorem syncOut_tabs (uid : Nat) (ids : List Nat) {s t : State} {ms : List Nat} (hc : s.Canon) (ht : syncOut uid ids s = some (t, ms)) : t.Canon := by
  induction ids generalizing s t ms with
  | nil => grind [syncOut]
  | cons id r ih =>
    unfold syncOut at ht
    grind [readsIn_tabs, release_tabs, Option.map_eq_some_iff]

theorem syncIn_tabs (uid : Nat) (ids who : List Nat) {s t : State} (hc : s.Canon) (ht : syncIn uid ids who s = some t) : t.Canon := by
  induction who generalizing s t with
  | nil => grind [syncIn]
  | cons id r ih =>
    unfold syncIn at ht
    grind [relIn_tabs, acquire_tabs, Option.bind_eq_some_iff]

theorem syncAll_tabs {s t : State} (uid : Nat) (who : List Nat) (hc : s.Canon) (ht : syncAll s uid who = some t) : t.Canon := by
  obtain ⟨⟨s1, ids⟩, h1, h2⟩ := Option.bind_eq_some_iff.1 ht
  exact syncIn_tabs uid ids who (syncOut_tabs uid who hc h1) h2

@[simp] theorem dropRdv_tabs (s : State) (uid n : Nat) (hc : s.Canon) : (dropRdv s uid n).Canon := by
  simp [dropRdv, hc]

@[simp] theorem completeApply_tabs (s : State) (e : Env) (r : Rdv) (m : Hand) (hc : s.Canon) : (completeApply s e r m).Canon := by
  unfold completeApply
  extract_lets arr donors others go
  have hg (t : State) (ht : t.Canon) : (go t).Canon := resumePast_tabs _ _ _ (dropRdv_tabs t _ _ ht)
  clear_value donors go
  split
  · exact hg s hc
  · split
    · exact hc
    · next hs =>
      refine updGang_tabs _ _ _ ?_ fun g hg => by simp [hg]
      simpa using hg _ (syncOut_tabs _ _ hc hs)

@[simp] theorem completeBar_tabs (s : State) (uid : Nat) (r : Rdv) (due : List Nat) (hc : s.Canon) : (completeBar s uid r due).Canon := by
  unfold completeBar
  split
  · exact hc
  · next ht => exact resumePast_tabs _ _ _ (dropRdv_tabs _ uid r.n (syncAll_tabs _ _ hc ht))

@[simp] theorem recheck_tabs (s : State) (uid n : Nat) (hc : s.Canon) : (recheck s uid n).Canon := by
  unfold recheck
  split
  · exact hc
  split
  · exact hc
  split
  · exact dropRdv_tabs s uid n hc
  split
  · exact hc
  simp only []
  split
  · split
    · exact completeBar_tabs _ _ _ _ hc
    · exact hc
  split
  · exact hc
  split
  · split
    · exact completeApply_tabs _ _ _ _ hc
    · exact completeBar_tabs _ _ _ _ hc
  split
  · exact hc
  split
  · exact hc
  · exact resumePast_tabs _ _ _ (updGang_tabs s uid _ hc fun g hg => by simp [hg])

@[simp] theorem recheckAll_tabs (s : State) (uid : Nat) (hc : s.Canon) : (recheckAll s uid).Canon := by
  unfold recheckAll
  split
  · exact hc
  · exact foldl_tabs _ _ (fun s n hs => recheck_tabs s uid n hs) hc

@[simp] theorem arrive_tabs (e : Env) (s : State) (r : Rdv) (hc : s.Canon) : ResTabs (arrive e s r) := by
  unfold arrive
  extract_lets n join joined s1 s2
  have h1 : s1.Canon := by
    unfold s1
    split
    · exact e.setGang_tabs s _ hc fun g hg => by simp [hg]
    · simpa using e.setGang_tabs s _ hc fun g hg => by simp [hg]
  have h2 : s2.Canon := recheck_tabs s1 _ n h1
  split
  · split <;> exact h2
  · exact h2

theorem execApply_tabs (m : Marks) (off : BitVec 17) (h : BitVec 4) (va : BitVec 8) (nc : BitVec 4) (vb : BitVec 8) (nw : BitVec 4) (s : State)
    (hc : s.Canon) :
    OutTabs (execApply m off h va nc vb nw s) := by
  refine run_tabs _ hc fun e => ?_
  simp [hc]

theorem execBarHand_tabs (x : Ext) (s : State) (hc : s.Canon) : OutTabs (execBarHand x s) := by
  refine runExt_tabs _ _ hc fun e r => ?_
  simp [hc]

theorem execBarGang_tabs (x : Ext) (s : State) (hc : s.Canon) : OutTabs (execBarGang x s) := by
  refine runExt_tabs _ _ hc fun e r => ?_
  simp [hc]

theorem landIds_tabs {s t : State} (uid : Nat) (ids : List Nat) (hc : s.Canon) (ht : landIds s uid ids = some t) : t.Canon := by
  unfold landIds at ht
  simp only [] at ht
  split at ht
  · cases ht
  · cases ht
    exact osFlush_tabs s uid _ hc

/-- The donors of an apply are agents of its gang. -/
theorem donorsOf_canon {g : Gang} (ap : ApplyRec) (hg : g.canon) : ∀ a ∈ donorsOf g ap, a.canon := by
  have hi (b : Agent) (l : List Agent) : ∀ a ∈ insPlace b l, a = b ∨ a ∈ l := by
    induction l with
    | nil => simp [insPlace]
    | cons c r ih =>
      unfold insPlace
      split <;> grind
  have hd (as l : List Agent) (ha : ∀ a ∈ as, a.canon) (hl : ∀ a ∈ l, a.canon) : ∀ a ∈ as.foldl (fun l a => insPlace a l) l, a.canon :=
    foldl_keeps (fun l => ∀ a ∈ l, a.canon) _ _ _ (fun l b hb hl a ham => (hi b l a ham).elim (· ▸ ha b hb) (hl a)) hl
  exact hd _ [] (fun a ha => hg.agent (List.mem_of_mem_filter ha)) (List.forall_mem_nil _)

/-- A pack's registers: the carried ones, and those of the lead donor (R138). -/
theorem makePack_canon {g : Gang} (ap : ApplyRec) {donors : List Agent} (gw id p : Nat) (hd : ∀ a ∈ donors, a.canon) :
    (makePack g ap donors gw id p).canon := by
  have hl : (donors.headD default).canon := by
    cases donors with
    | nil => exact Agent.canon_default
    | cons a r => exact hd a (by simp)
  exact ⟨Table.wf_putAll [] _ rfl, hl.2.1, hl.2.2⟩

theorem execPackFormation_tabs (gang apply : Nat) (s : State) (hc : s.Canon) : OutTabs (execPackFormation gang apply s) := by
  unfold execPackFormation
  split
  · exact hc
  next g hg =>
  split
  · exact hc
  split
  · exact hc
  split
  · exact hc
  next ht =>
  have hp : g.canon := hc.1 g (List.mem_of_find?_eq_some hg)
  refine updGang_tabs _ _ _ (by simpa using landIds_tabs _ _ hc ht) fun h hh => ?_
  simp only [Gang.canon_mk]
  refine hh.withAgents (List.forall_mem_append.2 ⟨fun a ha => hh.agent ha, List.forall_mem_map.2 fun p _ => ?_⟩)
  exact makePack_canon _ _ _ _ (donorsOf_canon _ hp)

theorem endPack_tabs {s t : State} (e : Env) (hc : s.Canon) (ht : endPack s e = some t) : t.Canon := by
  unfold endPack at ht
  obtain ⟨⟨s1, ids⟩, h1, rfl⟩ := Option.map_eq_some_iff.1 ht
  exact updGang_tabs _ _ _ (syncOut_tabs _ _ hc h1) fun g hg => by simp [Gang.updAgent, hg]

@[simp] theorem donePack_tabs (s : State) (e : Env) (hc : s.Canon) : ResTabs (donePack s e) := by
  unfold donePack
  grind [ResTabs, endPack_tabs]

@[simp] theorem raiseHeld_tabs (s : State) (e : Env) (n cause words : Nat) (hc : s.Canon) : ResTabs (raiseHeld s e n cause words) := by
  exact takeTrap_tabs _ e _ (e.set_tabs s _ hc fun a ha => by simp [ha])

theorem execDone_tabs (m : Marks) (s : State) (hc : s.Canon) : OutTabs (execDone m s) := by
  refine runWait_tabs _ _ _ hc fun e => ?_
  grind [ResTabs, raiseHeld_tabs, donePack_tabs]

theorem execExit_tabs (m : Marks) (s : State) (hc : s.Canon) : OutTabs (execExit m s) := by
  refine runWait_tabs _ _ _ hc fun e => ?_
  split
  · exact raiseHeld_tabs s e _ _ _ hc
  split
  · exact hc
  simp only []
  have hp : (e.pushHand s 0 (handOf e.a.members) 0#1024).Canon := by simpa using hc
  split
  · exact e.set_tabs _ _ hp fun a ha => by simp [ha]
  split
  · exact hc
  · next ht => exact endPack_tabs e hp ht

theorem execApplyJoin_tabs (gang apply : Nat) (s : State) (hc : s.Canon) : OutTabs (execApplyJoin gang apply s) := by
  unfold execApplyJoin
  simp only []
  split
  · exact hc
  split
  · exact hc
  split
  · exact hc
  split
  · exact hc
  next t ht =>
  obtain ⟨s1, h1, h2⟩ := Option.bind_eq_some_iff.1 ht
  have hs : t.Canon := syncIn_tabs _ _ _ (landIds_tabs _ _ hc h1) h2
  refine foldl_tabs _ _ (fun s id hs => ?_) (updGang_tabs _ _ _ (by simpa using hs) fun g hg => ?_)
  · split
    · split <;> simp [hs]
    · exact hs
  · simp only [Gang.canon_mk]
    refine hg.withAgents fun a ha => mem_updWhere (fun b hb => hg.agent hb) (fun b hb => ?_) a (List.mem_of_mem_filter ha)
    obtain ⟨hv, hr⟩ := hb
    exact ⟨Table.wf_putAll _ _ hv, hr⟩

theorem execRendezvousTimeout_tabs (gang n : Nat) (s : State) (hc : s.Canon) : OutTabs (execRendezvousTimeout gang n s) := by
  unfold execRendezvousTimeout
  split
  · exact hc
  split
  · exact hc
  split
  · exact hc
  refine foldl_tabs _ _ (fun s id hs => ?_) (dropRdv_tabs s gang n hc)
  split <;> simp [hs]

@[simp] theorem commitHand_tabs (s : State) (w : HandWrite) (hc : s.Canon) : (commitHand s w).Canon := by
  simp [commitHand, hc]

theorem execHandWriteCommit_tabs (die core : Nat) (s : State) (hc : s.Canon) : OutTabs (execHandWriteCommit die core s) := by
  unfold execHandWriteCommit
  simp only []
  split
  · exact hc
  split
  · exact hc
  refine foldl_tabs _ _ (fun s uid hs => recheckAll_tabs s uid hs) (foldl_tabs _ _ (fun s g hs => ?_) (foldl_tabs _ _ commitHand_tabs ?_))
  · exact updGang_tabs s g _ hs endDead_canon
  · simpa using hc

@[simp] theorem fillRead_tabs (s : State) (e : Env) (f : FillLine) (hc : s.Canon) : (fillRead s e f).Canon := by
  unfold fillRead
  exact e.setGang_tabs _ _ (by simp [hc]) fun g hg => by simp [hg]

@[simp] theorem fillWrite_tabs (s : State) (e : Env) (f : FillLine) (hc : s.Canon) : (fillWrite s e f).Canon := by
  simp [fillWrite, hc]

@[simp] theorem startCollapse_tabs (s : State) (d : DupPage) (hc : s.Canon) : (startCollapse s d).Canon := by
  unfold startCollapse
  split <;> simp [hc]

theorem fillWindows_ok_tabs (e : Env) {s t : State} (write : Bool) (acc : List (Nat × Nat)) (hc : s.Canon) (ht : fillWindows e s write acc = .ok t) :
    t.Canon := by
  unfold fillWindows at ht
  have hf (f : List FillLine) (s : State) (hs : s.Canon) :
      (f.foldl (fun s f => if write then fillWrite s e f else fillRead s e f) s).Canon :=
    foldl_tabs _ _ (fun s f hs => by simp [hs]) hs
  grind [noteTlb_tabs]

theorem fillWindows_error_tabs (e : Env) {s : State} {r : Res} (write : Bool) (acc : List (Nat × Nat)) (hc : s.Canon)
    (hr : fillWindows e s write acc = .error r) :
    ResTabs r := by
  unfold fillWindows at hr
  have hd (d : DupPage) : (e.set (startCollapse s d) fun a => { a with dupWait := true }).Canon := by simp [hc]
  grind [ResTabs]

@[simp] theorem osOwnFirst_tabs (s : State) (e : Env) (as : List Nat) (hc : s.Canon) : (osOwnFirst s e as).Canon := by
  simp [osOwnFirst, hc]

theorem execLdo_tabs (x : Ext) (s : State) (hc : s.Canon) : OutTabs (execLdo x s) := by
  refine runExt_tabs _ _ hc fun e r => ?_
  simp only []
  split
  · trivial
  · split
    · exact fillWindows_error_tabs e false _ hc ‹_›
    · have ht := fillWindows_ok_tabs e false _ hc ‹_›
      split
      · trivial
      · split <;> simp [ht]

@[simp] theorem windowStore_tabs (e : Env) (grp w : Nat) (data : Nat → Nat) (s : State) (p : Nat × Nat) (hc : s.Canon) :
    (windowStore e grp w data s p).Canon := by
  unfold windowStore
  split <;> simp [hc]

@[simp] theorem plainStore_tabs (e : Env) (grp w : Nat) (data : Nat → Nat) (s : State) (p : Nat × Nat) (hc : s.Canon) :
    (plainStore e grp w data s p).Canon := by
  simp [plainStore, hc]

@[simp] theorem storeLanes_tabs (e : Env) (s : State) (w : Nat) (data : Nat → Nat) (acc : List (Nat × Nat)) (hc : s.Canon) :
    (storeLanes e s w data acc).Canon := by
  unfold storeLanes
  refine foldl_tabs _ _ (fun s p hs => ?_) hc
  simp only []
  split <;> simp [hs]

theorem execSto_tabs (x : Ext) (s : State) (hc : s.Canon) : OutTabs (execSto x s) := by
  refine runExt_tabs _ _ hc fun e r => ?_
  simp only []
  split
  · trivial
  split
  · exact fillWindows_error_tabs e true _ hc ‹_›
  have ht := fillWindows_ok_tabs e true _ hc ‹_›
  split
  · exact ht
  · exact storeLanes_tabs e _ _ _ _ (fixRecords_tabs _ _ _ _ (osOwnFirst_tabs _ e _ (ownFirst_tabs _ e _ ht)))

theorem osReady_tabs {s t : State} (e : Env) (as : List Nat) (hc : s.Canon) (ht : osReady s e as = some t) : t.Canon := by
  unfold osReady at ht
  grind [osNote_tabs, osOwnFirst_tabs]

@[simp] theorem consumeLines_tabs (e : Env) (s : State) (x : Ext) (r : Regs) (w : Nat) (acc : List (Nat × Nat)) (hc : s.Canon) :
    (consumeLines e s x r w acc).Canon := by
  exact e.addOut_tabs _ _ (e.setGang_tabs _ _ (noteSeen_tabs s _ _ hc) fun g hg => by simp [hg])

theorem execLdc_tabs (x : Ext) (s : State) (hc : s.Canon) : OutTabs (execLdc x s) := by
  refine runExt_tabs _ _ hc fun e r => ?_
  simp only []
  split
  · trivial
  split
  · exact fillWindows_error_tabs e false _ hc ‹_›
  have ht := fillWindows_ok_tabs e false _ hc ‹_›
  split
  · exact e.addOut_tabs _ _ ht
  split
  · trivial
  split
  · exact ht
  next hu =>
  obtain ⟨s2, h2, h3⟩ := Option.bind_eq_some_iff.1 hu
  obtain ⟨s1, h1, h2⟩ := Option.bind_eq_some_iff.1 h2
  have hs := relIn_tabs _ _ (fence_tabs _ _ _ (osReady_tabs _ _ ht h1) h2) h3
  split <;> simp [hs]

@[simp] theorem fillLines_tabs (e : Env) (s : State) (x : Ext) (r : Regs) (w : Nat) (acc : List (Nat × Nat)) (hc : s.Canon) :
    (fillLines e s x r w acc).Canon := by
  unfold fillLines
  refine e.addOut_tabs _ _ (e.setGang_tabs _ _ (foldl_tabs _ _ (fun s p hs => windowStore_tabs e _ _ _ s p hs) ?_) fun g hg => ?_)
  · exact e.setGang_tabs s _ hc fun g hg => by simp [hg]
  · exact foldl_keeps Gang.canon _ _ _ (fun g l _ hg => by simp [hg]) (by simp [hg])

theorem execStp_tabs (x : Ext) (s : State) (hc : s.Canon) : OutTabs (execStp x s) := by
  refine runExt_tabs _ _ hc fun e r => ?_
  simp only []
  split
  · trivial
  split
  · exact fillWindows_error_tabs e true _ hc ‹_›
  have ht := fillWindows_ok_tabs e true _ hc ‹_›
  split
  · exact e.addOut_tabs _ _ ht
  split
  · exact ht
  next hu =>
  obtain ⟨s1, h1, h2⟩ := Option.bind_eq_some_iff.1 hu
  have hs := osReady_tabs _ _ (release_tabs s1 e 1 (readsIn_tabs _ ht h1)) h2
  split
  · exact hs
  · exact fillLines_tabs e _ x r _ _ (fixRecords_tabs _ _ _ _ (ownFirst_tabs _ e _ hs))

@[simp] theorem cleanLine_tabs (s : State) (uid : Nat) (l : WLine) (hc : s.Canon) : (cleanLine s uid l).Canon := by
  unfold cleanLine
  exact updGang_tabs _ _ _ (supply_tabs s _ hc) fun g hg => by simp [hg]

theorem settleWindow_tabs {s t : State} (uid : Nat) (w : StashEnt) (hc : s.Canon) (ht : settleWindow s uid w = some t) : t.Canon := by
  unfold settleWindow at ht
  grind [performSel_tabs]

theorem writeBack_ok_tabs (e : Env) {s t : State} (w : StashEnt) (hc : s.Canon) (ht : writeBack e s w = .ok t) : t.Canon := by
  unfold writeBack at ht
  have hf (ls : List WLine) (s : State) (hs : s.Canon) : (ls.foldl (fun s l => cleanLine s e.g.uid l) s).Canon :=
    foldl_tabs _ _ (fun s l hs => cleanLine_tabs s _ l hs) hs
  grind [settleWindow_tabs, noteTlb_tabs]

theorem writeBack_error_tabs (e : Env) {s : State} {r : Res} (w : StashEnt) (hc : s.Canon) (hr : writeBack e s w = .error r) : ResTabs r := by
  unfold writeBack at hr
  grind [ResTabs, settleWindow_tabs]

theorem execSmap_tabs (x : Ext) (s : State) (hc : s.Canon) : OutTabs (execSmap x s) := by
  refine runExt_tabs _ _ hc fun e r => ?_
  simp only []
  split
  · trivial
  split
  · trivial
  split
  · next hq =>
    split at hq
    · exact writeBack_error_tabs e _ hc hq
    · cases hq
  next t ht =>
  have hs : t.Canon := by
    split at ht
    · exact writeBack_ok_tabs e _ hc ht
    · cases ht
      exact hc
  have hw (w : StashEnt) (sel : OsWrite → Bool) : (e.setGang (osFlush t e.g.uid sel) fun g =>
      (if (e.g.stash.getD x.byteImm default).v then g.dropLines (e.g.stash.getD x.byteImm default) else g).setStash x.byteImm w).Canon := by
    refine e.setGang_tabs _ _ (osFlush_tabs _ _ _ hs) fun g hg => ?_
    rw [Gang.setStash_canon]
    split <;> simp [hg]
  split <;> split <;> simp [hs]

theorem execSflush_tabs (x : Ext) (s : State) (hc : s.Canon) : OutTabs (execSflush x s) := by
  refine runExt_tabs _ _ hc fun e r => ?_
  simp only []
  split
  · exact hc
  · split
    · exact writeBack_error_tabs e _ hc ‹_›
    · exact writeBack_ok_tabs e _ hc ‹_›

theorem execSinv_tabs (x : Ext) (s : State) (hc : s.Canon) : OutTabs (execSinv x s) := by
  refine runExt_tabs _ _ hc fun e r => ?_
  simp only []
  split
  · exact hc
  split
  · exact hc
  · next ht => exact e.setGang_tabs _ _ (settleWindow_tabs _ _ hc ht) fun g hg => by simp [hg]

@[simp] theorem barWrites_tabs (s : State) (uid a : Nat) (hc : s.Canon) : (barWrites s uid a).Canon := by
  simp [barWrites, hc]

@[simp] theorem creditBar_tabs (s : State) (uid : Nat) (bar : Option Nat) (f : SBar → SBar) (hc : s.Canon) : (creditBar s uid bar f).Canon := by
  unfold creditBar
  split
  · exact hc
  · exact updGang_tabs _ uid _ (barWrites_tabs s uid _ hc) fun g hg => by simp [hg]

theorem sbReady_tabs {s t : State} (e : Env) (a : Nat) (hc : s.Canon) (ht : sbReady e s a = some t) : t.Canon := by
  unfold sbReady at ht
  grind [osReady_tabs]

@[simp] theorem sbUpdate_tabs (e : Env) (s : State) (a : Nat) (inRange fresh rd wr : Bool) (f : SBar → SBar) (rels : Gang → Gang)
    (hr : ∀ g, g.canon → (rels g).canon) (hc : s.Canon) : ResTabs (sbUpdate e s a inRange fresh rd wr f rels) := by
  unfold sbUpdate
  split
  · exact hc
  · next t ht =>
    split
    · trivial
    · exact e.setGang_tabs t _ (sbReady_tabs e a hc ht) fun g hg => by simp [hr g hg]

theorem execSbinit_tabs (x : Ext) (s : State) (hc : s.Canon) : OutTabs (execSbinit x s) := by
  refine runExt_tabs _ _ hc fun e r => ?_
  exact sbUpdate_tabs e s _ _ _ _ _ _ _ (fun g hg => by simp [hg]) hc

theorem execSbexp_tabs (x : Ext) (s : State) (hc : s.Canon) : OutTabs (execSbexp x s) := by
  refine runExt_tabs _ _ hc fun e r => ?_
  exact sbUpdate_tabs e s _ _ _ _ _ _ _ (fun g hg => hg) hc

theorem execSbarv_tabs (x : Ext) (s : State) (hc : s.Canon) : OutTabs (execSbarv x s) := by
  refine runExt_tabs _ _ hc fun e r => ?_
  simp only []
  split
  · trivial
  split
  · exact hc
  · next ht => exact sbUpdate_tabs e _ _ _ _ _ _ _ _ (fun g hg => by simp [hg]) (release_tabs _ e 1 (readsIn_tabs e hc ht))

@[simp] theorem waitBar_tabs (e : Env) (s : State) (a : Option Nat) (hc : s.Canon) : (waitBar e s a).Canon := by
  simp [waitBar, hc]

theorem execSbwait_tabs (x : Ext) (s : State) (hc : s.Canon) : OutTabs (execSbwait x s) := by
  refine runExt_tabs _ _ hc fun e r => ?_
  simp only []
  split
  · exact hc
  next ht =>
  have hs := sbReady_tabs _ _ hc ht
  split
  · trivial
  split
  · exact waitBar_tabs _ _ _ hs
  split
  · exact hs
  next hu =>
  obtain ⟨s1, h1, h2⟩ := Option.bind_eq_some_iff.1 hu
  exact waitBar_tabs _ _ _ (relIn_tabs _ _ (fence_tabs _ _ _ hs h1) h2)

theorem execWaitc_tabs (x : Ext) (s : State) (hc : s.Canon) : OutTabs (execWaitc x s) := by
  refine runExt_tabs _ _ hc fun e r => ?_
  simp [hc]

theorem execTdef_tabs (x : Ext) (s : State) (hc : s.Canon) : OutTabs (execTdef x s) := by
  refine runExt_tabs _ _ hc fun e r => ?_
  have hw (n : Nat) (w : DWord) (f : Gang → List Nat) : (e.setGang s fun g => { g with tiles := g.tiles.put 0#64 n w, filled := f g }).Canon :=
    e.setGang_tabs s _ hc fun g hg => by simp [hg]
  dsimp only
  repeat' split
  all_goals simp [hw]

theorem execTrel_tabs (x : Ext) (s : State) (hc : s.Canon) : OutTabs (execTrel x s) := by
  refine runExt_tabs _ _ hc fun e r => ?_
  split
  · exact hc
  · exact e.setGang_tabs s _ hc fun g hg => by simp [hg]

/-! ### Tables in canonical form: units, commands, tokens, copies -/

@[simp] theorem failAcc_tabs (s : State) (a : Acc) (va cause : Nat) (hc : s.Canon) : (failAcc s a va cause).state.Canon := by
  simp [failAcc, UStop.state, hc]

@[simp] theorem engineFault_tabs (s : State) (a : Acc) (k : AccKind) (va cause level : Nat) (hc : s.Canon) :
    (engineFault s a k va cause level).Canon := by
  unfold engineFault
  split <;> simp [hc]

theorem uXlat_error_tabs (s : State) (a : Acc) (k : AccKind) (va : Nat) {u : UStop} (hc : s.Canon) (hu : uXlat s a k va = .error u) :
    u.state.Canon := by
  unfold uXlat at hu
  grind [failAcc_tabs, engineFault_tabs, UStop.state]

theorem uTrans_error_tabs (s : State) (a : Acc) (k : AccKind) (l : List (Nat × Nat)) {u : UStop} (hc : s.Canon) (hu : uTrans s a k l = .error u) :
    u.state.Canon := by
  induction l generalizing u with
  | nil => simp [uTrans] at hu
  | cons p r ih =>
    unfold uTrans at hu
    grind [uXlat_error_tabs]

theorem issuerFirst_tabs {s t : State} (who : Who) (as : List Nat) (hc : s.Canon) (ht : issuerFirst s who as = some t) : t.Canon := by
  unfold issuerFirst at ht
  grind [settleAtoms_tabs, settle_tabs]

theorem issuerOs_tabs {s t : State} (who : Who) (as : List Nat) (hc : s.Canon) (ht : issuerOs s who as = some t) : t.Canon := by
  unfold issuerOs at ht
  grind [settle_tabs, osFlush_tabs]

@[simp] theorem cmdShow_tabs (s : State) (who : Who) (hc : s.Canon) : (cmdShow s who).Canon := by
  unfold cmdShow
  split <;> simp [hc]

theorem uReadAddrs_error_tabs (s : State) (a : Acc) (va n : Nat) {u : UStop} (hc : s.Canon) (hu : uReadAddrs s a va n = .error u) :
    u.state.Canon := by
  unfold uReadAddrs at hu
  grind [uTrans_error_tabs, failAcc_tabs, UStop.state]

theorem uRead_ok_tabs {s t : State} (a : Acc) (va n hint : Nat) {bs : List Byte} (hc : s.Canon) (ht : uRead s a va n hint = .ok (t, bs)) :
    t.Canon := by
  unfold uRead at ht
  grind [issuerFirst_tabs, noteRead_tabs]

theorem uRead_error_tabs {s : State} (a : Acc) (va n hint : Nat) {u : UStop} (hc : s.Canon) (hu : uRead s a va n hint = .error u) :
    u.state.Canon := by
  unfold uRead at hu
  split at hu
  · cases hu
    exact hc
  next h1 =>
  have hs := issuerFirst_tabs _ _ hc h1
  split at hu
  · next h2 =>
    cases hu
    exact uReadAddrs_error_tabs _ a va n hs h2
  · cases hu

theorem uReadNat_ok_tabs {s t : State} (a : Acc) (va n hint : Nat) {v : Nat} (hc : s.Canon) (ht : uReadNat s a va n hint = .ok (t, v)) : t.Canon := by
  unfold uReadNat at ht
  grind [uRead_ok_tabs]

theorem uReadNat_error_tabs {s : State} (a : Acc) (va n hint : Nat) {u : UStop} (hc : s.Canon) (hu : uReadNat s a va n hint = .error u) :
    u.state.Canon := by
  unfold uReadNat at hu
  grind [→ uRead_error_tabs]

theorem uWriteAddrs_error_tabs (s : State) (a : Acc) (va n : Nat) {u : UStop} (hc : s.Canon) (hu : uWriteAddrs s a va n = .error u) :
    u.state.Canon := by
  unfold uWriteAddrs at hu
  grind [uTrans_error_tabs, startCollapse_tabs, UStop.state]

@[simp] theorem uPut_tabs (s : State) (who : Who) (bytes : List (Nat × Byte)) (hc : s.Canon) : (uPut s who bytes).Canon := by
  have hs (as : List Nat) : ((issuerFirst s who as).getD s).Canon := by
    cases h : issuerFirst s who as with
    | none => exact hc
    | some t => exact issuerFirst_tabs who as hc h
  unfold uPut
  exact applyHome_tabs _ _ (clearPoison_tabs _ _ (performSel_tabs _ _ (cmdShow_tabs _ who (hs _))))

theorem uWrite_ok_tabs {s t : State} (a : Acc) (va : Nat) (bs : List Byte) (hc : s.Canon) (ht : uWrite s a va bs = .ok t) : t.Canon := by
  unfold uWrite at ht
  grind [uPut_tabs]

theorem uWrite_error_tabs {s : State} (a : Acc) (va : Nat) (bs : List Byte) {u : UStop} (hc : s.Canon) (hu : uWrite s a va bs = .error u) :
    u.state.Canon := by
  unfold uWrite at hu
  grind [→ uWriteAddrs_error_tabs]

theorem rmwFirst_tabs {s t : State} (who : Who) (as : List Nat) (hc : s.Canon) (ht : rmwFirst s who as = some t) : t.Canon := by
  unfold rmwFirst at ht
  split at ht
  · cases ht
  · obtain ⟨s1, h1, rfl⟩ := Option.map_eq_some_iff.1 ht
    exact performSel_tabs _ _ (cmdShow_tabs _ who (issuerFirst_tabs who as hc h1))

@[simp] theorem UStop.res_tabs (e : Env) (x : Ext) (u : UStop) (hu : u.state.Canon) : ResTabs (u.res e x) := by
  cases u with
  | wait s => exact hu
  | fail s c => exact takeTrap_tabs s e _ hu

@[simp] theorem toDistributor_tabs (s : State) (frame : Nat) (hc : s.Canon) : (toDistributor s frame).Canon := by
  unfold toDistributor
  split
  · exact hc
  · split <;> simp [hc]

@[simp] theorem conditionTrue_tabs (s : State) (uid : Nat) (hc : s.Canon) : (conditionTrue s uid).Canon := by
  unfold conditionTrue
  split
  · exact updGang_tabs s uid _ hc fun g hg => by simp [hg]
  · split <;> simp [hc]

@[simp] theorem State.updCmd_tabs (s : State) (id : Nat) (f : Cmd → Cmd) : (s.updCmd id f).Canon ↔ s.Canon := by
  simp [State.updCmd]

@[simp] theorem State.dropCmd_tabs (s : State) (id : Nat) : (s.dropCmd id).Canon ↔ s.Canon := by
  simp [State.dropCmd]

@[simp] theorem issueCmd_tabs (e : Env) (s : State) (cls : CmdClass) (bar : Option Nat) (body : CmdBody) (hint : Nat) (hc : s.Canon) :
    (issueCmd e s cls bar body hint).Canon := by
  simp [issueCmd, hc]

@[simp] theorem setErr_tabs (s : State) (c : Cmd) (hc : s.Canon) : (setErr s c).Canon := by
  simp [setErr, hc]

@[simp] theorem failCmd_tabs (s : State) (c : Cmd) (hc : s.Canon) : (failCmd s c).Canon := by
  unfold failCmd
  extract_lets left stop s1
  have h1 : s1.Canon := by
    unfold s1
    split
    · exact hc
    · exact updGang_tabs s _ _ hc fun g hg => by simp [hg]
  simp [h1]

@[simp] theorem completeCmd_tabs (s : State) (id : Nat) : (completeCmd s id).Canon ↔ s.Canon := by
  simp [completeCmd]

theorem execEngineCommandAccept_tabs (die core : Nat) (s : State) (hc : s.Canon) : OutTabs (execEngineCommandAccept die core s) := by
  unfold execEngineCommandAccept
  simp only []
  repeat' split
  all_goals simp [hc]

theorem recNat_ok_tabs {s t : State} (c : Cmd) (va n : Nat) {v : Nat} (hc : s.Canon) (ht : recNat s c va n = .ok (t, v)) : t.Canon := by
  unfold recNat at ht
  grind [uRead_ok_tabs]

theorem recNat_error_tabs {s : State} (c : Cmd) (va n : Nat) {u : UStop} (hc : s.Canon) (hu : recNat s c va n = .error u) : u.state.Canon := by
  unfold recNat at hu
  grind [→ uRead_error_tabs, UStop.state]

theorem readNats_error_tabs {s : State} (c : Cmd) (records : Bool) (l : List (Nat × Nat)) {u : UStop} (hc : s.Canon)
    (hu : readNats s c records l = .error u) :
    u.state.Canon := by
  unfold readNats at hu
  grind [recNat_ok_tabs, → recNat_error_tabs, uReadNat_ok_tabs, → uReadNat_error_tabs, State.updCmd_tabs, UStop.state]

/-- The tables are in canonical form in the state that an attempt to write leaves. -/
def TodoTabs : Todo → Prop
  | .none => True
  | .ok t => t.Canon
  | .wait t => t.Canon
  | .fail t => t.Canon

theorem writeTodo_tabs (s : State) (c : Cmd) (hc : s.Canon) : TodoTabs (writeTodo s c) := by
  unfold writeTodo
  grind [TodoTabs, uWrite_ok_tabs, → uWrite_error_tabs, State.updCmd_tabs, UStop.state]

@[simp] theorem dropStage_tabs (s : State) (c : Cmd) (hc : s.Canon) : (dropStage s c).Canon := by
  simp [dropStage, hc]

theorem uWriteList_error_tabs (s : State) (a : Acc) (vas : List Nat) {u : UStop} (hc : s.Canon) (hu : uWriteList s a vas = .error u) :
    u.state.Canon := by
  induction vas generalizing u with
  | nil => simp [uWriteList] at hu
  | cons va r ih =>
    unfold uWriteList at hu
    grind [→ uWriteAddrs_error_tabs]

@[simp] theorem skipLine_tabs (s : State) (c : Cmd) (line : Nat) (hc : s.Canon) : (skipLine s c line).Canon := by
  simp [skipLine, hc]

/-- The tables are in canonical form in the state that a move leaves. -/
def MoveTabs : MoveEnd → Prop
  | .ok t => t.Canon
  | .wait t => t.Canon
  | .fail t => t.Canon

theorem readGranule_tabs (s : State) (c : Cmd) (m : Move) (hc : s.Canon) : MoveTabs (readGranule s c m) := by
  unfold readGranule
  grind [MoveTabs, issuerOs_tabs, skipLine_tabs, failAcc_tabs, State.updCmd_tabs, uRead_ok_tabs, → uRead_error_tabs, UStop.state]

@[simp] theorem noteRecords_tabs (s : State) (c : Cmd) (bytes : List (Nat × Byte)) (hc : s.Canon) : (noteRecords s c bytes).Canon := by
  simp [noteRecords, hc]

theorem copyHomes_error_tabs (s : State) (a : Acc) (vas : List Nat) {u : UStop} (hc : s.Canon) (hu : copyHomes s a vas = .error u) :
    u.state.Canon := by
  induction vas generalizing u with
  | nil => simp [copyHomes] at hu
  | cons va r ih =>
    unfold copyHomes at hu
    grind [uXlat_error_tabs]

theorem writeGranule_tabs (s : State) (c : Cmd) (k : Nat) (ms : List Move) (hc : s.Canon) : MoveTabs (writeGranule s c k ms) := by
  unfold writeGranule
  simp only []
  split
  · exact hc
  split
  · split
    · next h1 => exact copyHomes_error_tabs s _ _ hc h1
    · next h1 => exact copyHomes_error_tabs s _ _ hc h1
    · split
      · exact hc
      · next h1 => simp [MoveTabs, issuerFirst_tabs _ _ hc h1]
  split
  · exact hc
  split
  · exact hc
  split
  · exact hc
  · next h1 =>
    rw [MoveTabs, State.updCmd_tabs]
    exact updGang_tabs _ _ _ (issuerOs_tabs _ _ (cmdShow_tabs s _ hc) h1) fun g hg => by simp [hg]

@[simp] theorem portionsDone_tabs (s : State) (c : Cmd) (hc : s.Canon) : (portionsDone s c).Canon := by
  unfold portionsDone
  split
  · exact hc
  next d _ =>
  split
  · exact hc
  extract_lets waits s1 s2
  have h2 : s2.Canon := by
    unfold s2 s1
    repeat' split
    all_goals simp [hc]
  simp [h2]

@[simp] theorem clearWhole_tabs (s : State) (c : Cmd) (p : Portion) (hc : s.Canon) : (clearWhole s c p).Canon := by
  unfold clearWhole
  repeat' split
  all_goals simp [hc]

@[simp] theorem finishPortion_tabs (s : State) (c : Cmd) (k : Nat) (p : Portion) (hc : s.Canon) : (finishPortion s c k p).Canon := by
  unfold finishPortion
  extract_lets s1 s2 left s3
  have h2 : s2.Canon := by simp [s2, s1, hc]
  have h3 : s3.Canon := by
    unfold s3
    repeat' split
    all_goals simp [h2]
  split
  · simp [s1, hc]
  · exact portionsDone_tabs s3 c h3

theorem portionAt_tabs (s : State) (c : Cmd) (k j : Nat) (hc : s.Canon) : MoveTabs (portionAt s c k j) := by
  unfold portionAt
  grind [MoveTabs, finishPortion_tabs, readGranule_tabs, writeGranule_tabs]

@[simp] theorem stepPortion_tabs (s : State) (c : Cmd) (hc : s.Canon) : (stepPortion s c).Canon := by
  have h := portionAt_tabs s c (Config.choose s.tick 0 % c.portions.length) (Config.choose s.tick 1) hc
  unfold stepPortion
  grind [MoveTabs, failCmd_tabs]

@[simp] theorem mergeAmax_tabs (s : State) (c : Cmd) (t m : Nat) (word : Word) (vas : List Nat) (a : Nat) (hc : s.Canon) :
    (mergeAmax s c t m word vas a).Canon := by
  unfold mergeAmax
  grind [completeCmd_tabs, State.updCmd_tabs, → uWriteList_error_tabs, failAcc_tabs, rmwFirst_tabs, applyHome_tabs, UStop.state]

@[simp] theorem walkStatus_tabs (s : State) (c : Cmd) (t : DWord) (st : WalkSt) (hc : s.Canon) : (walkStatus s c t st).Canon := by
  have h := writeTodo_tabs s c hc
  unfold walkStatus
  grind [TodoTabs, completeCmd_tabs, setErr_tabs, State.updCmd_tabs]

theorem execEnginePortionComplete_tabs (cmd : Nat) (s : State) (hc : s.Canon) : OutTabs (execEnginePortionComplete cmd s) := by
  unfold execEnginePortionComplete
  grind [OutTabs, stepPortion_tabs, mergeAmax_tabs, walkStatus_tabs]

theorem execStageBarrierCredit_tabs (cmd : Nat) (s : State) (hc : s.Canon) : OutTabs (execStageBarrierCredit cmd s) := by
  unfold execStageBarrierCredit
  grind [OutTabs, creditBar_tabs, State.updCmd_tabs]

@[simp] theorem mergeFlags_tabs (s : State) (c : Cmd) (hc : s.Canon) : (mergeFlags s c).Canon := by
  unfold mergeFlags
  split
  · exact hc
  · exact ⟨(updGang_tabs s _ _ hc fun g hg => by simp [hg]).1, (stateTables_updSaved _ _ hc fun v hv => by simp [hv]).2⟩

theorem execCommandRetire_tabs (cmd : Nat) (s : State) (hc : s.Canon) : OutTabs (execCommandRetire cmd s) := by
  unfold execCommandRetire
  split <;> simp [hc]

theorem execSred_tabs (o : AtomOp) (x : Ext) (s : State) (hc : s.Canon) : OutTabs (execSred o x s) := by
  refine runExt_tabs _ _ hc fun e r => ?_
  simp only []
  repeat' split
  all_goals simp [hc]

@[simp] theorem takeItem_tabs (s : State) (c : Cmd) (i : RedItem) (hc : s.Canon) : (takeItem s c i).Canon := by
  unfold takeItem
  simp only []
  repeat' split
  all_goals simp [hc]

@[simp] theorem mergeItems_tabs (wg : Cmd) (fuel : Nat) (s : State) (i : RedItem) (hc : s.Canon) : (mergeItems wg fuel s i).1.Canon := by
  induction fuel generalizing s i with
  | zero => exact hc
  | succ fuel ih =>
    unfold mergeItems
    simp only []
    split
    · exact hc
    split
    · exact hc
    split
    · next h1 => exact ih _ _ (takeItem_tabs _ _ _ (rmwFirst_tabs _ _ hc h1))
    · exact hc

@[simp] theorem performRed_tabs (s : State) (c : Cmd) (i : RedItem) (hc : s.Canon) : (performRed s c i).Canon := by
  simp [performRed, hc]

theorem execMemorySideAtomic_tabs (n : Nat) (s : State) (hc : s.Canon) : OutTabs (execMemorySideAtomic n s) := by
  unfold execMemorySideAtomic
  split
  · rw [outTabs_next, canon_ite]
    split
    · exact performOneLane_tabs s _ hc
    · exact hc
  split
  · exact hc
  simp only []
  split
  · simp [hc]
  split
  · exact hc
  split
  · exact hc
  · next ht => exact performRed_tabs _ _ _ (mergeItems_tabs _ _ _ _ (takeItem_tabs _ _ _ (rmwFirst_tabs _ _ hc ht)))

@[simp] theorem spillStart_tabs (e : Env) (s : State) (x : Ext) (tok : Nat) (body : List (Nat × Option Nat) → CmdBody) (hc : s.Canon) :
    ResTabs (spillStart e s x tok body) := by
  unfold spillStart
  simp only []
  repeat' split
  all_goals simp [hc]

theorem execSpill_tabs (x : Ext) (s : State) (hc : s.Canon) : OutTabs (execSpill x s) := by
  refine runExt_tabs _ _ hc fun e r => ?_
  simp [hc]

theorem execFill_tabs (x : Ext) (s : State) (hc : s.Canon) : OutTabs (execFill x s) := by
  refine runExt_tabs _ _ hc fun e r => ?_
  simp [hc]

theorem execTokw_tabs (x : Ext) (s : State) (hc : s.Canon) : OutTabs (execTokw x s) := by
  refine runExt_tabs _ _ hc fun e r => ?_
  split <;> simp [hc]

@[simp] theorem endToken_tabs (s : State) (c : Cmd) (tok : Nat) (t : Token) (hc : s.Canon) : (endToken s c tok t).Canon := by
  simp [endToken, hc]

@[simp] theorem spillWord_tabs (s : State) (c : Cmd) (tok : Nat) (words : List (Nat × Option Nat × Word)) (hc : s.Canon) :
    (spillWord s c tok words).Canon := by
  unfold spillWord
  grind [endToken_tabs, uWrite_ok_tabs, → uWrite_error_tabs, State.updCmd_tabs, UStop.state]

@[simp] theorem fillWord_tabs (s : State) (c : Cmd) (reg tok : Nat) (words : List (Nat × Option Nat)) (hc : s.Canon) :
    (fillWord s c reg tok words).Canon := by
  unfold fillWord
  grind [endToken_tabs, readNats_ok_eq, → readNats_error_tabs, State.updCmd_tabs, UStop.state]

theorem execTokenIdle_tabs (cmd : Nat) (s : State) (hc : s.Canon) : OutTabs (execTokenIdle cmd s) := by
  have hl (uid id reg : Nat) (ws : List (Nat × Word)) : (s.updAgent uid id fun a => ws.foldl (fun a p => a.land (.v reg p.1 p.2)) a).Canon :=
    updAgent_tabs s uid id _ hc fun a ha => foldl_keeps Agent.canon _ _ _ (fun a p _ ha => a.land_canon _ ha) ha
  unfold execTokenIdle
  dsimp only
  repeat' split
  all_goals simp [hc, hl]

/-! ### Tables in canonical form: auctions, copies, decodes, lane and scalar instructions -/

theorem execAuct_tabs (x : Ext) (s : State) (hc : s.Canon) : OutTabs (execAuct x s) := by
  refine runExt_tabs _ _ hc fun e r => ?_
  simp only []
  repeat' split
  all_goals simp [hc]

theorem execAust_tabs (x : Ext) (s : State) (hc : s.Canon) : OutTabs (execAust x s) := by
  refine runExt_tabs _ _ hc fun e r => ?_
  have ha (t : State) (ht : t.Canon) : (e.set t fun a => { a with acq := some 3 }).Canon := e.set_tabs t _ ht fun a ha => by simp [ha]
  have hl (rc w align : Nat) (idx : List (Nat × Nat)) (fmt : Nat → LoadFmt) := loadThrough_tabs e s rc w align idx fmt 0 none hc
  grind [ResTabs]

@[simp] theorem setAuct_tabs (s : State) (c : Cmd) (regs : List DWord) (st : AuctSt) (hc : s.Canon) : (setAuct s c regs st).Canon := by
  simp [setAuct, hc]

@[simp] theorem auctEnd_tabs (s : State) (c : Cmd) (regs : List DWord) (d : AuctD) (st : AuctSt) (hc : s.Canon) : (auctEnd s c regs d st).Canon := by
  simp [auctEnd, hc]

@[simp] theorem auctFail_tabs (s : State) (c : Cmd) (regs : List DWord) (d : AuctD) (st : AuctSt) (reason : Nat) (hc : s.Canon) :
    (auctFail s c regs d st reason).Canon := by
  simp [auctFail, hc]

@[simp] theorem auctWrite_tabs (s : State) (c : Cmd) (after : State → State) (hc : s.Canon) (ha : (after s).Canon) : (auctWrite s c after).Canon := by
  have h := writeTodo_tabs s c hc
  unfold auctWrite
  grind [TodoTabs, completeCmd_tabs, State.updCmd_tabs]

@[simp] theorem auctInputs_tabs (s : State) (c : Cmd) (regs : List DWord) (d : AuctD) (st : AuctSt) (hc : s.Canon) :
    (auctInputs s c regs d st).Canon := by
  unfold auctInputs
  grind [→ readNats_ok_eq, → readNats_error_tabs, auctFail_tabs, setAuct_tabs, UStop.state]

theorem execAuctionStart_tabs (cmd : Nat) (s : State) (hc : s.Canon) : OutTabs (execAuctionStart cmd s) := by
  unfold execAuctionStart
  simp only []
  repeat' split
  all_goals simp [hc]

theorem execAuctionRound_tabs (cmd : Nat) (s : State) (hc : s.Canon) : OutTabs (execAuctionRound cmd s) := by
  unfold execAuctionRound
  grind [OutTabs, auctWrite_tabs, completeCmd_tabs, logEvent_tabs, issuerOs_tabs, State.updCmd_tabs, setAuct_tabs, auctEnd_tabs]

theorem execAuctionSave_tabs (cmd : Nat) (s : State) (hc : s.Canon) : OutTabs (execAuctionSave cmd s) := by
  unfold execAuctionSave
  split
  · exact hc
  split
  · split
    · exact hc
    split
    · exact auctWrite_tabs s _ _ hc (by simpa using hc)
    split
    · exact hc
    · simp [hc]
  · exact hc

theorem execAuctionRestore_tabs (cmd : Nat) (s : State) (hc : s.Canon) : OutTabs (execAuctionRestore cmd s) := by
  unfold execAuctionRestore
  split
  · exact hc
  · split
    · simp only []
      split
      · exact hc
      · grind [OutTabs, → readNats_ok_eq, → readNats_error_tabs, auctFail_tabs, setAuct_tabs, completeCmd_tabs, UStop.state]
    · exact hc

theorem readWords_error_tabs {s : State} (c : Cmd) (vas : List Nat) {u : UStop} (hc : s.Canon) (hu : readWords s c vas = .error u) : u.state.Canon :=
  readNats_error_tabs c true _ hc hu

theorem readExts_error_tabs {s : State} (c : Cmd) (ws : List Nat) {u : UStop} (hc : s.Canon) (hu : readExts s c ws = .error u) : u.state.Canon := by
  unfold readExts at hu
  grind [→ readNats_error_tabs]

@[simp] theorem startWith_tabs (s : State) (c : Cmd) (ps : List Portion) (hc : s.Canon) : (startWith s c ps).Canon := by
  unfold startWith
  split <;> simp [hc]

theorem execCopyCommandStart_tabs (cmd : Nat) (s : State) (hc : s.Canon) : OutTabs (execCopyCommandStart cmd s) := by
  unfold execCopyCommandStart
  split
  · exact hc
  · split
    · simp only []
      split
      · exact hc
      · split
        · split <;> simp [hc]
        · split
          · simp [hc]
          · grind [OutTabs, → readWords_ok_eq, → readWords_error_tabs, → readExts_ok_eq, → readExts_error_tabs,
              failCmd_tabs, startWith_tabs, UStop.state]
    · exact hc

@[simp] theorem startCopy_tabs (e : Env) (s : State) (x : Ext) (r : Regs) (op : CopyOp) (hc : s.Canon) : ResTabs (startCopy e s x r op) := by
  unfold startCopy
  grind [ResTabs, issueCmd_tabs]

theorem execCpy_tabs (x : Ext) (s : State) (hc : s.Canon) : OutTabs (execCpy x s) := by
  refine runExt_tabs _ _ hc fun e r => ?_
  simp [hc]

theorem execCpo_tabs (x : Ext) (s : State) (hc : s.Canon) : OutTabs (execCpo x s) := by
  refine runExt_tabs _ _ hc fun e r => ?_
  simp [hc]

theorem execGath_tabs (x : Ext) (s : State) (hc : s.Canon) : OutTabs (execGath x s) := by
  refine runExt_tabs _ _ hc fun e r => ?_
  simp only []
  repeat' split
  all_goals simp [hc]

theorem execVdec_tabs (x : Ext) (s : State) (hc : s.Canon) : OutTabs (execVdec x s) := by
  refine runExt_tabs _ _ hc fun e r => ?_
  simp only []
  repeat' split
  all_goals simp [hc]

theorem execVdstat_tabs (x : Ext) (s : State) (hc : s.Canon) : OutTabs (execVdstat x s) := by
  refine runExt_tabs _ _ hc fun e r => ?_
  have ha (t : State) (ht : t.Canon) : (e.set t fun a => { a with acq := some 3 }).Canon := e.set_tabs t _ ht fun a ha => by simp [ha]
  have hl (rc w align : Nat) (idx : List (Nat × Nat)) (fmt : Nat → LoadFmt) := loadThrough_tabs e s rc w align idx fmt 0 none hc
  grind [ResTabs]

@[simp] theorem setDec_tabs (s : State) (c : Cmd) (bf16 : Bool) (dst : Nat) (desc : Option (List Nat)) (st : DecSt) (hc : s.Canon) :
    (setDec s c bf16 dst desc st).Canon := by
  simp [setDec, hc]

@[simp] theorem decOwe_tabs (s : State) (c : Cmd) (st : DecSt) (entry : List (Nat × List Byte)) (hc : s.Canon) : (decOwe s c st entry).Canon := by
  simp [decOwe, hc]

@[simp] theorem decWrite_tabs (s : State) (c : Cmd) (after : State → State) (hc : s.Canon) (ha : (after s).Canon) : (decWrite s c after).Canon := by
  have h := writeTodo_tabs s c hc
  unfold decWrite
  grind [TodoTabs, dropStage_tabs]

theorem execDecodeStart_tabs (cmd : Nat) (s : State) (hc : s.Canon) : OutTabs (execDecodeStart cmd s) := by
  unfold execDecodeStart
  split
  · exact hc
  · split
    · split
      · exact hc
      · grind [OutTabs, → readWords_ok_eq, → readWords_error_tabs, failCmd_tabs, decOwe_tabs, setDec_tabs, State.updCmd_tabs, UStop.state]
    · exact hc

/-- The tables are in canonical form in the state that the reading of a stream leaves. -/
def StreamTabs : StreamEnd → Prop
  | .whole t => t.Canon
  | .cut t => t.Canon
  | .wait t => t.Canon

theorem readStream_tabs (a : Acc) (fuel : Nat) (s : State) (va n : Nat) (hc : s.Canon) : StreamTabs (readStream a fuel s va n).2 := by
  induction fuel generalizing s va n with
  | zero => exact hc
  | succ fuel ih =>
    unfold readStream
    grind [StreamTabs, uRead_ok_tabs, → uRead_error_tabs, UStop.state]

/-- The tables are in canonical form in the state that the search for the next frame leaves. -/
def FrameTabs : NextFrame → Prop
  | .frame t _ _ => t.Canon
  | .finished t _ => t.Canon
  | .wait t => t.Canon

theorem nextAv1_tabs (s : State) (c : Cmd) (st : DecSt) (hc : s.Canon) : FrameTabs (nextAv1 s c st) := by
  have h := readStream_tabs (c.acc s) (st.srcLen / 128 + 2) s st.src st.srcLen hc
  unfold nextAv1
  grind [StreamTabs, FrameTabs]

@[simp] theorem startFrame_tabs (s : State) (c : Cmd) (bf16 : Bool) (dst : Nat) (desc : Option (List Nat)) (st : DecSt) (hc : s.Canon) :
    (startFrame s c bf16 dst desc st).Canon := by
  have h := nextAv1_tabs s c st hc
  unfold startFrame
  grind [FrameTabs, decOwe_tabs, setDec_tabs, State.updCmd_tabs]

theorem execDecodeFrame_tabs (cmd : Nat) (s : State) (hc : s.Canon) : OutTabs (execDecodeFrame cmd s) := by
  unfold execDecodeFrame
  grind [OutTabs, decWrite_tabs, setDec_tabs, completeCmd_tabs, startFrame_tabs]

theorem laneOp_tabs (i : Instr) (x : Ext) (wideD : Bool) (s : State) (f : Env → Regs → Nat → Nat) (hc : s.Canon) : OutTabs (laneOp i x wideD s f) :=
  runExt_tabs _ _ hc fun e _ => resTabs_result e s _ _ hc

theorem laneBase_tabs (i : Instr) (m : Marks) (words : Nat) (regs : List Nat) (d : Nat) (s : State) (f : Env → Nat → Nat) (hc : s.Canon) :
    OutTabs (laneBase i m words regs d s f) :=
  runVec_tabs _ _ _ _ hc fun e => resTabs_result e s _ _ hc

theorem salu_tabs (i : Instr) (x : Ext) (s : State) (f : Nat → Nat → Nat) (hc : s.Canon) : OutTabs (salu i x s f) :=
  runExt_tabs _ _ hc fun e _ => resTabs_result e s _ _ hc

theorem laneF_tabs (i : Instr) (x : Ext) (wideD : Bool) (s : State) (f : Env → Regs → Nat → Nat × BitVec 5) (hc : s.Canon) :
    OutTabs (laneF i x wideD s f) :=
  runExt_tabs _ _ hc fun e _ => resTabs_result e s _ _ hc

theorem laneFBase_tabs (i : Instr) (m : Marks) (words : Nat) (regs : List Nat) (d : Nat) (s : State) (f : Env → Nat → Nat × BitVec 5) (hc : s.Canon) :
    OutTabs (laneFBase i m words regs d s f) :=
  runVec_tabs _ _ _ _ hc fun e => resTabs_result e s _ _ hc

theorem float2_tabs (i : Instr) (x : Ext) (wideD : Bool) (s : State) (op : Fmt → Nat → Nat → Nat × BitVec 5) (hc : s.Canon) :
    OutTabs (float2 i x wideD s op) :=
  laneF_tabs _ _ _ _ _ hc

theorem float1_tabs (i : Instr) (x : Ext) (wideD : Bool) (s : State) (op : Fmt → Nat → Nat × BitVec 5) (hc : s.Canon) :
    OutTabs (float1 i x wideD s op) :=
  laneF_tabs _ _ _ _ _ hc

theorem execBfpq_tabs (x : Ext) (s : State) (hc : s.Canon) : OutTabs (execBfpq x s) := by
  refine runExt_tabs _ _ hc fun e r => ?_
  simp [hc]

theorem execBfpx_tabs (x : Ext) (s : State) (hc : s.Canon) : OutTabs (execBfpx x s) := by
  unfold execBfpx
  grind [laneF_tabs]

theorem execLred_tabs (o : RedOp) (x : Ext) (s : State) (hc : s.Canon) : OutTabs (execLred o x s) := by
  refine runExt_tabs _ _ hc fun e r => ?_
  simp only []
  repeat' split
  all_goals simp [hc]

/-! ### Tables in canonical form: queues, completion records, the routing engine -/

/-- The tables are in canonical form in the state that a unit's access leaves, in one that stops it too. -/
def UTabs {α : Type} : U (State × α) → Prop
  | .ok p => p.1.Canon
  | .error u => u.state.Canon

/-- The tables are in canonical form in the state of an access that is stopped. -/
def StopTabs {α : Type} : U α → Prop
  | .ok _ => True
  | .error u => u.state.Canon

theorem uRead_tabs (s : State) (a : Acc) (va n hint : Nat) (hc : s.Canon) : UTabs (uRead s a va n hint) := by
  cases h : uRead s a va n hint with
  | ok p => exact uRead_ok_tabs a va n hint hc h
  | error u => exact uRead_error_tabs a va n hint hc h

theorem uReadNat_tabs (s : State) (a : Acc) (va n hint : Nat) (hc : s.Canon) : UTabs (uReadNat s a va n hint) := by
  cases h : uReadNat s a va n hint with
  | ok p => exact uReadNat_ok_tabs a va n hint hc h
  | error u => exact uReadNat_error_tabs a va n hint hc h

theorem rmwFirst_getD_tabs (s : State) (who : Who) (as : List Nat) (hc : s.Canon) : ((rmwFirst s who as).getD s).Canon := by
  cases h : rmwFirst s who as with
  | none => exact hc
  | some t => exact rmwFirst_tabs who as hc h

theorem readQ_tabs (s : State) (a : Acc) (u : Nat) (hc : s.Canon) : UTabs (readQ s a u) := by
  unfold readQ
  grind [UTabs, rmwFirst_getD_tabs, uReadNat_tabs]

theorem firstQ_tabs (s : State) (a : Acc) (l : List Nat) (hc : s.Canon) : UTabs (firstQ s a l) := by
  induction l generalizing s with
  | nil => exact hc
  | cons u r ih =>
    have h := readQ_tabs s a u hc
    unfold firstQ
    grind [UTabs]

theorem pickShard_tabs (s : State) (a : Acc) (data own : Nat) (hc : s.Canon) : UTabs (pickShard s a data own) := by
  unfold pickShard
  split
  · exact firstQ_tabs s a _ hc
  · exact hc
  · exact firstQ_tabs s a _ hc

theorem takeCont_tabs (s : State) (a : Acc) (entry : List Byte) (hc : s.Canon) : UTabs (takeCont s a entry) := by
  unfold takeCont
  grind [UTabs, uRead_tabs, uReadNat_tabs, → uWrite_ok_tabs, → uWrite_error_tabs, logEvent_tabs, UStop.state]

theorem popQ_tabs (a : Acc) (u fuel : Nat) (s : State) (hc : s.Canon) : UTabs (popQ a u fuel s) := by
  induction fuel generalizing s with
  | zero => exact hc
  | succ fuel ih =>
    have h := readQ_tabs s a u hc
    unfold popQ
    split <;> rename_i hq <;> rw [hq] at h
    · exact h
    · exact h
    split
    · exact h
    split
    · exact h
    have h1 := uRead_tabs _ a (QDesc.slot ‹_› (QDesc.taken ‹_›)) 32 0 h
    split <;> rename_i hr <;> rw [hr] at h1
    · exact h1
    simp only []
    split
    · grind [UTabs, uRead_tabs, → uWrite_ok_tabs, → uWrite_error_tabs]
    · grind [UTabs, takeCont_tabs, → uWrite_ok_tabs, → uWrite_error_tabs]

@[simp] theorem dropWaiter_tabs (s : State) (e : Env) (hc : s.Canon) : (dropWaiter s e).Canon := by
  simp [dropWaiter, hc]

@[simp] theorem receive_tabs (s : State) (e : Env) (p : Pop) (hc : s.Canon) : (receive s e p).Canon := by
  unfold receive
  have hw := dropWaiter_tabs s e hc
  cases p with
  | entry bs bind =>
    have hs := e.set_tabs (dropWaiter s e) (fun a => { a with acq := some 3 }) hw fun a ha => by simp [ha]
    refine e.addOut_tabs _ _ ?_
    cases bind with
    | none => exact hs
    | some b => exact e.setGang_tabs _ _ hs fun g hg => g.updAgent_canon _ (fun a ha => by simp [ha]) hg
  | _ => exact e.addOut_tabs _ _ hw

@[simp] theorem wakeQ_tabs (s : State) (asid u : Nat) (hc : s.Canon) : (wakeQ s asid u).Canon := by
  unfold wakeQ
  grind [UTabs, popQ_tabs, takeTrap_tabs, advance_tabs, receive_tabs, dropWaiter_tabs, conditionTrue_tabs, UStop.state]

theorem postQ_tabs (s : State) (a : Acc) (u : Nat) (entry : List Byte) (hc : s.Canon) : UTabs (postQ s a u entry) := by
  unfold postQ
  grind [UTabs, readQ_tabs, → uWriteAddrs_error_tabs, uPut_tabs, wakeQ_tabs]

theorem postTarget_tabs (s : State) (a : Acc) (q : Nat) (entry : List Byte) (own : Nat) (hc : s.Canon) : UTabs (postTarget s a q entry own) := by
  unfold postTarget
  split
  · exact pickShard_tabs s a _ own hc
  · exact firstQ_tabs s a _ hc

theorem execQpost_tabs (x : Ext) (s : State) (hc : s.Canon) : OutTabs (execQpost x s) := by
  refine runExt_tabs _ _ hc fun e r => ?_
  simp only []
  split
  · trivial
  split
  · trivial
  · trivial
  next l ts ha =>
  split
  · trivial
  split
  · trivial
  split
  · exact hc
  have hs : (ownFirst (noteTlb s e.who ts) e (homeBytesOf (allPieces l))).Canon := by simp [hc]
  split
  · trivial
  split
  · trivial
  split
  · exact hs
  next t hf =>
  have ht := fence_tabs e 1 3 (noteRead_tabs _ _ _ 0 hs) hf
  grind [ResTabs, UTabs, postTarget_tabs, postQ_tabs, UStop.res_tabs, resTabs_result]

theorem popAny_tabs (a : Acc) (l : List Nat) (s : State) (hc : s.Canon) : UTabs (popAny a l s) := by
  induction l generalizing s with
  | nil => exact hc
  | cons u r ih =>
    have h := popQ_tabs a u popFuel s hc
    unfold popAny
    grind [UTabs]

theorem execQpop_tabs (x : Ext) (s : State) (hc : s.Canon) : OutTabs (execQpop x s) := by
  refine runExt_tabs _ _ hc fun e _ => ?_
  have hu (t : State) (ht : t.Canon) : (e.setGang t fun g => g.updAgent e.placeHolder fun a => { a with bind := none, notice := false }).Canon :=
    e.setGang_tabs _ _ ht fun g hg => g.updAgent_canon _ (fun a ha => by simp [ha]) hg
  split
  · trivial
  · grind [ResTabs, UTabs, State.canon_mk, stateTables_self, firstQ_tabs, popAny_tabs, receive_tabs, UStop.res_tabs]

theorem execLaunch_tabs (x : Ext) (s : State) (hc : s.Canon) : OutTabs (execLaunch x s) := by
  refine runExt_tabs _ _ hc fun e r => ?_
  simp only []
  split
  · trivial
  split
  · trivial
  split
  · exact resTabs_result e s _ _ hc
  split
  · exact hc
  next t hf => exact resTabs_result e _ _ _ (by simpa using fence_tabs e 1 3 hc hf)

@[simp] theorem recordErr_tabs (s : State) (rec' : List Nat) (code : Nat) (hc : s.Canon) : (recordErr s rec' code).Canon := by
  simp [recordErr, hc]

@[simp] theorem dropPost_tabs (s : State) (n : Nat) (hc : s.Canon) : (dropPost s n).Canon := by
  simp [dropPost, hc]

@[simp] theorem failPost_tabs (s : State) (p : HeldPost) (code : Nat) (hc : s.Canon) : (failPost s p code).Canon := by
  unfold failPost
  split
  · exact hc
  · exact recordErr_tabs _ _ _ (dropPost_tabs s _ hc)

@[simp] theorem HeldPost.note_tabs (p : HeldPost) (s : State) (entry : Option (List Byte)) (target : Nat) (hc : s.Canon) :
    (HeldPost.note p s entry target).Canon := by
  simp [HeldPost.note, hc]

@[simp] theorem makePost_tabs (s : State) (p : HeldPost) (bs : List Byte) (hc : s.Canon) : (makePost s p bs).Canon := by
  unfold makePost
  grind [UTabs, postTarget_tabs, postQ_tabs, failPost_tabs, dropPost_tabs, HeldPost.note_tabs, UStop.state]

@[simp] theorem tryPost_tabs (s : State) (n : Nat) (hc : s.Canon) : (tryPost s n).Canon := by
  unfold tryPost
  grind [State.canon_mk, stateTables_self, UTabs, uRead_tabs, failPost_tabs, makePost_tabs, dropPost_tabs, HeldPost.note_tabs, UStop.state]

theorem decrement_tabs {s t : State} (who : Who) (shard : Nat) (rec' : List Nat) {n : Nat} (hc : s.Canon)
    (ht : decrement s who shard rec' = some (t, n)) :
    t.Canon := by
  unfold decrement at ht
  obtain ⟨s1, h1, h2⟩ := Option.map_eq_some_iff.1 ht
  have hs := rmwFirst_tabs who rec' hc h1
  grind [State.canon_mk, stateTables_self, recordErr_tabs, applyHome_tabs, tryPost_tabs]

theorem execCmpl_tabs (x : Ext) (s : State) (hc : s.Canon) : OutTabs (execCmpl x s) := by
  refine runExt_tabs _ _ hc fun e r => ?_
  simp only []
  split
  · trivial
  split
  · trivial
  · trivial
  next l ts ha =>
  split
  · trivial
  split
  · exact resTabs_result e s _ _ hc
  split
  · exact startCollapse_tabs s _ hc
  split
  · exact hc
  have hs : (ownFirst (noteTlb s e.who ts) e (homeBytesOf (allPieces l))).Canon := by simp [hc]
  split
  · exact hs
  next t old h =>
  obtain ⟨u, h1, h2⟩ := Option.bind_eq_some_iff.1 h
  exact resTabs_result e _ _ _ (decrement_tabs _ _ _ (fence_tabs e 1 3 hs h1) h2)

theorem execCompletionPostHeld_tabs (n : Nat) (s : State) (hc : s.Canon) : OutTabs (execCompletionPostHeld n s) := by
  unfold execCompletionPostHeld
  simp [hc]

theorem readList_tabs (s : State) (a : Acc) (asid route : Nat) (hc : s.Canon) : UTabs (readList s a asid route) := by
  unfold readList
  grind [UTabs, uReadNat_tabs]

@[simp] theorem freeSlot_tabs (s : State) (asid route : Nat) (kitty : Bool) (size k : Nat) (hc : s.Canon) :
    (freeSlot s asid route kitty size k).Canon := by
  simp [freeSlot, hc]

/-- The tables are in canonical form in the state that a step leaves, done or put off. -/
def StepTabs : Except State State → Prop
  | .ok t => t.Canon
  | .error t => t.Canon

theorem listStep_tabs (s : State) (w : ListWork) (hc : s.Canon) : StepTabs (listStep s w) := by
  unfold listStep
  grind [State.canon_mk, stateTables_self, StepTabs, UTabs, readList_tabs, → uWrite_ok_tabs, → uWrite_error_tabs, freeSlot_tabs, UStop.state]

@[simp] theorem bump_tabs (s : State) (asid route off n : Nat) (ent : Option Nat) (hc : s.Canon) : (bump s asid route off n ent).Canon := by
  have h := listStep_tabs s ⟨asid, route, off, n, ent⟩ hc
  unfold bump
  grind [State.canon_mk, stateTables_self, StepTabs]

theorem routeOk_tabs (s : State) (a : Acc) (r : Nat) (hc : s.Canon) : StopTabs (routeOk s a r) := by
  have h := readList_tabs s a a.who.asid r hc
  unfold routeOk
  grind [StopTabs, UTabs]

theorem entOk_tabs (s : State) (a : Acc) (e : RouteEnt) (hc : s.Canon) : StopTabs (entOk s a e) := by
  unfold entOk
  grind [StopTabs, routeOk_tabs]

theorem badEnt_tabs (s : State) (a : Acc) (l : List (Nat × RouteEnt)) (hc : s.Canon) : StopTabs (badEnt s a l) := by
  induction l with
  | nil => trivial
  | cons p r ih =>
    have h := entOk_tabs s a p.2 hc
    unfold badEnt
    grind [StopTabs]

theorem execRtsend_tabs (x : Ext) (s : State) (hc : s.Canon) : OutTabs (execRtsend x s) := by
  refine runExt_tabs _ _ hc fun e r => ?_
  have h := badEnt_tabs s e.unit (e.lanes.map fun l => (l, e.routeEnt r.d l)) hc
  grind [ResTabs, StopTabs, UStop.res_tabs, issueCmd_tabs]

@[simp] theorem flushDone_tabs (s : State) : (flushDone s).Canon ↔ s.Canon := by
  simp [flushDone]

@[simp] theorem appendEnt_tabs (s : State) (c : Cmd) (e : RouteEnt) (rest : List RouteEnt) (hc : s.Canon) : (appendEnt s c e rest).Canon := by
  unfold appendEnt
  grind [State.canon_mk, stateTables_self, UTabs, readList_tabs, → uWrite_ok_tabs, → uWrite_error_tabs, freeSlot_tabs, completeCmd_tabs, State.updCmd_tabs, UStop.state]

@[simp] theorem takeFlush_tabs (s : State) (c : Cmd) (hc : s.Canon) : (takeFlush s c).Canon := by
  unfold takeFlush
  extract_lets mine lists n s1 s2
  exact foldl_tabs _ _ (fun t l ht => bump_tabs t l.1 l.2 oFLUSHED (n l) none ht) hc

theorem execSendListAppend_tabs (cmd : Nat) (s : State) (hc : s.Canon) : OutTabs (execSendListAppend cmd s) := by
  unfold execSendListAppend
  grind [OutTabs, completeCmd_tabs, appendEnt_tabs, takeFlush_tabs]

@[simp] theorem State.putLink_tabs (s : State) (l : Link) (hc : s.Canon) : (State.putLink s l).Canon := by
  simp [State.putLink, hc]

@[simp] theorem netSend_tabs (s : State) (port : Nat) (dest : NetDest) (bs : List Byte) (hc : s.Canon) : (netSend s port dest bs).Canon := by
  simp [netSend, hc]

@[simp] theorem sendCounted_tabs (s : State) (l : Link) (dest : NetDest) (bs : List Byte) (hc : s.Canon) : (sendCounted s l dest bs).Canon := by
  unfold sendCounted
  simp only []
  split <;> simp [hc]

@[simp] theorem sendAck_tabs (s : State) (port peer x free : Nat) (hc : s.Canon) : (sendAck s port peer x free).Canon := by
  unfold sendAck
  simp only []
  split <;> simp [hc]

@[simp] theorem ackTo_tabs (s : State) (port peer ack : Nat) (hc : s.Canon) : (ackTo s port peer ack).Canon := by
  unfold ackTo
  simp only []
  repeat' split
  all_goals simp [hc]

@[simp] theorem acceptEnt_tabs (s : State) (p : Parked) (hc : s.Canon) : (acceptEnt s p).Canon := by
  simp [acceptEnt, hc]

@[simp] theorem discardEnt_tabs (s : State) (p : Parked) (hc : s.Canon) : (discardEnt s p).Canon := by
  simp [discardEnt, hc]

@[simp] theorem parkEnt_tabs (s : State) (p : Parked) (hc : s.Canon) : (parkEnt s p).Canon := by
  simp [parkEnt, hc]

@[simp] theorem returnEnt_tabs (s : State) (p : Parked) (hc : s.Canon) : (returnEnt s p).Canon := by
  simp [returnEnt, hc]

@[simp] theorem storeEnt_tabs (s : State) (asid route : Nat) (d : LDesc) (p : Parked) (hc : s.Canon) : (storeEnt s asid route d p).Canon := by
  unfold storeEnt
  grind [State.canon_mk, stateTables_self, → uWrite_ok_tabs, → uWrite_error_tabs, UStop.state]

@[simp] theorem settleEnts_tabs (s : State) (ps : List Parked) (back : Nat → Bool) (hc : s.Canon) : (settleEnts s ps back).Canon := by
  refine foldl_tabs _ _ (fun t p ht => ?_) hc
  split
  · exact returnEnt_tabs t p.2 ht
  · exact acceptEnt_tabs t p.2 ht

@[simp] theorem resend_tabs (dev queue f : Nat) (s : State) (hc : s.Canon) : (resend dev queue f s).Canon := by
  induction f generalizing s with
  | zero => exact hc
  | succ f ih =>
    unfold resend
    simp only []
    split
    · exact hc
    split
    · exact hc
    · refine ih _ ?_
      exact bump_tabs _ _ _ _ _ _ hc

@[simp] theorem reportFree_tabs (s : State) (dev queue f : Nat) (hc : s.Canon) : (reportFree s dev queue f).Canon := by
  simp [reportFree, hc]

@[simp] theorem putRing_tabs (s : State) (r : Ring) (off v : Nat) (hc : s.Canon) : (putRing s r off v).Canon := by
  simp [putRing, hc]

theorem ringSlots_tabs (s : State) (x : Nat) (r : Ring) (k n : Nat) (hc : s.Canon) : StopTabs (ringSlots s x r k n) := by
  induction n generalizing k with
  | zero => trivial
  | succ n ih =>
    unfold ringSlots
    grind [StopTabs, → uWriteAddrs_error_tabs, UStop.state]

theorem ringSlots_ok_tabs {s t : State} (x : Nat) (r : Ring) (k n : Nat) {l : List (List Nat)}
    (hc : s.Canon) (ht : ringSlots s x r k n = .ok (l, some t)) :
    t.Canon := by
  induction n generalizing k l with
  | zero => simp [ringSlots] at ht
  | succ n ih =>
    unfold ringSlots at ht
    grind [→ uWriteAddrs_error_tabs, UStop.state]

@[simp] theorem fillGranule_tabs (s : State) (who : Who) (x key : Nat) (g : Nat × List Nat × List Byte) (hc : s.Canon) :
    (fillGranule s who x key g).Canon := by
  simp [fillGranule, hc]

@[simp] theorem unfill_tabs (s : State) (key : Nat → Bool) (hc : s.Canon) : (unfill s key).Canon := by
  simp [unfill, hc]

/-- The tables are in canonical form in the state that the taking of rows leaves, done or put off. -/
def RowsTabs : Except State (State × Nat × Nat) → Prop
  | .ok p => p.1.Canon
  | .error t => t.Canon

theorem takeRows_tabs (s : State) (x src key : Nat) (rows : List (Word × List Byte)) (hc : s.Canon) : RowsTabs (takeRows s x src key rows) := by
  have h := ringSlots_tabs s x (ringOf s x) (ringOf s x).next (min (ringOf s x).free rows.length) hc
  unfold takeRows
  extract_lets r
  split
  · simpa [RowsTabs] using hc
  split
  · exact hc
  split
  · next hr => rw [hr] at h; exact h
  next slots failed hr =>
  have hf : (failed.getD s).Canon := by
    cases failed with
    | none => exact hc
    | some t => exact ringSlots_ok_tabs x _ _ _ hc hr
  extract_lets t
  split
  · exact fillGranule_tabs t _ _ _ _ hf
  · next s2 metas s3 _ _ =>
    have h1 : ({ t with filling := t.filling.filter fun f => f.ring != x } : State).Canon := by simpa using hf
    have h2 : s2.Canon := putRing_tabs _ r 28 (r.filled + slots.length) (clearPoison_tabs _ slots.flatten h1)
    clear_value s2
    simpa [RowsTabs, s3] using h2

theorem readEnts_tabs (l : List Parked) (s : State) (hc : s.Canon) : StopTabs (readEnts l s) := by
  induction l generalizing s with
  | nil => trivial
  | cons p r ih =>
    unfold readEnts
    grind [StopTabs, UTabs, readList_tabs, uRead_tabs, UStop.state]

@[simp] theorem readRow_tabs (s : State) (p : Parked) (g : Nat) (hc : s.Canon) : (readRow s p g).Canon := by
  unfold readRow
  grind [State.canon_mk, stateTables_self, UTabs, uRead_tabs, UStop.state]

@[simp] theorem takeEnts_tabs (s : State) (ps : List Parked) (hc : s.Canon) : (takeEnts s ps).Canon := by
  simp [takeEnts, hc]

@[simp] theorem dispatchFrame_tabs (s : State) (route : Nat) (t : RouteTo) (rows : List (Parked × List Byte)) (hc : s.Canon) :
    (dispatchFrame s route t rows).Canon := by
  unfold dispatchFrame
  extract_lets ps data
  split
  · have h := takeRows_tabs s t.queue (ownDev s) (ownKey route) data hc
    split <;> rename_i hr <;> rw [hr] at h
    · exact h
    · exact settleEnts_tabs _ _ _ (takeEnts_tabs _ _ h)
  · exact sendCounted_tabs _ _ _ _ (by simpa using takeEnts_tabs s ps hc)

theorem discardAll_tabs (s : State) (l : List Parked) (hc : s.Canon) : (l.foldl discardEnt s).Canon :=
  foldl_tabs _ _ (fun t p ht => discardEnt_tabs t p ht) hc

theorem parkAll_tabs (s : State) (l : List Parked) (hc : s.Canon) : (l.foldl parkEnt s).Canon := foldl_tabs _ _ (fun t p ht => parkEnt_tabs t p ht) hc

@[simp] theorem formFrame_tabs (s : State) (route : Nat) (ps lost : List Parked) (hc : s.Canon) : (formFrame s route ps lost).Canon := by
  have hd (t : State) (l : List Parked) (ht : t.Canon) : (l.foldl discardEnt (takeEnts t l)).Canon := discardAll_tabs _ l (takeEnts_tabs t l ht)
  unfold formFrame
  simp only []
  split
  · rw [flushDone_tabs, logEvent_tabs]
    exact unfill_tabs _ _ (parkAll_tabs _ ps (takeEnts_tabs _ ps (hd s lost hc)))
  split
  · exact hc
  split
  · exact readRow_tabs s _ _ hc
  · rw [flushDone_tabs]
    split
    · exact hd s _ hc
    · exact dispatchFrame_tabs _ _ _ _ (hd s _ hc)

theorem execFrameFormation_tabs (asid route : Nat) (s : State) (hc : s.Canon) : OutTabs (execFrameFormation asid route s) := by
  unfold execFrameFormation
  split
  · next w _ =>
    have h := listStep_tabs s w hc
    rw [outTabs_next]
    split <;> rename_i hr <;> rw [hr] at h
    · exact h
    · next t =>
      have ht : t.Canon := h
      simpa using ht
  have h := readList_tabs s (listAcc s asid route) asid route hc
  split <;> rename_i hr <;> rw [hr] at h
  · exact h
  next t d =>
  have ht : t.Canon := h
  split
  · exact storeEnt_tabs _ _ _ _ _ ht
  split
  · exact ht
  have h := readEnts_tabs (nextFrame t asid route) t ht
  split <;> rename_i hk
  · rw [hk] at h
    exact h
  · exact formFrame_tabs _ _ _ _ ht

@[simp] theorem settleSent_tabs (s : State) (port peer : Nat) (hc : s.Canon) : (settleSent s port peer).Canon := by
  refine foldl_tabs _ _ (fun t u ht => ?_) hc
  exact settleEnts_tabs _ _ _ ht

theorem onFrame_tabs (kind port : Nat) (bs : List Byte) (s : State) (act : State → FrameH → Except State State) (hc : s.Canon)
    (ha : ∀ h, StepTabs (act s h)) :
    OutTabs (onFrame kind port bs s act) := by
  unfold onFrame
  grind [State.canon_mk, stateTables_self, OutTabs, StepTabs, logEvent_tabs]

@[simp] theorem afterFrame_tabs (s : State) (port : Nat) (h : FrameH) (report : Bool) (hc : s.Canon) : (afterFrame s port h report).Canon := by
  have hs := settleSent_tabs _ port h.src (ackTo_tabs s port h.src h.ackseq hc)
  unfold afterFrame
  simp only []
  split
  · exact reportFree_tabs _ _ _ _ hs
  · exact hs

@[simp] theorem answer_tabs (s : State) (port : Nat) (h : FrameH) (n free : Nat) (hc : s.Canon) : (answer s port h n free).Canon := by
  unfold answer
  split <;> simp [hc]

theorem execDataFrame_tabs (port : Nat) (frame : List Byte) (s : State) (hc : s.Canon) : OutTabs (execDataFrame port frame s) := by
  refine onFrame_tabs _ _ _ _ _ hc fun h => ?_
  simp only []
  split
  · exact sendAck_tabs _ _ _ _ _ hc
  have hr := takeRows_tabs s h.queue h.src (frameKey port h.src) ((List.range h.nrow).map (frameRow frame h.nrow)) hc
  split <;> rename_i hk <;> rw [hk] at hr
  · exact hr
  · exact answer_tabs _ _ _ _ _ (afterFrame_tabs _ _ _ _ (State.putLink_tabs _ _ hr))

theorem execAckFrame_tabs (port : Nat) (frame : List Byte) (s : State) (hc : s.Canon) : OutTabs (execAckFrame port frame s) := by
  refine onFrame_tabs _ _ _ _ _ hc fun h => ?_
  grind [StepTabs, afterFrame_tabs]

theorem execReturnFrame_tabs (port : Nat) (frame : List Byte) (s : State) (hc : s.Canon) : OutTabs (execReturnFrame port frame s) := by
  refine onFrame_tabs _ _ _ _ _ hc fun h => ?_
  grind [State.canon_mk, stateTables_self, StepTabs, sendAck_tabs, State.putLink_tabs, settleEnts_tabs, afterFrame_tabs]

theorem execResendTimeout_tabs (port peer : Nat) (s : State) (hc : s.Canon) : OutTabs (execResendTimeout port peer s) := by
  unfold execResendTimeout
  simp only []
  split
  · exact hc
  · split
    · exact hc
    · exact foldl_tabs _ _ (fun t u ht => ht) hc

theorem execEthernetPacketReceive_tabs (port : Nat) (packet : Packet) (s : State) (hc : s.Canon) :
    OutTabs (execEthernetPacketReceive port packet s) := by
  unfold execEthernetPacketReceive
  split <;> simp [hc]

theorem execPacketTaken_tabs (s : State) (hc : s.Canon) : OutTabs (execPacketTaken s) := hc

theorem execRtrecv_tabs (x : Ext) (s : State) (hc : s.Canon) : OutTabs (execRtrecv x s) := by
  refine runExt_tabs _ _ hc fun e r => ?_
  simp only []
  split
  · trivial
  split
  · exact hc
  refine resTabs_result e _ _ _ (e.set_tabs _ _ (putRing_tabs _ _ _ _ ?_) fun a ha => by simp [ha])
  simpa using hc

@[simp] theorem advanceFree_tabs (q : Nat) (g : Ring) (fuel f : Nat) (s : State) (hc : s.Canon) : (advanceFree q g fuel f s).1.Canon := by
  induction fuel generalizing f s with
  | zero => exact hc
  | succ fuel ih =>
    unfold advanceFree
    grind [State.canon_mk, stateTables_self]

@[simp] theorem reportRing_tabs (s : State) (q : Nat) (hc : s.Canon) : (reportRing s q).Canon := by
  refine reportFree_tabs _ _ _ _ ?_
  exact foldl_tabs _ _ (fun t l ht => sendAck_tabs t l.port l.peer q _ ht) hc

theorem execRtrel_tabs (x : Ext) (s : State) (hc : s.Canon) : OutTabs (execRtrel x s) := by
  refine runExt_tabs _ _ hc fun e r => ?_
  grind [State.canon_mk, stateTables_self, ResTabs, fence_tabs, advanceFree_tabs, reportRing_tabs, putRing_tabs]

@[simp] theorem discardGang_tabs (s : State) (gang : Nat) (kill : Bool) (hc : s.Canon) : (discardGang s gang kill).Canon := by
  unfold discardGang
  refine discardAll_tabs _ _ (foldl_tabs _ _ (fun t a ht => bump_tabs t _ _ _ _ _ ht) ?_)
  split <;> exact hc

/-! ### Tables in canonical form: system instructions, the fetch, sample groups -/

@[simp] theorem devPut_tabs (s : State) (a n v : Nat) (hc : s.Canon) : (devPut s a n v).Canon := by
  simp [devPut, hc]

@[simp] theorem wordFirst_tabs (s : State) (a : Nat) (hc : s.Canon) : (wordFirst s a).Canon := by
  simp [wordFirst, hc]

@[simp] theorem pushFrame_tabs (s : State) (die frame : Nat) (hc : s.Canon) : (pushFrame s die frame).Canon := by
  unfold pushFrame
  exact devPut_tabs _ _ _ _ (devPut_tabs _ _ _ _ (wordFirst_tabs _ _ hc))

theorem execMfs_tabs (x : Ext) (s : State) (hc : s.Canon) : OutTabs (execMfs x s) := by
  refine runExt_tabs _ _ hc fun e r => ?_
  simp [hc]

theorem execMts_tabs (x : Ext) (s : State) (hc : s.Canon) : OutTabs (execMts x s) := by
  refine runExt_tabs _ _ hc fun e r => ?_
  split <;> simp [hc]

theorem execTrap_tabs (x : Ext) (s : State) (hc : s.Canon) : OutTabs (execTrap x s) := by
  refine runExt_tabs _ _ hc fun e r => ?_
  simp

theorem execBkpt_tabs (x : Ext) (s : State) (hc : s.Canon) : OutTabs (execBkpt x s) := by
  refine runExt_tabs _ _ hc fun e r => ?_
  simp

@[simp] theorem mailPush_tabs (s : State) (die core : Nat) (w : DWord) (hc : s.Canon) : (mailPush s die core w).Canon := by
  simp [mailPush, hc]

theorem execEret_tabs (x : Ext) (s : State) (hc : s.Canon) : OutTabs (execEret x s) := by
  refine runExt_tabs _ _ hc fun e r => ?_
  simp [hc]

theorem execFpop_tabs (x : Ext) (s : State) (hc : s.Canon) : OutTabs (execFpop x s) := by
  refine runExt_tabs _ _ hc fun e r => ?_
  split <;> simp [hc]

@[simp] theorem resumeToken_tabs (s : State) (tok : Nat) (hc : s.Canon) : (resumeToken s tok).Canon := by
  have hu (v : Saved) (hv : v.gang.canon) : (unpark tok v.gang).canon := unpark_canon tok _ hv
  unfold resumeToken
  split
  · simpa using hc
  split
  · exact updGang_tabs _ _ _ hc fun g hg => by simp [hg]
  split
  · exact hc
  next v _ =>
    extract_lets s1
    have h1 : s1.Canon := by
      unfold s1
      simp only [State.canon_mk]
      exact stateTables_updSaved _ _ hc hu
    split
    · exact toDistributor_tabs _ _ h1
    · exact h1

@[simp] theorem denyToken_tabs (s : State) (tok : Nat) (hc : s.Canon) : (denyToken s tok).Canon := by
  unfold denyToken
  split
  · exact hc
  · split <;> simp [hc]

theorem execFres_tabs (x : Ext) (s : State) (hc : s.Canon) : OutTabs (execFres x s) := by
  refine runExt_tabs _ _ hc fun e r => ?_
  split <;> simp [hc]

theorem removeTlb_tabs {s t : State} (mode asid va size : Nat) (hc : s.Canon) (ht : removeTlb s mode asid va size = some t) : t.Canon := by
  unfold removeTlb at ht
  grind [State.canon_mk, stateTables_self]

theorem execTlbi_tabs (x : Ext) (s : State) (hc : s.Canon) : OutTabs (execTlbi x s) := by
  refine runExt_tabs _ _ hc fun e r => ?_
  split
  · exact hc
  next t hf =>
  have ht := fence_tabs e 2 3 hc hf
  split
  · exact ht
  · next u hu => exact removeTlb_tabs _ _ _ _ ht hu

theorem execBiasf_tabs (x : Ext) (s : State) (hc : s.Canon) : OutTabs (execBiasf x s) := by
  refine runExt_tabs _ _ hc fun e r => ?_
  simp [hc]

theorem execCtxs_tabs (x : Ext) (s : State) (hc : s.Canon) : OutTabs (execCtxs x s) := by
  refine runExt_tabs _ _ hc fun e r => ?_
  simp only []
  repeat' split
  all_goals simp [hc]

theorem ownFrame_tabs {s t : State} (e : Env) (a n : Nat) (hc : s.Canon) (ht : ownFrame s e a n = some t) : t.Canon := by
  unfold ownFrame at ht
  grind [settleAtoms_tabs, performSel_tabs]

theorem Table.wf_foldl_put (k : Nat → Nat) (f : Nat → DWord) (l : List Nat) {t : Table DWord} (h : Table.wf 0#64 t = true) :
    Table.wf 0#64 (l.foldl (fun (t : Table DWord) n => t.put 0#64 (k n) (f n)) t) = true :=
  foldl_keeps (fun t : Table DWord => Table.wf 0#64 t = true) _ _ _ (fun _ _ _ ht => Table.wf_put _ _ _ ht) h

/-- A restored agent takes scalar registers from its frame, in canonical form (R355). -/
theorem editAgent_canon (s : State) (rec' : Nat) (a : Agent) (ha : a.canon) : (editAgent s rec' a).canon := by
  obtain ⟨hv, hs, hb⟩ := ha
  unfold editAgent
  extract_lets pc sregs
  have hw : Table.wf 0#64 sregs = true := Table.wf_foldl_put _ _ _ hs
  clear_value sregs
  split <;> exact ⟨hv, hw, hb⟩

theorem editAgents_canon (s : State) (rec' : Nat) (as : List Agent) (ha : ∀ a ∈ as, a.canon) : ∀ a ∈ editAgents s rec' as, a.canon := by
  induction as generalizing rec' with
  | nil => exact ha
  | cons a as ih =>
    obtain ⟨h1, h2⟩ := List.forall_mem_cons.1 ha
    exact List.forall_mem_cons.2 ⟨editAgent_canon s rec' a h1, ih _ h2⟩

@[simp] theorem editGang_canon (s : State) (frame : Nat) (g : Gang) (hg : g.canon) : (editGang s frame g).canon := by
  unfold editGang
  simp only [Gang.canon_mk]
  exact hg.withAgents (editAgents_canon s _ _ hg.2.2.2)

theorem execCtxl_tabs (x : Ext) (s : State) (hc : s.Canon) : OutTabs (execCtxl x s) := by
  refine runExt_tabs _ _ hc fun e r => ?_
  simp only []
  split
  · trivial
  split
  · exact resTabs_result e s _ _ hc
  split
  · exact hc
  split
  · exact hc
  next t ht =>
  have hc := ownFrame_tabs e _ _ hc ht
  split
  · exact resTabs_result e _ _ _ hc
  · refine resTabs_result e _ _ _ (toDistributor_tabs _ _ ?_)
    simp only [State.canon_mk]
    exact stateTables_updSaved _ _ (applyHome_tabs _ _ hc) fun v hv => by simp [hv]

@[simp] theorem fetch_tabs (s : State) (e : Env) (hc : s.Canon) : (fetch s e).1.Canon := by
  unfold fetch
  split
  · exact hc
  · simp only []
    split <;> simp [hc]

@[simp] theorem issueBad_tabs (s : State) (e : Env) (b : Bad) (hc : s.Canon) : (issueBad s e b).Canon := issue_tabs _ s e _ hc hc

@[simp] theorem fetchFailed_tabs (s : State) (e : Env) (f : Fetched) (hc : s.Canon) : (fetchFailed s e f).Canon := by
  cases f with
  | instr i => exact hc
  | bad b => exact issueBad_tabs s e b hc
  | trap c => exact takeTrap_tabs s e _ hc
  | page ps => exact pageFault_tabs s e _ ps hc

@[simp] theorem grpPut_tabs (s : State) (off n val pa : Nat) (hc : s.Canon) : (grpPut s off n val pa).Canon := by
  simp [grpPut, hc]

@[simp] theorem grpSet_tabs (s : State) (pa lo n v : Nat) (hc : s.Canon) : (grpSet s pa lo n v).Canon := by
  simp [grpSet, hc]

@[simp] theorem sibSet_tabs (s : State) (pa i bit : Nat) (hc : s.Canon) : (sibSet s pa i bit).Canon := by
  simp [sibSet, hc]

@[simp] theorem State.updGrp_tabs (s : State) (pa : Nat) (f : GrpAge → GrpAge) (hc : s.Canon) : (State.updGrp s pa f).Canon := by
  simp [State.updGrp, hc]

@[simp] theorem writeAge_tabs (s : State) (g : GrpAge) (hc : s.Canon) : (writeAge s g).Canon := by
  simp [writeAge, hc]

@[simp] theorem releaseGroup_tabs (s : State) (pa : Nat) (timeout : Bool) (hc : s.Canon) : (releaseGroup s pa timeout).Canon := by
  unfold releaseGroup
  extract_lets arr missing st s1 s2 s3 w w1 w2 s4
  have h1 : s1.Canon := foldl_tabs _ _ (fun t i ht => sibSet_tabs t pa i 4 ht) hc
  clear_value s1
  have h2 : s2.Canon := foldl_tabs _ _ (fun t p ht => grpPut_tabs t _ _ _ _ ht) h1
  clear_value s2
  have h3 : s3.Canon := by
    unfold s3
    split
    · exact grpPut_tabs _ _ _ _ _ (grpPut_tabs _ _ _ _ _ h2)
    · exact h2
  clear_value s3
  have h4 : s4.Canon := grpPut_tabs _ _ _ _ _ h3
  clear_value s4
  split
  · exact h4
  · simpa using writeAge_tabs _ _ h4

@[simp] theorem releaseTest_tabs (s : State) (pa : Nat) (hc : s.Canon) : (releaseTest s pa).Canon := by
  simp [releaseTest, hc]

/-- The tables are in canonical form in the state that an instruction's translation of a group address leaves, or in the one that it ends in. -/
def GroupTabs {α : Type} : Except Res (State × α) → Prop
  | .ok p => p.1.Canon
  | .error q => ResTabs q

theorem groupAt_tabs (e : Env) (s : State) (k : AccKind) (rd own : Bool) (va : Nat) (hc : s.Canon) : GroupTabs (groupAt e s k rd own va) := by
  unfold groupAt
  grind [GroupTabs, ResTabs, startCollapse_tabs, noteTlb_tabs, ownFirst_tabs]

@[simp] theorem forkRecord_tabs (s : State) (pa n die ctx : Nat) (hc : s.Canon) : (forkRecord s pa n die ctx).Canon := by
  unfold forkRecord
  grind [applyHome_tabs, clearPoison_tabs, grpPut_tabs]

@[simp] theorem forkPosts_tabs (e : Env) (x : Ext) (ent g ctx n left : Nat) (s : State) (hc : s.Canon) :
    ResTabs (forkPosts e x ent g ctx n left s) := by
  induction left generalizing s with
  | zero => exact hc
  | succ left ih =>
    unfold forkPosts
    extract_lets i bs
    have hp := pickShard_tabs s e.unit ctx (clusterOf e.g.die e.g.core) hc
    split <;> rename_i hs <;> rw [hs] at hp
    · exact UStop.res_tabs _ _ _ hp
    · trivial
    next t u =>
    have hq := postQ_tabs t e.unit u bs hp
    split <;> rename_i ht <;> rw [ht] at hq
    · exact UStop.res_tabs _ _ _ hq
    · exact hq
    · exact ih _ (e.set_tabs _ _ hq fun a ha => by simp [ha])

theorem execFork_tabs (x : Ext) (s : State) (hc : s.Canon) : OutTabs (execFork x s) := by
  refine runExt_tabs _ _ hc fun e r => ?_
  simp only []
  split
  · trivial
  split
  · trivial
  split
  · exact forkPosts_tabs _ _ _ _ _ _ _ _ hc
  have hg := groupAt_tabs e s .store true true (groupVa (e.rs r.d)) hc
  split <;> rename_i hq <;> rw [hq] at hg
  · exact hg
  split
  · exact hg
  next t ht =>
  obtain ⟨u, h1, h2⟩ := Option.bind_eq_some_iff.1 ht
  have hc := rmwFirst_tabs _ _ (fence_tabs e 1 3 hg h1) h2
  split
  · trivial
  have hf := firstQ_tabs t e.unit ((List.range 64).map shardQ) hc
  split <;> rename_i hr <;> rw [hr] at hf
  · exact UStop.res_tabs _ _ _ hf
  · trivial
  split
  · exact hf
  · refine forkPosts_tabs _ _ _ _ _ _ _ _ (e.set_tabs _ _ ?_ fun a ha => by simp [ha])
    simpa using forkRecord_tabs _ _ _ _ _ hf

@[simp] theorem sendMsg_tabs (e : Env) (s : State) (g i : Nat) (reward : Option Word) (hc : s.Canon) : ResTabs (sendMsg e s g i reward) := by
  have h := groupAt_tabs e s .atomic false false (groupVa g) hc
  unfold sendMsg
  grind [ResTabs, GroupTabs, State.canon_mk, stateTables_self]

theorem execGrwd_tabs (x : Ext) (s : State) (hc : s.Canon) : OutTabs (execGrwd x s) := by
  refine runExt_tabs _ _ hc fun e r => ?_
  simp [hc]

theorem execGcancel_tabs (x : Ext) (s : State) (hc : s.Canon) : OutTabs (execGcancel x s) := by
  refine runExt_tabs _ _ hc fun e r => ?_
  simp [hc]

@[simp] theorem dropMsg_tabs (s : State) (m : GrpMsg) (hc : s.Canon) : (dropMsg s m).Canon := by
  unfold dropMsg
  split <;> simp [hc]

@[simp] theorem tagMsg_tabs (s : State) (m : GrpMsg) (hc : s.Canon) : (tagMsg s m).Canon := by
  unfold tagMsg
  split <;> simp [hc]

@[simp] theorem abandonMsg_tabs (s : State) (m : GrpMsg) (hc : s.Canon) : (abandonMsg s m).Canon := by
  simp [abandonMsg, hc]

@[simp] theorem performReward_tabs (s : State) (pa i : Nat) (v : Word) (hc : s.Canon) : (performReward s pa i v).Canon := by
  unfold performReward
  split <;> grind [grpSet_tabs, sibSet_tabs, grpPut_tabs, releaseTest_tabs]

theorem execGroupRewardPerform_tabs (n : Nat) (s : State) (hc : s.Canon) : OutTabs (execGroupRewardPerform n s) := by
  unfold execGroupRewardPerform
  grind [OutTabs, abandonMsg_tabs, tagMsg_tabs, performReward_tabs, dropMsg_tabs]

@[simp] theorem notifySib_tabs (s : State) (pa i : Nat) (hc : s.Canon) : (notifySib s pa i).Canon := by
  unfold notifySib
  extract_lets hit note onGang
  have hn (a : Agent) (ha : a.canon) : (note a).canon := by
    unfold note
    split <;> simp [ha]
  have hg (g : Gang) (h : g.canon) : (onGang g).canon := by
    unfold onGang
    split
    · exact gangTables_mapAgents note h hn
    · exact h
  simp only [State.canon_mk]
  exact stateTables_mapSaved _ (stateTables_mapGangs onGang hc hg) fun v hv => hg v.gang hv

@[simp] theorem performCancel_tabs (s : State) (pa i : Nat) (hc : s.Canon) : (performCancel s pa i).Canon := by
  unfold performCancel
  split <;> grind [grpSet_tabs, sibSet_tabs, releaseTest_tabs, notifySib_tabs]

theorem execGroupCancelPerform_tabs (n : Nat) (s : State) (hc : s.Canon) : OutTabs (execGroupCancelPerform n s) := by
  unfold execGroupCancelPerform
  grind [OutTabs, abandonMsg_tabs, tagMsg_tabs, performCancel_tabs, dropMsg_tabs]

theorem execCancelRedirect_tabs (gang agent : Nat) (s : State) (hc : s.Canon) : OutTabs (execCancelRedirect gang agent s) := by
  unfold execCancelRedirect
  simp only []
  repeat' split
  all_goals simp [hc]

theorem execGroupDeadline_tabs (grp : Nat) (s : State) (hc : s.Canon) : OutTabs (execGroupDeadline grp s) := by
  unfold execGroupDeadline
  split
  · exact hc
  · split
    · exact hc
    · exact releaseGroup_tabs _ _ _ (State.updGrp_tabs _ _ _ hc)

theorem execGroupAgeWrite_tabs (grp : Nat) (s : State) (hc : s.Canon) : OutTabs (execGroupAgeWrite grp s) := by
  unfold execGroupAgeWrite
  split
  · exact hc
  · split
    · exact hc
    · exact writeAge_tabs _ _ (State.updGrp_tabs _ _ _ hc)

theorem execGroupAgePause_tabs (grp : Nat) (s : State) (hc : s.Canon) : OutTabs (execGroupAgePause grp s) := by
  unfold execGroupAgePause
  split
  · exact hc
  simp only []
  split
  · exact hc
  · refine grpSet_tabs _ _ _ _ _ ?_
    split
    · exact State.updGrp_tabs _ _ _ hc
    · exact writeAge_tabs _ _ (State.updGrp_tabs _ _ _ hc)

@[simp] theorem noteResidency_tabs (s : State) (hc : s.Canon) : (noteResidency s).Canon := by
  unfold noteResidency
  split <;> simp [hc]

theorem readGroup_tabs (e : Env) (s : State) (g w : Nat) (hc : s.Canon) : GroupTabs (readGroup e s g w) := by
  have h := groupAt_tabs e s .load true true (groupVa g) hc
  have ha (t : State) (ht : t.Canon) : (e.set t fun a => { a with acq := some 3 }).Canon := e.set_tabs t _ ht fun a ha => by simp [ha]
  unfold readGroup
  grind [ResTabs, GroupTabs, noteRead_tabs]

theorem execGbar_tabs (x : Ext) (s : State) (hc : s.Canon) : OutTabs (execGbar x s) := by
  refine runExt_tabs _ _ hc fun e r => ?_
  have h := readGroup_tabs e s (e.rs r.a) 3 hc
  grind [ResTabs, GroupTabs, resTabs_result]

theorem execGstat_tabs (x : Ext) (s : State) (hc : s.Canon) : OutTabs (execGstat x s) := by
  refine runExt_tabs _ _ hc fun e r => ?_
  have h := readGroup_tabs e s (e.rs r.a) x.imm.toNat hc
  grind [ResTabs, GroupTabs, resTabs_result]

/-! ### Tables in canonical form: stops, saves, launches, placements, ends -/

theorem execLongWaitThreshold_tabs (gang : Nat) (s : State) (hc : s.Canon) : OutTabs (execLongWaitThreshold gang s) := by
  unfold execLongWaitThreshold
  split <;> simp [hc]

@[simp] theorem settleBusy_tabs (s : State) : (settleBusy s).Canon ↔ s.Canon := by
  simp [settleBusy]

@[simp] theorem resumeContext_tabs (s : State) (asid : Nat) (hc : s.Canon) : (resumeContext s asid).Canon := by
  unfold resumeContext
  extract_lets out note s1
  have h1 : s1.Canon := by
    unfold s1
    simp only [State.canon_mk]
    exact stateTables_updGangs _ _ hc fun g hg => by simp [note, hg]
  exact foldl_tabs _ _ (fun s v hs => toDistributor_tabs s v.frame hs) h1

theorem execPreemptRequest_tabs (w : DWord) (s : State) (hc : s.Canon) : OutTabs (execPreemptRequest w s) := by
  unfold execPreemptRequest
  extract_lets asid b s1 due hit s2
  have h2 : s2.Canon := by
    unfold s2
    simp only [settleBusy_tabs, State.canon_mk]
    exact stateTables_updGangs _ _ (by simpa [s1] using hc) fun g hg => by simp [hg]
  rw [outTabs_next]
  split
  · exact resumeContext_tabs _ _ h2
  · exact h2

theorem execResumeRequest_tabs (w : DWord) (s : State) (hc : s.Canon) : OutTabs (execResumeRequest w s) := by
  unfold execResumeRequest
  simp [hc]

theorem execPreemptTimeout_tabs (gang : Nat) (s : State) (hc : s.Canon) : OutTabs (execPreemptTimeout gang s) := by
  unfold execPreemptTimeout
  split <;> simp [hc]

theorem execWatchedCondition_tabs (gang : Nat) (s : State) (hc : s.Canon) : OutTabs (execWatchedCondition gang s) := by
  unfold execWatchedCondition
  grind [OutTabs, conditionTrue_tabs, toDistributor_tabs]

@[simp] theorem requeueWalks_tabs (s : State) (uid : Nat) (hc : s.Canon) : (requeueWalks s uid).Canon := by
  unfold requeueWalks
  exact foldl_tabs _ _ (fun s c hs => by simpa using hs) hc

@[simp] theorem resumeInPlace_tabs (s : State) (g : Gang) (hc : s.Canon) : (resumeInPlace s g).Canon := by
  unfold resumeInPlace
  exact requeueWalks_tabs _ _ (updGang_tabs _ _ _ hc fun g hg => by simp [hg])

@[simp] theorem tellAsker_tabs (s : State) (p : Stop) (hc : s.Canon) : (tellAsker s p).Canon := by
  unfold tellAsker
  split
  · extract_lets told
    have ht (g : Gang) (hg : g.canon) : (told g).canon := g.updAgent_canon _ (fun a ha => by simp [ha]) hg
    simp only [State.canon_mk]
    exact stateTables_updSaved _ _ (stateTables_updGang s _ told hc ht) fun v hv => ht v.gang hv
  · exact hc

@[simp] theorem tellHalt_tabs (s : State) (g : Gang) (p : Stop) (frame : Nat) (pool : Bool) (hc : s.Canon) : (tellHalt s g p frame pool).Canon := by
  unfold tellHalt
  split <;> simp [hc]

theorem landStores_tabs {s t : State} (g : Gang) (hc : s.Canon) (ht : landStores s g = some t) : t.Canon := by
  unfold landStores at ht
  grind [osFlush_tabs, performSel_tabs]

/-- A gang of the state is in canonical form. -/
theorem State.Canon.gang {s : State} (hc : s.Canon) {uid : Nat} {g : Gang} (hg : s.gang? uid = some g) : g.canon :=
  hc.1 g (List.mem_of_find?_eq_some hg)

/-- A gang with its stand in the state, or the gang as it was. -/
theorem State.Canon.gangD {s : State} (hc : s.Canon) (uid : Nat) {g : Gang} (hg : g.canon) : ((s.gang? uid).getD g).canon := by
  cases h : s.gang? uid with
  | none => exact hg
  | some g' => exact hc.gang h

@[simp] theorem saveTo_tabs (s : State) (g : Gang) (p : Stop) (frame : Nat) (pool : Option Nat) (hc : s.Canon) (hg : g.canon) :
    (saveTo s g p frame pool).Canon := by
  unfold saveTo
  extract_lets image as s1 s2 g1 v s3 s4 hit
  have h2 : s2.Canon := applyHome_tabs _ _ (by simp [s1, hc])
  have hv : v.gang.canon := Gang.asleep_canon _ _ _ (h2.gangD _ hg)
  clear_value s2 v
  have h3 : s3.Canon := by
    unfold s3
    simp only [State.canon_mk, stateTables_addSaved]
    exact ⟨stateTables_filterGangs _ (stateTables_filterSaved _ h2), hv⟩
  clear_value s3
  have h4 : s4.Canon := tellHalt_tabs _ _ _ _ _ (tellAsker_tabs _ _ h3)
  clear_value s4
  rw [settleBusy_tabs]
  split
  · exact toDistributor_tabs _ _ h4
  · exact h4

theorem popFrame_ok_tabs {s t : State} (die : Nat) {f : Nat} (hc : s.Canon) (ht : popFrame s die = some (t, f)) : t.Canon := by
  unfold popFrame at ht
  grind [wordFirst_tabs, devPut_tabs]

@[simp] theorem takeFrame_tabs (s : State) (g : Gang) (p : Stop) (hc : s.Canon) : (takeFrame s g p).Canon := by
  unfold takeFrame
  simp only []
  split
  · exact hc
  split
  · next t f ht => exact updGang_tabs _ _ _ (popFrame_ok_tabs _ hc ht) fun g hg => by simp [hg]
  · split
    · exact resumeInPlace_tabs _ _ hc
    · exact updGang_tabs _ _ _ hc fun g hg => by simp [hg]

theorem execGangSave_tabs (gang : Nat) (s : State) (hc : s.Canon) : OutTabs (execGangSave gang s) := by
  unfold execGangSave
  split
  · exact hc
  next g hu =>
  split
  · exact hc
  split
  · exact hc
  split
  · exact takeFrame_tabs s _ _ hc
  split
  · exact hc
  split
  · exact hc
  · rw [outTabs_next]
    split
    · exact hc
    split
    · exact hc
    · next ht =>
      have h := landStores_tabs _ hc ht
      exact saveTo_tabs _ _ _ _ _ h (h.gangD _ (hc.gang hu))
  · simp only [outTabs_next]
    split
    · exact hc
    split
    · exact hc
    · next ht =>
      have h := landStores_tabs _ hc ht
      refine saveTo_tabs _ _ _ _ _ ?_ (h.gangD _ (hc.gang hu))
      split
      · exact pushFrame_tabs _ _ _ h
      · exact h

theorem withRecord_tabs (s : State) (a : Acc) (cmpla : Addr) (f : State → List Nat → State) (hc : s.Canon) (hf : ∀ as, (f s as).Canon) :
    StepTabs (withRecord s a cmpla f) := by
  unfold withRecord
  grind [StepTabs, → uWriteAddrs_error_tabs, UStop.state]

@[simp] theorem updLq_tabs (s : State) (q : Nat) (f : LaunchQ → LaunchQ) (hc : s.Canon) : (updLq s q f).Canon := by
  simp [updLq, hc]

@[simp] theorem tookEntry_tabs (s : State) (q : Nat) (hc : s.Canon) : (tookEntry s q).Canon := by
  unfold tookEntry
  split <;> simp [hc]

@[simp] theorem stopQueue_tabs (s : State) (q : Nat) (hc : s.Canon) : (stopQueue s q).Canon := by
  simp [stopQueue, hc]

@[simp] theorem newGrid_tabs (s : State) (asid : Nat) (b : Block) (hc : s.Canon) : (newGrid s asid b).Canon := by
  simp [newGrid, hc]

theorem blockFailed_tabs (s : State) (a : Acc) (ws : List Nat) (code : Nat) (hc : s.Canon) : StepTabs (blockFailed s a ws code) := by
  unfold blockFailed
  simp only []
  split
  · simpa [StepTabs] using hc
  · exact withRecord_tabs _ _ _ _ hc fun as => recordErr_tabs s as code hc

@[simp] theorem judgeBlock_tabs (s : State) (q asid : Nat) (ws : List Nat) (unread : Bool) (hc : s.Canon) :
    (judgeBlock s q asid ws unread).Canon := by
  unfold judgeBlock
  split
  · split
    · exact tookEntry_tabs _ _ (by simpa using hc)
    · exact tookEntry_tabs _ _ (newGrid_tabs _ _ _ hc)
  · next code _ =>
    have h := blockFailed_tabs s ⟨unitWho s asid 0, .launch q, 0#52⟩ ws code hc
    split <;> rename_i hr <;> rw [hr] at h
    · exact h
    · exact tookEntry_tabs _ _ h

@[simp] theorem takeBlock_tabs (s : State) (q asid va : Nat) (ws : List Nat) (hc : s.Canon) : (takeBlock s q asid va ws).Canon := by
  have h := uReadNat_tabs s ⟨unitWho s asid 0, .launch q, 0#52⟩ (va + 8 * ws.length) 8 0 hc
  unfold takeBlock
  extract_lets keep
  split
  · exact judgeBlock_tabs _ _ _ _ _ hc
  split <;> rename_i hr <;> rw [hr] at h
  · exact h
  · exact judgeBlock_tabs _ _ _ _ _ h
  · split
    · exact h
    · exact judgeBlock_tabs _ _ _ _ _ h

@[simp] theorem takeEntry_tabs (s : State) (q : Nat) (hc : s.Canon) : (takeEntry s q).Canon := by
  unfold takeEntry
  extract_lets l asid a
  split
  · exact tookEntry_tabs _ _ (by simpa using hc)
  split <;> rename_i hr
  · exact uReadNat_error_tabs _ _ _ _ hc hr
  · exact stopQueue_tabs _ _ (by simpa [UStop.state] using uReadNat_error_tabs _ _ _ _ hc hr)
  · have ht := uReadNat_ok_tabs _ _ _ _ hc hr
    split
    · exact tookEntry_tabs _ _ (by simpa using ht)
    split
    · exact tookEntry_tabs _ _ (by simpa using ht)
    · exact takeBlock_tabs _ _ _ _ _ ht

theorem execLaunchUnitVisit_tabs (s : State) (hc : s.Canon) : OutTabs (execLaunchUnitVisit s) := by
  unfold execLaunchUnitVisit
  split
  · exact takeBlock_tabs _ _ _ _ _ hc
  · rw [outTabs_next]
    split
    · exact hc
    · split
      · exact hc
      · exact takeBlock_tabs _ _ _ _ _ hc
    · exact takeEntry_tabs _ _ hc

@[simp] theorem State.updGrid_tabs (s : State) (n : Nat) (f : Grid → Grid) (hc : s.Canon) : (State.updGrid s n f).Canon := by
  simp [State.updGrid, hc]

@[simp] theorem dropGrids_tabs (s : State) (hc : s.Canon) : (dropGrids s).Canon := by
  simp [dropGrids, hc]

theorem execGangHandout_tabs (grid : Nat) (s : State) (hc : s.Canon) : OutTabs (execGangHandout grid s) := by
  unfold execGangHandout
  split
  · exact hc
  next g _ =>
  split
  · exact hc
  have hw (t : State) (a : Acc) (code : Nat) (ht : t.Canon) : StepTabs (withRecord t a g.blk.cmpla fun s as => recordErr s as code) :=
    withRecord_tabs _ _ _ _ ht fun as => recordErr_tabs t as code ht
  simp only []
  split <;> rename_i hr
  · exact uReadNat_error_tabs _ _ _ _ hc hr
  · have hc := hw _ ⟨unitWho s g.asid 0, .map grid, 0#52⟩ 5 (uReadNat_error_tabs _ _ _ _ hc hr)
    simp only [UStop.state] at hc
    split <;> rename_i hk <;> rw [hk] at hc
    · exact hc
    · exact dropGrids_tabs _ (State.updGrid_tabs _ _ _ hc)
  · have ht := uReadNat_ok_tabs _ _ _ _ hc hr
    have hc := hw _ ⟨unitWho s g.asid 0, .map grid, 0#52⟩ 1 ht
    split <;> rename_i hk
    · split at hk
      · simp at hk
      · rw [hk] at hc
        exact hc
    · refine State.updGrid_tabs _ _ _ ?_
      simp only [State.canon_mk, stateTables_self]
      split at hk
      · cases hk
        exact ht
      · rw [hk] at hc
        exact hc

theorem execStealMessage_tabs (grid die : Nat) (s : State) (hc : s.Canon) : OutTabs (execStealMessage grid die s) := by
  unfold execStealMessage
  split
  · exact hc
  split <;> exact hc

@[simp] theorem moveCmds_tabs (s : State) (uid die core : Nat) (hc : s.Canon) : (moveCmds s uid die core).Canon := by
  unfold moveCmds
  exact requeueWalks_tabs _ _ (by simpa using hc)

@[simp] theorem clearMark_tabs (s : State) (frame : Nat) (hc : s.Canon) : (clearMark s frame).Canon := by
  simp [clearMark, hc]

@[simp] theorem restoreGang_tabs (s : State) (v : Saved) (core : Nat) (f : Fit) (hc : s.Canon) (hv : v.gang.canon) :
    (restoreGang s v core f).Canon := by
  unfold restoreGang
  extract_lets g1 gs clk g2 s1 s2
  have hg : g2.canon := by
    simp only [g2, Gang.canon_mk]
    exact gangTables_mapAgents _ (editGang_canon s v.frame v.gang hv) fun a ha => by simp [ha]
  clear_value g2
  have h1 : s1.Canon := by
    simp only [s1, State.canon_mk, stateTables_addGang]
    exact ⟨stateTables_filterSaved _ hc, hg⟩
  have h2 : s2.Canon := moveCmds_tabs _ _ _ _ (clearMark_tabs _ _ h1)
  split
  · exact pushFrame_tabs _ _ _ h2
  · exact h2

theorem newWarp_canon (b : Block) (idx wg : Nat) (r : RoleEnt) (id place : Nat) : (newWarp b idx wg r id place).canon := by
  simp only [newWarp, Agent.canon_mk]
  exact ⟨rfl, Table.wf_put _ _ _ rfl, Table.wf_put _ _ _ (Table.wf_put _ _ _ rfl)⟩

theorem newWarps_canon (b : Block) (idx : Nat) (l : List (Nat × RoleEnt)) (id : Nat) : ∀ a ∈ newWarps b idx l id, a.canon := by
  induction l generalizing id with
  | nil => exact List.forall_mem_nil _
  | cons p l ih =>
    refine List.forall_mem_append.2 ⟨List.forall_mem_map.2 fun k _ => ?_, ih _⟩
    exact newWarp_canon _ _ _ _ _ _

/-- A gang as it is placed has only the registers and tables of its block (R133, R138). -/
theorem newGang_canon (s : State) (grid idx asid : Nat) (b : Block) (die core : Nat) (f : Fit) : (newGang s grid idx asid b die core f).canon := by
  simp only [newGang, Gang.canon_mk]
  exact ⟨rfl, rfl, rfl, newWarps_canon _ _ _ _⟩

@[simp] theorem addGang_tabs (s : State) (g : Gang) (hc : s.Canon) (hg : g.canon) : (addGang s g).Canon := by
  simp [addGang, hc, hg]

theorem savedFor_canon {s : State} (hc : s.Canon) {w : WaitGang} {v : Saved} (h : savedFor s w = some v) : v.gang.canon := by
  obtain ⟨f, -, hf⟩ := Option.bind_eq_some_iff.1 h
  exact hc.2 v (List.mem_of_find?_eq_some hf)

@[simp] theorem passOver_tabs (s : State) (c : WaitGang) (hc : s.Canon) : (passOver s c).Canon := by
  simp [passOver, hc]

@[simp] theorem leaveWait_tabs (s : State) (c : WaitGang) (b : Block) (hc : s.Canon) : (leaveWait s c b).Canon := by
  unfold leaveWait
  split <;> simp [hc]

theorem execGangPlace_tabs (die : Nat) (s : State) (hc : s.Canon) : OutTabs (execGangPlace die s) := by
  unfold execGangPlace
  split
  · exact hc
  split
  · next hs =>
    split
    · exact hc
    · exact passOver_tabs _ _ (leaveWait_tabs _ _ _ (restoreGang_tabs _ _ _ _ hc (savedFor_canon hc hs)))
  · split
    · exact hc
    · exact dropGrids_tabs _ (passOver_tabs _ _ (leaveWait_tabs _ _ _ (addGang_tabs _ _ hc (newGang_canon _ _ _ _ _ _ _ _))))

@[simp] theorem removeGang_tabs (s : State) (uid : Nat) (hc : s.Canon) : (removeGang s uid).Canon := by
  simp only [removeGang, settleBusy_tabs, State.canon_mk]
  exact stateTables_filterGangs _ (stateTables_filterSaved _ hc)

theorem finishRecord_tabs (s : State) (g : Gang) (killed : Bool) (hc : s.Canon) : StepTabs (finishRecord s g killed) := by
  unfold finishRecord
  grind [StepTabs, performSel_tabs, → uWriteAddrs_error_tabs, decrement_tabs, recordErr_tabs, logEvent_tabs, UStop.state]

theorem exitLines_tabs (g : Gang) (l : List WLine) (s : State) (hc : s.Canon) : StepTabs (exitLines g l s) := by
  induction l generalizing s with
  | nil => exact hc
  | cons w r ih =>
    unfold exitLines
    split
    · exact ih s hc
    split <;> rename_i hr
    · exact uXlat_error_tabs _ _ _ _ hc hr
    · exact ih _ (updGang_tabs _ _ _ (by simpa [UStop.state] using uXlat_error_tabs _ _ _ _ hc hr) fun g hg => by simp [hg])
    · split
      · exact hc
      · exact ih _ (cleanLine_tabs _ _ _ hc)

theorem execGangComplete_tabs (gang : Nat) (s : State) (hc : s.Canon) : OutTabs (execGangComplete gang s) := by
  unfold execGangComplete
  split
  · exact hc
  split
  · exact hc
  split
  · exact hc
  next t ht =>
  have hc := landStores_tabs _ hc ht
  grind [OutTabs, StepTabs, exitLines_tabs, finishRecord_tabs, discardGang_tabs, removeGang_tabs]

@[simp] theorem cancelCmds_tabs (s : State) (uid : Nat) (keep : Cmd → Bool) (hc : s.Canon) : (cancelCmds s uid keep).Canon := by
  simp [cancelCmds, hc]

theorem finishLine_tabs (id k fuel : Nat) (s : State) (hc : s.Canon) : StepTabs (finishLine id k fuel s) := by
  induction fuel generalizing s with
  | zero => exact hc
  | succ fuel ih =>
    unfold finishLine
    split
    · exact hc
    next c p _ =>
    have h := portionAt_tabs s c k 0 hc
    grind [StepTabs, MoveTabs]

theorem finishLines_tabs (id : Nat) (l : List (Nat × Portion)) (s : State) (hc : s.Canon) : StepTabs (finishLines id l s) := by
  induction l generalizing s with
  | nil => exact hc
  | cons p r ih =>
    unfold finishLines
    grind [StepTabs, finishLine_tabs]

theorem finishCopies_tabs (l : List Cmd) (s : State) (hc : s.Canon) : StepTabs (finishCopies l s) := by
  induction l generalizing s with
  | nil => exact hc
  | cons c r ih =>
    have h := finishLines_tabs c.id (enumFrom 0 c.portions) s hc
    unfold finishCopies
    grind [StepTabs, State.dropCmd_tabs]

@[simp] theorem dropSaved_tabs (s : State) (uid : Nat) (hc : s.Canon) : (dropSaved s uid).Canon := by
  unfold dropSaved
  split
  · exact hc
  · simp only []
    split
    · exact pushFrame_tabs _ _ _ (by simpa using hc)
    · simpa using hc

@[simp] theorem faultGangGone_tabs (s : State) (g : Gang) (hc : s.Canon) : (faultGangGone s g).Canon := by
  unfold faultGangGone
  split <;> simp [hc]

@[simp] theorem dropHeld_tabs (s : State) (g : Gang) (hc : s.Canon) : (dropHeld s g).Canon := by
  unfold dropHeld
  extract_lets mine s1
  have h1 : s1.Canon := by simpa [s1] using hc
  split
  · exact updGang_tabs _ _ _ (pushFrame_tabs s1 _ _ h1) fun g hg => by simp [hg]
  · exact h1

@[simp] theorem killGang_tabs (s : State) (g : Gang) (hc : s.Canon) : (killGang s g).Canon := by
  unfold killGang
  extract_lets s1
  have h1 : s1.Canon := cancelCmds_tabs _ _ _ hc
  clear_value s1
  have hc := finishCopies_tabs (s1.cmds.filter fun c => c.gang == g.uid && c.begunCopy) s1 h1
  split <;> rename_i hr <;> rw [hr] at hc
  · exact hc
  have hf := finishRecord_tabs (cancelCmds (discardGang (dropHeld _ g) g.uid true) g.uid fun _ => false) g true
    (cancelCmds_tabs _ _ _ (discardGang_tabs _ _ _ (dropHeld_tabs _ _ hc)))
  split <;> rename_i hk <;> rw [hk] at hf
  · exact hf
  · exact faultGangGone_tabs _ _ (removeGang_tabs _ _ (dropSaved_tabs _ _ hf))

theorem execGangKill_tabs (gang : Nat) (s : State) (hc : s.Canon) : OutTabs (execGangKill gang s) := by
  unfold execGangKill
  grind [OutTabs, killGang_tabs]

/-! ### Tables in canonical form: the memory system by itself, the host, matrix commands, walks -/

theorem execPageTableWalk_tabs (gang : Nat) (va : Addr) (s : State) (hc : s.Canon) : OutTabs (execPageTableWalk gang va s) := by
  unfold execPageTableWalk
  simp only []
  repeat' split
  all_goals simp [hc]

theorem execStashRemoteRequest_tabs (gang line : Nat) (write : Bool) (s : State) (hc : s.Canon) :
    OutTabs (execStashRemoteRequest gang line write s) := by
  unfold execStashRemoteRequest
  split <;> simp [hc]

theorem execDirectoryEvict_tabs (line : Nat) (s : State) (hc : s.Canon) : OutTabs (execDirectoryEvict line s) := by
  unfold execDirectoryEvict
  simp [hc]

theorem execDupCollapse_tabs (die n : Nat) (s : State) (hc : s.Canon) : OutTabs (execDupCollapse die n s) := by
  unfold execDupCollapse
  grind [OutTabs, startCollapse_tabs]

@[simp] theorem performHeld_tabs (s : State) (n : Nat) (hc : s.Canon) : (performHeld s n).Canon := by
  unfold performHeld
  simp only []
  split <;> simp [hc]

theorem performAllHeld_tabs (s : State) (l : List Nat) (hc : s.Canon) : (l.foldl performHeld s).Canon :=
  foldl_tabs _ _ (fun t n ht => performHeld_tabs t n ht) hc

@[simp] theorem endCollapse_tabs (s : State) (d : DupPage) (hc : s.Canon) : (endCollapse s d).Canon := by
  unfold endCollapse
  simp only []
  refine performAllHeld_tabs _ _ ?_
  exact applyHome_tabs _ _ (wordFirst_tabs _ _ hc)

theorem execDupCollapseAck_tabs (page die : Nat) (s : State) (hc : s.Canon) : OutTabs (execDupCollapseAck page die s) := by
  have hd (d : Nat) (p : DupPage) (v : Saved) (hv : v.gang.canon) : (dropPage d p v.gang).canon := dropPage_canon d p _ hv
  unfold execDupCollapseAck
  split
  · exact hc
  extract_lets acked copy far s1
  have h1 : s1.Canon := by
    unfold s1
    simp only [State.canon_mk]
    exact stateTables_mapSaved _ (stateTables_mapGangs _ hc fun g hg => rehomeReads_canon _ _ _ _ (dropPage_canon _ _ _ hg)) (hd _ _)
  clear_value s1
  split
  · exact hc
  rw [outTabs_next]
  split
  · exact endCollapse_tabs _ _ h1
  · exact h1

theorem execBiasFlipComplete_tabs (frame : Nat) (s : State) (hc : s.Canon) : OutTabs (execBiasFlipComplete frame s) := by
  have h : ((frameLines frame).foldl flushLine s).Canon := foldl_tabs _ _ (fun t l ht => flushLine_tabs t l ht) hc
  unfold execBiasFlipComplete
  split
  · exact hc
  simp only [outTabs_next, State.canon_mk, stateTables_self]
  split
  · exact h
  · exact hc

@[simp] theorem hostAnswer_tabs (s : State) (bs : List Byte) (hc : s.Canon) : (hostAnswer s bs).Canon := by
  simp [hostAnswer, hc]

theorem execHostCxlMemAccess_tabs (addr len : Nat) (bytes : Option (List Byte)) (s : State) (hc : s.Canon) :
    OutTabs (execHostCxlMemAccess addr len bytes s) := by
  unfold execHostCxlMemAccess
  simp only []
  repeat' split
  all_goals simp [hc]

theorem execHostWriteToHostMemory_tabs (addr : Nat) (bytes : List Byte) (s : State) (hc : s.Canon) :
    OutTabs (execHostWriteToHostMemory addr bytes s) := by
  unfold execHostWriteToHostMemory
  simp [hc]

theorem execEccUncorrectable_tabs (loc : EccSite) (s : State) (hc : s.Canon) : OutTabs (execEccUncorrectable loc s) := by
  unfold execEccUncorrectable
  split <;> simp [hc]

theorem execEccCorrected_tabs (code : Nat) (s : State) (hc : s.Canon) : OutTabs (execEccCorrected code s) := by
  unfold execEccCorrected
  simp [hc]

@[simp] theorem zeroFrame_tabs (s : State) (a n : Nat) (hc : s.Canon) : (zeroFrame s a n).Canon := by
  unfold zeroFrame
  extract_lets s1 far drop
  have h1 : s1.Canon := performSel_tabs _ _ hc
  have hd (g : Gang) (hg : g.canon) : (drop g).canon := by simp [drop, hg]
  simp only [State.canon_mk]
  exact stateTables_mapSaved _ (stateTables_mapGangs drop h1 hd) fun v hv => hd v.gang hv

theorem execFrameRelease_tabs (desc : Nat) (s : State) (hc : s.Canon) : OutTabs (execFrameRelease desc s) := by
  unfold execFrameRelease
  simp only []
  split
  · exact hc
  · exact devPut_tabs _ _ _ _ (devPut_tabs _ _ _ _ (devPut_tabs _ _ _ _ (devPut_tabs _ _ _ _
      (wordFirst_tabs _ _ (zeroFrame_tabs _ _ _ hc)))))

@[simp] theorem cfgAccess_tabs (s : State) (off n : Nat) (bytes : Option (List Byte)) (hc : s.Canon) : (cfgAccess s off n bytes).Canon := by
  unfold cfgAccess
  split <;> simp [hc]

@[simp] theorem barRead_tabs (s : State) (off n : Nat) (hc : s.Canon) : (barRead s off n).Canon := by
  simp [barRead, hc]

theorem execRegisterWrite_tabs (off : Nat) (w : DWord) (s : State) (hc : s.Canon) : OutTabs (execRegisterWrite off w s) := by
  unfold execRegisterWrite
  simp [hc]

theorem execLaunchQueueControl_tabs (q : Nat) (w : DWord) (s : State) (hc : s.Canon) : OutTabs (execLaunchQueueControl q w s) := hc

theorem execLaunchDoorbell_tabs (q : Nat) (w : DWord) (s : State) (hc : s.Canon) : OutTabs (execLaunchDoorbell q w s) := by
  unfold execLaunchDoorbell
  simp [hc]

@[simp] theorem postDone_tabs (s : State) (full : Bool) (hc : s.Canon) : (postDone s full).Canon := by
  simp [postDone, hc]

@[simp] theorem hostPost_tabs (s : State) (hc : s.Canon) : (hostPost s).Canon := by
  unfold hostPost
  grind [UTabs, uRead_tabs, postTarget_tabs, postQ_tabs, postDone_tabs, logEvent_tabs, UStop.state]

theorem execHostQueuePost_tabs (w : DWord) (s : State) (hc : s.Canon) : OutTabs (execHostQueuePost w s) := by
  unfold execHostQueuePost
  simp [hc]

theorem execRouteSync_tabs (w : DWord) (s : State) (hc : s.Canon) : OutTabs (execRouteSync w s) := by
  unfold execRouteSync
  simp [hc]

theorem execContextSync_tabs (w : DWord) (s : State) (hc : s.Canon) : OutTabs (execContextSync w s) := by
  unfold execContextSync
  extract_lets asid load s1
  have h1 : s1.Canon := by
    unfold s1
    simp only [State.canon_mk]
    exact stateTables_updGangs _ _ hc fun g hg => by simp [load, hg]
  split
  · exact hc
  split
  · simpa using h1
  · next t ht => simpa using removeTlb_tabs _ _ _ _ h1 ht

theorem execTableBaseWrite_tabs (off : Nat) (w : DWord) (s : State) (hc : s.Canon) : OutTabs (execTableBaseWrite off w s) := by
  unfold execTableBaseWrite
  simp [hc]

/-- After reset no gang is there (R380). -/
@[simp] theorem resetModule_tabs (s : State) : (resetModule s).Canon := by
  simp only [resetModule, State.canon_mk]
  exact ⟨List.forall_mem_nil _, List.forall_mem_nil _⟩

theorem execModuleReset_tabs (s : State) : OutTabs (execModuleReset s) := resetModule_tabs s

@[simp] theorem placeFaultGang_tabs (s : State) (die : Nat) (hc : s.Canon) : (placeFaultGang s die).Canon := by
  unfold placeFaultGang
  extract_lets f b s1
  have h1 : s1.Canon := by simpa [s1] using hc
  clear_value s1
  split
  · exact h1
  · exact addGang_tabs _ _ h1 (newGang_canon _ _ _ _ _ _ _ _)

@[simp] theorem writeCtx0_tabs (s : State) (hc : s.Canon) : (writeCtx0 s).Canon := by
  simpa [writeCtx0] using hc

theorem execPowerOn_tabs (s : State) (hc : s.Canon) : OutTabs (execPowerOn s) := by
  unfold execPowerOn
  split
  · exact hc
  split
  · simpa using hc
  · simp only [outTabs_next, logEvent_tabs, State.canon_mk, stateTables_self]
    refine foldl_tabs _ _ (fun t d ht => placeFaultGang_tabs t d ht) (writeCtx0_tabs _ ?_)
    simpa using hc

@[simp] theorem writeImage_tabs (s : State) (image : List Byte) (hc : s.Canon) : (writeImage s image).Canon := by
  simp [writeImage, hc]

theorem execFirmwareUpdate_tabs (addr len : Nat) (s : State) (hc : s.Canon) : OutTabs (execFirmwareUpdate addr len s) := by
  unfold execFirmwareUpdate
  simp [hc]

theorem execRecoveryGo_tabs (w : DWord) (s : State) (hc : s.Canon) : OutTabs (execRecoveryGo w s) := by
  unfold execRecoveryGo
  simp only []
  split
  · simpa using hc
  split
  · simpa using hc
  · exact resetModule_tabs _

theorem execSpdmRequest_tabs (req : List Byte) (s : State) (hc : s.Canon) : OutTabs (execSpdmRequest req s) := hc

theorem execFencedCoreMapUpdate_tabs (map : List Nat) (s : State) (hc : s.Canon) : OutTabs (execFencedCoreMapUpdate map s) := hc

theorem execIzsilConfigSet_tabs (cfg : NetConfig) (s : State) (hc : s.Canon) : OutTabs (execIzsilConfigSet cfg s) := hc

theorem execPowerLimit_tabs (s : State) (hc : s.Canon) : OutTabs (execPowerLimit s) := hc

theorem execThermalThrottle_tabs (die : Nat) (s : State) (hc : s.Canon) : OutTabs (execThermalThrottle die s) := hc

theorem execThermalStop_tabs (code : Nat) (s : State) (hc : s.Canon) : OutTabs (execThermalStop code s) := hc

theorem execPowerLoss_tabs (midWrite : Bool) (s : State) : OutTabs (execPowerLoss midWrite s) := by
  simp [execPowerLoss]

@[simp] theorem tileWait_tabs (e : Env) (s : State) (ts : List Nat) (w : Nat) (rows : List Nat) (body : CmdBody) (hc : s.Canon) :
    ResTabs (tileWait e s ts w rows body) := by
  unfold tileWait
  simp [hc]

theorem execMma_tabs (x : Ext) (s : State) (hc : s.Canon) : OutTabs (execMma x s) := by
  refine runExt_tabs _ _ hc fun e r => ?_
  simp only []
  repeat' split
  all_goals simp [hc]

theorem execMload_tabs (x : Ext) (s : State) (hc : s.Canon) : OutTabs (execMload x s) := by
  refine runExt_tabs _ _ hc fun e r => ?_
  simp only []
  repeat' split
  all_goals simp [hc]

theorem execMdrain_tabs (x : Ext) (s : State) (hc : s.Canon) : OutTabs (execMdrain x s) := by
  refine runExt_tabs _ _ hc fun e r => ?_
  simp only []
  repeat' split
  all_goals simp [hc]

@[simp] theorem putAcc_tabs (s : State) (c : Cmd) (pair : Bool) (m : Nat) (vs : List (Nat × Nat × FFlags)) (hc : s.Canon) :
    (putAcc s c pair m vs).Canon := by
  simp only [putAcc, State.updCmd_tabs]
  exact updGang_tabs _ _ _ hc fun g hg => by simp [hg]

@[simp] theorem performMma_tabs (s : State) (g : Gang) (c : Cmd) (m ta tb ty : Nat) (rows : List Nat) (hc : s.Canon) :
    (performMma s g c m ta tb ty rows).Canon := by
  simp [performMma, hc]

@[simp] theorem performMload_tabs (s : State) (g : Gang) (c : Cmd) (m t w : Nat) (hc : s.Canon) : (performMload s g c m t w).Canon := by
  simp [performMload, hc]

@[simp] theorem performMdrain_tabs (s : State) (g : Gang) (c : Cmd) (t m w : Nat) (am : Option (List Nat × Nat)) (hc : s.Canon) :
    (performMdrain s g c t m w am).Canon := by
  simp [performMdrain, hc]

theorem withTiles_tabs (s : State) (c : Cmd) (as : List Nat) (perform : State → Gang → State)
    (hp : ∀ t g, t.Canon → (perform t g).Canon) (hc : s.Canon) : (withTiles s c as perform).Canon := by
  unfold withTiles
  split
  · split
    · exact hp s _ hc
    · exact hc
  split
  · exact hc
  split
  · exact hc
  next t ht =>
  have h := issuerOs_tabs _ _ hc ht
  split
  · exact hc
  split
  · simpa using h
  split
  · rw [State.updCmd_tabs]
    exact failCmd_tabs _ _ (failAcc_tabs _ _ _ _ h)
  · exact hp _ _ h

theorem execMatrixCommandPerform_tabs (cmd : Nat) (s : State) (hc : s.Canon) : OutTabs (execMatrixCommandPerform cmd s) := by
  unfold execMatrixCommandPerform
  split
  · exact hc
  split
  · exact hc
  split
  · exact hc
  split
  · exact putAcc_tabs _ _ _ _ _ hc
  · exact withTiles_tabs _ _ _ _ (fun t g ht => performMma_tabs t g _ _ _ _ _ _ ht) hc
  · exact withTiles_tabs _ _ _ _ (fun t g ht => performMload_tabs t g _ _ _ _ ht) hc
  · exact performMdrain_tabs _ _ _ _ _ _ _ hc
  · exact hc

theorem execWalk_tabs (x : Ext) (s : State) (hc : s.Canon) : OutTabs (execWalk x s) := by
  refine runExt_tabs _ _ hc fun e r => ?_
  simp only []
  repeat' split
  all_goals simp [hc]

@[simp] theorem putWalk_tabs (s : State) (c : Cmd) (t : Nat) (desc : Option (List Nat)) (st : WalkSt) : (putWalk s c t desc st).Canon ↔ s.Canon := by
  simp [putWalk]

@[simp] theorem endWalk_tabs (s : State) (c : Cmd) (t : Nat) (desc : Option (List Nat)) (st : WalkSt) (reason pc : Nat) :
    (endWalk s c t desc st reason pc).Canon ↔ s.Canon := by
  unfold endWalk
  simp only []
  split <;> simp

theorem execWalkStart_tabs (cmd : Nat) (s : State) (hc : s.Canon) : OutTabs (execWalkStart cmd s) := by
  unfold execWalkStart
  split
  · exact hc
  split
  · split
    · exact hc
    split
    · exact failCmd_tabs _ _ hc
    split
    · exact failCmd_tabs _ _ hc
    split <;> rename_i hr
    · exact readWords_error_tabs _ _ hc hr
    · exact failCmd_tabs _ _ (readWords_error_tabs _ _ hc hr)
    · cases readWords_ok_eq _ _ hr
      split
      · exact failCmd_tabs _ _ hc
      simp only []
      split <;> rename_i hk
      · exact readNats_error_tabs _ _ _ hc hk
      · rw [outTabs_next, endWalk_tabs]
        exact readNats_error_tabs _ _ _ hc hk
      · cases readNats_ok_eq _ _ _ hk
        simp [hc]
  · exact hc

/-- The tables are in canonical form in the state that a walker instruction's own effect leaves. -/
def WalkTabs : WRes → Prop
  | .next _ => True
  | .jump .. => True
  | .done => True
  | .fault _ => True
  | .read t _ => t.Canon
  | .lost t => t.Canon
  | .hold t _ => t.Canon

theorem runWalk_tabs (i : Instr) {s : State} {body : State → Cmd → Gang → Nat → WalkSt → WRes} (hc : s.Canon)
    (hb : ∀ c g t st, WalkTabs (body s c g t st)) :
    OutTabs (runWalk i s body) := by
  unfold runWalk
  split
  · trivial
  next c t desc st g _ =>
  split
  · exact hc
  have h : WalkTabs (if i.wellFormed then body s c g t st else .fault 2) := by
    split
    · exact hb c g t st
    · trivial
  simp only []
  split <;> rename_i hr <;> rw [hr] at h <;> simp only [outTabs_next, canon_ite, endWalk_tabs, putWalk_tabs, ite_self]
  case h_2 => exact h
  case h_6 => exact h
  case h_7 => exact h
  all_goals exact hc

theorem execWbz_tabs (ya : BitVec 4) (t : BitVec 8) (s : State) (hc : s.Canon) : OutTabs (execWbz ya t s) := by
  refine runWalk_tabs _ hc fun c g n st => ?_
  split <;> trivial

theorem execWblt_tabs (t : BitVec 8) (s : State) (hc : s.Canon) : OutTabs (execWblt t s) := by
  refine runWalk_tabs _ hc fun c g n st => ?_
  split <;> trivial

/-- The tables are in canonical form in the state of a walk's read, done or not. -/
def ReadTabs {α : Type} : Except WRes (State × α) → Prop
  | .ok p => p.1.Canon
  | .error r => WalkTabs r

theorem walkLine_tabs (s : State) (c : Cmd) (st : WalkSt) (src va : Nat) (hc : s.Canon) : ReadTabs (walkLine s c st src va) := by
  unfold walkLine
  grind [ReadTabs, WalkTabs, UTabs, uRead_tabs, UStop.state]

theorem walkElem_tabs (s : State) (c : Cmd) (st : WalkSt) (src k : Nat) (hc : s.Canon) : ReadTabs (walkElem s c st src k) := by
  have h := walkLine_tabs s c st src (fmtBase st.fmt src + k * fmtEsz st.fmt src) hc
  unfold walkElem
  grind [ReadTabs]

theorem execWld_tabs (yd ya src : BitVec 4) (s : State) (hc : s.Canon) : OutTabs (execWld yd ya src s) := by
  refine runWalk_tabs _ hc fun c g t st => ?_
  have h := walkElem_tabs s c st src.toNat (st.r ya).toNat hc
  grind [ReadTabs, WalkTabs]

theorem walkBit_tabs (c : Cmd) (src hi fuel : Nat) (s : State) (st : WalkSt) (lo : Nat) (hc : s.Canon) :
    ReadTabs (walkBit c src hi fuel s st lo) := by
  induction fuel generalizing s st lo with
  | zero => exact hc
  | succ fuel ih =>
    have h := walkLine_tabs s c st src (fmtBase st.fmt src + lo / 8) hc
    unfold walkBit
    grind [ReadTabs, WalkTabs]

theorem execWbmn_tabs (yd ya yb : BitVec 4) (src : BitVec 3) (s : State) (hc : s.Canon) : OutTabs (execWbmn yd ya yb src s) := by
  refine runWalk_tabs _ hc fun c g t st => ?_
  have h := walkBit_tabs c src.toNat (st.r yb).toNat (((st.r yb).toNat - (st.r ya).toNat) / 1024 + 2) s st (st.scan.getD (st.r ya).toNat) hc
  grind [ReadTabs, WalkTabs]

theorem execWrun_tabs (yd yb ya : BitVec 4) (src : BitVec 3) (s : State) (hc : s.Canon) : OutTabs (execWrun yd yb ya src s) := by
  refine runWalk_tabs _ hc fun c g t st => ?_
  have h := walkElem_tabs s c st src.toNat (st.r ya).toNat hc
  grind [ReadTabs, WalkTabs]

theorem execWemit_tabs (ya yb : BitVec 4) (s : State) (hc : s.Canon) : OutTabs (execWemit ya yb s) := by
  refine runWalk_tabs _ hc fun c g t st => ?_
  simp only []
  split <;> trivial

theorem execWpush_tabs (ya : BitVec 4) (s : State) (hc : s.Canon) : OutTabs (execWpush ya s) := by
  refine runWalk_tabs _ hc fun c g t st => ?_
  split <;> trivial

theorem execWpop_tabs (yd : BitVec 4) (s : State) (hc : s.Canon) : OutTabs (execWpop yd s) := by
  refine runWalk_tabs _ hc fun c g t st => ?_
  split <;> trivial

theorem walkFault_tabs (cmd reason : Nat) (s : State) (hc : s.Canon) : OutTabs (walkFault cmd reason s) := by
  unfold walkFault
  grind [OutTabs, endWalk_tabs]

theorem execWalkerStepLimit_tabs (cmd : Nat) (s : State) (hc : s.Canon) : OutTabs (execWalkerStepLimit cmd s) := by
  unfold execWalkerStepLimit
  grind [OutTabs, endWalk_tabs]

theorem execWalkStop_tabs (cmd : Nat) (s : State) (hc : s.Canon) : OutTabs (execWalkStop cmd s) := by
  unfold execWalkStop
  grind [OutTabs, State.updCmd_tabs]

/-! ### Every instruction and event -/

theorem doTest_tabs (e : Env) (s : State) (perWarp : Bool) (x : Ext) (cond : Nat → Bool × BitVec 5) (hc : s.Canon) :
    ResTabs (doTest e s perWarp x cond) := by
  simp [doTest, hc]

/-- Every instruction, walker word and event keeps the tables in canonical form: one arm per constructor, the arms of one kind together. -/
theorem exec_tabs (i : Instr) (s : State) (hc : s.Canon) : OutTabs (exec i s) := by
  cases i with
  | nop _ | bra _ _ | horBase _ _ _ _ | handBase _ _ _ _ | handnBase _ _ _ _ | hxorBase _ _ _ _ | hnotBase _ _ _ | hmovBase _ _ _ =>
    dsimp only [exec]
    exact runBase_tabs _ _ _ hc fun _ => hc
  | hcntBase _ _ _ | hfirstBase _ _ _ | hmembBase _ _ _ _ _ | hposBase _ _ _ _ _ | saddBase _ _ _ _ _ | smovBase _ _ _ =>
    dsimp only [exec]
    exact runBase_tabs _ _ _ hc fun e => resTabs_result e s _ _ hc
  | yield _ =>
    dsimp only [exec]
    exact runWait_tabs _ _ _ hc fun e => e.set_tabs s _ hc fun a ha => by simp [ha]
  | iaddBase _ _ _ _ _ | isubBase _ _ _ _ _ | andBase _ _ _ _ _ | orBase _ _ _ _ _ | xorBase _ _ _ _ _ | shlBase _ _ _ _ _ | shrBase _ _ _ _ _
  | movBase _ _ _ =>
    dsimp only [exec]
    exact laneBase_tabs _ _ _ _ _ _ _ hc
  | faddBase _ _ _ _ _ | fmulBase _ _ _ _ _ =>
    dsimp only [exec]
    exact laneFBase_tabs _ _ _ _ _ _ _ hc
  | htest _ _ _ | htesti _ _ _ | hbit _ _ =>
    dsimp only [exec]
    exact runExt_tabs _ _ hc fun e _ => doTest_tabs e s _ _ _ hc
  | horExt _ | handExt _ | handnExt _ | hxorExt _ | hnotExt _ | hmovExt _ | hpick _ | hrange _ =>
    dsimp only [exec]
    exact runExt_tabs _ _ hc fun _ _ => hc
  | mzero _ | rtflush _ =>
    dsimp only [exec]
    exact runExt_tabs _ _ hc fun e _ => issueCmd_tabs e s _ _ _ 0 hc
  | dmbx _ =>
    dsimp only [exec]
    exact runExt_tabs _ _ hc fun e _ => mailPush_tabs s _ _ _ hc
  | hcntExt _ | hfirstExt _ | hmembExt _ | hposExt _ | smovExt _ | smovi _ | scmp _ _ | kop _ _ | lscan _ _ _ | vlane _ | topki _ _ | bset _ | tstat _ =>
    dsimp only [exec]
    exact runExt_tabs _ _ hc fun e _ => resTabs_result e s _ _ hc
  | iaddExt _ | isubExt _ | imul _ | imulh _ | imad _ | imin _ | imax _ | iabs _ | iset _ _ | sel _ | andExt _ | orExt _ | xorExt _ | lut3 _
  | shlExt _ | shrExt _ | sar _ | fshl _ | fshr _ | popc _ | clz _ | brev _ | bfe _ | bfi _ | movExt _ | movi _ | shfl _ _ | vbcast _ | fmtw _ =>
    dsimp only [exec]
    exact laneOp_tabs _ _ _ _ _ hc
  | saddExt _ | ssub _ | smul _ | sand _ | sor _ | sxor _ | sshl _ | sshr _ | smin _ | smax _ =>
    dsimp only [exec]
    exact salu_tabs _ _ _ _ hc
  | faddExt _ | fsub _ | fmulExt _ | fmin _ | fmax _ | fset _ _ =>
    dsimp only [exec]
    exact float2_tabs _ _ _ _ _ hc
  | ffma _ | fdiv _ | cvt _ _ =>
    dsimp only [exec]
    exact laneF_tabs _ _ _ _ _ hc
  | fclass _ | frnd _ | fsqrt _ | frcp _ | frsq _ | fexp2 _ | flog2 _ | fsin _ | fcos _ | ftanh _ =>
    dsimp only [exec]
    exact float1_tabs _ _ _ _ _ hc
  | wend | wldi _ _ | wadd _ _ _ _ | wsub _ _ _ | wand _ _ _ | wshr _ _ _ | wcmp _ _ | wbr _ | wrow _ | wsync =>
    dsimp only [exec]
    exact runWalk_tabs _ hc fun _ _ _ _ => trivial
  | brc m off inv k => exact execBrc_tabs m off inv k s hc
  | bhe m off h => exact execBhe_tabs m off h s hc
  | bhn m off h => exact execBhn_tabs m off h s hc
  | loop m off n => exact execLoop_tabs m off n s hc
  | call m off => exact execCall_tabs m off s hc
  | calls m a => exact execCalls_tabs m a s hc
  | ret m => exact execRet_tabs m s hc
  | apply m off h va nc vb nw => exact execApply_tabs m off h va nc vb nw s hc
  | done m => exact execDone_tabs m s hc
  | exit m => exact execExit_tabs m s hc
  | hfence x => exact execHfence_tabs x s hc
  | lred o x => exact execLred_tabs o x s hc
  | bfpq x => exact execBfpq_tabs x s hc
  | bfpx x => exact execBfpx_tabs x s hc
  | ld x => exact execLd_tabs x s hc
  | st x => exact execSt_tabs x s hc
  | lds x => exact execLds_tabs x s hc
  | sts x => exact execSts_tabs x s hc
  | atom o x => exact execAtom_tabs o x s hc
  | sred o x => exact execSred_tabs o x s hc
  | pref x => exact execPref_tabs x s hc
  | ldo x => exact execLdo_tabs x s hc
  | sto x => exact execSto_tabs x s hc
  | ldc x => exact execLdc_tabs x s hc
  | stp x => exact execStp_tabs x s hc
  | smap x => exact execSmap_tabs x s hc
  | sflush x => exact execSflush_tabs x s hc
  | sinv x => exact execSinv_tabs x s hc
  | bld x => exact execBld_tabs x s hc
  | hld x => exact execHld_tabs x s hc
  | hst x => exact execHst_tabs x s hc
  | fence order scope x => exact execFence_tabs order scope x s hc
  | waitc x => exact execWaitc_tabs x s hc
  | sbinit x => exact execSbinit_tabs x s hc
  | sbexp x => exact execSbexp_tabs x s hc
  | sbarv x => exact execSbarv_tabs x s hc
  | sbwait x => exact execSbwait_tabs x s hc
  | barHand x => exact execBarHand_tabs x s hc
  | barGang x => exact execBarGang_tabs x s hc
  | tdef x => exact execTdef_tabs x s hc
  | trel x => exact execTrel_tabs x s hc
  | mma x => exact execMma_tabs x s hc
  | mload x => exact execMload_tabs x s hc
  | mdrain x => exact execMdrain_tabs x s hc
  | cpy x => exact execCpy_tabs x s hc
  | cpo x => exact execCpo_tabs x s hc
  | gath x => exact execGath_tabs x s hc
  | qpost x => exact execQpost_tabs x s hc
  | qpop x => exact execQpop_tabs x s hc
  | launch x => exact execLaunch_tabs x s hc
  | cmpl x => exact execCmpl_tabs x s hc
  | rtsend x => exact execRtsend_tabs x s hc
  | rtrecv x => exact execRtrecv_tabs x s hc
  | rtrel x => exact execRtrel_tabs x s hc
  | spill x => exact execSpill_tabs x s hc
  | fill x => exact execFill_tabs x s hc
  | tokw x => exact execTokw_tabs x s hc
  | vdec x => exact execVdec_tabs x s hc
  | vdstat x => exact execVdstat_tabs x s hc
  | auct x => exact execAuct_tabs x s hc
  | aust x => exact execAust_tabs x s hc
  | fork x => exact execFork_tabs x s hc
  | grwd x => exact execGrwd_tabs x s hc
  | gbar x => exact execGbar_tabs x s hc
  | gcancel x => exact execGcancel_tabs x s hc
  | gstat x => exact execGstat_tabs x s hc
  | walk x => exact execWalk_tabs x s hc
  | mfs x => exact execMfs_tabs x s hc
  | mts x => exact execMts_tabs x s hc
  | trap x => exact execTrap_tabs x s hc
  | bkpt x => exact execBkpt_tabs x s hc
  | eret x => exact execEret_tabs x s hc
  | fpop x => exact execFpop_tabs x s hc
  | fres x => exact execFres_tabs x s hc
  | tlbi x => exact execTlbi_tabs x s hc
  | biasf x => exact execBiasf_tabs x s hc
  | ctxs x => exact execCtxs_tabs x s hc
  | ctxl x => exact execCtxl_tabs x s hc
  | wbz ya t => exact execWbz_tabs ya t s hc
  | wblt t => exact execWblt_tabs t s hc
  | wld yd ya src => exact execWld_tabs yd ya src s hc
  | wbmn yd ya yb src => exact execWbmn_tabs yd ya yb src s hc
  | wrun yd yb ya src => exact execWrun_tabs yd yb ya src s hc
  | wemit ya yb => exact execWemit_tabs ya yb s hc
  | wpush ya => exact execWpush_tabs ya s hc
  | wpop yd => exact execWpop_tabs yd s hc
  | packFormation gang apply => exact execPackFormation_tabs gang apply s hc
  | applyJoin gang apply => exact execApplyJoin_tabs gang apply s hc
  | handWriteCommit die core => exact execHandWriteCommit_tabs die core s hc
  | stageBarrierCredit cmd => exact execStageBarrierCredit_tabs cmd s hc
  | matrixCommandPerform cmd => exact execMatrixCommandPerform_tabs cmd s hc
  | copyCommandStart cmd => exact execCopyCommandStart_tabs cmd s hc
  | enginePortionComplete cmd => exact execEnginePortionComplete_tabs cmd s hc
  | commandRetire cmd => exact execCommandRetire_tabs cmd s hc
  | completionPostHeld n => exact execCompletionPostHeld_tabs n s hc
  | sendListAppend cmd => exact execSendListAppend_tabs cmd s hc
  | frameFormation asid route => exact execFrameFormation_tabs asid route s hc
  | tokenIdle cmd => exact execTokenIdle_tabs cmd s hc
  | decodeStart cmd => exact execDecodeStart_tabs cmd s hc
  | decodeFrame cmd => exact execDecodeFrame_tabs cmd s hc
  | auctionStart cmd => exact execAuctionStart_tabs cmd s hc
  | auctionRound cmd => exact execAuctionRound_tabs cmd s hc
  | auctionSave cmd => exact execAuctionSave_tabs cmd s hc
  | auctionRestore cmd => exact execAuctionRestore_tabs cmd s hc
  | groupRewardPerform n => exact execGroupRewardPerform_tabs n s hc
  | groupCancelPerform n => exact execGroupCancelPerform_tabs n s hc
  | cancelRedirect gang agent => exact execCancelRedirect_tabs gang agent s hc
  | groupDeadline grp => exact execGroupDeadline_tabs grp s hc
  | groupAgeWrite grp => exact execGroupAgeWrite_tabs grp s hc
  | groupAgePause grp => exact execGroupAgePause_tabs grp s hc
  | walkStart cmd => exact execWalkStart_tabs cmd s hc
  | walkerStepLimit cmd => exact execWalkerStepLimit_tabs cmd s hc
  | walkStop cmd => exact execWalkStop_tabs cmd s hc
  | loadDataReturn gang agent n => exact execLoadDataReturn_tabs gang agent n s hc
  | pageTableWalk gang va => exact execPageTableWalk_tabs gang va s hc
  | missRetry gang agent n => exact execMissRetry_tabs gang agent n s hc
  | writePerformAtHome die n => exact execWritePerformAtHome_tabs die n s hc
  | memorySideAtomic n => exact execMemorySideAtomic_tabs n s hc
  | stashRemoteRequest gang line write => exact execStashRemoteRequest_tabs gang line write s hc
  | directoryEvict line => exact execDirectoryEvict_tabs line s hc
  | dupCollapse die n => exact execDupCollapse_tabs die n s hc
  | dupCollapseAck page die => exact execDupCollapseAck_tabs page die s hc
  | biasFlipComplete frame => exact execBiasFlipComplete_tabs frame s hc
  | hostCxlMemAccess addr len bytes => exact execHostCxlMemAccess_tabs addr len bytes s hc
  | eccUncorrectable loc => exact execEccUncorrectable_tabs loc s hc
  | eccCorrected code => exact execEccCorrected_tabs code s hc
  | frameRelease desc => exact execFrameRelease_tabs desc s hc
  | launchUnitVisit => exact execLaunchUnitVisit_tabs s hc
  | gangHandout grid => exact execGangHandout_tabs grid s hc
  | stealMessage grid die => exact execStealMessage_tabs grid die s hc
  | gangPlace die => exact execGangPlace_tabs die s hc
  | engineCommandAccept die core => exact execEngineCommandAccept_tabs die core s hc
  | longWaitThreshold gang => exact execLongWaitThreshold_tabs gang s hc
  | gangSave gang => exact execGangSave_tabs gang s hc
  | watchedCondition gang => exact execWatchedCondition_tabs gang s hc
  | rendezvousTimeout gang n => exact execRendezvousTimeout_tabs gang n s hc
  | gangComplete gang => exact execGangComplete_tabs gang s hc
  | gangKill gang => exact execGangKill_tabs gang s hc
  | preemptRequest w => exact execPreemptRequest_tabs w s hc
  | preemptTimeout gang => exact execPreemptTimeout_tabs gang s hc
  | resumeRequest w => exact execResumeRequest_tabs w s hc
  | dataFrame port frame => exact execDataFrame_tabs port frame s hc
  | ackFrame port frame => exact execAckFrame_tabs port frame s hc
  | returnFrame port frame => exact execReturnFrame_tabs port frame s hc
  | resendTimeout port peer => exact execResendTimeout_tabs port peer s hc
  | ethernetPacketReceive port packet => exact execEthernetPacketReceive_tabs port packet s hc
  | recoveryGo w => exact execRecoveryGo_tabs w s hc
  | launchQueueControl q w => exact execLaunchQueueControl_tabs q w s hc
  | launchDoorbell q w => exact execLaunchDoorbell_tabs q w s hc
  | hostQueuePost w => exact execHostQueuePost_tabs w s hc
  | routeSync w => exact execRouteSync_tabs w s hc
  | contextSync w => exact execContextSync_tabs w s hc
  | tableBaseWrite off w => exact execTableBaseWrite_tabs off w s hc
  | registerWrite off w => exact execRegisterWrite_tabs off w s hc
  | powerOn => exact execPowerOn_tabs s hc
  | moduleReset => exact execModuleReset_tabs s
  | firmwareUpdate addr len => exact execFirmwareUpdate_tabs addr len s hc
  | spdmRequest req => exact execSpdmRequest_tabs req s hc
  | fencedCoreMapUpdate map => exact execFencedCoreMapUpdate_tabs map s hc
  | izsilConfigSet cfg => exact execIzsilConfigSet_tabs cfg s hc
  | powerLimit => exact execPowerLimit_tabs s hc
  | thermalThrottle die => exact execThermalThrottle_tabs die s hc
  | thermalStop code => exact execThermalStop_tabs code s hc
  | powerLoss midWrite => exact execPowerLoss_tabs midWrite s
  | hostWriteToHostMemory addr bytes => exact execHostWriteToHostMemory_tabs addr bytes s hc

/-! ### Every move, and the step -/

@[simp] theorem tickOn_tabs (s : State) (hc : s.Canon) : (tickOn s).Canon := by
  simp [tickOn, hc]

theorem noteReady_tabs (exec : Instr → State → Outcome) (s : State) (hc : s.Canon) : (noteReady exec s).Canon := by
  unfold noteReady
  simp only [State.canon_mk]
  exact stateTables_mapGangs _ hc fun g hg => gangTables_mapAgents _ hg fun a ha => by simp [ha]

theorem noteIssue_tabs (s : State) (e : Env) (has : Bool) (t : State) (hc : t.Canon) : (noteIssue s e has t).Canon := by
  unfold noteIssue
  simp only [State.canon_mk]
  exact stateTables_mapGangs _ hc fun g hg => gangTables_mapAgents _ hg fun a ha => by simp [ha]

@[simp] theorem beginStep_tabs (exec : Instr → State → Outcome) (s : State) (hc : s.Canon) : (beginStep exec s).Canon :=
  noteReady_tabs exec _ (tickOn_tabs _ (noteResidency_tabs s hc))

/-! ### Inputs -/

theorem barWrite_tabs (off : Nat) (w : DWord) (s : State) (hc : s.Canon) : OutTabs (barWrite off w s) := by
  unfold barWrite
  split
  · exact execRecoveryGo_tabs w s hc
  split
  · exact execLaunchQueueControl_tabs _ w s hc
  split
  · exact execLaunchDoorbell_tabs _ w s hc
  split
  · split
    · exact execPreemptRequest_tabs w s hc
    · exact execResumeRequest_tabs w s hc
  split
  · exact execHostQueuePost_tabs w s hc
  split
  · exact execRouteSync_tabs w s hc
  split
  · exact execTableBaseWrite_tabs off w s hc
  split
  · exact execContextSync_tabs w s hc
  · exact execRegisterWrite_tabs off w s hc

theorem inputRun_tabs (i : Input) (s : State) (hc : s.Canon) : OutTabs (inputRun i s) := by
  cases i with
  | write off w => exact barWrite_tabs off w s hc
  | bar0 off n bs =>
    cases bs with
    | none => simpa [inputRun] using barRead_tabs s off n hc
    | some bs =>
      dsimp only [inputRun]
      split
      · exact barWrite_tabs _ _ s hc
      · exact hc
  | cxlMem a n bs => exact execHostCxlMemAccess_tabs a n bs s hc
  | hostMem a n bs =>
    dsimp only [inputRun]
    split
    · exact hc
    · exact execHostCxlMemAccess_tabs _ n bs s hc
  | cfgSpace off n bs => simpa [inputRun] using cfgAccess_tabs s off n bs hc
  | msix n a d k => simpa [inputRun] using hc
  | hdm t d => simpa [inputRun] using hc
  | hostStore a bs => exact execHostWriteToHostMemory_tabs a bs s hc
  | packet port p => exact execEthernetPacketReceive_tabs port p s hc
  | frame port bs =>
    dsimp only [inputRun]
    split
    · exact execDataFrame_tabs port bs s hc
    split
    · exact execReturnFrame_tabs port bs s hc
    · exact execAckFrame_tabs port bs s hc
  | eccUncorrectable loc => exact execEccUncorrectable_tabs loc s hc
  | eccCorrected c => exact execEccCorrected_tabs c s hc
  | moduleReset => exact execModuleReset_tabs s
  | firmwareUpdate a n => exact execFirmwareUpdate_tabs a n s hc
  | spdm req => exact execSpdmRequest_tabs req s hc
  | fencedMap m => exact execFencedCoreMapUpdate_tabs m s hc
  | config c => exact execIzsilConfigSet_tabs c s hc
  | powerLimit => exact execPowerLimit_tabs s hc
  | throttle d => exact execThermalThrottle_tabs d s hc
  | thermalStop c => exact execThermalStop_tabs c s hc
  | powerLoss mid => exact execPowerLoss_tabs mid s

theorem takeInput_tabs (i : Input) (s : State) (hc : s.Canon) : OutTabs (takeInput i s) := by
  have hs : ({ s with inputs := s.inputs.erase i } : State).Canon := by simpa using hc
  unfold takeInput
  simp only []
  split
  · exact inputRun_tabs i _ hs
  · exact hs

/-! ### Turns -/

theorem acquireFirst_tabs {s t : State} (e : Env) (hc : s.Canon) (ht : acquireFirst s e = some t) : t.Canon := by
  unfold acquireFirst at ht
  split at ht
  · cases ht
    exact hc
  · obtain ⟨u, hu, rfl⟩ := Option.map_eq_some_iff.1 ht
    exact e.set_tabs u _ (fence_tabs e 0 _ hc hu) fun a ha => by simp [ha]

theorem agentTurn_tabs (gang agent : Nat) (s : State) (hc : s.Canon) : OutTabs (agentTurn exec gang agent s) := by
  have hs : ({ s with cur := .agent gang agent } : State).Canon := by simpa using hc
  unfold agentTurn
  simp only []
  split
  · exact hs
  next e _ =>
  split
  · rw [outTabs_next, canon_ite]
    split
    · exact takeDebug_tabs _ e _ hs
    · exact takeTrap_tabs _ e _ hs
  split
  · exact e.hold_tabs _ hs
  next t ht =>
  have hf : (fetch t (e.now t)).1.Canon := fetch_tabs t _ (acquireFirst_tabs e hs ht)
  split <;> rename_i hr <;> rw [hr] at hf
  · split
    · exact execCancelRedirect_tabs gang agent _ hf
    · exact exec_tabs _ _ hf
  · exact fetchFailed_tabs _ _ _ hf

theorem issueTurn_tabs (gang agent : Nat) (s : State) (hc : s.Canon) : OutTabs (issueTurn exec gang agent s) := by
  have h := agentTurn_tabs gang agent s hc
  unfold issueTurn
  split
  · next hr _ =>
    rw [hr] at h
    exact noteIssue_tabs s _ _ _ h
  · exact h

theorem wordTurn_tabs (cmd : Nat) (s : State) (hc : s.Canon) : OutTabs (wordTurn exec cmd s) := by
  have hs (n : Nat) : ({ s with cur := .walker n } : State).Canon := by simpa using hc
  unfold wordTurn
  simp only []
  split
  · exact hs _
  split
  · exact exec_tabs _ _ (hs _)
  · exact walkFault_tabs _ _ _ (hs _)

/-- A move keeps the tables in canonical form. -/
def Turn.KeepsTabs (m : Turn) : Prop := ∀ s, s.Canon → OutTabs (m.run exec s)

theorem Turn.agent_keeps_tabs (gang agent : Nat) : (Turn.agent gang agent).KeepsTabs := issueTurn_tabs gang agent

theorem Turn.word_keeps_tabs (cmd : Nat) : (Turn.word cmd).KeepsTabs := wordTurn_tabs cmd

/-- Each of a list of moves keeps the tables in canonical form. -/
def MovesKeepTabs (l : List Turn) : Prop := ∀ m ∈ l, m.KeepsTabs

@[simp] theorem movesKeepTabs_nil : MovesKeepTabs [] := by simp [MovesKeepTabs]

@[simp] theorem movesKeepTabs_cons (m : Turn) (l : List Turn) : MovesKeepTabs (m :: l) ↔ m.KeepsTabs ∧ MovesKeepTabs l := List.forall_mem_cons

@[simp] theorem movesKeepTabs_append (l k : List Turn) : MovesKeepTabs (l ++ k) ↔ MovesKeepTabs l ∧ MovesKeepTabs k := List.forall_mem_append

theorem movesKeepTabs_flatMap {α : Type} (xs : List α) (f : α → List Turn) (h : ∀ a, MovesKeepTabs (f a)) : MovesKeepTabs (xs.flatMap f) := by
  intro m hm
  obtain ⟨a, -, ha⟩ := List.mem_flatMap.1 hm
  exact h a m ha

theorem movesKeepTabs_eventsOf {α : Type} (xs : List α) (p : α → Bool) (f : α → State → Outcome) (h : ∀ a s, s.Canon → OutTabs (f a s)) :
    MovesKeepTabs (eventsOf xs p f) := by
  intro m hm
  obtain ⟨a, -, rfl⟩ := List.mem_map.1 hm
  exact h a

theorem movesKeepTabs_event (f : State → Outcome) (h : ∀ s, s.Canon → OutTabs (f s)) : MovesKeepTabs [.event f] := by
  rw [movesKeepTabs_cons]
  exact ⟨h, movesKeepTabs_nil⟩

/-! ### The moves of a state -/

theorem inputMoves_keepTabs (s : State) : MovesKeepTabs (inputMoves s) := movesKeepTabs_eventsOf _ _ _ takeInput_tabs

theorem dueMoves_keepTabs (s : State) : MovesKeepTabs (dueMoves s) := by
  simp only [dueMoves, movesKeepTabs_append, and_assoc]
  refine ⟨movesKeepTabs_eventsOf _ _ _ fun w => execHandWriteCommit_tabs w.1 w.2.1, movesKeepTabs_eventsOf _ _ _ fun g => execLongWaitThreshold_tabs g.uid,
    movesKeepTabs_flatMap _ _ fun g => movesKeepTabs_eventsOf _ _ _ fun r => execRendezvousTimeout_tabs g.uid r.n,
    movesKeepTabs_eventsOf _ _ _ fun g => execPreemptTimeout_tabs g.uid, movesKeepTabs_eventsOf _ _ _ fun l => execResendTimeout_tabs l.port l.peer,
    movesKeepTabs_eventsOf _ _ _ fun g => execGroupDeadline_tabs g.pa, movesKeepTabs_eventsOf _ _ _ fun g => execGroupAgeWrite_tabs g.pa,
    movesKeepTabs_eventsOf _ _ _ fun g => execGroupAgePause_tabs g.pa⟩

theorem agentMoves_keepTabs (s : State) : MovesKeepTabs (agentMoves s) := by
  refine movesKeepTabs_flatMap _ _ fun g m hm => ?_
  obtain ⟨a, -, rfl⟩ := List.mem_map.1 hm
  exact Turn.agent_keeps_tabs g.uid a.id

theorem walkMoves_keepTabs (s : State) (c : Cmd) (st : WalkSt) : MovesKeepTabs (walkMoves s c st) := by
  unfold walkMoves
  split
  · exact movesKeepTabs_nil
  split
  · simpa using Turn.word_keeps_tabs c.id
  split
  · exact movesKeepTabs_nil
  split
  · exact movesKeepTabs_event _ (execWalkStop_tabs c.id)
  split
  · exact movesKeepTabs_event _ (execWalkerStepLimit_tabs c.id)
  · exact movesKeepTabs_nil

theorem bodyMoves_keepTabs (s : State) (c : Cmd) : MovesKeepTabs (bodyMoves s c) := by
  unfold bodyMoves
  simp only []
  split
  · exact movesKeepTabs_event _ (execCopyCommandStart_tabs c.id)
  · exact movesKeepTabs_event _ (execMatrixCommandPerform_tabs c.id)
  · exact movesKeepTabs_event _ (execMatrixCommandPerform_tabs c.id)
  · exact movesKeepTabs_event _ (execMatrixCommandPerform_tabs c.id)
  · exact movesKeepTabs_event _ (execMatrixCommandPerform_tabs c.id)
  · exact movesKeepTabs_event _ (execAuctionStart_tabs c.id)
  · exact movesKeepTabs_event _ (execWalkStart_tabs c.id)
  · exact movesKeepTabs_event _ (execDecodeStart_tabs c.id)
  · simp only [movesKeepTabs_cons, movesKeepTabs_nil, and_true]
    exact ⟨execAuctionStart_tabs c.id, execAuctionRound_tabs c.id, execAuctionSave_tabs c.id⟩
  · exact movesKeepTabs_event _ (execAuctionRestore_tabs c.id)
  · exact walkMoves_keepTabs s c _
  · exact movesKeepTabs_event _ (execDecodeFrame_tabs c.id)
  · exact movesKeepTabs_nil
  · exact movesKeepTabs_event _ (execMemorySideAtomic_tabs c.id)
  · exact movesKeepTabs_event _ (execSendListAppend_tabs c.id)
  · exact movesKeepTabs_event _ (execSendListAppend_tabs c.id)
  · exact movesKeepTabs_event _ (execTokenIdle_tabs c.id)
  · exact movesKeepTabs_event _ (execTokenIdle_tabs c.id)
  · exact movesKeepTabs_event _ (execTokenIdle_tabs c.id)
  · exact movesKeepTabs_nil

/-- A move made under a condition keeps the tables in canonical form where the move does. -/
theorem movesKeepTabs_event_if (b : Prop) [Decidable b] (f : State → Outcome) (h : ∀ s, s.Canon → OutTabs (f s)) :
    MovesKeepTabs (if b then [.event f] else []) := by
  split
  · exact movesKeepTabs_event f h
  · exact movesKeepTabs_nil

theorem movesKeepTabs_event_unless (b : Prop) [Decidable b] (f : State → Outcome) (h : ∀ s, s.Canon → OutTabs (f s)) :
    MovesKeepTabs (if b then [] else [.event f]) := by
  split
  · exact movesKeepTabs_nil
  · exact movesKeepTabs_event f h

theorem cmdMoves_keepTabs (s : State) (c : Cmd) : MovesKeepTabs (cmdMoves s c) := by
  unfold cmdMoves
  split
  · exact movesKeepTabs_event _ (execEngineCommandAccept_tabs c.die c.core)
  · simp only [movesKeepTabs_append, and_assoc]
    exact ⟨bodyMoves_keepTabs s c, movesKeepTabs_event_if _ _ (execEnginePortionComplete_tabs c.id),
      movesKeepTabs_event_unless _ _ (execStageBarrierCredit_tabs c.id), movesKeepTabs_event_if _ _ (execCommandRetire_tabs c.id)⟩

theorem engineMoves_keepTabs (s : State) : MovesKeepTabs (engineMoves s) := by
  simp only [engineMoves, movesKeepTabs_append, and_assoc]
  exact ⟨movesKeepTabs_flatMap _ _ (cmdMoves_keepTabs s), movesKeepTabs_eventsOf _ _ _ fun p => execCompletionPostHeld_tabs p.n,
    movesKeepTabs_eventsOf _ _ _ fun l => execFrameFormation_tabs l.1 l.2, movesKeepTabs_event_unless _ _ execPacketTaken_tabs,
    movesKeepTabs_eventsOf _ _ _ fun m => execGroupRewardPerform_tabs m.n, movesKeepTabs_eventsOf _ _ _ fun m => execGroupCancelPerform_tabs m.n,
    movesKeepTabs_eventsOf _ _ _ fun g => execGroupAgeWrite_tabs g.pa, movesKeepTabs_eventsOf _ _ _ fun g => execGroupAgePause_tabs g.pa⟩

theorem resultMoves_keepTabs (g : Gang) (a : Agent) : MovesKeepTabs (resultMoves g a) := by
  simp only [resultMoves, movesKeepTabs_append]
  exact ⟨movesKeepTabs_eventsOf _ _ _ fun o => execLoadDataReturn_tabs g.uid a.id o.1, movesKeepTabs_eventsOf _ _ _ fun o => execMissRetry_tabs g.uid a.id o.1⟩

theorem memoryMoves_keepTabs (s : State) : MovesKeepTabs (memoryMoves s) := by
  have hw (g : Gang) (w : WLine) : MovesKeepTabs [.event (execStashRemoteRequest g.uid w.line false), .event (execStashRemoteRequest g.uid w.line true)] := by
    simp only [movesKeepTabs_cons, movesKeepTabs_nil, and_true]
    exact ⟨execStashRemoteRequest_tabs g.uid w.line false, execStashRemoteRequest_tabs g.uid w.line true⟩
  simp only [memoryMoves, movesKeepTabs_append, and_assoc]
  exact ⟨movesKeepTabs_eventsOf _ _ _ fun w => execHandWriteCommit_tabs w.1 w.2, movesKeepTabs_flatMap _ _ fun g => movesKeepTabs_flatMap _ _ (resultMoves_keepTabs g),
    movesKeepTabs_flatMap _ _ fun g => movesKeepTabs_eventsOf _ _ _ fun a => execPageTableWalk_tabs g.uid a.pc,
    movesKeepTabs_flatMap _ _ fun g => movesKeepTabs_flatMap _ _ (hw g), movesKeepTabs_eventsOf _ _ _ fun p => execWritePerformAtHome_tabs p.die p.n,
    movesKeepTabs_eventsOf _ _ _ fun p => execMemorySideAtomic_tabs p.n, movesKeepTabs_eventsOf _ _ _ fun d => execDirectoryEvict_tabs d.line,
    movesKeepTabs_eventsOf _ _ _ fun p => execDupCollapse_tabs p.die p.n, movesKeepTabs_eventsOf _ _ _ fun p => execDupCollapse_tabs p.die p.n,
    movesKeepTabs_flatMap _ _ fun c => movesKeepTabs_eventsOf _ _ _ fun d => execDupCollapseAck_tabs c.page.base d,
    movesKeepTabs_eventsOf _ _ _ fun f => execBiasFlipComplete_tabs f.frame, movesKeepTabs_eventsOf _ _ _ execFrameRelease_tabs⟩

theorem gangMoves_keepTabs (s : State) : MovesKeepTabs (gangMoves s) := by
  simp only [gangMoves, movesKeepTabs_append, and_assoc]
  refine ⟨movesKeepTabs_flatMap _ _ fun g => ?_, movesKeepTabs_eventsOf _ _ _ fun g => execGangSave_tabs g.uid,
    movesKeepTabs_eventsOf _ _ _ fun g => execWatchedCondition_tabs g.uid, movesKeepTabs_eventsOf _ _ _ fun v => execWatchedCondition_tabs v.gang.uid,
    movesKeepTabs_eventsOf _ _ _ fun g => execGangComplete_tabs g.uid, movesKeepTabs_eventsOf _ _ _ fun g => execGangKill_tabs g.uid,
    movesKeepTabs_eventsOf _ _ _ fun v => execGangKill_tabs v.gang.uid⟩
  rw [movesKeepTabs_append]
  exact ⟨movesKeepTabs_eventsOf _ _ _ fun a => execPackFormation_tabs g.uid a.n, movesKeepTabs_eventsOf _ _ _ fun a => execApplyJoin_tabs g.uid a.n⟩

theorem launchMoves_keepTabs (s : State) : MovesKeepTabs (launchMoves s) := by
  simp only [launchMoves, movesKeepTabs_append, and_assoc]
  refine ⟨movesKeepTabs_event_if _ _ execLaunchUnitVisit_tabs, movesKeepTabs_eventsOf _ _ _ fun g => execGangHandout_tabs g.n,
    movesKeepTabs_flatMap _ _ fun g => ?_, movesKeepTabs_eventsOf _ _ _ execGangPlace_tabs, movesKeepTabs_event_unless _ _ (execHostQueuePost_tabs 0#64),
    movesKeepTabs_event_if _ _ (execRouteSync_tabs 0#64)⟩
  split
  · exact movesKeepTabs_eventsOf _ _ _ fun d => execStealMessage_tabs g.n d
  · exact movesKeepTabs_nil

theorem moves_keepTabs (s : State) : MovesKeepTabs (moves s) := by
  unfold moves
  split
  · exact (movesKeepTabs_cons _ _).2 ⟨execPowerOn_tabs, inputMoves_keepTabs s⟩
  · split
    · next h => exact h ▸ dueMoves_keepTabs s
    · simp only [movesKeepTabs_append, and_assoc]
      exact ⟨agentMoves_keepTabs s, engineMoves_keepTabs s, memoryMoves_keepTabs s, gangMoves_keepTabs s, launchMoves_keepTabs s, inputMoves_keepTabs s⟩
  · exact inputMoves_keepTabs s
  · exact inputMoves_keepTabs s

/-! ### The step -/

theorem step_tabs (s : State) (hc : s.Canon) : OutTabs (step s) := by
  have hb := beginStep_tabs exec s hc
  have hk := moves_keepTabs (beginStep exec s)
  unfold step stepWith
  simp only []
  split
  · exact hb
  · next m h => exact hk m (by simp [h]) _ hb
  · next m ms _ h =>
    refine hk _ ?_ _ hb
    have hlt : Config.pick s.tick % (ms.length + 1) < (m :: ms).length := Nat.mod_lt _ (Nat.succ_pos ms.length)
    rw [h, List.getD_eq_getElem _ _ hlt]
    exact List.getElem_mem hlt

/-- Settles O12: every move that a step can make keeps the tables of every gang in canonical form. -/
theorem stepKeepsTablesCanonical : Obligations.StepKeepsTablesCanonical := by
  intro s t hs ht
  have h := step_tabs s hs
  rw [ht] at h
  exact h

end Sys2Proof.Machine
end

section
/-! LAW. What a store through a stash window shows its own agent (section 03 (R55, R88), section 05 (R80, R104)): O49, refuted by one state. -/

namespace Sys2Proof.Machine

/-! ### A store that waited for a collapse (O49) -/

/-- One lane stores v2 at operand-store byte 1024. -/
def windowSto : Ext :=
  { m := ⟨false, false⟩, hint := 0#3, ty := 4#5, d := 2#8, a := 10#8, b := 0#8, c := 0#8, imm := 0#8, mod := 0#4,
    sat := false, rnd := 0#3, g2 := 0#4, g1 := 0#4, e := 0#8, lit := some 1024#64 }

/-- Window 0 maps lines 8 and 9 of the operand store. -/
def mappedWindow : StashEnt := ⟨true, 0x50000#52, 2, 8⟩

/-- Line 8 is DIRTY and stands for line 0xA00 of memory. -/
def dirtyLine : WLine := ⟨8, 0xA00, true, 0xA00⟩

/-- The agent is at its store again after a wait for the collapse of a page; v2 of its one lane is 7. -/
def afterCollapse (a : Agent) : Agent := { a with pk := 1, members := [0], v := [(128, 7#32)], dupWait := true }

def mapWindow (g : Gang) : Gang :=
  { g with stash := g.stash.set 0 mappedWindow, wlines := [dirtyLine], agents := g.agents.map afterCollapse }

/-- A gang of one such agent, and nothing of memory under way. -/
def collapsedStore : State :=
  let s := State.reset.withFetchWord 96 0
  { s with cur := .agent 1 2, gangs := s.gangs.map mapWindow }

/-- The agent in that state. -/
def collapsedEnv : Env := collapsedStore.env?.getD default

/-- The state after its store. -/
def collapsedNext : State := match exec (.sto windowSto) collapsedStore with
  | .next t => t
  | _ => collapsedStore

theorem collapsedStore_executes : Executes (.sto windowSto) collapsedStore collapsedEnv where
  env := by rfl
  room := by decide +kernel
  results := by decide +kernel
  safe := by decide +kernel
  debug := by decide +kernel
  priv := by decide +kernel
  form := by decide +kernel
  guards := by decide +kernel
  role := by decide +kernel
  bounds := by decide +kernel

theorem collapsedStore_quiet : Quiet collapsedStore collapsedEnv where
  writes := rfl
  atomics := rfl
  flips := rfl
  owed := by decide +kernel
  ahead := by decide +kernel
  os := by decide +kernel
  orders := by decide +kernel
  mem := putAll_mem_wf [] _ rfl
  tables := by
    unfold State.Canon Gang.canon Agent.canon
    decide +kernel

/-- R104: the store of an agent that waited for a collapse is held, and the agent itself does not read it. -/
theorem collapsedNext_view : viewByte collapsedNext collapsedEnv.who 0x50000 = 0#8 := by decide +kernel

/-- Refutes O49: its last clause does not leave out an agent that waited at this store for the collapse of a page. What such an agent
stores through a DIRTY line is held until it performs (R104), so the agent reads the home's 0 where the clause has the stored 7. -/
theorem not_stashWindows : ¬ Obligations.StashWindows := by
  intro h
  obtain ⟨-, -, -, -, hsto⟩ := h windowSto collapsedStore collapsedEnv
  obtain ⟨t, b, ht, -, -, -, -, hview⟩ := hsto windowSto mappedWindow dirtyLine collapsedStore_executes collapsedStore_quiet
    (by decide +kernel) (by decide +kernel) rfl
  have hn : collapsedNext = t := by simp only [collapsedNext, ht]
  have h7 := hview 0x50000
  rw [← hn, collapsedNext_view] at h7
  exact absurd h7 (by decide +kernel)

end Sys2Proof.Machine
end

section
/-! LAW. What a line's bit decides (section 03 (R50, R51, R52), R257): O48, through the accesses of one LDC and of one STP. -/

namespace Sys2Proof.Machine

/-! ### The agent of a state after updates -/

theorem find?_updWhere {α : Type} (p : α → Bool) (f : α → α) (l : List α) (h : ∀ a, p a = true → p (f a) = true) :
    (updWhere p f l).find? p = (l.find? p).map f := by
  induction l with
  | nil => rfl
  | cons a l ih =>
    have hc : updWhere p f (a :: l) = (if p a then f a else a) :: updWhere p f l := rfl
    rw [hc]
    cases hp : p a with
    | true => simp [h a hp, hp]
    | false => simp [hp, ih]

theorem State.gang?_updGang (s : State) (uid : Nat) (f : Gang → Gang) (hf : ∀ g, (f g).uid = g.uid) :
    (s.updGang uid f).gang? uid = (s.gang? uid).map f :=
  find?_updWhere _ f s.gangs fun g hg => by simpa [hf g] using hg

theorem Gang.agent?_updAgent (g : Gang) (id : Nat) (f : Agent → Agent) (hf : ∀ a, (f a).id = a.id) :
    (g.updAgent id f).agent? id = (g.agent? id).map f :=
  find?_updWhere _ f g.agents fun a ha => by simpa [hf a] using ha

theorem envOf_eq_some {s : State} {uid id : Nat} {b : Env} :
    envOf s uid id = some b ↔ s.gang? uid = some b.g ∧ b.g.agent? id = some b.a ∧ b.wg = b.g.wgs.getD b.a.wg default := by
  obtain ⟨g, a, wg⟩ := b
  unfold envOf
  split
  · next h => simp [h]
  next g' h =>
  split
  · next h' =>
    simp only [h, Option.some.injEq, reduceCtorEq, false_iff, not_and]
    rintro rfl ha
    simp [h'] at ha
  · next a' h' =>
    simp only [h, Option.some.injEq, Env.mk.injEq]
    constructor
    · rintro ⟨rfl, rfl, rfl⟩
      exact ⟨rfl, h', rfl⟩
    · rintro ⟨rfl, ha, rfl⟩
      rw [h'] at ha
      cases ha
      exact ⟨rfl, rfl, rfl⟩

/-- What `envOf` makes of an agent and its gang. -/
def envWith (g : Gang) (a : Agent) : Env := ⟨g, a, g.wgs.getD a.wg default⟩

theorem envOf_set {s : State} {e b : Env} (hb : envOf s e.g.uid e.a.id = some b) (f : Agent → Agent) (hf : ∀ a, (f a).id = a.id) :
    envOf (e.set s f) e.g.uid e.a.id = some (envWith (b.g.updAgent e.a.id f) (f b.a)) := by
  obtain ⟨hg, ha, -⟩ := envOf_eq_some.1 hb
  refine envOf_eq_some.2 ⟨?_, ?_, rfl⟩
  · rw [Env.set, State.updAgent, State.gang?_updGang _ _ (fun g => g.updAgent e.a.id f) fun g => rfl, hg]
    rfl
  · rw [envWith, Gang.agent?_updAgent _ _ _ hf, ha]
    rfl

theorem envOf_setGang {s : State} {e b : Env} (hb : envOf s e.g.uid e.a.id = some b) (f : Gang → Gang) (hu : ∀ g, (f g).uid = g.uid)
    (hf : (f b.g).agents = b.g.agents) : envOf (e.setGang s f) e.g.uid e.a.id = some (envWith (f b.g) b.a) := by
  obtain ⟨hg, ha, -⟩ := envOf_eq_some.1 hb
  refine envOf_eq_some.2 ⟨?_, ?_, rfl⟩
  · rw [Env.setGang, State.gang?_updGang _ _ _ hu, hg]
    rfl
  · rwa [envWith, Gang.agent?, hf]

theorem Env.now_eq {s : State} {e b : Env} (hb : envOf s e.g.uid e.a.id = some b) : e.now s = b := by
  simp [Env.now, hb]

/-- The agent that executes is the one of its state. -/
theorem Executes.envOf {i : Instr} {s : State} {e : Env} (H : Executes i s e) : envOf s e.g.uid e.a.id = some e := by
  have h := H.env
  unfold State.env? at h
  split at h
  · next gang agent _ =>
    obtain ⟨hg, ha, -⟩ := envOf_eq_some.1 h
    have hu : e.g.uid = gang := by simpa using List.find?_some hg
    have hi : e.a.id = agent := by simpa using List.find?_some ha
    rw [hu, hi, h]
  · cases h

/-! ### Nothing under way -/

theorem forget_idle {s : State} {e b : Env} (hb : envOf s e.g.uid e.a.id = some b) (ha : b.a.ahead = []) (os : Bool) (as : List Nat) :
    forget s e os as = s := by
  simp [forget, Env.now_eq hb, ha]

theorem dropAhead_idle {s : State} {e b : Env} (hb : envOf s e.g.uid e.a.id = some b) (ha : b.a.ahead = []) : dropAhead s e = s := by
  simp [dropAhead, Env.now_eq hb, ha]

theorem osFlush_idle {s : State} {uid : Nat} {g : Gang} (hg : s.gang? uid = some g) (hq : g.osq = []) (sel : OsWrite → Bool) : osFlush s uid sel = s := by
  simp [osFlush, hg, hq, osPasses]

theorem osOwed_idle {s : State} {uid : Nat} {g : Gang} (hg : s.gang? uid = some g) (hq : g.osq = []) (sel : OsWrite → Bool) : osOwed s uid sel = false := by
  simp [osOwed, hg, hq]

/-- An agent of a state with no write, atomic or result under way. -/
structure Idle (s : State) (e b : Env) : Prop where
  env : envOf s e.g.uid e.a.id = some b
  writes : s.outq = []
  atomics : s.atoms = []
  owed : b.a.outs = []
  ahead : b.a.ahead = []
  os : b.g.osq = []

theorem Quiet.idle {i : Instr} {s : State} {e : Env} (hq : Quiet s e) (H : Executes i s e) : Idle s e e :=
  ⟨H.envOf, hq.writes, hq.atomics, hq.owed, hq.ahead, hq.os⟩

section
variable {s : State} {e b : Env} (hi : Idle s e b)
include hi

theorem Idle.gang : s.gang? e.g.uid = some b.g := (envOf_eq_some.1 hi.env).1

theorem Idle.outs : (e.now s).a.outs = [] := by
  rw [Env.now_eq hi.env, hi.owed]

theorem Idle.settle (p : LoadReq → LoadPart → Bool) : Machine.settle s e p = s := settle_none s e p hi.outs

theorem Idle.ownFirst (as : List Nat) : Machine.ownFirst s e as = s := by
  simp only [Machine.ownFirst, hi.settle, settleAtoms_none s _ _ hi.atomics, forget_idle hi.env hi.ahead]

theorem Idle.osOwnFirst (as : List Nat) : Machine.osOwnFirst s e as = s := by
  simp only [Machine.osOwnFirst, hi.settle, forget_idle hi.env hi.ahead]

theorem Idle.osReady (as : List Nat) : Machine.osReady s e as = some s := by
  simp [Machine.osReady, hi.osOwnFirst, osNote, osFlush_idle hi.gang hi.os, osOwed_idle hi.gang hi.os]

theorem Idle.readsIn : Machine.readsIn s e = some s := readsIn_clear s e hi.outs hi.atomics

theorem Idle.acquire (scope : Nat) : fence s e 0 scope = some s := by
  simp [fence, hi.readsIn, acquire_none s e scope hi.writes, dropAhead_idle hi.env hi.ahead]

theorem Idle.release (scope : Nat) : Machine.release s e scope = s :=
  release_clear s e scope hi.outs hi.atomics hi.writes (by rw [Env.now_eq hi.env, hi.os])

/-- No byte has to wait where none is named. -/
theorem Idle.not_ownBlocked : ownBlocked s e [] = false := by
  simp [ownBlocked, hi.writes, hi.atomics, Agent.waitParts, hi.outs]

theorem Idle.not_readBlocked : readBlocked s e [] [] = false := by
  simp [readBlocked, hi.not_ownBlocked, readable, hi.writes]

/-- An agent that takes up what was released under keys changes its records of what it has observed and heard alone (R84). -/
theorem Idle.relIn (ids : List Nat) :
    ∃ obs heard : Agent → _, Machine.relIn s e ids = some (e.set s fun a => { a with obs := obs a, heard := heard a }) := by
  unfold Machine.relIn
  split
  · exact ⟨Agent.obs, Agent.heard, by rw [e.set_id s _ fun a => rfl]⟩
  · simp only [osFlush_idle hi.gang hi.os, osOwed_idle hi.gang hi.os]
    exact ⟨_, _, rfl⟩

end

/-! ### Lists of lines, bytes in order, what a load brings to registers -/

theorem mem_insNat {n m : Nat} {l : List Nat} : m ∈ insNat n l ↔ m = n ∨ m ∈ l := by
  induction l with
  | nil => simp [insNat]
  | cons k r ih =>
    unfold insNat
    split
    · simp
    split
    · next h => simp [h]
    · simp only [List.mem_cons, ih]
      exact or_left_comm

theorem mem_foldl_insNat {m : Nat} (l acc : List Nat) : m ∈ l.foldl (fun acc n => insNat n acc) acc ↔ m ∈ acc ∨ m ∈ l := by
  induction l generalizing acc with
  | nil => simp
  | cons n r ih =>
    rw [List.foldl_cons, ih, mem_insNat, List.mem_cons]
    exact or_assoc.trans or_left_comm

theorem mem_sortNat {m : Nat} {l : List Nat} : m ∈ sortNat l ↔ m ∈ l := by
  simp [sortNat, mem_foldl_insNat]

theorem lastByte_cons (p : Nat × Byte) (r : List (Nat × Byte)) (a : Nat) (old : Byte) :
    lastByte (p :: r) a old = lastByte r a (if p.1 = a then p.2 else old) := by
  unfold lastByte
  rw [List.reverse_cons, List.find?_append]
  cases r.reverse.find? fun b => b.1 == a with
  | some b => rfl
  | none =>
    by_cases h : p.1 = a
    · simp [h]
    · simp [h]

/-- A table after writes in order holds what the last of them brought to a key. -/
theorem look_putAll_eq_lastByte (l : List (Nat × Byte)) {t : Table Byte} (h : Table.wf 0#8 t = true) (a : Nat) :
    Table.look 0#8 (Table.putAll 0#8 t l) a = lastByte l a (Table.look 0#8 t a) := by
  induction l generalizing t with
  | nil => rfl
  | cons p r ih =>
    rw [Table.putAll, ih (Table.wf_put t p.1 p.2 h), lastByte_cons]
    congr 1
    split
    · next hp => rw [← hp, Table.look_put t p.1 p.2 h]
    · next hp => exact Table.look_put_ne t p.1 a p.2 (Ne.symm hp)

theorem ofBytes_lt (l : List Byte) : ofBytes l < 2 ^ (8 * l.length) := by
  induction l with
  | nil => simp [ofBytes]
  | cons b r ih =>
    have hb := b.isLt
    have hp : 2 ^ (8 * (r.length + 1)) = 256 * 2 ^ (8 * r.length) := by
      rw [Nat.mul_add, Nat.pow_add, Nat.mul_comm]
    rw [ofBytes, List.length_cons, hp]
    omega

theorem accWidth_cases (ty : Nat) : accWidth ty = 1 ∨ accWidth ty = 2 ∨ accWidth ty = 4 ∨ accWidth ty = 8 := by
  unfold accWidth
  split_ifs <;> simp

/-- A number of w bytes sign-extended to 32 bits. -/
theorem ofNat_extendTo_signed {w v : Nat} (hv : v < 2 ^ (8 * w)) :
    BitVec.ofNat 32 (extendTo 32 w true v) = (BitVec.ofNat (8 * w) v).signExtend 32 := by
  have h : sInt (8 * w) v = (BitVec.ofNat (8 * w) v).toInt := by
    rw [BitVec.toInt_eq_msb_cond, BitVec.msb_eq_decide, BitVec.toNat_ofNat, Nat.mod_eq_of_lt hv]
    unfold sInt
    by_cases h : v < 2 ^ (8 * w - 1)
    · simp [h]
    · simp [h, Nat.le_of_not_lt h]
  rw [BitVec.signExtend, ← h]
  apply BitVec.eq_of_toNat_eq
  simp only [extendTo, if_pos, wrapI, BitVec.toNat_ofNat, BitVec.toNat_ofInt]
  omega

/-- What a load brings to a lane's registers: the words of the number of its bytes (R250). -/
theorem vecFmt_writes (ty : BitVec 5) (d l : Nat) (bytes : List Byte) (hl : bytes.length = accWidth ty.toNat) :
    (vecFmt ty d l).writes (ofBytes bytes) =
      (List.range (max 1 (accWidth ty.toNat / 4))).map fun j => .v (d + j) l (loadedWord ty (ofBytes bytes) j) := by
  have hv := hl ▸ ofBytes_lt bytes
  generalize ofBytes bytes = v at hv ⊢
  unfold vecFmt LoadFmt.writes loadedWord
  by_cases h4 : accWidth ty.toNat ≤ 4
  · have hm : max 1 (accWidth ty.toNat / 4) = 1 := by omega
    simp only [h4, if_true, hm, List.range_one, List.map_cons, List.map_nil, Nat.add_zero]
    cases hs : accSigned ty.toNat with
    | false => simp [extendTo]
    | true => simp [ofNat_extendTo_signed hv]
  · have h8 : accWidth ty.toNat = 8 := by
      rcases accWidth_cases ty.toNat with h | h | h | h <;> omega
    rw [h8] at h4 ⊢
    simp only [h4, if_false, vWritesN]
    refine List.map_congr_left fun j hj => ?_
    have hj2 : j < 2 := by simpa using hj
    congr 1
    apply BitVec.eq_of_toNat_eq
    have hj1 : j = 0 ∨ j = 1 := by omega
    rcases hj1 with rfl | rfl
    · simp
    · simp [Nat.shiftRight_eq_div_pow]
      omega

/-- The data of a lane's store, as a bit vector (R250). -/
theorem stData_eq (e : Env) (ty : BitVec 5) (d l : Nat) :
    e.stData ty d l = if w64 ty then (e.v64 d l).toNat else (e.v32 d l).toNat := by
  have hr (k : Nat) : e.rv k l = (e.v32 k l).toNat := by
    unfold Env.rv Env.v32
    split <;> simp
  unfold Env.stData Env.src
  split
  · rw [hr, hr, Env.v64, BitVec.toNat_append, ← Nat.shiftLeft_add_eq_or_of_lt (e.v32 d l).isLt, Nat.shiftLeft_eq]
    omega
  · rw [hr]

/-! ### Operand-store accesses outside windows -/

/-- The access of each lane lies in the grant, is aligned, and meets no mapped window. -/
def Fits (e : Env) (w : Nat) (acc : List (Nat × Nat)) : Prop :=
  ∀ p ∈ acc, p.2 + w ≤ 128 * e.g.osLines ∧ p.2 % w = 0 ∧ e.g.window? p.2 = none

theorem watch_off {e : Env} (hd : e.dbgOn = false) (rd wr : Bool) (acc : List (Nat × Nat × Nat)) : e.watch rd wr acc = none := by
  simp [Env.watch, hd]

theorem mem_osLinesOf {acc : List (Nat × Nat)} {n : Nat} : n ∈ osLinesOf acc ↔ n ∈ acc.map fun p => lineOf p.2 := mem_sortNat

section
variable {e : Env} {w : Nat} {acc : List (Nat × Nat)} (hf : Fits e w acc)
include hf

theorem Fits.osCheck (hd : e.dbgOn = false) (rd wr : Bool) : Machine.osCheck e w rd wr acc = none := by
  have h1 : (acc.find? fun p => e.g.osLines * 128 < p.2 + w) = none := by
    rw [List.find?_eq_none]
    intro p hp
    obtain ⟨hb, -, -⟩ := hf p hp
    simpa [Nat.mul_comm] using hb
  have h2 : (acc.find? fun p => p.2 % w != 0) = none := by
    rw [List.find?_eq_none]
    intro p hp
    obtain ⟨-, ha, -⟩ := hf p hp
    simp [ha]
  simp only [Machine.osCheck, h1, h2, watch_off hd]

theorem Fits.not_windowed {p : Nat × Nat} (hp : p ∈ acc) : e.windowed p = false := by
  obtain ⟨-, -, hw⟩ := hf p hp
  simp [Env.windowed, hw]

theorem Fits.fillWindows (s : State) (wr : Bool) : Machine.fillWindows e s wr acc = .ok s := by
  have h : fillsFor e wr acc = [] := by
    refine List.filterMap_eq_nil_iff.2 fun p hp => ?_
    obtain ⟨-, -, hw⟩ := hf p hp
    simp [hw]
  simp [Machine.fillWindows, h]

theorem Fits.filter_windowed : acc.filter e.windowed = [] :=
  List.filter_eq_nil_iff.2 fun p hp => by simp [hf.not_windowed hp]

theorem Fits.filter_plain : (acc.filter fun p => !e.windowed p) = acc :=
  List.filter_eq_self.2 fun p hp => by simp [hf.not_windowed hp]

theorem Fits.windowHomes (s : State) : Machine.windowHomes e s w acc = [] := by
  simp [Machine.windowHomes, hf.filter_windowed]

omit hf in
/-- Where no line of an access is poisoned, no lane would consume poison (R68). -/
theorem osPoisonLane_none (hp : ∀ p ∈ acc, lineOf p.2 ∉ e.g.osPoison) : e.osPoisonLane acc = none := by
  have h : (acc.find? fun p => e.g.osPoison.contains (lineOf p.2) &&
      !(e.g.osq.any fun q => q.agent == e.a.id && q.grp != 0 && q.bytes.any fun b => lineOf b.1 == lineOf p.2)) = none := by
    rw [List.find?_eq_none]
    intro p hm
    simp [hp p hm]
  simp only [Env.osPoisonLane, h, Option.map_none]

/-- A lane reads the operand store's bytes. -/
theorem Fits.osNow {s : State} {g : Gang} (hg : s.gang? e.g.uid = some g) {p : Nat × Nat} (hp : p ∈ acc) :
    Machine.osNow e s w p = ofBytes (g.osBytes (bytesAt p.2 w)) := by
  have hw : e.who.gang = e.g.uid := rfl
  simp [Machine.osNow, osPart, hf.not_windowed hp, LoadPart.value, hw, hg]

end

/-! ### Marks of full lines -/

theorem mem_setFull_true {g : Gang} {ls : List Nat} {n : Nat} : n ∈ (g.setFull ls true).full ↔ n ∈ g.full ∨ n ∈ ls := by
  simp [Gang.setFull, mem_foldl_insNat]

theorem mem_setFull_false {g : Gang} {ls : List Nat} {n : Nat} : n ∈ (g.setFull ls false).full ↔ n ∈ g.full ∧ n ∉ ls := by
  simp [Gang.setFull]

/-- Releases put behind lines leave all else of the gang as it is. -/
theorem foldl_setRel_eq (ids : List Nat) (ls : List Nat) (g : Gang) : ∃ rels, ls.foldl (fun g l => g.setRel l ids) g = { g with rels := rels } := by
  induction ls generalizing g with
  | nil => exact ⟨g.rels, rfl⟩
  | cons l r ih =>
    obtain ⟨rels, h⟩ := ih (g.setRel l ids)
    exact ⟨rels, h⟩

theorem putOs_eq (g : Gang) (bytes : List (Nat × Byte)) :
    ∃ tags bad, g.putOs bytes = { g with os := g.os.putAll 0#8 bytes, osTags := tags, osPoison := bad } := by
  unfold Gang.putOs Gang.setOsTags
  simp only []
  split
  · exact ⟨_, _, rfl⟩
  · exact ⟨_, _, rfl⟩

/-! ### LDC and STP -/

/-- An instruction of the extended form that executes and is done goes on behind itself. -/
theorem runExt_done {i : Instr} {x : Ext} {s t : State} {e : Env} {body : State → Env → Regs → Res}
    (hx : i.ext? = some x) (hm : i.marks = x.m) (hw : i.waitsAlways = Instr.waits i) (hv : i.vecRegs = none) (hl : i.len = x.words)
    (hb : boundsOk i e = e.regsOk (i.fields.getD {}) x (e.opsOf i x)) (H : Executes i s e) (ht : body s e (e.opsOf i x) = .done t) :
    runExt i x s body = .next (e.goOn t (e.pcAfter i)) := by
  rw [runExt_executes i x s e body hx hm hw hv hb H, ht, finish_done _ _ _ _ H.debug]
  simp [Env.nextPc, Env.pcAfter, extHdr, hl]

/-- An instruction with register results and no flags. -/
theorem goOn_addOut (e : Env) (s : State) (i : Instr) (ws : List RegWrite) : e.goOn (e.addOut s { writes := ws }) (e.pcAfter i) = e.retire s i ws := by
  rw [← e.goOn_result s i ws 0#5, Env.addFlags, e.set_id s _ fun a => by simp]

/-- The agent once it owes itself register writes and goes on, with its gang. -/
theorem envOf_goOn_addOut {s : State} {e b : Env} (hb : envOf s e.g.uid e.a.id = some b) (o : Out) (pc : Addr) :
    ∃ c, envOf (e.goOn (e.addOut s o) pc) e.g.uid e.a.id = some c ∧ (∃ as, c.g = { b.g with agents := as }) ∧
      c.a = { b.a.past pc with outs := b.a.outs ++ [o] } := by
  have h1 := envOf_set hb (fun a => { a with outs := a.outs ++ [o] }) fun a => rfl
  have h2 := envOf_set h1 (fun a => a.past pc) fun a => rfl
  exact ⟨_, h2, ⟨_, rfl⟩, rfl⟩

section
variable {x : Ext} {s : State} {e : Env}

/-- LDC of a line that is not full answers false, and does nothing else (R51, R257). -/
theorem exec_ldc_notFull (H : Executes (.ldc x) s e) (hf : Fits e (accWidth x.ty.toNat) (osAddrs e x (e.opsOf (.ldc x) x)))
    (hn : ∃ n ∈ (osAddrs e x (e.opsOf (.ldc x) x)).map fun p => lineOf p.2, n ∉ e.g.full) :
    exec (.ldc x) s = .next (e.retire s (.ldc x) [.k (e.opsOf (.ldc x) x).b false]) := by
  obtain ⟨n, hm, hn⟩ := hn
  have ha : ((osLinesOf (osAddrs e x (e.opsOf (.ldc x) x))).any fun l => !(e.now s).g.full.contains l) = true :=
    List.any_eq_true.2 ⟨n, mem_osLinesOf.2 hm, by simp [Env.now_eq H.envOf, hn]⟩
  rw [← goOn_addOut, show exec (.ldc x) s = execLdc x s from rfl]
  unfold execLdc
  refine runExt_done rfl rfl rfl rfl rfl rfl H ?_
  simp only [hf.osCheck H.debug, hf.fillWindows, ha, if_true]

/-- STP of a line that is full answers false, and does nothing else (R52, R257). -/
theorem exec_stp_full (H : Executes (.stp x) s e) (hf : Fits e (accWidth x.ty.toNat) (osAddrs e x (e.opsOf (.stp x) x)))
    (hn : ∃ n ∈ (osAddrs e x (e.opsOf (.stp x) x)).map fun p => lineOf p.2, n ∈ e.g.full) :
    exec (.stp x) s = .next (e.retire s (.stp x) [.k (e.opsOf (.stp x) x).b false]) := by
  obtain ⟨n, hm, hn⟩ := hn
  have ha : ((osLinesOf (osAddrs e x (e.opsOf (.stp x) x))).any fun l => (e.now s).g.full.contains l) = true :=
    List.any_eq_true.2 ⟨n, mem_osLinesOf.2 hm, by simp [Env.now_eq H.envOf, hn]⟩
  rw [← goOn_addOut, show exec (.stp x) s = execStp x s from rfl]
  unfold execStp
  refine runExt_done rfl rfl rfl rfl rfl rfl H ?_
  simp only [hf.osCheck H.debug, hf.fillWindows, ha, if_true]

end

/-! ### LDC on full lines -/

/-- The register writes by which a load's lanes take bytes of the operand store. -/
def osLoads (e : Env) (x : Ext) (d : Nat) (acc : List (Nat × Nat)) : List RegWrite :=
  acc.flatMap fun p => (List.range (max 1 (accWidth x.ty.toNat / 4))).map fun j =>
    .v (d + j) p.1 (loadedWord x.ty (ofBytes (e.g.osBytes (bytesAt p.2 (accWidth x.ty.toNat)))) j)

section
variable {x : Ext} {s : State} {e b : Env} {acc : List (Nat × Nat)}

theorem noteSeen_none (s : State) (who : Who) (as : List Nat) (h : s.outq = []) : noteSeen s who as = s := by
  simp [noteSeen, h]

theorem consumeLines_idle (hi : Idle s e b) (hos : b.g.os = e.g.os) (r : Regs) (hf : Fits e (accWidth x.ty.toNat) acc) :
    consumeLines e s x r (accWidth x.ty.toNat) acc =
      e.addOut (e.setGang s fun g => g.setFull (osLinesOf acc) false) { writes := .k r.b true :: osLoads e x r.d acc } := by
  have hw : (acc.flatMap fun p => (vecFmt x.ty r.d p.1).writes (osNow e s (accWidth x.ty.toNat) p)) = osLoads e x r.d acc := by
    refine List.flatMap_congr fun p hp => ?_
    have hb : b.g.osBytes (bytesAt p.2 (accWidth x.ty.toNat)) = e.g.osBytes (bytesAt p.2 (accWidth x.ty.toNat)) := by
      simp only [Gang.osBytes, hos]
    rw [hf.osNow hi.gang hp, hb]
    exact vecFmt_writes _ _ _ _ (by simp [Gang.osBytes, bytesAt])
  simp only [consumeLines, hw, hf.windowHomes, noteSeen_none _ _ _ hi.writes]

/-- LDC of full lines, none of them poisoned, takes their data and empties them (R51, R257). -/
theorem exec_ldc_takes (H : Executes (.ldc x) s e) (hq : Quiet s e) (hacc : acc = osAddrs e x (e.opsOf (.ldc x) x))
    (hf : Fits e (accWidth x.ty.toNat) acc) (hl : ∀ p ∈ acc, lineOf p.2 ∈ e.g.full ∧ lineOf p.2 ∉ e.g.osPoison) :
    ∃ t c, exec (.ldc x) s = .next t ∧ envOf t e.g.uid e.a.id = some c ∧ c.g.os = e.g.os ∧ c.g.full = (e.g.setFull (osLinesOf acc) false).full ∧
      c.a = { e.a.past (e.pcAfter (.ldc x)) with
        outs := [{ writes := .k (e.opsOf (.ldc x) x).b true :: osLoads e x (e.opsOf (.ldc x) x).d acc }], obs := c.a.obs, heard := c.a.heard } := by
  have hi := hq.idle H
  obtain ⟨obs, heard, hrel⟩ := hi.relIn ((osLinesOf acc).flatMap e.g.rel)
  have hi2 : Idle _ e _ :=
    ⟨envOf_set hi.env (fun a => { a with obs := obs a, heard := heard a }) fun a => rfl, hi.writes, hi.atomics, hi.owed, hi.ahead, hi.os⟩
  have hfull : ((osLinesOf acc).any fun l => !e.g.full.contains l) = false := by
    rw [List.any_eq_false]
    intro n hn
    obtain ⟨p, hp, rfl⟩ := List.mem_map.1 (mem_osLinesOf.1 hn)
    simp [(hl p hp).1]
  have hrun : exec (.ldc x) s = .next (e.goOn (consumeLines e (e.set s fun a => { a with obs := obs a, heard := heard a }) x
      (e.opsOf (.ldc x) x) (accWidth x.ty.toNat) acc) (e.pcAfter (.ldc x))) := by
    subst hacc
    rw [show exec (.ldc x) s = execLdc x s from rfl]
    unfold execLdc
    refine runExt_done rfl rfl rfl rfl rfl rfl H ?_
    simp only [hf.osCheck H.debug, hf.fillWindows, Env.now_eq H.envOf, hfull, osPoisonLane_none fun p hp => (hl p hp).2, hf.windowHomes,
      hi.osReady, hi.acquire, Option.bind_some, hrel, hi2.not_readBlocked, hi2.ownFirst, Bool.false_eq_true, if_false]
  have hset := envOf_setGang hi2.env (fun g => g.setFull (osLinesOf acc) false) (fun g => rfl) rfl
  rw [consumeLines_idle hi2 rfl _ hf] at hrun
  obtain ⟨c, hc, ⟨as, hg⟩, ha⟩ := envOf_goOn_addOut hset { writes := .k (e.opsOf (.ldc x) x).b true :: osLoads e x (e.opsOf (.ldc x) x).d acc }
    (e.pcAfter (.ldc x))
  refine ⟨_, c, hrun, hc, by rw [hg]; rfl, by rw [hg]; rfl, ?_⟩
  rw [ha]
  simp only [envWith, Agent.past, hi.owed, List.nil_append]

/-! ### STP on empty lines -/

theorem fixRecords_eq (s : State) (who : Who) (n : Nat) (as : List Nat) : ∃ cmds, fixRecords s who n as = { s with cmds := cmds } := by
  unfold fixRecords
  split
  · exact ⟨s.cmds, rfl⟩
  · exact ⟨_, rfl⟩

/-- What a gang is once lines of it are written and filled. -/
def filledGang (g : Gang) (bytes : List (Nat × Byte)) (ls ids : List Nat) : Gang :=
  ls.foldl (fun g l => g.setRel l ids) ((g.putOs bytes).setFull ls true)

theorem filledGang_eq (g : Gang) (bytes : List (Nat × Byte)) (ls ids : List Nat) : ∃ tags bad rels,
    filledGang g bytes ls ids = { g with os := g.os.putAll 0#8 bytes, full := (g.setFull ls true).full, osTags := tags, osPoison := bad, rels := rels } := by
  obtain ⟨tags, bad, hp⟩ := putOs_eq g bytes
  obtain ⟨rels, hr⟩ := foldl_setRel_eq ids ls ((g.putOs bytes).setFull ls true)
  exact ⟨tags, bad, rels, by rw [filledGang, hr, hp]; rfl⟩

/-- Two updates of a gang are one. -/
theorem Env.setGang_setGang (e : Env) (s : State) (f g : Gang → Gang) (h : ∀ a, (f a).uid = a.uid) :
    e.setGang (e.setGang s f) g = e.setGang s fun a => g (f a) := by
  unfold Env.setGang State.updGang
  rw [State.mk.injEq]
  simp only [true_and, and_true]
  exact updWhere_updWhere _ _ _ _ fun a ha => by simpa [h a] using ha

theorem putOs_uid (g : Gang) (bytes : List (Nat × Byte)) : (g.putOs bytes).uid = g.uid := by
  obtain ⟨tags, bad, h⟩ := putOs_eq g bytes
  rw [h]

theorem fillLines_plain (s : State) (r : Regs) (hf : Fits e (accWidth x.ty.toNat) acc) :
    ∃ ids, fillLines e s x r (accWidth x.ty.toNat) acc = e.addOut (e.setGang s fun g =>
      filledGang g (laneBytes (accWidth x.ty.toNat) (e.stData x.ty r.d) acc) (osLinesOf acc) ids) { writes := [.k r.b true] } := by
  simp only [fillLines, hf.filter_windowed, hf.filter_plain, List.foldl_nil, Env.setGang_setGang _ _ _ _ fun g => putOs_uid g _]
  exact ⟨_, rfl⟩

/-- STP of empty lines writes their data and fills them (R52, R257). -/
theorem exec_stp_fills (H : Executes (.stp x) s e) (hq : Quiet s e) (hacc : acc = osAddrs e x (e.opsOf (.stp x) x))
    (hf : Fits e (accWidth x.ty.toNat) acc) (hl : ∀ p ∈ acc, lineOf p.2 ∉ e.g.full) :
    ∃ t c, exec (.stp x) s = .next t ∧ envOf t e.g.uid e.a.id = some c ∧ c.g.full = (e.g.setFull (osLinesOf acc) true).full ∧
      c.a = { e.a.past (e.pcAfter (.stp x)) with outs := [{ writes := [.k (e.opsOf (.stp x) x).b true] }] } ∧
      c.g.os = e.g.os.putAll 0#8 (laneBytes (accWidth x.ty.toNat) (e.stData x.ty (e.opsOf (.stp x) x).d) acc) := by
  have hi := hq.idle H
  have hempty : ((osLinesOf acc).any fun l => e.g.full.contains l) = false := by
    rw [List.any_eq_false]
    intro n hn
    obtain ⟨p, hp, rfl⟩ := List.mem_map.1 (mem_osLinesOf.1 hn)
    simp [hl p hp]
  obtain ⟨cmds, hcmds⟩ := fixRecords_eq s e.who s.fresh []
  have hi2 : Idle { s with cmds := cmds } e e := ⟨hi.env, hi.writes, hi.atomics, hi.owed, hi.ahead, hi.os⟩
  obtain ⟨ids, hfill⟩ := fillLines_plain { s with cmds := cmds } (e.opsOf (.stp x) x) hf
  have hrun : exec (.stp x) s = .next (e.goOn (fillLines e { s with cmds := cmds } x (e.opsOf (.stp x) x) (accWidth x.ty.toNat) acc)
      (e.pcAfter (.stp x))) := by
    subst hacc
    rw [show exec (.stp x) s = execStp x s from rfl]
    unfold execStp
    refine runExt_done rfl rfl rfl rfl rfl rfl H ?_
    simp only [hf.osCheck H.debug, hf.fillWindows, Env.now_eq H.envOf, hempty, hf.windowHomes, hi.readsIn, Option.bind_some, hi.release,
      hi.osReady, hi.not_ownBlocked, hi.ownFirst, hcmds, Bool.false_eq_true, if_false]
  rw [hfill] at hrun
  have heq (g : Gang) := filledGang_eq g (laneBytes (accWidth x.ty.toNat) (e.stData x.ty (e.opsOf (.stp x) x).d) acc) (osLinesOf acc) ids
  have hset := envOf_setGang hi2.env (fun g => filledGang g (laneBytes (accWidth x.ty.toNat) (e.stData x.ty (e.opsOf (.stp x) x).d) acc)
    (osLinesOf acc) ids) (fun g => by obtain ⟨_, _, _, h⟩ := heq g; rw [h]) (by obtain ⟨_, _, _, h⟩ := heq e.g; rw [h])
  obtain ⟨c, hc, ⟨as, hg⟩, ha⟩ := envOf_goOn_addOut hset { writes := [.k (e.opsOf (.stp x) x).b true] } (e.pcAfter (.stp x))
  obtain ⟨_, _, _, h⟩ := heq e.g
  refine ⟨_, c, hrun, hc, by rw [hg, envWith, h], ?_, by rw [hg, envWith, h]⟩
  rw [ha]
  simp only [envWith, hi.owed, List.nil_append]

end

/-- Settles O48: a line's bit decides between the answer false, which changes nothing else, and the taking or filling of the lines. -/
theorem lineBitsSynchronise : Obligations.LineBitsSynchronise := by
  intro x s e hq
  dsimp only
  refine ⟨fun H hf => ⟨exec_ldc_notFull H hf, fun hl => ?_⟩, fun H hf => ⟨exec_stp_full H hf, fun hl => ?_⟩⟩
  · obtain ⟨t, c, ht, hc, hos, hfull, ha⟩ := exec_ldc_takes H hq rfl hf fun p hp => hl _ (List.mem_map.2 ⟨p, hp, rfl⟩)
    refine ⟨t, c, ht, hc, hos, fun n => ?_, ha⟩
    rw [hfull, mem_setFull_false, mem_osLinesOf]
  · obtain ⟨t, c, ht, hc, hfull, ha, hos⟩ := exec_stp_fills H hq rfl hf fun p hp => hl _ (List.mem_map.2 ⟨p, hp, rfl⟩)
    refine ⟨t, c, ht, hc, fun n => ?_, ha, fun a => ?_⟩
    · rw [hfull, mem_setFull_true, mem_osLinesOf]
    · have hw : Table.wf 0#8 e.g.os = true := (hq.tables.1 e.g (List.mem_of_find?_eq_some (hq.idle H).gang)).1
      rw [hos, look_putAll_eq_lastByte _ hw]
      simp only [laneBytes, stData_eq]

end Sys2Proof.Machine
end

section
/-! LAW. What an agent reads of a hand it has written, and which hand a commit changes (section 05 (R89, R90, R91)): O32, through the order in which hand
writes land. -/

namespace Sys2Proof.Machine

/-! ### The order in which hand writes land (R90) -/

/-- The issue cycle, the slot and the warp index of a hand write, which are compared in this order. -/
def HandWrite.stamp (w : HandWrite) : Nat ×ₗ Nat ×ₗ Nat := toLex (w.issued, toLex (w.slot, w.place))

theorem HandWrite.stamp_le_iff {a b : HandWrite} : a.stamp ≤ b.stamp ↔
    a.issued < b.issued ∨ a.issued = b.issued ∧ (a.slot < b.slot ∨ a.slot = b.slot ∧ a.place ≤ b.place) := by
  simp only [stamp, Prod.Lex.toLex_le_toLex]

theorem HandWrite.before_iff {a b : HandWrite} : a.before b = true ↔ a.stamp ≤ b.stamp := by
  simp [before, stamp_le_iff]

/-- Each write of a list may land before those that follow it. -/
def LandOrder (ws : List HandWrite) : Prop := ws.Pairwise fun a b => a.stamp ≤ b.stamp

theorem insHand_perm (w : HandWrite) (ws : List HandWrite) : (insHand w ws).Perm (w :: ws) := by
  induction ws with
  | nil => rfl
  | cons v ws ih =>
    unfold insHand
    split
    · exact (ih.cons v).trans (.swap w v ws)
    · rfl

theorem insHand_landOrder (w : HandWrite) {ws : List HandWrite} (h : LandOrder ws) : LandOrder (insHand w ws) := by
  induction ws with
  | nil => exact List.pairwise_singleton _ _
  | cons v ws ih =>
    obtain ⟨hv, hws⟩ := List.pairwise_cons.1 h
    unfold insHand
    split
    · next hb =>
      refine List.pairwise_cons.2 ⟨fun u hu => ?_, ih hws⟩
      obtain rfl | hu := List.mem_cons.1 ((insHand_perm w ws).mem_iff.1 hu)
      · exact HandWrite.before_iff.1 hb
      · exact hv u hu
    · next hb =>
      have hw : w.stamp ≤ v.stamp := le_of_not_ge fun hle => hb (HandWrite.before_iff.2 hle)
      refine List.pairwise_cons.2 ⟨fun u hu => ?_, h⟩
      obtain rfl | hu := List.mem_cons.1 hu
      · exact hw
      · exact hw.trans (hv u hu)

/-- A write that lands after all of a list goes to its end. -/
theorem insHand_of_last {w : HandWrite} {ws : List HandWrite} (h : ∀ v ∈ ws, v.stamp ≤ w.stamp) : insHand w ws = ws ++ [w] := by
  induction ws with
  | nil => rfl
  | cons v ws ih =>
    have hv : v.before w = true := HandWrite.before_iff.2 (h v List.mem_cons_self)
    rw [insHand, if_pos hv, ih fun u hu => h u (List.mem_cons_of_mem v hu), List.cons_append]

/-- Pending writes in the order in which `landHands` lets them land. -/
def landSort (ws : List HandWrite) : List HandWrite := ws.foldl (fun l w => insHand w l) []

theorem landHands_eq (base : Hand) (ws : List HandWrite) : landHands base ws = (landSort ws).foldl HandWrite.applyTo base := rfl

theorem landSort_concat (ws : List HandWrite) (w : HandWrite) : landSort (ws ++ [w]) = insHand w (landSort ws) := List.foldl_concat ..

theorem landSort_perm (ws : List HandWrite) : (landSort ws).Perm ws := by
  induction ws using List.reverseRecOn with
  | nil => rfl
  | append_singleton ws w ih =>
    rw [landSort_concat]
    exact (insHand_perm w _).trans ((ih.cons w).trans (List.perm_append_singleton w ws).symm)

theorem landSort_landOrder (ws : List HandWrite) : LandOrder (landSort ws) := by
  induction ws using List.reverseRecOn with
  | nil => exact List.Pairwise.nil
  | append_singleton ws w ih =>
    rw [landSort_concat]
    exact insHand_landOrder w ih

theorem landSort_of_landOrder {ws : List HandWrite} (h : LandOrder ws) : landSort ws = ws := by
  induction ws using List.reverseRecOn with
  | nil => rfl
  | append_singleton ws w ih =>
    obtain ⟨hws, -, hw⟩ := List.pairwise_append.1 h
    rw [landSort_concat, ih hws, insHand_of_last fun v hv => hw v hv w (List.mem_singleton_self w)]

/-! ### Hand reads (R91) -/

theorem Env.hand_of_no_pending {s : State} {e : Env} {h : Nat} (hh : h ≠ 1) (hp : pendingHand s e.g.uid e.a.wg h = []) :
    e.hand s h = e.wg.hands.getD h 0#1024 := by
  simp only [Env.hand, if_neg hh, hp]

/-- An agent whose own write is the last of a list has to see all of it. -/
theorem ownPrefix_of_last {agent : Nat} {ws : List HandWrite} (h : ws.getLast?.map (fun w => w.agent) = some agent) :
    ownPrefix agent ws = ws.length := by
  obtain ⟨w, hw, rfl⟩ := Option.map_eq_some_iff.1 h
  obtain ⟨vs, rfl⟩ := List.getLast?_eq_some_iff.1 hw
  simp [ownPrefix]

theorem Env.hand_of_last_own {s : State} {e : Env} {h : Nat} (hh : h ≠ 1)
    (hl : (pendingHand s e.g.uid e.a.wg h).getLast?.map (fun w => w.agent) = some e.a.id) :
    e.hand s h = landHands (e.wg.hands.getD h 0#1024) (pendingHand s e.g.uid e.a.wg h) := by
  unfold Env.hand
  rw [if_neg hh]
  dsimp only
  split
  · next hp => simp [hp] at hl
  · rw [if_pos (ownPrefix_of_last hl)]

/-! ### HAND_WRITE_COMMIT (R90) -/

/-- A workgroup in which a hand write has landed. -/
def Wg.landed (w : HandWrite) (u : Wg) : Wg := { u with hands := u.hands.set w.reg (w.applyTo (u.hands.getD w.reg 0#1024)) }

theorem Wg.landed_hands {w : HandWrite} {u : Wg} (hr : w.reg < u.hands.length) (r : Nat) :
    (u.landed w).hands.getD r 0#1024 = if r = w.reg then w.applyTo (u.hands.getD r 0#1024) else u.hands.getD r 0#1024 := by
  simp only [landed, List.getD_eq_getElem?_getD]
  split
  · next h => subst h; rw [List.getElem?_set_self hr, Option.getD_some]
  · next h => rw [List.getElem?_set_ne (Ne.symm h)]

/-- A gang in which a hand write has landed. -/
def Gang.landed (w : HandWrite) (g : Gang) : Gang := { g with wgs := g.wgs.modify w.wg (Wg.landed w) }

theorem commitHand_gang? (s : State) (w : HandWrite) : (commitHand s w).gang? w.gang = (s.gang? w.gang).map (Gang.landed w) :=
  State.gang?_updGang s w.gang (Gang.landed w) fun _ => rfl

theorem updGang_endDead_gang? (s : State) (uid : Nat) : (s.updGang uid endDead).gang? uid = (s.gang? uid).map endDead :=
  State.gang?_updGang s uid endDead fun _ => rfl

theorem Gang.landed_hands {w : HandWrite} {g : Gang} (hw : w.wg < g.wgs.length) (hr : ∀ u ∈ g.wgs, w.reg < u.hands.length) (k r : Nat) :
    ((g.landed w).wgs.getD k default).hands.getD r 0#1024 =
      if k = w.wg ∧ r = w.reg then w.applyTo ((g.wgs.getD k default).hands.getD r 0#1024) else (g.wgs.getD k default).hands.getD r 0#1024 := by
  unfold landed
  by_cases hk : k = w.wg
  · subst hk
    have hu : w.reg < (g.wgs.getD w.wg default).hands.length := by
      rw [List.getD_eq_getElem _ _ hw]
      exact hr _ (List.getElem_mem hw)
    have hm : (g.wgs.modify w.wg (Wg.landed w)).getD w.wg default = (g.wgs.getD w.wg default).landed w := by
      simp [List.getD_eq_getElem?_getD, hw]
    simp only [hm, Wg.landed_hands hu, true_and]
  · simp [List.getD_eq_getElem?_getD, hk, Ne.symm hk]

theorem recheckAll_of_no_rdvs {s : State} {uid : Nat} {g : Gang} (hg : s.gang? uid = some g) (hr : g.rdvs = []) : recheckAll s uid = s := by
  simp [recheckAll, hg, hr]

section
variable {s : State} {die core : Nat} {w : HandWrite}

theorem oldestHands_of_single (hq : (s.handQ.filter fun v => v.die == die && v.core == core) = [w]) : oldestHands s die core = [w] := by
  simp [oldestHands, hq, insHand]

/-- A core's one write waits for the end of its issue cycle. -/
theorem exec_handWriteCommit_early (hq : (s.handQ.filter fun v => v.die == die && v.core == core) = [w]) (hc : (s.die die).clk ≤ w.issued) :
    exec (.handWriteCommit die core) s = .next s := by
  rw [show exec (.handWriteCommit die core) s = execHandWriteCommit die core s from rfl]
  simp only [execHandWriteCommit, oldestHands_of_single hq, if_pos hc]

/-- The only write of a core is all that its commit takes from the queue. -/
theorem handQ_filter_of_single (hq : (s.handQ.filter fun v => v.die == die && v.core == core) = [w]) :
    (s.handQ.filter fun v => !(v.die == die && v.core == core && v.issued == w.issued)) =
      s.handQ.filter fun v => !(v.die == die && v.core == core) := by
  refine List.filter_congr fun v hv => ?_
  cases hc : (v.die == die && v.core == core) with
  | false => rfl
  | true =>
    have hm : v ∈ s.handQ.filter fun v => v.die == die && v.core == core := List.mem_filter.2 ⟨hv, hc⟩
    rw [hq, List.mem_singleton] at hm
    simp [hm]

/-- With the issue cycle over, the one write of a core lands, the dead of its gang end, and its open rendezvous recheck. -/
theorem exec_handWriteCommit_single (hq : (s.handQ.filter fun v => v.die == die && v.core == core) = [w]) (hc : w.issued < (s.die die).clk) :
    exec (.handWriteCommit die core) s = .next (recheckAll ((commitHand
      { s with handQ := s.handQ.filter fun v => !(v.die == die && v.core == core) } w).updGang w.gang endDead) w.gang) := by
  rw [show exec (.handWriteCommit die core) s = execHandWriteCommit die core s from rfl]
  simp only [execHandWriteCommit, oldestHands_of_single hq, if_neg (Nat.not_le.2 hc), handQ_filter_of_single hq]
  rfl

/-- With no rendezvous open, the commit of a core's one write leaves its gang with that write landed and the dead ended. -/
theorem exec_handWriteCommit_lands {g : Gang} (hq : (s.handQ.filter fun v => v.die == die && v.core == core) = [w])
    (hg : s.gang? w.gang = some g) (hc : w.issued < (s.die die).clk) (hr : g.rdvs = []) :
    ∃ t, exec (.handWriteCommit die core) s = .next t ∧
      t.gang? w.gang = some (endDead (g.landed w)) ∧
      t.handQ = s.handQ.filter fun v => !(v.die == die && v.core == core) := by
  have hend (q : List HandWrite) :
      ((commitHand { s with handQ := q } w).updGang w.gang endDead).gang? w.gang = some (endDead (g.landed w)) := by
    rw [updGang_endDead_gang?, commitHand_gang?, show ({ s with handQ := q } : State).gang? w.gang = some g from hg]
    rfl
  have hrun := exec_handWriteCommit_single hq hc
  rw [recheckAll_of_no_rdvs (hend _) hr] at hrun
  exact ⟨_, hrun, hend _, rfl⟩

end

/-- Settles O32: the agent's own last write makes its read take all that is pending, and the one write of a core changes one hand. -/
theorem handReadsAndCommits : Obligations.HandReadsAndCommits := by
  intro s e h die core
  have horder : (fun a b : HandWrite => a.issued < b.issued ∨ a.issued = b.issued ∧ (a.slot < b.slot ∨ a.slot = b.slot ∧ a.place ≤ b.place)) =
      fun a b => a.stamp ≤ b.stamp := by
    funext a b
    exact propext HandWrite.stamp_le_iff.symm
  dsimp only
  rw [horder]
  refine ⟨if_pos rfl, fun hh => ⟨Env.hand_of_no_pending hh, fun hl => ?_⟩, fun w g hq hg => ⟨exec_handWriteCommit_early hq, ?_⟩⟩
  · exact ⟨landSort (pendingHand s e.g.uid e.a.wg h), landSort_perm _, landSort_landOrder _, landSort_of_landOrder,
      Env.hand_of_last_own hh hl⟩
  · intro hc hr hw hreg hlen
    obtain ⟨t, hrun, hgang, hleft⟩ := exec_handWriteCommit_lands hq hg hc hr
    exact ⟨t, _, hrun, hgang, hleft, fun k r _ _ => Gang.landed_hands hw (fun u hu => by rwa [hlen u hu]) k r⟩

end Sys2Proof.Machine
end

section
/-! LAW. The stage barriers (section 06 (R115, R116), R264): O50, through the 16 bytes of an object and the operations on it. -/

namespace Sys2Proof.Machine

/-! ### The 16 bytes of an object (R115) -/

theorem sInt_wrapI {v : Int} (hl : -(2 ^ 31) ≤ v) (hh : v < 2 ^ 31) : sInt 32 (wrapI 32 v) = v := by
  unfold sInt wrapI
  split <;> omega

theorem sInt_bounds {w : Nat} (h : w < 2 ^ 32) : -(2 ^ 31) ≤ sInt 32 w ∧ sInt 32 w < 2 ^ 31 := by
  unfold sInt
  split <;> omega

/-- Every field of an object fits its bits of R115. -/
structure SBar.WF (b : SBar) : Prop where
  pend_ge : -(2 ^ 31) ≤ b.pend
  pend_lt : b.pend < 2 ^ 31
  carry : b.carry < 2048
  arr : b.arr < 2048
  exp : b.exp < 2048
  rest : ∃ k j, k < 2 ^ 59 ∧ j < 2 ∧ b.rest = k * 2 ^ 4 + j * 2

theorem SBar.of_wf (w : Nat) : (SBar.of w).WF := by
  have hfld (lo n : Nat) : fld w lo n < 2 ^ n := Nat.mod_lt _ (Nat.two_pow_pos n)
  obtain ⟨hl, hh⟩ := sInt_bounds (hfld 96 32)
  exact ⟨hl, hh, hfld 85 11, hfld 74 11, hfld 63 11, _, _, hfld 4 59, hfld 1 1, rfl⟩

/-- Numbers that lie side by side in the bits of R115: PEND, CARRY, ARR, EXP, the reserved bits, ERR, OVR, a reserved bit, PHASE. -/
def sbarLayout (p c a e k err ovr j ph : Nat) : Nat :=
  p * 2 ^ 96 + c * 2 ^ 85 + a * 2 ^ 74 + e * 2 ^ 63 + k * 2 ^ 4 + err * 8 + ovr * 4 + j * 2 + ph

section
variable {p c a e k err ovr j ph : Nat} (hp : p < 2 ^ 32) (hc : c < 2048) (ha : a < 2048) (he : e < 2048) (hk : k < 2 ^ 59)
  (herr : err < 2) (hovr : ovr < 2) (hj : j < 2) (hph : ph < 2)
include hp hc ha he hk herr hovr hj hph

theorem sbarLayout_lt : sbarLayout p c a e k err ovr j ph < 256 ^ 16 := by
  unfold sbarLayout
  omega

theorem sbarLayout_fields :
    let w := sbarLayout p c a e k err ovr j ph
    fld w 96 32 = p ∧ fld w 85 11 = c ∧ fld w 74 11 = a ∧ fld w 63 11 = e ∧ fld w 4 59 = k ∧
      fld w 3 1 = err ∧ fld w 2 1 = ovr ∧ fld w 1 1 = j ∧ fld w 0 1 = ph := by
  unfold sbarLayout fld
  refine ⟨?_, ?_, ?_, ?_, ?_, ?_, ?_, ?_, ?_⟩ <;> omega

end

theorem SBar.WF.word_layout {b : SBar} (h : b.WF) : ∃ k j, k < 2 ^ 59 ∧ j < 2 ∧ b.rest = k * 2 ^ 4 + j * 2 ∧
    b.word = sbarLayout (wrapI 32 b.pend) b.carry b.arr b.exp k b.err.toNat b.ovr.toNat j b.phase.toNat := by
  obtain ⟨k, j, hk, hj, hr⟩ := h.rest
  have hbit (c : Bool) (n : Nat) : (if c then n else 0) = c.toNat * n := by cases c <;> simp
  refine ⟨k, j, hk, hj, hr, ?_⟩
  simp only [SBar.word, sbarLayout, hbit, hr, Nat.mod_eq_of_lt h.carry, Nat.mod_eq_of_lt h.arr, Nat.mod_eq_of_lt h.exp]
  omega

theorem wrapI_lt (v : Int) : wrapI 32 v < 2 ^ 32 := by
  unfold wrapI
  omega

theorem SBar.WF.word_lt {b : SBar} (h : b.WF) : b.word < 256 ^ 16 := by
  obtain ⟨k, j, hk, hj, -, hw⟩ := h.word_layout
  rw [hw]
  exact sbarLayout_lt (wrapI_lt _) h.carry h.arr h.exp hk (Bool.toNat_lt _) (Bool.toNat_lt _) hj (Bool.toNat_lt _)

/-- An object that fits its 16 bytes reads back as it was written, with no phase completed since. -/
theorem SBar.WF.of_word {b : SBar} (h : b.WF) : SBar.of b.word = { b with flips := 0 } := by
  obtain ⟨k, j, hk, hj, hr, hw⟩ := h.word_layout
  have hbit (w i : Nat) (c : Bool) (hf : fld w i 1 = c.toNat) : bitN w i = c := by
    rw [show bitN w i = (fld w i 1 == 1) from rfl, hf]
    cases c <;> rfl
  obtain ⟨hp, hc, ha, he, hk', herr, hovr, hj', hph⟩ := sbarLayout_fields (wrapI_lt b.pend) h.carry h.arr h.exp hk
    (Bool.toNat_lt b.err) (Bool.toNat_lt b.ovr) hj (Bool.toNat_lt b.phase)
  rw [← hw] at hp hc ha he hk' herr hovr hj' hph
  simp only [SBar.of, hp, hc, ha, he, hk', hj', hbit _ _ _ herr, hbit _ _ _ hovr, hbit _ _ _ hph, sInt_wrapI h.pend_ge h.pend_lt, hr]

/-! ### Bytes of a number in the operand store -/

theorem toBytes_succ (n w : Nat) : toBytes (n + 1) w = BitVec.ofNat 8 w :: toBytes n (w / 256) := by
  simp only [toBytes, List.range_succ_eq_map, List.map_cons, List.map_map, Nat.pow_zero, Nat.div_one]
  congr 1
  refine List.map_congr_left fun j _ => ?_
  simp only [Function.comp_apply, Nat.succ_eq_add_one, Nat.pow_succ', Nat.div_div_eq_div_mul]

theorem ofBytes_toBytes (n w : Nat) : ofBytes (toBytes n w) = w % 256 ^ n := by
  induction n generalizing w with
  | zero => simp [toBytes, ofBytes, Nat.mod_one]
  | succ n ih =>
    rw [toBytes_succ, ofBytes, ih, BitVec.toNat_ofNat, Nat.pow_succ' (n := n), Nat.mod_mul (a := 256)]

theorem mem_bytesAt {a n k : Nat} : k ∈ bytesAt a n ↔ a ≤ k ∧ k < a + n := by
  simp only [bytesAt, List.mem_map, List.mem_range]
  constructor
  · rintro ⟨j, hj, rfl⟩
    omega
  · rintro ⟨hl, hh⟩
    exact ⟨k - a, by omega, by omega⟩

theorem bytesAt_succ (a n : Nat) : bytesAt a (n + 1) = a :: bytesAt (a + 1) n := by
  simp only [bytesAt, List.range_succ_eq_map, List.map_cons, List.map_map, Nat.add_zero]
  congr 1
  exact List.map_congr_left fun j _ => by simp only [Function.comp_apply]; omega

/-- Bytes written side by side read back. -/
theorem map_look_putAll_bytesAt {t : Table Byte} (h : Table.wf 0#8 t = true) (a : Nat) (bs : List Byte) :
    (bytesAt a bs.length).map (Table.look 0#8 (t.putAll 0#8 ((bytesAt a bs.length).zip bs))) = bs := by
  induction bs generalizing t a with
  | nil => rfl
  | cons b bs ih =>
    rw [List.length_cons, bytesAt_succ, List.zip_cons_cons, List.map_cons, Table.putAll, ih (Table.wf_put t a b h)]
    rw [Table.look_putAll_of_notMem, Table.look_put t a b h]
    intro p hp
    have hm := (mem_bytesAt.1 (List.of_mem_zip hp).1).1
    omega

/-! ### An object written back -/

theorem Gang.flipRels_eq (g : Gang) (a : Nat) (ph : Bool) (n : Nat) : ∃ rels, g.flipRels a ph n = { g with rels := rels } := by
  induction n generalizing g ph with
  | zero => exact ⟨g.rels, rfl⟩
  | succ n ih => exact ih _ _

/-- A write-back changes the 16 bytes of its object, what waits behind its phases, and the notes of a save alone. -/
theorem Gang.putSbar_eq (g : Gang) (a : Nat) (b : SBar) : ∃ rels stop, g.putSbar a b =
    { g with os := g.os.putAll 0#8 ((bytesAt a 16).zip (toBytes 16 b.word)), rels := rels, stop := stop } := by
  unfold Gang.putSbar
  dsimp only
  generalize g.os.putAll 0#8 ((bytesAt a 16).zip (toBytes 16 b.word)) = os
  obtain ⟨rels, h⟩ := Gang.flipRels_eq { g with os := os } a (g.sbar a).phase b.flips
  rw [h]
  split
  · exact ⟨g.rels, g.stop, rfl⟩
  split
  · exact ⟨rels, (Gang.noteHit { g with os := os, rels := rels }).stop, rfl⟩
  · exact ⟨rels, g.stop, rfl⟩

theorem Gang.sbar_written {g h : Gang} {a : Nat} {b : SBar} (hw : Table.wf 0#8 g.os = true) (hb : b.WF)
    (ho : h.os = g.os.putAll 0#8 ((bytesAt a 16).zip (toBytes 16 b.word))) : h.sbar a = { b with flips := 0 } := by
  have hlen : (toBytes 16 b.word).length = 16 := by simp [toBytes]
  have hread := map_look_putAll_bytesAt hw a (toBytes 16 b.word)
  rw [hlen, ← ho] at hread
  rw [Gang.sbar, Gang.osBytes, hread, ofBytes_toBytes, Nat.mod_eq_of_lt hb.word_lt, hb.of_word]

theorem look_off_object {t u : Table Byte} {a k : Nat} {bs : List Byte} (ho : u = t.putAll 0#8 ((bytesAt a 16).zip bs)) (hk : k < a ∨ a + 16 ≤ k) :
    u.look 0#8 k = t.look 0#8 k := by
  rw [ho, Table.look_putAll_of_notMem]
  intro p hp
  have hm := mem_bytesAt.1 (List.of_mem_zip hp).1
  omega

/-! ### What each operation makes of an object (R116) -/

theorem SBar.settle_open {b : SBar} (h : ¬(b.arr = b.exp ∧ b.pend ≤ 0)) : b.settle = b := by
  unfold settle complete
  rw [if_neg (by simpa using h)]

/-- The arrivals that carry over do not complete the next phase in their turn. -/
theorem SBar.settle_complete {b : SBar} (ha : b.arr = b.exp) (hp : b.pend ≤ 0) (hc : b.carry < b.exp) :
    b.settle = { b with ovr := b.ovr || decide (b.pend < 0), phase := !b.phase, arr := b.carry, carry := 0, flips := b.flips + 1 } := by
  have hne : ¬b.carry = b.exp := Nat.ne_of_lt hc
  unfold settle complete complete
  simp [ha, hp, hne]

theorem SBar.credit_settles {b : SBar} {c : Nat} (he : b.exp ≠ 0) (hr : -(2 ^ 31) ≤ b.pend - c) :
    b.credit c = { b with pend := b.pend - c }.settle := by
  simp only [credit, if_neg he, if_neg (Int.not_lt.2 hr)]

theorem SBar.init_settle {b : SBar} {n : Nat} (hn : n ≠ 0) :
    (b.init n).settle = { b with exp := n, arr := 0, carry := 0, pend := 0, phase := false, err := false, ovr := false } :=
  settle_open fun h => hn h.1.symm

theorem SBar.expect_settle {b : SBar} {v : Int} (hl : -(2 ^ 31) ≤ b.pend + v) (hh : b.pend + v < 2 ^ 31) (h : ¬(b.arr = b.exp ∧ b.pend + v ≤ 0)) :
    (b.expect v).settle = { b with pend := b.pend + v } := by
  have hclamp : clampI (-(2 ^ 31)) (2 ^ 31 - 1) (b.pend + v) = b.pend + v := by
    unfold clampI
    rw [if_neg (by omega), if_neg (by omega)]
  have hex : b.expect v = { b with pend := b.pend + v } := by
    simp only [expect, hclamp, decide_eq_false (Int.not_lt.2 hl), decide_eq_false (show ¬(2 ^ 31 - 1 < b.pend + v) by omega), Bool.or_false]
  rw [hex]
  exact settle_open h

theorem SBar.arrive_settle_open {b : SBar} (ha : b.arr < b.exp) (h : b.arr + 1 < b.exp ∨ 0 < b.pend) :
    b.arrive.settle = { b with arr := b.arr + 1 } := by
  rw [arrive, if_pos ha]
  refine settle_open fun ⟨(harr : b.arr + 1 = b.exp), (hpend : b.pend ≤ 0)⟩ => ?_
  omega

theorem SBar.arrive_settle_last {b : SBar} (ha : b.arr + 1 = b.exp) (hp : b.pend ≤ 0) (hc : b.carry < b.exp) :
    b.arrive.settle = { b with ovr := b.ovr || decide (b.pend < 0), phase := !b.phase, arr := b.carry, carry := 0, flips := b.flips + 1 } := by
  rw [arrive, if_pos (by omega)]
  exact settle_complete ha hp hc

/-! ### The checks and the update (R264) -/

theorem sInt_toNat (v : DWord) : sInt 64 v.toNat = v.toInt := by
  rw [BitVec.toInt_eq_toNat_cond]
  unfold sInt
  split <;> split <;> omega

theorem sbValue_eq (e : Env) (x : Ext) : sbValue e x = (e.a.rs x.b.toNat).toInt + x.offset := by
  rw [sbValue, Env.rs, sInt_toNat]

/-- What `runExt` asks of an extended form beside its own body, for the forms that need no case of their own in it. -/
structure PlainForm (i : Instr) (x : Ext) : Prop where
  ext : i.ext? = some x
  marks : i.marks = x.m
  waits : i.waitsAlways = Instr.waits i
  vec : i.vecRegs = none
  len : i.len = x.words
  bounds : ∀ e, boundsOk i e = e.regsOk (i.fields.getD {}) x (e.opsOf i x)

section
variable {i : Instr} {x : Ext} {s t : State} {e : Env} {body : State → Env → Regs → Res} (F : PlainForm i x) (H : Executes i s e)
include F H

theorem PlainForm.run_done (ht : body s e (e.opsOf i x) = .done t) : runExt i x s body = .next (e.goOn t (e.pcAfter i)) :=
  runExt_done F.ext F.marks F.waits F.vec F.len (F.bounds e) H ht

theorem PlainForm.run_trap {k : TrapInfo} (hk : body s e (e.opsOf i x) = .trap k 0) (hc : k.cause ≠ cWATCH) :
    runExt i x s body = .next (takeTrap s e ⟨k, 5, 0, x.words, e.a.pc⟩) := by
  rw [runExt_executes i x s e body F.ext F.marks F.waits F.vec (F.bounds e) H, hk, finish, if_neg hc]
  rfl

theorem PlainForm.run_wait (ht : body s e (e.opsOf i x) = .wait t) : ∃ due, runExt i x s body = .next (e.set t (Agent.wait due)) := by
  rw [runExt_executes i x s e body F.ext F.marks F.waits F.vec (F.bounds e) H, ht]
  exact ⟨_, rfl⟩

end

/-- The four checks of R264 pass. -/
structure SbarPasses (e : Env) (a : Nat) (inRange fresh : Bool) : Prop where
  grant : a < 128 * e.g.osLines
  aligned : a % 16 = 0
  range : inRange = true
  init : fresh = true ∨ (e.g.sbar a).exp ≠ 0

/-- The trap of the first of the four checks of R264 that fails. -/
def SbarTraps (i : Instr) (x : Ext) (s : State) (e : Env) (a : Nat) (inRange fresh : Bool) : Prop :=
  (128 * e.g.osLines ≤ a → Traps i s e x.words cOOB 0 (some 1)) ∧
  (a < 128 * e.g.osLines → a % 16 ≠ 0 → Traps i s e x.words cMISALIGN 0 (some 2)) ∧
  (a < 128 * e.g.osLines → a % 16 = 0 → inRange = false → Traps i s e x.words cOOB 0 (some 3)) ∧
  (a < 128 * e.g.osLines → a % 16 = 0 → inRange = true → fresh = false → (e.g.sbar a).exp = 0 → Traps i s e x.words cOOB 0 (some 4))

section
variable {i : Instr} {x : Ext} {s : State} {e : Env} {a : Nat} {inRange fresh rd wr : Bool} {f : SBar → SBar} {rels : Gang → Gang}
  {k : TrapInfo} {body : State → Env → Regs → Res}

theorem SbarPasses.check (h : SbarPasses e a inRange fresh) (hd : e.dbgOn = false) : sbCheck e a inRange fresh rd wr = none := by
  have hg : ¬e.g.osLines * 128 ≤ a := Nat.not_le.2 (Nat.mul_comm _ _ ▸ h.grant)
  have ho : (!fresh && decide ((e.g.sbar a).exp = 0)) = false := by
    rcases h.init with h | h <;> simp [h]
  simp [sbCheck, hg, h.aligned, h.range, ho, watch_off hd]

/-- An instruction that traps where `sbCheck` says so traps at the first check that fails. -/
theorem sbarTraps_of_check (h : ∀ k, k.cause ≠ cWATCH → sbCheck e a inRange fresh rd wr = some k →
    Traps i s e x.words k.cause k.lane k.detail) : SbarTraps i x s e a inRange fresh := by
  have hoob : cOOB ≠ cWATCH := by decide
  have hmis : cMISALIGN ≠ cWATCH := by decide
  refine ⟨fun hg => h ⟨cOOB, 0, some 1⟩ hoob ?_, fun hg ha => h ⟨cMISALIGN, 0, some 2⟩ hmis ?_,
    fun hg ha hr => h ⟨cOOB, 0, some 3⟩ hoob ?_, fun hg ha hr hf he => h ⟨cOOB, 0, some 4⟩ hoob ?_⟩
  · simp [sbCheck, Nat.mul_comm _ 128, hg]
  · simp [sbCheck, Nat.mul_comm _ 128, Nat.not_le.2 hg, ha]
  · simp [sbCheck, Nat.mul_comm _ 128, Nat.not_le.2 hg, ha, hr]
  · simp [sbCheck, Nat.mul_comm _ 128, Nat.not_le.2 hg, ha, hr, hf, he]

theorem Idle.sbReady (hi : Idle s e e) : sbReady e s a = some s := hi.osReady _

theorem Idle.sbUpdate_trap (hi : Idle s e e) (hk : sbCheck e a inRange fresh rd wr = some k) :
    sbUpdate e s a inRange fresh rd wr f rels = .trap k 0 := by
  simp only [sbUpdate, hi.sbReady, Env.now_eq hi.env, hk]

theorem Idle.sbUpdate_done (hi : Idle s e e) (hk : sbCheck e a inRange fresh rd wr = none) :
    sbUpdate e s a inRange fresh rd wr f rels = .done (e.setGang s fun g => (rels g).putSbar a (f ((rels g).sbar a)).settle) := by
  simp only [sbUpdate, hi.sbReady, Env.now_eq hi.env, hk]

/-- The instruction goes on with its object as given, and with all other operand-store bytes and memory as before. -/
def SbarEnds (i : Instr) (s : State) (e : Env) (a : Nat) (b' : SBar) : Prop := ∃ t b, exec i s = .next t ∧ envOf t e.g.uid e.a.id = some b ∧
  b.a = e.a.past (e.pcAfter i) ∧ b.g.sbar a = b' ∧ (∀ k, (k < a ∨ a + 16 ≤ k) → b.g.os.look 0#8 k = e.g.os.look 0#8 k) ∧ t.mem = s.mem

/-- An instruction traps at the first check of R264 that fails, and otherwise takes its object through an operation of R116. -/
def SbarUpdates (i : Instr) (x : Ext) (s : State) (e : Env) (a : Nat) (inRange fresh : Bool) (f : SBar → SBar) : Prop :=
  SbarTraps i x s e a inRange fresh ∧
    ∀ b', SbarPasses e a inRange fresh → (f (e.g.sbar a)).settle = b' → b'.WF → SbarEnds i s e a { b' with flips := 0 }

/-- An operation on the object at an address, as an update of its gang. -/
def sbarWrite (a : Nat) (f : SBar → SBar) (rels : Gang → Gang) (g : Gang) : Gang := (rels g).putSbar a (f ((rels g).sbar a)).settle

theorem sbarWrite_eq (hrels : ∀ g, ∃ r, rels g = { g with rels := r }) (g : Gang) : ∃ r stop, sbarWrite a f rels g =
    { g with os := g.os.putAll 0#8 ((bytesAt a 16).zip (toBytes 16 (f (g.sbar a)).settle.word)), rels := r, stop := stop } := by
  obtain ⟨r, hr⟩ := hrels g
  obtain ⟨r', stop, h⟩ := Gang.putSbar_eq { g with rels := r } a (f (g.sbar a)).settle
  refine ⟨r', stop, ?_⟩
  rw [sbarWrite, hr]
  exact h

theorem sbarEnds_of_write (hq : Quiet s e) (H : Executes i s e) (hrels : ∀ g, ∃ r, rels g = { g with rels := r })
    (hrun : exec i s = .next (e.goOn (e.setGang s (sbarWrite a f rels)) (e.pcAfter i))) {b' : SBar} (hf : (f (e.g.sbar a)).settle = b') (hb : b'.WF) :
    SbarEnds i s e a { b' with flips := 0 } := by
  have hi := hq.idle H
  have hw : Table.wf 0#8 e.g.os = true := (hq.tables.1 e.g (List.mem_of_find?_eq_some hi.gang)).1
  have hset := envOf_setGang hi.env (sbarWrite a f rels) (fun g => by obtain ⟨_, _, h⟩ := sbarWrite_eq (a := a) (f := f) hrels g; rw [h])
    (by obtain ⟨_, _, h⟩ := sbarWrite_eq (a := a) (f := f) hrels e.g; rw [h])
  have hgo := envOf_set hset (fun b => b.past (e.pcAfter i)) fun b => rfl
  obtain ⟨r, stop, h⟩ := sbarWrite_eq (a := a) (f := f) hrels e.g
  have hos : (sbarWrite a f rels e.g).os = e.g.os.putAll 0#8 ((bytesAt a 16).zip (toBytes 16 b'.word)) := by rw [h, hf]
  exact ⟨_, _, hrun, hgo, rfl, Gang.sbar_written hw hb hos, fun k hk => look_off_object hos hk, rfl⟩

theorem PlainForm.sbarUpdates (F : PlainForm i x) (hq : Quiet s e) (H : Executes i s e) (hexec : exec i s = runExt i x s body)
    (hbody : body s e (e.opsOf i x) = sbUpdate e s a inRange fresh rd wr f rels) (hrels : ∀ g, ∃ r, rels g = { g with rels := r }) :
    SbarUpdates i x s e a inRange fresh f := by
  have hi := hq.idle H
  refine ⟨sbarTraps_of_check (rd := rd) (wr := wr) fun k hc hk => ?_, fun b' hp => sbarEnds_of_write hq H hrels ?_⟩
  · rw [Traps, hexec, F.run_trap H (by rw [hbody, hi.sbUpdate_trap hk]) hc]
  · rw [hexec, F.run_done H (by rw [hbody, hi.sbUpdate_done (hp.check H.debug)])]
    rfl

end

/-! ### The four instructions -/

/-- The operand-store address of an SBAR instruction's object. -/
abbrev sbarAddr (e : Env) (i : Instr) (x : Ext) : Nat := e.rs (e.opsOf i x).a

/-- A number of arrivals that SBINIT takes. -/
def sbCount (v : Int) : Bool := 1 ≤ v && v ≤ 1024
/-- A number of bytes that SBEXP takes. -/
def sbBytes (v : Int) : Bool := -(2 ^ 31) ≤ v && v < 2 ^ 31
/-- A phase that SBWAIT takes. -/
def sbPhase (v : Int) : Bool := v == 0 || v == 1

section
variable {x : Ext} {s : State} {e : Env}

theorem sbinit_updates (hq : Quiet s e) (H : Executes (.sbinit x) s e) :
    SbarUpdates (.sbinit x) x s e (sbarAddr e (.sbinit x) x) (sbCount (sbValue e x)) true fun b => b.init (sbValue e x).toNat :=
  PlainForm.sbarUpdates ⟨rfl, rfl, rfl, rfl, rfl, fun _ => rfl⟩ hq H
    (show exec (.sbinit x) s = execSbinit x s from rfl) rfl fun _ => ⟨_, rfl⟩

theorem sbexp_updates (hq : Quiet s e) (H : Executes (.sbexp x) s e) :
    SbarUpdates (.sbexp x) x s e (sbarAddr e (.sbexp x) x) (sbBytes (sbValue e x)) false fun b => b.expect (sbValue e x) :=
  PlainForm.sbarUpdates ⟨rfl, rfl, rfl, rfl, rfl, fun _ => rfl⟩ hq H
    (show exec (.sbexp x) s = execSbexp x s from rfl) rfl fun g => ⟨g.rels, rfl⟩

theorem Gang.relArrival_eq (g : Gang) (a : Nat) (ids : List Nat) : ∃ r, g.relArrival a ids = { g with rels := r } := by
  simp only [relArrival]
  split
  · exact ⟨_, rfl⟩
  split
  · exact ⟨_, rfl⟩
  · exact ⟨g.rels, rfl⟩

/-- With nothing under way the release of an SBARV has nothing to wait for. -/
theorem sbarv_updates (hq : Quiet s e) (H : Executes (.sbarv x) s e) :
    SbarUpdates (.sbarv x) x s e (sbarAddr e (.sbarv x) x) true false SBar.arrive := by
  have hi := hq.idle H
  refine PlainForm.sbarUpdates (rd := true) (wr := true) ⟨rfl, rfl, rfl, rfl, rfl, fun _ => rfl⟩ hq H
    (show exec (.sbarv x) s = execSbarv x s from rfl) ?_ fun g => g.relArrival_eq (sbarAddr e (.sbarv x) x) (relIds s e)
  simp only [hi.sbReady, Option.bind_some, Env.now_eq hi.env, hi.readsIn, hi.release]
  split
  · next k hk => rw [hi.sbUpdate_trap hk]
  · rfl

/-- SBINIT sets EXP and clears all else but the reserved bits. -/
theorem sbinit_ends (hq : Quiet s e) (H : Executes (.sbinit x) s e) (hp : SbarPasses e (sbarAddr e (.sbinit x) x) (sbCount (sbValue e x)) true) :
    SbarEnds (.sbinit x) s e (sbarAddr e (.sbinit x) x) { e.g.sbar (sbarAddr e (.sbinit x) x) with
      exp := (sbValue e x).toNat, arr := 0, carry := 0, pend := 0, phase := false, err := false, ovr := false } := by
  obtain ⟨hlo, hhi⟩ : 1 ≤ sbValue e x ∧ sbValue e x ≤ 1024 := by simpa [sbCount] using hp.range
  obtain ⟨-, hu⟩ := sbinit_updates hq H
  exact hu _ hp (SBar.init_settle (by omega)) ⟨show -(2 ^ 31) ≤ (0 : Int) by decide, show (0 : Int) < 2 ^ 31 by decide, Nat.two_pow_pos 11,
    Nat.two_pow_pos 11, show (sbValue e x).toNat < 2048 by omega, (SBar.of_wf _).rest⟩

/-- SBEXP adds to PEND, where that stays in range and completes nothing. -/
theorem sbexp_ends (hq : Quiet s e) (H : Executes (.sbexp x) s e) (hp : SbarPasses e (sbarAddr e (.sbexp x) x) (sbBytes (sbValue e x)) false) :
    let b := e.g.sbar (sbarAddr e (.sbexp x) x);
    -(2 ^ 31) ≤ b.pend + sbValue e x → b.pend + sbValue e x < 2 ^ 31 → ¬(b.arr = b.exp ∧ b.pend + sbValue e x ≤ 0) →
      SbarEnds (.sbexp x) s e (sbarAddr e (.sbexp x) x) { b with pend := b.pend + sbValue e x } := by
  intro b hl hh hn
  obtain ⟨-, hu⟩ := sbexp_updates hq H
  exact hu _ hp (SBar.expect_settle hl hh hn) { SBar.of_wf _ with pend_ge := hl, pend_lt := hh }

/-- SBARV counts an arrival that does not complete the phase. -/
theorem sbarv_ends_open (hq : Quiet s e) (H : Executes (.sbarv x) s e) (hp : SbarPasses e (sbarAddr e (.sbarv x) x) true false) :
    let b := e.g.sbar (sbarAddr e (.sbarv x) x)
    b.arr < b.exp → (b.arr + 1 < b.exp ∨ 0 < b.pend) → SbarEnds (.sbarv x) s e (sbarAddr e (.sbarv x) x) { b with arr := b.arr + 1 } := by
  intro b hlt hn
  have hb : b.WF := SBar.of_wf _
  obtain ⟨-, hu⟩ := sbarv_updates hq H
  exact hu _ hp (SBar.arrive_settle_open hlt hn) { hb with arr := Nat.lt_of_le_of_lt hlt hb.exp }

/-- SBARV completes the phase with the last arrival where no byte is owed. -/
theorem sbarv_ends_last (hq : Quiet s e) (H : Executes (.sbarv x) s e) (hp : SbarPasses e (sbarAddr e (.sbarv x) x) true false) :
    let b := e.g.sbar (sbarAddr e (.sbarv x) x)
    b.arr + 1 = b.exp → b.pend ≤ 0 → b.carry < b.exp → SbarEnds (.sbarv x) s e (sbarAddr e (.sbarv x) x)
      { b with arr := b.carry, carry := 0, phase := !b.phase, ovr := b.ovr || decide (b.pend < 0) } := by
  intro b hlast hle hc
  have hb : b.WF := SBar.of_wf _
  obtain ⟨-, hu⟩ := sbarv_updates hq H
  exact hu _ hp (SBar.arrive_settle_last hlast hle hc) { hb with arr := hb.carry, carry := Nat.two_pow_pos 11 }

/-! ### SBWAIT -/

theorem sbwait_plainForm (x : Ext) : PlainForm (.sbwait x) x := ⟨rfl, rfl, rfl, rfl, rfl, fun _ => rfl⟩

theorem sbwait_traps (hq : Quiet s e) (H : Executes (.sbwait x) s e) :
    SbarTraps (.sbwait x) x s e (sbarAddr e (.sbwait x) x) (sbPhase (sbValue e x)) false := by
  have hi := hq.idle H
  refine sbarTraps_of_check (rd := true) (wr := false) fun k hc hk => ?_
  rw [Traps, show exec (.sbwait x) s = execSbwait x s from rfl]
  refine (sbwait_plainForm x).run_trap H ?_ hc
  unfold sbPhase at hk
  simp only [hi.sbReady, Env.now_eq hi.env, hk]

/-- SBWAIT goes on where the phase has left its value, with what was released under it taken up (R84). -/
theorem sbwait_passes (hq : Quiet s e) (H : Executes (.sbwait x) s e)
    (hp : SbarPasses e (sbarAddr e (.sbwait x) x) (sbPhase (sbValue e x)) false)
    (hph : (e.g.sbar (sbarAddr e (.sbwait x) x)).phase ≠ (sbValue e x == 1)) :
    ∃ t b, exec (.sbwait x) s = .next t ∧ envOf t e.g.uid e.a.id = some b ∧
      b.a = { e.a.past (e.pcAfter (.sbwait x)) with sbw := none, obs := b.a.obs, heard := b.a.heard } ∧ b.g.os = e.g.os ∧ t.mem = s.mem := by
  have hi := hq.idle H
  obtain ⟨obs, heard, hrel⟩ := hi.relIn (e.g.rel (sbKey (sbarAddr e (.sbwait x) x) (sbValue e x == 1)))
  have hne : ((e.g.sbar (sbarAddr e (.sbwait x) x)).phase == (sbValue e x == 1)) = false := beq_false_of_ne hph
  have hk := hp.check (rd := true) (wr := false) H.debug
  unfold sbPhase at hk
  have hrun : exec (.sbwait x) s = .next (e.goOn (waitBar e (e.set s fun a => { a with obs := obs a, heard := heard a }) none) (e.pcAfter (.sbwait x))) := by
    rw [show exec (.sbwait x) s = execSbwait x s from rfl]
    refine (sbwait_plainForm x).run_done H ?_
    simp only [hi.sbReady, Env.now_eq hi.env, hk, hne, Bool.false_eq_true, if_false, hi.acquire, Option.bind_some, hrel]
  have h1 := envOf_set hi.env (fun a => { a with obs := obs a, heard := heard a }) fun a => rfl
  have h2 := envOf_set h1 (fun a => { a with sbw := none }) fun a => rfl
  have h3 := envOf_set h2 (fun a => a.past (e.pcAfter (.sbwait x))) fun a => rfl
  exact ⟨_, _, hrun, h3, rfl, rfl, rfl⟩

/-- At a long wait an agent stays where it is (R159). -/
theorem Agent.wait_keeps (due : Nat) (a : Agent) :
    (a.wait due).id = a.id ∧ (a.wait due).pc = a.pc ∧ (a.wait due).sbw = a.sbw ∧ ∃ d, (a.wait due).st = .waiting d := by
  unfold Agent.wait
  split
  · next d h => exact ⟨rfl, rfl, rfl, d, h⟩
  · exact ⟨rfl, rfl, rfl, due, rfl⟩

/-- SBWAIT begins a long wait, or goes on with it, in the phase of its value (R159). -/
theorem sbwait_waits (hq : Quiet s e) (H : Executes (.sbwait x) s e)
    (hp : SbarPasses e (sbarAddr e (.sbwait x) x) (sbPhase (sbValue e x)) false)
    (hph : (e.g.sbar (sbarAddr e (.sbwait x) x)).phase = (sbValue e x == 1)) :
    ∃ t b, exec (.sbwait x) s = .next t ∧ envOf t e.g.uid e.a.id = some b ∧ b.a.pc = e.a.pc ∧
      b.a.sbw = some (sbarAddr e (.sbwait x) x) ∧ ∃ due, b.a.st = .waiting due := by
  have hi := hq.idle H
  have hk := hp.check (rd := true) (wr := false) H.debug
  unfold sbPhase at hk
  have hrun : ∃ due, exec (.sbwait x) s = .next (e.set (waitBar e s (some (sbarAddr e (.sbwait x) x))) (Agent.wait due)) := by
    rw [show exec (.sbwait x) s = execSbwait x s from rfl]
    refine (sbwait_plainForm x).run_wait H ?_
    simp only [hi.sbReady, Env.now_eq hi.env, hk, hph, beq_self_eq_true, if_true]
  obtain ⟨due, hrun⟩ := hrun
  have h1 := envOf_set hi.env (fun a => { a with sbw := some (sbarAddr e (.sbwait x) x) }) fun a => rfl
  have h2 := envOf_set h1 (Agent.wait due) fun a => (a.wait_keeps due).1
  obtain ⟨-, hpc, hsbw, hst⟩ := Agent.wait_keeps due { e.a with sbw := some (sbarAddr e (.sbwait x) x) }
  exact ⟨_, _, hrun, h2, hpc, hsbw, hst⟩

end

/-- Settles O50: the four checks trap in order, each operation of R116 stands in the 16 bytes of its object alone, and a wait ends with its phase. -/
theorem stageBarriers : Obligations.StageBarriers := by
  intro x s e hq
  dsimp only
  refine ⟨fun i hmem H => ?_, fun b c he ha hc hr => ?_⟩
  · rw [← sbValue_eq e x]
    simp only [List.mem_cons, List.not_mem_nil, or_false] at hmem
    -- what the clauses ask of each of the four instructions
    rcases hmem with rfl | rfl | rfl | rfl <;>
      simp only [reduceCtorEq, if_true, if_false, decide_true, decide_false, false_implies, true_implies, implies_true, and_true, true_and,
        true_or, false_or]
    · obtain ⟨⟨hgrant, halign, hrange, -⟩, -⟩ := sbinit_updates hq H
      exact ⟨hgrant, halign, hrange, fun hg ha hr => sbinit_ends hq H ⟨hg, ha, hr, .inl rfl⟩⟩
    · obtain ⟨⟨hgrant, halign, hrange, hinit⟩, -⟩ := sbexp_updates hq H
      exact ⟨hgrant, halign, hrange, fun hg ha hr => hinit hg ha hr rfl, fun hg ha hr he => sbexp_ends hq H ⟨hg, ha, hr, .inr he⟩⟩
    · obtain ⟨⟨hgrant, halign, -, hinit⟩, -⟩ := sbarv_updates hq H
      exact ⟨hgrant, halign, fun hg ha => hinit hg ha rfl rfl, fun hg ha he =>
        ⟨sbarv_ends_open hq H ⟨hg, ha, rfl, .inr he⟩, sbarv_ends_last hq H ⟨hg, ha, rfl, .inr he⟩⟩⟩
    · obtain ⟨hgrant, halign, hrange, hinit⟩ := sbwait_traps hq H
      exact ⟨hgrant, halign, hrange, fun hg ha hr => hinit hg ha hr rfl, fun hg ha hr he =>
        ⟨sbwait_passes hq H ⟨hg, ha, hr, .inr he⟩, sbwait_waits hq H ⟨hg, ha, hr, .inr he⟩⟩⟩
  · rw [SBar.credit_settles he hr]
    split
    · next h => exact SBar.settle_complete h.1 h.2 hc
    · next h => exact SBar.settle_open h

end Sys2Proof.Machine
end
section
/-! LAW. Pack formation and the join of an apply (section 07 (R136, R137, R138, R209), R87): O35, through the ranks and carry-ins of each pack, and
through what the join does to one agent: it synchronises, takes its write-backs home, and goes on. -/

namespace Sys2Proof.Machine

/-! ### Numbered elements, chunks of a list, tables of many writes -/

theorem enumFrom_eq_map_zipIdx {α : Type} (n : Nat) (l : List α) : enumFrom n l = (l.zipIdx n).map Prod.swap := by
  induction l generalizing n with
  | nil => rfl
  | cons a l ih => rw [enumFrom, ih, List.zipIdx_cons, List.map_cons, Prod.swap_prod_mk]

theorem mem_enumFrom_zero {α : Type} {l : List α} {k : Nat} {a : α} : (k, a) ∈ enumFrom 0 l ↔ l[k]? = some a := by
  rw [enumFrom_eq_map_zipIdx, ← List.mk_mem_zipIdx_iff_getElem?]
  exact List.mem_map_of_injective (a := (a, k)) Prod.swap_injective

theorem le_cdiv_mul (n : Nat) {w : Nat} (hw : 0 < w) : n ≤ cdiv n w * w := by
  have hdiv := Nat.div_add_mod (n + w - 1) w
  have hmod := Nat.mod_lt (n + w - 1) hw
  rw [cdiv, Nat.mul_comm]
  omega

/-- The chunks of w elements are the list again, up to where they reach. -/
theorem flatMap_chunks {α : Type} (l : List α) (w k : Nat) :
    ((List.range k).flatMap fun p => (l.drop (p * w)).take w) = l.take (k * w) := by
  induction k with
  | zero => simp
  | succ k ih => rw [List.range_succ, List.flatMap_append, ih, List.flatMap_singleton, Nat.succ_mul, List.take_add]

/-- Every chunk but the last is full. -/
theorem length_chunk {α : Type} (l : List α) {w k : Nat} (hk : k + 1 < cdiv l.length w) : ((l.drop (k * w)).take w).length = w := by
  have hmul : (k + 2) * w ≤ l.length + w - 1 := Nat.mul_le_of_le_div _ _ _ hk
  rw [Nat.add_mul] at hmul
  rw [List.length_take, List.length_drop]
  omega

/-- A key to which all writes of a list bring one value holds it after them. -/
theorem look_putAll_of_unique {α : Type} [DecidableEq α] {d : α} (l : List (Nat × α)) {t : Table α} (ht : Table.wf d t = true) {k : Nat} {v : α}
    (hm : (k, v) ∈ l) (hu : ∀ p ∈ l, p.1 = k → p.2 = v) : Table.look d (Table.putAll d t l) k = v := by
  induction l generalizing t with
  | nil => cases hm
  | cons p r ih =>
    rw [Table.putAll]
    by_cases hr : (k, v) ∈ r
    · exact ih (Table.wf_put t p.1 p.2 ht) hr fun q hq => hu q (List.mem_cons_of_mem p hq)
    · have hp : (k, v) = p := (List.mem_cons.1 hm).resolve_right hr
      have hlast : ∀ q ∈ r, q.1 ≠ k := fun q hq hk => hr (by rwa [← hk, ← hu q (List.mem_cons_of_mem p hq) hk])
      rw [Table.look_putAll_of_notMem _ _ _ hlast, ← hp]
      exact Table.look_put t k v ht

/-! ### PACK_FORMATION (R136-R138) -/

theorem State.gang?_updGang_of_some {s : State} {uid : Nat} {g : Gang} (hg : s.gang? uid = some g) (f : Gang → Gang) (hf : ∀ g, (f g).uid = g.uid) :
    (s.updGang uid f).gang? uid = some (f g) := by
  rw [State.gang?_updGang s uid f hf, hg, Option.map_some]

theorem landIds_idle {s : State} {uid : Nat} {g : Gang} (hg : s.gang? uid = some g) (hq : g.osq = []) (ids : List Nat) :
    landIds s uid ids = some s := by
  simp [landIds, osFlush_idle hg hq, osOwed_idle hg hq]

/-- A carried register of a member, as its home lane holds it (R138): no two lanes of a pack share a key. -/
theorem look_carried {g : Gang} {ap : ApplyRec} {ranks : List Nat} {j lane rank l : Nat} {b : Agent} (hw : ranks.length ≤ 64) (hj : j < ap.nc)
    (hr : ranks[lane]? = some rank) (hb : homeOf g ap rank = some (b, l)) :
    (carried g ap ranks).look 0#32 (64 * (ap.va + j) + lane) = b.v.look 0#32 (64 * (ap.va + j) + l) := by
  obtain ⟨hlane, -⟩ := List.getElem?_eq_some_iff.1 hr
  refine look_putAll_of_unique _ rfl (List.mem_flatMap.2 ⟨(lane, rank), mem_enumFrom_zero.2 hr, ?_⟩) fun p hp hk => ?_
  · rw [hb]
    exact List.mem_map.2 ⟨j, List.mem_range.2 hj, rfl⟩
  · obtain ⟨⟨lane', rank'⟩, hr', hp⟩ := List.mem_flatMap.1 hp
    rw [mem_enumFrom_zero] at hr'
    obtain ⟨hlane', -⟩ := List.getElem?_eq_some_iff.1 hr'
    dsimp only at hp
    split at hp
    · next b' l' hb' =>
      obtain ⟨j', -, rfl⟩ := List.mem_map.1 hp
      dsimp only at hk
      obtain rfl : lane' = lane := by omega
      obtain rfl : j' = j := by omega
      obtain rfl : rank' = rank := Option.some.inj (hr'.symm.trans hr)
      obtain ⟨rfl, rfl⟩ := Prod.mk.inj (Option.some.inj (hb'.symm.trans hb))
      rfl
    · cases hp

/-- The lanes of an apply's workgroup. -/
def ApplyRec.width (ap : ApplyRec) (g : Gang) : Nat := (g.wgs.getD ap.wg default).g

/-- The packs of an apply, numbered from an identity. -/
def ApplyRec.newPacks (ap : ApplyRec) (g : Gang) (id : Nat) : List Agent :=
  (List.range (cdiv ap.members.length (ap.width g))).map fun p => makePack g ap (donorsOf g ap) (ap.width g) (id + p) p

/-- A gang in which the packs of an apply stand. -/
def Gang.packed (n : Nat) (ap : ApplyRec) (packs : List Agent) (g : Gang) : Gang :=
  { g with agents := g.agents ++ packs
           applies := updWhere (fun a => a.n == n) (fun _ => { ap with formed := true, packs := packs.map fun a => a.id, obs := [] }) g.applies }

theorem ApplyRec.newPacks_members (ap : ApplyRec) {g : Gang} (id : Nat) (hw : 0 < ap.width g) :
    ((ap.newPacks g id).flatMap fun a => a.members) = ap.members := by
  rw [newPacks, List.flatMap_map]
  exact (flatMap_chunks ap.members (ap.width g) _).trans (List.take_of_length_le (le_cdiv_mul _ hw))

/-- What each pack is in itself: a pack of some of the ranks, no more of them than lanes. -/
theorem ApplyRec.mem_newPacks {ap : ApplyRec} {g : Gang} {id : Nat} {a : Agent} (ha : a ∈ ap.newPacks g id) :
    ∃ p, a = makePack g ap (donorsOf g ap) (ap.width g) (id + p) p ∧ a.members.length ≤ ap.width g := by
  obtain ⟨p, -, rfl⟩ := List.mem_map.1 ha
  exact ⟨p, rfl, List.length_take_le _ _⟩

theorem ApplyRec.newPacks_full {ap : ApplyRec} {g : Gang} {id k : Nat} {a : Agent} (ha : (ap.newPacks g id)[k]? = some a)
    (hk : k + 1 < (ap.newPacks g id).length) : a.pk = ap.width g := by
  rw [newPacks, List.length_map, List.length_range] at hk
  rw [newPacks, List.getElem?_map, List.getElem?_range (by omega)] at ha
  obtain rfl := Option.some.inj ha
  exact length_chunk ap.members hk

theorem exec_packFormation_forms {s : State} {uid n : Nat} {g : Gang} {ap : ApplyRec} (hg : s.gang? uid = some g)
    (ha : (g.applies.find? fun a => a.n == n) = some ap) (hq : g.osq = []) (hf : ap.formed = false) :
    ∃ t, exec (.packFormation uid n) s = .next t ∧ t.gang? uid = some (g.packed n ap (ap.newPacks g s.fresh)) := by
  have hrun : exec (.packFormation uid n) s = .next (({ s with fresh := s.fresh + (ap.newPacks g s.fresh).length } : State).updGang uid
      (Gang.packed n ap (ap.newPacks g s.fresh))) := by
    rw [show exec (.packFormation uid n) s = execPackFormation uid n s from rfl]
    simp only [execPackFormation, hg, ha, hf, landIds_idle hg hq, Bool.false_eq_true, if_false]
    rfl
  exact ⟨_, hrun, State.gang?_updGang_of_some hg (Gang.packed n ap (ap.newPacks g s.fresh)) fun _ => rfl⟩

/-! ### What the donors take up at the join (R84) -/

/-- An agent with other records of what it has observed, heard and taken ahead, the same in all else. -/
def Noted (a b : Agent) : Prop := ∃ obs heard ahead, b = { a with obs := obs, heard := heard, ahead := ahead }

theorem Noted.refl (a : Agent) : Noted a a := ⟨a.obs, a.heard, a.ahead, rfl⟩

theorem Noted.trans {a b c : Agent} (hab : Noted a b) (hbc : Noted b c) : Noted a c := by
  obtain ⟨_, _, _, rfl⟩ := hab
  obtain ⟨obs, heard, ahead, rfl⟩ := hbc
  exact ⟨obs, heard, ahead, rfl⟩

theorem Noted.id_eq {a b : Agent} (h : Noted a b) : b.id = a.id := by
  obtain ⟨_, _, _, rfl⟩ := h
  rfl

/-- A gang with each agent changed by itself. -/
def Gang.mapAgents (f : Agent → Agent) (g : Gang) : Gang := { g with agents := g.agents.map f }

theorem Gang.mapAgents_mapAgents (f h : Agent → Agent) (g : Gang) : (g.mapAgents f).mapAgents h = g.mapAgents fun a => h (f a) := by
  simp [mapAgents, Function.comp_def]

theorem Gang.mapAgents_of_self {f : Agent → Agent} {g : Gang} (h : ∀ a ∈ g.agents, f a = a) : g.mapAgents f = g := by
  rw [mapAgents, List.map_congr_left h, List.map_id']

theorem State.gang?_set {s : State} {e : Env} {g : Gang} (hg : s.gang? e.g.uid = some g) (f : Agent → Agent) :
    (e.set s f).gang? e.g.uid = some (g.mapAgents fun a => if a.id == e.a.id then f a else a) :=
  State.gang?_updGang_of_some hg (fun g => g.updAgent e.a.id f) fun _ => rfl

theorem envOf_ids {s : State} {uid id : Nat} {e : Env} (he : envOf s uid id = some e) : e.g.uid = uid ∧ e.a.id = id := by
  obtain ⟨hg, ha, -⟩ := envOf_eq_some.1 he
  exact ⟨by simpa using List.find?_some hg, by simpa using List.find?_some ha⟩

theorem dropAhead_eq_set (s : State) (e : Env) : ∃ f, dropAhead s e = e.set s f ∧ ∀ a, Noted a (f a) := by
  unfold dropAhead
  split
  · exact ⟨id, (e.set_id s id fun _ => rfl).symm, Noted.refl⟩
  · exact ⟨_, rfl, fun a => ⟨a.obs, a.heard, [], rfl⟩⟩

theorem noteAgent_eq_set (s : State) (e : Env) (ids : List Nat) (ms : List Need) : ∃ f, noteAgent s e.who ids ms = e.set s f ∧ ∀ a, Noted a (f a) :=
  ⟨_, rfl, fun a => ⟨_, _, a.ahead, rfl⟩⟩

theorem acquire_eq_set (s : State) (e : Env) (scope : Nat) : ∃ f, acquire s e scope = e.set s f ∧ ∀ a, Noted a (f a) := by
  obtain ⟨f, hf, hn⟩ := dropAhead_eq_set s e
  unfold acquire
  simp only [hf]
  split
  · exact ⟨f, rfl, hn⟩
  · obtain ⟨h, hh, hm⟩ := noteAgent_eq_set (e.set s f) e
      (((e.now (e.set s f)).a.heard.filter fun m => m.agrees e.who scope).map fun m => m.w) []
    exact ⟨fun a => h (f a), by rw [hh, e.set_set s f h fun a => (hn a).id_eq], fun a => (hn a).trans (hm (f a))⟩

/-- With no operand-store write waiting, an agent takes up what was released, and its records alone change. -/
theorem relIn_eq_set {s : State} {e : Env} {g : Gang} (hg : s.gang? e.g.uid = some g) (hq : g.osq = []) (ids : List Nat) :
    ∃ f, relIn s e ids = some (e.set s f) ∧ ∀ a, Noted a (f a) := by
  unfold relIn
  split
  · exact ⟨id, by rw [e.set_id s id fun _ => rfl], Noted.refl⟩
  · obtain ⟨f, hf, hn⟩ := noteAgent_eq_set s e ids []
    exact ⟨f, by simp [osFlush_idle hg hq, osOwed_idle hg hq, hf], hn⟩

theorem acquire_relIn_eq_set {s : State} {e : Env} {g : Gang} (hg : s.gang? e.g.uid = some g) (hq : g.osq = []) (scope : Nat) (ids : List Nat) :
    ∃ f, relIn (acquire s e scope) e ids = some (e.set s f) ∧ ∀ a, Noted a (f a) := by
  obtain ⟨f, hf, hn⟩ := acquire_eq_set s e scope
  obtain ⟨h, hh, hm⟩ := relIn_eq_set (s := e.set s f) (State.gang?_set hg f) hq ids
  exact ⟨fun a => h (f a), by rw [hf, hh, e.set_set s f h fun a => (hn a).id_eq], fun a => (hn a).trans (hm (f a))⟩

/-- With no operand-store write waiting, the agents of a list synchronise, and their records alone change. -/
theorem syncIn_mapAgents {uid : Nat} (ids who : List Nat) {s : State} {g : Gang} (hg : s.gang? uid = some g) (hq : g.osq = []) :
    ∃ t f, syncIn uid ids who s = some t ∧ t.gang? uid = some (g.mapAgents f) ∧ (∀ a, a.id ∉ who → f a = a) ∧ ∀ a, Noted a (f a) := by
  induction who generalizing s g with
  | nil => exact ⟨s, id, rfl, by rw [hg, Gang.mapAgents_of_self (f := id) fun _ _ => rfl], fun _ _ => rfl, Noted.refl⟩
  | cons id who ih =>
    cases he : envOf s uid id with
    | none =>
      obtain ⟨t, f, ht, hgt, hf, hn⟩ := ih hg hq
      exact ⟨t, f, by simp only [syncIn, he, ht], hgt, fun a ha => hf a (List.not_mem_of_not_mem_cons ha), hn⟩
    | some e =>
      obtain ⟨rfl, rfl⟩ := envOf_ids he
      obtain ⟨h, hh, hm⟩ := acquire_relIn_eq_set hg hq 1 ids
      obtain ⟨t, f, ht, hgt, hf, hn⟩ := ih (State.gang?_set hg h) hq
      refine ⟨t, _, by simp only [syncIn, he, hh, Option.bind_some, ht], by rw [hgt, Gang.mapAgents_mapAgents], fun a ha => ?_, fun a => ?_⟩
      · obtain ⟨hne, hnot⟩ := List.ne_and_not_mem_of_not_mem_cons ha
        rw [if_neg (by simpa using hne), hf a hnot]
      · split
        · exact (hm a).trans (hn (h a))
        · exact hn a

/-! ### The donors go on (R209) -/

/-- A donor that has not ended goes on at an address. -/
def resumeDonor (uid : Nat) (ret : Addr) (s : State) (id : Nat) : State := match envOf s uid id with
  | some e => if e.a.st == .ended then s else advance s e waitHdr ret
  | none => s

/-- An agent that goes on where it is of a list and has not ended. -/
def Agent.resumed (ids : List Nat) (ret : Addr) (a : Agent) : Agent := if a.id ∈ ids ∧ a.st ≠ .ended then a.past ret else a

theorem Agent.resumed_id (ids : List Nat) (ret : Addr) (a : Agent) : (a.resumed ids ret).id = a.id := by
  unfold resumed
  split <;> rfl

theorem Agent.resumed_of_notMem {ids : List Nat} {a : Agent} (h : a.id ∉ ids) (ret : Addr) : a.resumed ids ret = a := if_neg fun hc => h hc.1

theorem Agent.resumed_resumed (id : Nat) (ids : List Nat) (ret : Addr) (a : Agent) :
    (a.resumed [id] ret).resumed ids ret = a.resumed (id :: ids) ret := by
  by_cases hid : a.id = id ∧ a.st ≠ .ended
  · have hone : a.resumed [id] ret = a.past ret := if_pos ⟨List.mem_singleton.2 hid.1, hid.2⟩
    have hall : a.resumed (id :: ids) ret = a.past ret := if_pos ⟨List.mem_cons.2 (.inl hid.1), hid.2⟩
    rw [hone, hall, resumed]
    split <;> rfl
  · have hone : a.resumed [id] ret = a := if_neg fun hc => hid ⟨List.mem_singleton.1 hc.1, hc.2⟩
    rw [hone, resumed, resumed]
    refine if_congr ⟨fun hc => ⟨List.mem_cons_of_mem id hc.1, hc.2⟩, fun hc => ⟨?_, hc.2⟩⟩ rfl rfl
    exact (List.mem_cons.1 hc.1).resolve_left fun h => hid ⟨h, hc.2⟩

/-- With no STEP event asked for, an agent that goes on meets none (R360). -/
theorem advance_of_no_step (s : State) {e : Env} (h : Hdr) (pc : Addr) (hd : e.g.dbg.getLsbD 1 = false) : advance s e h pc = e.goOn s pc := by
  unfold advance
  simp only [hd, Bool.and_false, Bool.false_eq_true, if_false]
  rfl

/-- The agents of a gang have each their own identity. -/
def Gang.IdsNodup (g : Gang) : Prop := (g.agents.map fun a => a.id).Nodup

theorem Gang.IdsNodup.mapAgents {g : Gang} (h : g.IdsNodup) {f : Agent → Agent} (hf : ∀ a, (f a).id = a.id) : (g.mapAgents f).IdsNodup := by
  simpa [IdsNodup, Gang.mapAgents, Function.comp_def, hf] using h

theorem Gang.IdsNodup.eq {g : Gang} (h : g.IdsNodup) {a b : Agent} (ha : a ∈ g.agents) (hb : b ∈ g.agents) (hid : a.id = b.id) : a = b :=
  List.inj_on_of_nodup_map h ha hb hid

theorem resumeDonor_gang? {s : State} {uid : Nat} {g : Gang} (hg : s.gang? uid = some g) (hd : g.dbg.getLsbD 1 = false) (hn : g.IdsNodup)
    (ret : Addr) (id : Nat) : (resumeDonor uid ret s id).gang? uid = some (g.mapAgents (Agent.resumed [id] ret)) := by
  unfold resumeDonor
  cases he : envOf s uid id with
  | none =>
    have hnone : g.agent? id = none := by
      cases ha : g.agent? id with
      | none => rfl
      | some a => simp [envOf, hg, ha] at he
    have hself : ∀ a ∈ g.agents, a.resumed [id] ret = a := fun a ha =>
      Agent.resumed_of_notMem (by simpa using List.find?_eq_none.1 hnone a ha) ret
    rw [Gang.mapAgents_of_self hself]
    exact hg
  | some e =>
    obtain ⟨hge, hae, -⟩ := envOf_eq_some.1 he
    obtain ⟨rfl, rfl⟩ := envOf_ids he
    obtain rfl : g = e.g := Option.some.inj (hg.symm.trans hge)
    have hown : ∀ a ∈ e.g.agents, a.id = e.a.id → a = e.a := fun a ha => hn.eq ha (List.mem_of_find?_eq_some hae)
    dsimp only
    split
    · next hend =>
      have hself : ∀ a ∈ e.g.agents, a.resumed [e.a.id] ret = a := fun a ha => if_neg fun hc =>
        hc.2 ((hown a ha (List.mem_singleton.1 hc.1)) ▸ eq_of_beq hend)
      rw [Gang.mapAgents_of_self hself]
      exact hg
    · next hend =>
      rw [advance_of_no_step s _ _ hd, Env.goOn, State.gang?_set hg]
      refine congrArg (fun l => some { e.g with agents := l }) (List.map_congr_left fun a ha => ?_)
      by_cases hid : a.id = e.a.id
      · obtain rfl := hown a ha hid
        have hon : e.a.resumed [e.a.id] ret = e.a.past ret := if_pos ⟨List.mem_singleton_self e.a.id, by simpa using hend⟩
        rw [hon, if_pos (beq_self_eq_true e.a.id)]
        rfl
      · rw [Agent.resumed_of_notMem (by simpa using hid), if_neg (by simpa using hid)]

theorem foldl_resumeDonor_gang? {uid : Nat} (ret : Addr) (ids : List Nat) {s : State} {g : Gang} (hg : s.gang? uid = some g)
    (hd : g.dbg.getLsbD 1 = false) (hn : g.IdsNodup) :
    (ids.foldl (resumeDonor uid ret) s).gang? uid = some (g.mapAgents (Agent.resumed ids ret)) := by
  induction ids generalizing s g with
  | nil =>
    rw [Gang.mapAgents_of_self fun a _ => Agent.resumed_of_notMem List.not_mem_nil ret]
    exact hg
  | cons id ids ih =>
    rw [List.foldl_cons, ih (resumeDonor_gang? hg hd hn ret id) hd (hn.mapAgents (Agent.resumed_id [id] ret)), Gang.mapAgents_mapAgents]
    simp only [Agent.resumed_resumed]

/-! ### APPLY_JOIN (R87, R209) -/

/-- The live lanes of an apply's workgroup, as committed. -/
def ApplyRec.live (ap : ApplyRec) (g : Gang) : Hand := (g.wgs.getD ap.wg default).hands.getD 0 0#1024

/-- The write-backs of the live ranks among an agent's lanes. -/
def ApplyRec.writeBacks (ap : ApplyRec) (live : Hand) (members : List Nat) : List (Nat × Word) := ap.back.filterMap fun b =>
  if live.getLsbD b.1 then (members.idxOf? b.1).map fun l => (64 * (ap.vb + b.2.1) + l, b.2.2) else none

/-- An agent with an apply's write-backs in its registers and the packs' flags added to its own. -/
def ApplyRec.giveBack (ap : ApplyRec) (live : Hand) (a : Agent) : Agent :=
  { a with v := Table.putAll 0#32 a.v (ap.writeBacks live a.members), fflags := a.fflags ||| ap.flags }

/-- The same for the donors alone. -/
def ApplyRec.giveHome (ap : ApplyRec) (live : Hand) (a : Agent) : Agent := if ap.donors.contains a.id then ap.giveBack live a else a

theorem ApplyRec.giveHome_id (ap : ApplyRec) (live : Hand) (a : Agent) : (ap.giveHome live a).id = a.id := by
  unfold giveHome
  split <;> rfl

/-- A gang that an apply and its packs have left. -/
def Gang.joined (n : Nat) (ap : ApplyRec) (live : Hand) (g : Gang) : Gang :=
  { g with agents := (g.agents.map (ap.giveHome live)).filter fun a => !ap.packs.contains a.id
           applies := g.applies.filter fun a => a.n != n }

theorem Gang.IdsNodup.joined {g : Gang} (h : g.IdsNodup) (n : Nat) (ap : ApplyRec) (live : Hand) : (g.joined n ap live).IdsNodup :=
  (h.mapAgents (ap.giveHome_id live)).sublist (List.filter_sublist.map _)

/-- What the join leaves of an agent that has synchronised. -/
def ApplyRec.rejoin (ap : ApplyRec) (live : Hand) (a : Agent) : Agent := (ap.giveHome live a).resumed ap.donors ap.ret

/-- The commands of the packs are the donors' from the join on (R114, R173). -/
def ApplyRec.cmdHome (ap : ApplyRec) (g : Gang) (c : Cmd) : Cmd :=
  { c with home := (((donorsOf g ap).find? fun a => a.place == c.place).map fun a => a.id).getD c.home }

/-- A join, once its donors have synchronised. -/
def joinState (uid n : Nat) (g : Gang) (ap : ApplyRec) (live : Hand) (s : State) : State :=
  ap.donors.foldl (resumeDonor uid ap.ret)
    (({ s with cmds := updWhere (fun c => c.gang == uid && ap.packs.contains c.home) (ap.cmdHome g) s.cmds } : State).updGang uid
      (Gang.joined n ap live))

theorem joinState_gang? {uid n : Nat} {g g' : Gang} {ap : ApplyRec} {live : Hand} {s : State} (hg : s.gang? uid = some g')
    (hd : g'.dbg.getLsbD 1 = false) (hn : g'.IdsNodup) :
    (joinState uid n g ap live s).gang? uid = some ((g'.joined n ap live).mapAgents (Agent.resumed ap.donors ap.ret)) :=
  foldl_resumeDonor_gang? ap.ret ap.donors (State.gang?_updGang_of_some hg (Gang.joined n ap live) fun _ => rfl) hd (hn.joined n ap live)

/-- The agents that a join leaves are those that are no pack of it, each rejoined by itself. -/
theorem Gang.joined_agents (n : Nat) (ap : ApplyRec) (live : Hand) (g : Gang) {f : Agent → Agent} (hf : ∀ a, (f a).id = a.id) :
    (((g.mapAgents f).joined n ap live).mapAgents (Agent.resumed ap.donors ap.ret)).agents =
      (g.agents.filter fun a => !ap.packs.contains a.id).map fun a => ap.rejoin live (f a) := by
  simp only [mapAgents, joined, List.filter_map, List.map_map, Function.comp_def, ap.giveHome_id live, hf]
  rfl

theorem ApplyRec.rejoin_of_notMem {ap : ApplyRec} {a : Agent} (h : a.id ∉ ap.donors) (live : Hand) : ap.rejoin live a = a := by
  rw [rejoin, giveHome, if_neg (by simpa using h), Agent.resumed_of_notMem h]

/-- A donor comes out of the join with the packs' flags and its write-backs, and goes on where it has not ended. -/
theorem Noted.rejoin_of_mem {a b : Agent} (hnoted : Noted a b) {ap : ApplyRec} (h : a.id ∈ ap.donors) (live : Hand) :
    (ap.rejoin live b).fflags = a.fflags ||| ap.flags ∧
      (a.st ≠ .ended → (ap.rejoin live b).pc = ap.ret ∧ (ap.rejoin live b).st = .runnable) ∧
      (ap.rejoin live b).s = a.s ∧ (ap.rejoin live b).k = a.k ∧
      (ap.rejoin live b).v = Table.putAll 0#32 a.v (ap.writeBacks live a.members) := by
  obtain ⟨obs, heard, ahead, rfl⟩ := hnoted
  rw [ApplyRec.rejoin, ApplyRec.giveHome, if_pos (by simpa using h), Agent.resumed]
  by_cases hend : a.st = .ended
  · rw [if_neg fun hc => hc.2 hend]
    exact ⟨rfl, fun hne => absurd hend hne, rfl, rfl, rfl⟩
  · rw [if_pos ⟨h, hend⟩]
    exact ⟨rfl, fun _ => ⟨rfl, rfl⟩, rfl, rfl, rfl⟩

section
variable {s : State} {uid n : Nat} {g : Gang} {ap : ApplyRec} (hg : s.gang? uid = some g) (ha : (g.applies.find? fun a => a.n == n) = some ap)
include hg ha

theorem exec_applyJoin_eq (hf : ap.formed = true) (hend : ∀ a ∈ g.agents, a.id ∈ ap.packs → a.st = .ended)
    (hhand : ∀ v ∈ s.handQ, v.agent ∉ ap.packs) {t : State} (ht : (landIds s uid ap.obs).bind (syncIn uid ap.obs ap.donors) = some t) :
    exec (.applyJoin uid n) s = .next (joinState uid n g ap (ap.live g) t) := by
  have hpacks : (g.agents.any fun a => ap.packs.contains a.id && a.st != .ended) = false := by
    simpa using hend
  have hhands : (ap.packs.any fun p => !handsQuiet s p) = false := by
    simp only [handsQuiet, Bool.not_not, List.any_eq_false, List.any_eq_true, beq_iff_eq, not_exists, not_and]
    exact fun p hp v hv hvp => hhand v hv (hvp ▸ hp)
  rw [show exec (.applyJoin uid n) s = execApplyJoin uid n s from rfl]
  simp only [execApplyJoin, hg, ha, hf, hpacks, hhands, ht, Bool.not_true, Bool.or_self, Bool.false_eq_true, if_false]
  rfl

/-- With no operand-store write waiting and no STEP event asked for, an apply whose packs have ended joins: each agent that is no pack of it
synchronises where it is a donor and rejoins. -/
theorem exec_applyJoin_joins (hq : g.osq = []) (hn : g.IdsNodup) (hd : g.dbg.getLsbD 1 = false) (hf : ap.formed = true)
    (hend : ∀ a ∈ g.agents, a.id ∈ ap.packs → a.st = .ended) (hhand : ∀ v ∈ s.handQ, v.agent ∉ ap.packs) :
    ∃ (t : State) (g' : Gang) (f : Agent → Agent), exec (.applyJoin uid n) s = .next t ∧ t.gang? uid = some g' ∧ g'.applies = g.applies.filter (fun a => a.n != n) ∧
      g'.agents = (g.agents.filter fun a => !ap.packs.contains a.id).map (fun a => ap.rejoin (ap.live g) (f a)) ∧
      (∀ a, a.id ∉ ap.donors → f a = a) ∧ ∀ a, Noted a (f a) := by
  obtain ⟨t, f, ht, hgt, hself, hnoted⟩ := syncIn_mapAgents ap.obs ap.donors hg hq
  have hid (a : Agent) : (f a).id = a.id := (hnoted a).id_eq
  have hsync : (landIds s uid ap.obs).bind (syncIn uid ap.obs ap.donors) = some t := by rw [landIds_idle hg hq, Option.bind_some, ht]
  exact ⟨_, _, f, exec_applyJoin_eq hg ha hf hend hhand hsync, joinState_gang? hgt hd (hn.mapAgents hid), rfl,
    Gang.joined_agents n ap _ g hid, hself, hnoted⟩

end

/-- Settles O35: the packs are the chunks of the members, whose lanes share no key of the carried registers; the join changes each agent by itself. -/
theorem packFormationAndJoin : Obligations.PackFormationAndJoin := by
  intro uid n s g ap hg ha
  dsimp only
  intro hq hn hd
  have hosq : g.osq = [] := hq g (List.mem_of_find?_eq_some hg)
  have hapn : ap.n = n := by simpa using List.find?_some ha
  refine ⟨fun hf hpos hwide => ?_, fun hf hend _ hhand => ?_⟩
  · obtain ⟨t, hrun, hgt⟩ := exec_packFormation_forms hg ha hosq hf
    refine ⟨t, _, ap.newPacks g s.fresh, hrun, hgt, rfl, ap.newPacks_members s.fresh hpos, fun a hmem => ?_, fun k a => ApplyRec.newPacks_full⟩
    obtain ⟨p, rfl, hlen⟩ := ApplyRec.mem_newPacks hmem
    exact ⟨rfl, congrArg some hapn, rfl, rfl, rfl, rfl, hlen, rfl, rfl, rfl, fun j lane rank hj hr b l hb =>
      look_carried (hlen.trans hwide) hj hr hb⟩
  · obtain ⟨t, g', f, hrun, hgt, happlies, hagents, hself, hnoted⟩ := exec_applyJoin_joins hg ha hosq hn hd hf hend hhand
    have hlen : g'.agents.length = (g.agents.filter fun a => !ap.packs.contains a.id).length := by rw [hagents, List.length_map]
    refine ⟨t, g', hrun, hgt, happlies, hlen, fun k a hk => ?_⟩
    refine ⟨ap.rejoin (ap.live g) (f a), by rw [hagents, List.getElem?_map, hk, Option.map_some], ?_, ?_⟩
    · exact fun hnot => by rw [hself a hnot, ApplyRec.rejoin_of_notMem hnot]
    · exact fun hdonor => (hnoted a).rejoin_of_mem hdonor _

end Sys2Proof.Machine
end
section
/-! LAW. What a step does (section 08 (R154, R155), section 10 (R180, R199)): O13, through the move that a step makes, the turn of an agent and of a
walk, and the fetch in a context whose addresses are physical. -/

namespace Sys2Proof

/-! ### The bytes of one instruction (R180) -/

theorem wordOf_eq_ofNat (b0 b1 b2 b3 : Byte) : wordOf b0 b1 b2 b3 = BitVec.ofNat 32 (Machine.ofBytes [b0, b1, b2, b3]) := by
  apply BitVec.eq_of_toNat_eq
  simp only [wordOf, BitVec.toNat_append, Machine.ofBytes, BitVec.toNat_ofNat]
  rw [← Nat.shiftLeft_add_eq_or_of_lt b2.isLt, ← Nat.shiftLeft_add_eq_or_of_lt b1.isLt, ← Nat.shiftLeft_add_eq_or_of_lt b0.isLt]
  simp only [Nat.shiftLeft_eq]
  omega

theorem lengthOf_le (w : Word) : lengthOf w ≤ 5 := by
  unfold lengthOf
  split <;> omega

theorem lengthOf_pos (w : Word) : 0 < lengthOf w := by
  unfold lengthOf
  split <;> omega

theorem takeWords_take (n : Nat) : ∀ (bs : List Byte) (ws : List Word) (r : List Byte), takeWords n bs = some (ws, r) →
    takeWords n (bs.take (4 * n)) = some (ws, []) := by
  induction n with
  | zero => exact fun bs ws r h => by simp_all [takeWords]
  | succ n ih =>
    intro bs ws r h
    match bs with
    | b0 :: b1 :: b2 :: b3 :: tl =>
      rw [takeWords] at h
      split at h
      · next ws' r' htl =>
        obtain ⟨rfl, rfl⟩ : wordOf b0 b1 b2 b3 :: ws' = ws ∧ r' = r := by simpa using h
        simp [Nat.mul_add, takeWords, ih tl ws' _ htl]
      · cases h
    | [] => cases h
    | [_] => cases h
    | [_, _] => cases h
    | [_, _, _] => cases h

/-- The decoder reads no byte beyond the words that the first one counts. -/
theorem decode_take {bs rest : List Byte} {i : Instr} (h : decode bs = .ok (i, rest)) :
    decode (bs.take (4 * lengthOf (BitVec.ofNat 32 (Machine.ofBytes (bs.take 4))))) = .ok (i, []) := by
  match bs with
  | b0 :: b1 :: b2 :: b3 :: tl =>
    have hw : BitVec.ofNat 32 (Machine.ofBytes ((b0 :: b1 :: b2 :: b3 :: tl).take 4)) = wordOf b0 b1 b2 b3 := (wordOf_eq_ofNat b0 b1 b2 b3).symm
    obtain ⟨k, hk⟩ : ∃ k, lengthOf (wordOf b0 b1 b2 b3) = k + 1 := ⟨_, (Nat.succ_pred_eq_of_pos (lengthOf_pos _)).symm⟩
    rw [hw]
    have htake : (b0 :: b1 :: b2 :: b3 :: tl).take (4 * lengthOf (wordOf b0 b1 b2 b3)) = b0 :: b1 :: b2 :: b3 :: tl.take (4 * k) := by
      rw [hk, Nat.mul_add]
      rfl
    simp only [decode] at h
    split at h
    · cases h
    · next ws r hws =>
      have hcut := takeWords_take _ _ _ _ hws
      rw [htake] at hcut ⊢
      simp only [decode, hcut]
      split at h
      · next hd =>
        obtain ⟨rfl, -⟩ : _ = i ∧ r = rest := by simpa using h
        rfl
      · cases h
  | [] => cases h
  | [_] => cases h
  | [_, _] => cases h
  | [_, _, _] => cases h

namespace Machine

/-! ### The fetch where addresses are physical (R43) -/

section
variable {w : Who} (hflat : ∀ va, w.flat va = true)
include hflat

theorem pageOf_flat (va : Nat) : pageOf w va = va / 4096 := by simp [pageOf, hflat]

theorem xlat_flat (s : State) (k : AccKind) {va : Nat} (h : va < Config.hbmTop) :
    xlat s w k va = .ok ⟨alignDown va 4096, alignDown va 4096, 12, true, true, none⟩ := by
  have hr : paReserved va = false := by
    have hfar : Config.hbmTop ≤ Config.farTop ∧ Config.hbmTop ≤ 2 ^ 52 := by decide
    simp only [paReserved, Bool.or_eq_false_iff, Bool.and_eq_false_iff, decide_eq_false_iff_not]
    omega
  simp [xlat, hflat, hr]

end

/-- A translation that takes the addresses of its page to themselves, in the system context. -/
def Trans.Same (page : Nat) (t : Trans) : Prop := t.pa = page * 4096 ∧ t.bits = 12 ∧ t.dup = none

theorem mem_insVa {p q : Nat × Nat} {l : List (Nat × Nat)} (h : q ∈ insVa p l) : q = p ∨ q ∈ l := by
  induction l with
  | nil => exact .inl (List.mem_singleton.1 h)
  | cons r l ih =>
    unfold insVa at h
    split at h
    · exact List.mem_cons.1 h
    · rcases List.mem_cons.1 h with rfl | h
      · exact .inr List.mem_cons_self
      · exact (ih h).imp_right (List.mem_cons_of_mem _)

/-- The pages touched are those of addresses of the accesses. -/
theorem mem_touched {w : Who} (l : List (Nat × List Nat)) : ∀ {acc : List (Nat × Nat)} {p : Nat × Nat}, p ∈ touched w l acc →
    p ∈ acc ∨ ∃ q ∈ l, p.2 ∈ q.2 := by
  induction l with
  | nil => exact fun h => .inl h
  | cons q r ih =>
    obtain ⟨lane, vas⟩ := q
    intro acc p h
    rcases ih h with h | ⟨q, hq, hp⟩
    · have hins : ∀ v ∈ vas.foldl (fun l va => insVa (lane, va) l) [], v.2 ∈ vas := by
        refine foldl_keeps (fun m : List (Nat × Nat) => ∀ v ∈ m, v.2 ∈ vas) _ _ _ (fun m va hva hm v hv => ?_) (by simp)
        rcases mem_insVa hv with rfl | hv
        · exact hva
        · exact hm v hv
      have hacc : ∀ m : List (Nat × Nat), (∀ v ∈ m, v.2 ∈ vas) → ∀ acc' : List (Nat × Nat), (∀ p ∈ acc', p ∈ acc ∨ p.2 ∈ vas) →
          ∀ p ∈ m.foldl (fun acc p => if acc.any (fun q => pageOf w q.2 == pageOf w p.2) then acc else acc ++ [p]) acc', p ∈ acc ∨ p.2 ∈ vas := by
        intro m hm acc' ha
        refine foldl_keeps (fun a : List (Nat × Nat) => ∀ p ∈ a, p ∈ acc ∨ p.2 ∈ vas) _ _ _ (fun a v hv hk p hp => ?_) ha
        split at hp
        · exact hk p hp
        · rcases List.mem_append.1 hp with hp | hp
          · exact hk p hp
          · exact .inr (List.mem_singleton.1 hp ▸ hm v hv)
      rcases hacc _ hins acc (fun p hp => .inl hp) p h with h | h
      · exact .inl h
      · exact .inr ⟨_, List.mem_cons_self, h⟩
    · exact .inr ⟨q, List.mem_cons_of_mem _ hq, hp⟩

section
variable {w : Who} (hflat : ∀ va, w.flat va = true)
include hflat

theorem translateAll_flat (s : State) (k : AccKind) {l : List (Nat × List Nat)} (h : ∀ q ∈ l, ∀ va ∈ q.2, va < Config.hbmTop) :
    ∃ ts, translateAll s w k l = .ok ts ∧ ∀ t ∈ ts, t.2.Same t.1 := by
  have hrs : (touched w l []).map (fun p => (p, xlat s w k p.2)) = (touched w l []).map fun p =>
      (p, Xlat.ok ⟨alignDown p.2 4096, alignDown p.2 4096, 12, true, true, none⟩) := by
    refine List.map_congr_left fun p hp => ?_
    rcases mem_touched l hp with hp | ⟨q, hq, hp⟩
    · cases hp
    · rw [xlat_flat hflat s k (h q hq _ hp)]
  unfold translateAll
  simp only [hrs]
  generalize touched w l [] = pages
  have hfind (x : Xlat) (hx : ∀ t, x ≠ .ok t) : (pages.map fun p => (p, Xlat.ok ⟨alignDown p.2 4096, alignDown p.2 4096, 12, true, true, none⟩)).find?
      (fun r => r.2 == x) = none := by
    simp only [List.find?_eq_none, List.mem_map, forall_exists_index, and_imp, forall_apply_eq_imp_iff₂, beq_iff_eq]
    exact fun p _ hp => hx _ hp.symm
  rw [hfind _ (by simp), hfind _ (by simp)]
  simp only [List.any_map, List.filterMap_map, Function.comp_def]
  have hwait : (pages.any fun p => Xlat.ok ⟨alignDown p.2 4096, alignDown p.2 4096, 12, true, true, none⟩ == Xlat.wait) = false := by
    simp
  rw [hwait]
  simp only [List.filterMap_none, Bool.false_eq_true, if_false]
  refine ⟨_, rfl, fun t ht => ?_⟩
  obtain ⟨p, -, rfl⟩ : ∃ p ∈ pages, (pageOf w p.2, (⟨alignDown p.2 4096, alignDown p.2 4096, 12, true, true, none⟩ : Trans)) = t := by
    simpa using ht
  refine ⟨?_, rfl, rfl⟩
  simp only [pageOf_flat hflat, alignDown]
  omega

theorem placePiece_flat (s : State) {ts : List (Nat × Trans)} (h : ∀ t ∈ ts, t.2.Same t.1) (p : Nat × Nat) : (placePiece s w ts p).rd = p.1 := by
  unfold placePiece
  split
  · next page t hf =>
    obtain ⟨hpa, hbits, hdup⟩ : t.Same page := h _ (List.mem_of_find?_eq_some hf)
    have hpage : page = p.1 / 4096 := by simpa [pageOf_flat hflat] using List.find?_some hf
    simp only [readAddr, hdup, hpa, hbits, hpage]
    omega
  · rfl

theorem noteTlb_flat (s : State) (ts : List Trans) : noteTlb s w ts = s := by
  unfold noteTlb
  simp only [hflat, if_true]
  exact List.foldl_fixed' (fun _ => rfl) ts

end

theorem frozen_none {s : State} (h : s.flips = []) (a : Nat) : frozen s a = false := by simp [frozen, h]

theorem viewPoison_of_not_poisoned {s : State} {a : Nat} (h : poisoned s a = false) (w : Who) : viewPoison s w a = false := by simp [viewPoison, h]

theorem readable_none {s : State} (h : s.outq = []) (w : Who) (as : List Nat) : readable s w as = true := by simp [readable, h]

theorem viewBytes_none {s : State} (h : s.outq = []) (w : Who) (as : List Nat) : viewBytes s w as = as.map (homeByte s) := by
  simp [viewBytes, viewByte, lastSeen, h]

theorem mem_fetchVas {pc : Addr} {n va : Nat} (h : va ∈ fetchVas pc n) (hn : n ≤ 5) (hpc : pc.toNat + 20 ≤ Config.hbmTop) : va < Config.hbmTop := by
  obtain ⟨k, hk, h⟩ := by simpa [fetchVas] using h
  simp only [Config.hbmTop] at *
  omega

/-- A fetch that meets the bytes at their homes: the context's addresses are physical, no write waits, and nothing is poisoned or in a
bias flip. -/
structure PlainFetch (s : State) (e : Env) : Prop where
  ident : e.g.ident = true
  own : e.g.rafOwn = []
  below : e.a.pc.toNat + 20 ≤ Config.hbmTop
  outq : s.outq = []
  clean : ∀ a, poisoned s a = false
  flips : s.flips = []

section
variable {s : State} {e : Env} (h : PlainFetch s e)
include h

theorem PlainFetch.flat (va : Nat) : e.who.flat va = true := by simp [Who.flat, Env.who, h.ident, h.own]

theorem PlainFetch.words {n : Nat} (hn : n ≤ 5) : ∃ ts, fetchWords s e n = .ok (ts, (List.range (4 * n)).map fun j => e.a.pc.toNat + j) := by
  obtain ⟨ts, hts, hsame⟩ := translateAll_flat h.flat s .fetch (l := [(0, fetchVas e.a.pc n)])
    (by simpa using fun va hva => mem_fetchVas hva hn h.below)
  refine ⟨ts.map fun t => t.2, ?_⟩
  have has : ((List.range (4 * n)).map fun j => (placePiece s e.who ts ((e.a.pc.toNat + j) % 2 ^ 52, 1)).rd) =
      (List.range (4 * n)).map fun j => e.a.pc.toNat + j := by
    refine List.map_congr_left fun j hj => ?_
    have hj := List.mem_range.1 hj
    have hb := h.below
    simp only [Config.hbmTop] at hb
    rw [placePiece_flat h.flat s hsame]
    omega
  simp only [fetchWords, hts, has, readable_none h.outq]
  rw [if_neg (by simp [frozen_none h.flips]), if_neg (by simp [viewPoison_of_not_poisoned (h.clean _)])]

/-- The fetch reads the bytes at the PC, and its instruction is the one that they decode to. -/
theorem PlainFetch.fetch_eq {i : Instr} {rest : List Byte}
    (hd : decode ((List.range 20).map fun j => homeByte s (e.a.pc.toNat + j)) = .ok (i, rest)) :
    ∃ as, fetch s e = (noteRead s e.who as, .instr i) := by
  set bs := (List.range 20).map fun j => homeByte s (e.a.pc.toNat + j) with hbs
  have htake (n : Nat) (hn : n ≤ 5) : viewBytes s e.who ((List.range (4 * n)).map fun j => e.a.pc.toNat + j) = bs.take (4 * n) := by
    rw [viewBytes_none h.outq, List.map_map, hbs, ← List.map_take, List.take_range, Nat.min_eq_left (by omega)]
    rfl
  obtain ⟨t0, h0⟩ := h.words (n := 1) (by omega)
  obtain ⟨ts, hts⟩ := h.words (lengthOf_le (BitVec.ofNat 32 (ofBytes (bs.take 4))))
  have hone := htake 1 (by omega)
  unfold fetch
  simp only [h0, hone, hts, htake _ (lengthOf_le _), decode_take hd, noteTlb_flat h.flat]
  exact ⟨_, rfl⟩

end

/-- What a read of a line changes: the notes of the caches. -/
def CachesOf (t s : State) : Prop := t = { s with l1 := t.l1, l2 := t.l2, dir := t.dir }

theorem CachesOf.trans {s t u : State} (h : CachesOf u t) (h' : CachesOf t s) : CachesOf u s := by
  rw [CachesOf, h, h']

theorem allocL2_cachesOf (s : State) (line hint : Nat) : CachesOf (allocL2 s line hint) s := by
  unfold allocL2
  dsimp only
  split <;> rfl

theorem allocL1_cachesOf (s : State) (die core line hint : Nat) : CachesOf (allocL1 s die core line hint) s := by
  unfold allocL1
  dsimp only
  split <;> rfl

theorem dirRead_cachesOf (s : State) (die core line hint : Nat) : CachesOf (dirRead s die core line hint) s := by
  unfold dirRead
  dsimp only
  split
  · rfl
  split
  · exact allocL2_cachesOf s line hint
  · exact .trans (t := allocL1 (allocL2 s line hint) die core line hint) rfl ((allocL1_cachesOf ..).trans (allocL2_cachesOf ..))

theorem noteRead_cachesOf {s : State} (h : s.outq = []) (w : Who) (as : List Nat) : CachesOf (noteRead s w as) s := by
  unfold noteRead
  simp only [noteSeen_none s w as h]
  exact foldl_keeps (fun t => CachesOf t s) _ _ _ (fun t l _ ht => (dirRead_cachesOf t w.die w.core l 0).trans ht) rfl

/-! ### The move of a step -/

/-- A step makes the move that the free choice names. -/
theorem step_move {s : State} {m : Turn} (h : (moves (beginStep exec s))[Config.pick s.tick % (moves (beginStep exec s)).length]? = some m) :
    step s = m.run exec (beginStep exec s) := by
  unfold step stepWith
  dsimp only
  split
  · next hm => simp [hm] at h
  · next m' hm =>
    rw [hm, List.length_singleton, Nat.mod_one] at h
    cases h
    rfl
  · next m' ms _ hm =>
    rw [hm] at h
    rw [List.getD_eq_getElem?_getD, ← List.length_cons (a := m'), h]
    rfl

theorem step_none {s : State} (h : moves (beginStep exec s) = []) : step s = .next (beginStep exec s) := by
  unfold step stepWith
  simp only [h]

/-- What an agent's turn leaves, with the note of its issue. -/
def noteTurn (b : State) (e : Env) (gang agent : Nat) : Outcome → Outcome
  | .next t => .next (noteIssue b e (hasIssued gang agent t) t)
  | o => o

theorem run_agent {b : State} {gang agent : Nat} {e : Env} (h : envOf b gang agent = some e) :
    (Turn.agent gang agent).run exec b = noteTurn b e gang agent (agentTurn exec gang agent b) := by
  simp only [Turn.run, issueTurn, h]
  cases agentTurn exec gang agent b <;> rfl

/-! ### Turns -/

section
variable {s : State} {gang agent : Nat} {e : Env} (he : State.env? { s with cur := .agent gang agent } = some e)
include he

theorem agentTurn_trap {x : Trap} {debug : Bool} (hp : e.a.pend = some (x, debug)) : agentTurn exec gang agent s =
    .next (if debug then takeDebug { s with cur := .agent gang agent } e x else takeTrap { s with cur := .agent gang agent } e x) := by
  simp only [agentTurn, he, hp]

theorem agentTurn_hold (hp : e.a.pend = none) (ha : acquireFirst { s with cur := .agent gang agent } e = none) :
    agentTurn exec gang agent s = .next (e.hold { s with cur := .agent gang agent }) := by
  simp only [agentTurn, he, hp, ha]

variable {v t : State} (hp : e.a.pend = none) (ha : acquireFirst { s with cur := .agent gang agent } e = some v)
include hp ha

theorem agentTurn_instr {i : Instr} (hf : fetch v (e.now v) = (t, .instr i)) : agentTurn exec gang agent s =
    if redirects t (e.now v) i then exec (.cancelRedirect gang agent) t else exec i t := by
  simp only [agentTurn, he, hp, ha, hf]
  rfl

theorem agentTurn_bad {w : Bad} (hf : fetch v (e.now v) = (t, .bad w)) : agentTurn exec gang agent s = .next (issueBad t (e.now v) w) := by
  simp only [agentTurn, he, hp, ha, hf]
  rfl

end

section
variable {s : State} {cmd : Nat} {w : Word} (h : (State.cmd? { s with cur := .walker cmd } cmd).bind Cmd.nextWord = some w)
include h

theorem wordTurn_instr {i : Instr} (hd : decodeWalk w = .ok i) : wordTurn exec cmd s = exec i { s with cur := .walker cmd } := by
  simp only [wordTurn, h, hd]

theorem wordTurn_fault {reason : Nat} (hd : decodeWalk w = .error reason) :
    wordTurn exec cmd s = walkFault cmd reason { s with cur := .walker cmd } := by
  simp only [wordTurn, h, hd]

end

/-! ### Who issues (R154, R155) -/

theorem mem_agentMoves {s : State} {uid id : Nat} (h : Turn.agent uid id ∈ agentMoves s) :
    ∃ g ∈ s.gangs, ∃ a ∈ g.agents, g.uid = uid ∧ a.id = id ∧ mayIssue s g a = true ∧ mayGo s g a = true := by
  obtain ⟨g, hg, a, ⟨ha, hi, hgo⟩, huid, hid⟩ := by simpa [agentMoves] using h
  exact ⟨g, hg, a, ha, huid, hid, hi, hgo⟩

theorem idle_le_of_mayIssue {s : State} {g : Gang} {a : Agent} (h : mayIssue s g a = true) : a.idle ≤ (s.die g.die).clk := by
  simp only [mayIssue, Bool.and_eq_true, decide_eq_true_eq] at h
  exact h.1.1.2

/-- What goes first of two agents, as a proposition. -/
theorem goesBefore_iff (n : Nat) (x y : Gang × Agent) : goesBefore n x y = true ↔
    (n ≤ x.2.stood ∧ (y.2.stood < n ∨ x.2.ready.getD 0 < y.2.ready.getD 0)) ∨
      (x.2.stood < n ∧ y.2.stood < n ∧ (y.1.blk.prio < x.1.blk.prio ∨ x.1.blk.prio = y.1.blk.prio ∧ x.2.ready.getD 0 < y.2.ready.getD 0)) := by
  unfold goesBefore
  by_cases hx : n ≤ x.2.stood
  · simp [hx, Nat.not_lt.2 hx]
  · simp [hx, Nat.lt_of_not_le hx]

theorem mayGo_ready {s : State} {g : Gang} {a : Agent} (h : mayGo s g a = true) (hr : a.ready.isSome = true) :
    a.issuedAt (s.die g.die).clk = false ∧ ((g.slotOf a.wg a.place, a.pc) ∈ quadIssued s g.die g.core (g.quad a) ∨
      (quadIssued s g.die g.core (g.quad a)).length < 2 ∧ ∀ p ∈ quadAgents s g.die g.core (g.quad a), ¬ (p.1.uid = g.uid ∧ p.2.id = a.id) →
        mayIssue s p.1 p.2 = true → p.2.ready.isSome = true → p.2.issuedAt (s.die g.die).clk = false →
          goesBefore (lateAfter s g.die g.core (g.quad a)) p (g, a) = false) := by
  have hn : a.ready.isNone = false := by simpa [Option.isSome_iff_ne_none] using hr
  simp only [mayGo, hn, Bool.false_or, Bool.and_eq_true, Bool.or_eq_true, Bool.not_eq_true', List.contains_iff_mem, decide_eq_true_eq,
    List.any_eq_false, List.mem_filter, Bool.and_eq_false_iff, ] at h
  refine ⟨h.1, h.2.imp_right fun ⟨hlen, hfirst⟩ => ⟨hlen, fun p hp hne hi hr hiss => ?_⟩⟩
  simpa [hr, hiss] using hfirst p ⟨hp, by simpa [imp_iff_not_or] using hne, hi⟩

/-! ### The beginning of a step -/

theorem noteResidency_eq (s : State) : noteResidency s = { s with groups := (noteResidency s).groups } := by
  unfold noteResidency
  split <;> rfl

/-- An agent without the notes of its readiness. -/
def Agent.bare (a : Agent) : Agent := { a with ready := none, stood := 0 }

theorem beginStep_bare (s : State) : ((beginStep exec s).gangs.map fun g => { g with agents := g.agents.map Agent.bare }) =
    s.gangs.map fun g => { g with agents := g.agents.map Agent.bare } := by
  have hg : (tickOn (noteResidency s)).gangs = s.gangs := by rw [noteResidency_eq]; rfl
  simp only [beginStep, noteReady, List.map_map, hg, Function.comp_def]
  rfl

/-- Settles O13: a step makes the move that the free choice names, and each kind of move is what its turn says. -/
theorem aStepRunsTheDecodedInstruction : Obligations.AStepRunsTheDecodedInstruction := by
  intro s
  dsimp only
  set b := beginStep exec s with hb
  have hrun {m : Turn} (hm : (moves b)[Config.pick s.tick % (moves b).length]? = some m) : step s = m.run exec b := step_move hm
  refine ⟨fun m hm => ⟨?_, ?_, ?_⟩, step_none, ?_, ?_⟩
  · rintro gang agent rfl e0 e he0 he
    rw [hrun hm, run_agent he0]
    refine ⟨fun x hx => ?_, fun x hx => ?_, fun hacq => ?_, fun hp =>
      ⟨fun ha => ?_, fun v ha => ⟨fun t i hf hr => ?_, fun t i hf hr => ?_, fun t w hf => ?_, ?_⟩⟩⟩
    · rw [agentTurn_trap he hx]; rfl
    · rw [agentTurn_trap he hx]; rfl
    · simp only [acquireFirst, hacq]
    · rw [agentTurn_hold he hp ha]; rfl
    · rw [agentTurn_instr he hp ha hf, if_neg (by simp [hr])]
      cases exec i t <;> rfl
    · rw [agentTurn_instr he hp ha hf, if_pos hr]
      cases exec (.cancelRedirect gang agent) t <;> rfl
    · rw [agentTurn_bad he hp ha hf]; rfl
    · intro i rest hid hown hpc hq hclean hflips hd
      have hplain : PlainFetch v (e.now v) := ⟨hid, hown, hpc, hq, hclean, hflips⟩
      obtain ⟨as, hf⟩ := hplain.fetch_eq hd
      exact ⟨_, hf, noteRead_cachesOf hq _ as⟩
  · rintro cmd w rfl hw
    rw [hrun hm]
    exact ⟨fun i hi => wordTurn_instr hw hi, fun r hr => wordTurn_fault hw hr⟩
  · rintro f rfl
    exact hrun hm
  · intro uid id hmem
    obtain ⟨g, hg, a, ha, huid, hid, hi, hgo⟩ := mem_agentMoves hmem
    refine ⟨g, hg, a, ha, huid, hid, hi, idle_le_of_mayIssue hi, fun hr => ?_⟩
    obtain ⟨hiss, hdone⟩ := mayGo_ready hgo hr
    refine ⟨hiss, hdone.imp_right fun ⟨hlen, hfirst⟩ => ⟨hlen, ?_⟩⟩
    rintro p ⟨hp, hne, hpi⟩ hpr hpiss hbefore
    have hn : lateAfter b g.die g.core (g.quad a) = if quadIssued b g.die g.core (g.quad a) = [] then 64 else 65 := by simp [lateAfter]
    have hnot := hfirst p hp (by rwa [huid, hid]) hpi hpr hpiss
    rw [hn] at hnot
    exact Bool.false_ne_true (hnot.symm.trans ((goesBefore_iff _ _ _).2 hbefore))
  · have hs : noteResidency s = { s with groups := (noteResidency s).groups } := noteResidency_eq s
    refine ⟨?_, ?_, ?_, ?_, ?_, beginStep_bare s⟩ <;> rw [hb, beginStep, hs] <;> rfl

end Machine
end Sys2Proof
end
section
/-! LAW. A gang that has stopped while its die's pool is empty (section 24 (R161)): O7, refuted by one state. -/

namespace Sys2Proof.Machine

/-! ### Two gangs of one identity (O7) -/

/-- A gang whose one warp has ended, which the host has asked to stop. -/
def askedGang : Gang := { fetchGang .ended with stop := some ⟨.preempt, 0, false, none, none⟩ }

/-- After it stands another gang of the same identity, which nobody has asked to stop; the pool of the die is empty. -/
def twinGangs : State := { State.reset with gangs := [askedGang, fetchGang .ended] }

theorem twinGangs_noWindows : NoWindows twinGangs := by simp [NoWindows, twinGangs, askedGang, fetchGang, State.reset]

/-- GANG_SAVE notes the wait for a frame in a stop that stands, and makes none. -/
theorem twinGangs_saved : ∃ t, exec (.gangSave 1) twinGangs = .next t ∧ t.gangs.map (fun g => g.stop) = [some ⟨.preempt, 0, false, none, some 0⟩, none] :=
  ⟨takeFrame twinGangs askedGang ⟨.preempt, 0, false, none, none⟩, by rfl, by decide +kernel⟩

/-- Refutes O7: it does not say that the identities of gangs are distinct. Where a stopped gang waits for a pool frame, it puts the stop of
the first gang of the identity into every gang of it; the model puts the note into the stop that each has, and the second gang has none. -/
theorem not_gangsStopAreSavedAndEnd : ¬ Obligations.GangsStopAreSavedAndEnd := by
  intro h
  obtain ⟨-, -, -, -, -, hsave, -⟩ := h twinGangs rfl twinGangs_noWindows rfl rfl rfl
  obtain ⟨-, -, hwaits, -⟩ := hsave 1 askedGang ⟨.preempt, 0, false, none, none⟩ rfl rfl rfl (by decide)
  obtain ⟨t, ht, hstops⟩ := twinGangs_saved
  have hclaim := hwaits (.inr (.inl rfl)) (by simp) rfl (by decide +kernel)
  obtain rfl := Host.Outcome.next.inj (ht.symm.trans hclaim)
  exact absurd hstops (by decide +kernel)

end Sys2Proof.Machine
end
section
/-! LAW. The accesses of units (section 04 (R78), section 05 (R94), R41, R390): what a unit of no core leaves of the state when it reads, the homes of
a write, and a write at the homes where no stash window holds a line. -/

namespace Sys2Proof.Machine

/-! ### Writes at the homes, with no window line (R63) -/

theorem dirtyIn_none {g : Gang} (h : g.wlines = []) (line : Nat) : dirtyIn line g = none := by simp [dirtyIn, h]

theorem NoWindows.dirtyAt_none {s : State} (h : NoWindows s) (line : Nat) : dirtyAt s line = none := by
  have hg : s.gangs.findSome? (dirtyIn line) = none := List.findSome?_eq_none_iff.2 fun g hg => dirtyIn_none (h.1 g hg) line
  have hv : (s.saved.findSome? fun v => dirtyIn line v.gang) = none := List.findSome?_eq_none_iff.2 fun v hv => dirtyIn_none (h.2 v hv) line
  simp only [dirtyAt, hg, hv]

theorem map_eq_self {α : Type} {f : α → α} {l : List α} (h : ∀ a ∈ l, f a = a) : l.map f = l :=
  (List.map_congr_left h).trans (List.map_id l)

theorem NoWindows.dropWin_eq {s : State} (h : NoWindows s) (line : Nat) : dropWin s line = s := by
  show _ = ({ s with gangs := s.gangs, saved := s.saved } : State)
  unfold dropWin
  dsimp only
  congr 1
  · exact map_eq_self fun g hg => by simp [h.1 g hg]
  · exact map_eq_self fun v hv => by simp [h.2 v hv]

/-- Nothing but the caches, the directory and the releases behind bytes differs, and memory by some bytes (R94). -/
def WritesOnly (t s : State) (bytes : List (Nat × Byte)) : Prop :=
  t = { s with mem := s.mem.putAll memDefault bytes, l1 := t.l1, dir := t.dir, tags := t.tags }

theorem WritesOnly.trans {s t u : State} {bytes : List (Nat × Byte)} (h : WritesOnly u t bytes) (h' : WritesOnly t s []) : WritesOnly u s bytes := by
  rw [WritesOnly, h, h']
  rfl

theorem NoWindows.ownLine_eq {s : State} (h : NoWindows s) (line : Nat) : WritesOnly (ownLine s line) s [] := by
  simp only [WritesOnly, ownLine, supply_clean s line (h.dirtyAt_none line), h.dropWin_eq]
  rfl

theorem NoWindows.foldl_ownLine {s : State} (h : NoWindows s) (ls : List Nat) : WritesOnly (ls.foldl ownLine s) s [] := by
  refine foldl_keeps (fun t => WritesOnly t s []) _ _ _ (fun t l _ ht => ?_) rfl
  have hn : NoWindows t := by rw [ht]; exact h
  exact (hn.ownLine_eq l).trans ht

theorem setTags_eq (s : State) (as : List Nat) (ms : List Need) : setTags s as ms = { s with tags := (setTags s as ms).tags } := by
  unfold setTags
  dsimp only
  split <;> rfl

theorem NoWindows.applyHome_eq {s : State} (h : NoWindows s) (bytes : List (Nat × Byte)) : WritesOnly (applyHome s bytes) s bytes := by
  have := h.foldl_ownLine (sortNat (bytes.map fun b => lineOf b.1))
  unfold applyHome WritesOnly
  dsimp only
  rw [setTags_eq, this]
  rfl

/-! ### A unit of no core and no command (R41, R390) -/

theorem issuerFirst_unit {w : Who} (h : w.cmd = none) (s : State) (as : List Nat) : issuerFirst s w as = some s := by
  simp [issuerFirst, h]

theorem cmdNeeds_unit {w : Who} (h : w.cmd = none) (s : State) : cmdNeeds s w = [] := by simp [cmdNeeds, h]

theorem pulled_none {s : State} (h : s.outq = []) (w : Who) (l : List (Nat × Nat)) : pulled s w l = [] := by simp [pulled, h]

theorem cmdClear_unit {w : Who} (h : w.cmd = none) {s : State} (hq : s.outq = []) : cmdClear s w = true := by
  simp [cmdClear, cmdShows, cmdNeeds_unit h, pulled_none hq, canShow]

/-- A state that an access has failed in: the unit is held no more, and the event is logged. -/
def Failed (a : Acc) (t s : State) : Prop := ∃ data, t = logEvent (dropHold s a.holder) .engine data

section
variable {s t : State} {a : Acc} {k : AccKind} {va n c : Nat}

theorem uXlat_fail (h : uXlat s a k va = .error (.fail t c)) : Failed a t s := by
  have hgo (p : U Trans) (hp : p = match xlat s a.who k va with
      | .ok t => .ok t
      | .prot => .error (failAcc s a va cPROT)
      | .poison => .error (failAcc s a va cMEMPOISON)
      | .page c lv => .error (.wait (engineFault s a k va c lv))
      | .wait => .error (.wait s)) (h : p = .error (.fail t c)) : Failed a t s := by
    rw [hp] at h
    split at h <;> simp only [failAcc, Except.error.injEq, UStop.fail.injEq, reduceCtorEq] at h
    · exact ⟨_, h.1.symm⟩
    · exact ⟨_, h.1.symm⟩
  unfold uXlat at h
  dsimp only at h
  split at h
  · exact hgo _ rfl h
  · split at h
    · cases h
    · split at h
      · simp only [failAcc, Except.error.injEq, UStop.fail.injEq] at h
        exact ⟨_, h.1.symm⟩
      · exact hgo _ rfl h

theorem uTrans_fail {l : List (Nat × Nat)} (h : uTrans s a k l = .error (.fail t c)) : Failed a t s := by
  induction l with
  | nil => cases h
  | cons p r ih =>
    unfold uTrans at h
    split at h
    · next he =>
      cases h
      exact uXlat_fail he
    · split at h
      · next he =>
        cases h
        exact ih he
      · cases h

theorem uReadNat_fail (hw : a.who.cmd = none) (h : uReadNat s a va n = .error (.fail t c)) : Failed a t s := by
  simp only [uReadNat, uRead, issuerFirst_unit hw, uReadAddrs] at h
  cases ht : uTrans s a .engRead (rangesOf a.who va n) with
  | error e =>
    simp only [ht] at h
    cases h
    exact uTrans_fail ht
  | ok ts =>
    simp only [ht, failAcc] at h
    split_ifs at h <;> simp only [Except.error.injEq, UStop.fail.injEq, reduceCtorEq] at h
    all_goals exact ⟨_, h.1.symm⟩

theorem splitPages_total (w : Who) (fuel va n : Nat) (h : n ≤ fuel) : ((splitPages w fuel va n).map fun p => p.2).sum = n := by
  induction fuel generalizing va n with
  | zero => simp [splitPages, Nat.le_zero.1 h]
  | succ fuel ih =>
    unfold splitPages
    by_cases hn : n = 0
    · simp [hn]
    · have hpos : va % 2 ^ whoBits w va < 2 ^ whoBits w va := Nat.mod_lt _ (Nat.two_pow_pos _)
      simp only [hn, if_false, List.map_cons, List.sum_cons]
      rw [ih _ _ (by omega)]
      omega

theorem uTrans_ranges {l : List (Nat × Nat)} {ts : List (Trans × Nat × Nat)} (h : uTrans s a k l = .ok ts) : ts.map (fun t => t.2) = l := by
  induction l generalizing ts with
  | nil => cases h; rfl
  | cons p r ih =>
    unfold uTrans at h
    split at h
    · cases h
    · split at h
      · cases h
      · next hr =>
        cases h
        simp [ih hr]

/-- A write of n bytes goes to n homes. -/
theorem uWriteAddrs_length {as : List Nat} (h : uWriteAddrs s a va n = .ok as) : as.length = n := by
  unfold uWriteAddrs at h
  split at h
  · cases h
  · next ts hts =>
    split at h
    · cases h
    · dsimp only at h
      split at h
      · cases h
      · cases h
        have hsum : (ts.map fun t => t.2.2).sum = n := by
          have := congrArg (fun l => (l.map fun p => p.2).sum) (uTrans_ranges hts)
          simpa [rangesOf, splitPages_total, List.map_map, Function.comp_def] using this
        simpa [List.length_flatMap, bytesAt] using hsum

end

/-! ### A state that differs in what no translation looks at -/

theorem walkFrom_beside (s : State) (z : Izsil) (hs : List Hold) (rd : List (Nat × List Nat)) (raf va p : Nat) (k : AccKind) (left : Nat) :
    ∀ w table level, walkFrom { s with izsil := z, holds := hs, reading := rd } raf va p k left w table level = walkFrom s raf va p k left w table level := by
  induction left with
  | zero => intros; rfl
  | succ left ih =>
    intro w table level
    unfold walkFrom
    simp only [ih]
    rfl

/-- The state with another log, other held accesses and another block being read. -/
def State.beside (s : State) (z : Izsil) (hs : List Hold) (rd : List (Nat × List Nat)) : State := { s with izsil := z, holds := hs, reading := rd }

section
variable {s : State} {z : Izsil} {hs : List Hold} {rd : List (Nat × List Nat)} {a : Acc} {k : AccKind}

theorem xlat_beside (w : Who) (k : AccKind) (va : Nat) : xlat (s.beside z hs rd) w k va = xlat s w k va := by
  simp only [xlat, walkVa, State.beside, walkFrom_beside]
  rfl

theorem uXlat_beside {va : Nat} {t : Trans}
    (hh : ∀ d, (hs.find? fun d => d.holder == a.holder) = some d → (s.holds.find? fun d => d.holder == a.holder) = some d)
    (h : uXlat s a k va = .ok t) : uXlat (s.beside z hs rd) a k va = .ok t := by
  have hgo {r : Xlat} {s : State} (h : (match r with
      | .ok t => .ok t
      | .prot => .error (failAcc s a va cPROT)
      | .poison => .error (failAcc s a va cMEMPOISON)
      | .page c lv => .error (.wait (engineFault s a k va c lv))
      | .wait => .error (.wait s) : U Trans) = .ok t) : r = .ok t := by
    split at h <;> simp_all
  have hx : xlat s a.who k va = .ok t := by
    unfold uXlat at h
    dsimp only at h
    split at h
    · exact hgo h
    · split at h
      · cases h
      · split at h
        · cases h
        · exact hgo h
  unfold uXlat
  simp only [xlat_beside, hx]
  split
  · rfl
  · next d hd =>
    unfold uXlat at h
    simp only [hh d hd, hx] at h
    split at h
    · cases h
    · next hden =>
      split at h
      · cases h
      · next hp => simp [hden, hp]

theorem uTrans_beside {l : List (Nat × Nat)} {ts : List (Trans × Nat × Nat)}
    (hh : ∀ d, (hs.find? fun d => d.holder == a.holder) = some d → (s.holds.find? fun d => d.holder == a.holder) = some d)
    (h : uTrans s a k l = .ok ts) : uTrans (s.beside z hs rd) a k l = .ok ts := by
  induction l generalizing ts with
  | nil => exact h
  | cons p r ih =>
    unfold uTrans at h ⊢
    split at h
    · cases h
    · next hx =>
      split at h
      · cases h
      · next hr =>
        cases h
        simp only [uXlat_beside hh hx, ih hr]

theorem uWriteAddrs_beside {va n : Nat} {as : List Nat} (hw : a.who.cmd = none) (hq : s.outq = [])
    (hh : ∀ d, (hs.find? fun d => d.holder == a.holder) = some d → (s.holds.find? fun d => d.holder == a.holder) = some d)
    (h : uWriteAddrs s a va n = .ok as) : uWriteAddrs (s.beside z hs rd) a va n = .ok as := by
  have hb : (s.beside z hs rd).outq = [] := hq
  unfold uWriteAddrs at h ⊢
  split at h
  · cases h
  · next ts hts =>
    simp only [uTrans_beside hh hts]
    split at h
    · cases h
    · simp only [cmdClear_unit hw hq, issuerFirst_unit hw, stuckSel_none _ _ hq] at h
      simp only [cmdClear_unit hw hb, issuerFirst_unit hw, stuckSel_none _ _ hb]
      split at h
      · cases h
      · next hfree =>
        cases h
        exact if_neg hfree

end

/-! ### The error of a completion record (R132, R357) -/

theorem ofNat_lor_one (b : Byte) : BitVec.ofNat 8 (Nat.lor b.toNat 1) = b ||| 1#8 := by
  apply BitVec.eq_of_toNat_eq
  rw [BitVec.toNat_or, BitVec.toNat_ofNat]
  exact Nat.mod_eq_of_lt (Nat.or_lt_two_pow b.isLt (by omega))

/-- The two bytes that hold ERR and ERRC. -/
def errBytes (s : State) (as : List Nat) (code : Nat) : List (Nat × Byte) :=
  [(as.getD 4 0, homeByte s (as.getD 4 0) ||| 1#8), (as.getD 5 0, BitVec.ofNat 8 code)]

theorem drop_four_take_two {l : List Nat} (h : 6 ≤ l.length) : (l.drop 4).take 2 = [l.getD 4 0, l.getD 5 0] := by
  match l, h with
  | a :: b :: c :: d :: e :: f :: _, _ => rfl

theorem recordErr_eq {s : State} (hw : NoWindows s) (hq : s.outq = []) {as : List Nat} (hl : 6 ≤ as.length) (hp : ∀ k ∈ as, poisoned s k = false)
    (code : Nat) : WritesOnly (recordErr s as code) s (errBytes s as code) := by
  have h4 : as.getD 4 0 ∈ as := by rw [List.getD_eq_getElem _ _ (by omega)]; exact List.getElem_mem _
  have h5 : as.getD 5 0 ∈ as := by rw [List.getD_eq_getElem _ _ (by omega)]; exact List.getElem_mem _
  have hclean : ([as.getD 4 0, as.getD 5 0].any (poisoned s)) = false := by simp only [List.any_cons, List.any_nil, hp _ h4, hp _ h5, Bool.or_self]
  unfold recordErr
  simp only [drop_four_take_two hl, hclean, performSel_none s _ hq, Bool.false_eq_true, if_false, List.getD_cons_zero, List.zip_cons_cons,
    List.zip_nil_right, ofNat_lor_one]
  exact hw.applyHome_eq _

end Sys2Proof.Machine
end
section
/-! LAW. The launch unit (section 08 (R132, R148), section 27 (R379)): the queue that comes next, the words of a block, and what becomes of a block
that has been read. -/

namespace Sys2Proof.Machine

/-! ### The queue that comes next (R148) -/

/-- The queue is the next one after the last visited that holds an entry. -/
def IsTurn (s : State) (q : Nat) : Prop := s.reading = [] ∧ launchable s q = true ∧ ∃ j, j < 17 ∧ q = (s.lastVisit + 1 + j) % 17 ∧
  ∀ i, i < j → launchable s ((s.lastVisit + 1 + i) % 17) = false

theorem IsTurn.launchNext_eq {s : State} {q : Nat} (h : IsTurn s q) : launchNext s = some q := by
  obtain ⟨hr, hq, j, hj, rfl, hfirst⟩ := h
  have hfind : (List.range 17).find? (fun j => launchable s ((s.lastVisit + 1 + j) % 17)) = some j :=
    List.find?_range_eq_some.2 ⟨hq, List.mem_range.2 hj, fun i hi => by simp [hfirst i hi]⟩
  simp only [launchNext, hr, List.find?_map, Function.comp_def, hfind, Option.map_some]

theorem launchNext_none {s : State} (hr : s.reading = []) (h : ∀ q, q < 17 → launchable s q = false) : launchNext s = none := by
  simp only [launchNext, hr, List.find?_eq_none, List.mem_map, List.mem_range, forall_exists_index, and_imp]
  rintro q j - rfl
  simp [h _ (Nat.mod_lt _ (by omega : 0 < 17))]

section
variable {s : State}

theorem visit_reading {q va : Nat} {ws : List Nat} {rest : List (Nat × List Nat)} (h : s.reading = (q, va :: ws) :: rest) :
    exec .launchUnitVisit s = .next (takeBlock s q (if q = 16 then (s.dlq.headD (0, 0)).1 else (lqOf s q).asid.toNat) va ws) := by
  rw [show exec .launchUnitVisit s = execLaunchUnitVisit s from rfl]
  simp only [execLaunchUnitVisit, h]

theorem visit_none (hr : s.reading = []) (h : ∀ q, q < 17 → launchable s q = false) : exec .launchUnitVisit s = .next s := by
  rw [show exec .launchUnitVisit s = execLaunchUnitVisit s from rfl]
  simp only [execLaunchUnitVisit, hr, launchNext_none hr h]

theorem visit_device {asid va : Nat} {rest : List (Nat × Nat)} (h : IsTurn s 16) (hd : s.dlq = (asid, va) :: rest) :
    exec .launchUnitVisit s = .next (takeBlock s 16 asid va []) := by
  rw [show exec .launchUnitVisit s = execLaunchUnitVisit s from rfl]
  simp only [execLaunchUnitVisit, h.1, h.launchNext_eq, hd]

theorem visit_host {q : Nat} (hq : q < 16) (h : IsTurn s q) : exec .launchUnitVisit s = .next (takeEntry s q) := by
  rw [show exec .launchUnitVisit s = execLaunchUnitVisit s from rfl]
  have h16 : q ≠ 16 := by omega
  simp only [execLaunchUnitVisit, h.1, h.launchNext_eq]

end

/-! ### The entry is taken (R379) -/

/-- What taking a queue's entry leaves. -/
def Took (s : State) (q : Nat) (t : State) : Prop := t.lastVisit = q ∧ t.reading = [] ∧ (q = 16 → t.dlq = s.dlq.tail) ∧
  (q < 16 → t.dlq = s.dlq ∧ t.bar0.lq = s.bar0.lq.set q { lqOf s q with head := (lqOf s q).head + 1#32 })

theorem tookEntry_eq (s : State) (q : Nat) : tookEntry s q = { s with
    lastVisit := q, reading := [], dlq := (tookEntry s q).dlq, bar0 := (tookEntry s q).bar0 } := by
  unfold tookEntry updLq
  dsimp only
  split <;> rfl

theorem tookEntry_took {s u : State} (hb : u.bar0 = s.bar0) (hd : u.dlq = s.dlq) (q : Nat) : Took s q (tookEntry u q) := by
  refine ⟨by rw [tookEntry_eq], by rw [tookEntry_eq], fun hq => ?_, fun hq => ?_⟩
  · simp only [tookEntry, hq, if_true, hd]
  · rw [tookEntry, if_neg (by omega)]
    exact ⟨hd, by simp only [updLq, lqOf, hb]⟩

@[simp] theorem tookEntry_grids (s : State) (q : Nat) : (tookEntry s q).grids = s.grids := by rw [tookEntry_eq]
@[simp] theorem tookEntry_izsil (s : State) (q : Nat) : (tookEntry s q).izsil = s.izsil := by rw [tookEntry_eq]

@[simp] theorem logEvent_logSeq (s : State) (ev : Ev) (data : List Nat) : (logEvent s ev data).izsil.logSeq = s.izsil.logSeq + 1 := rfl

/-! ### A block that fails (R132) -/

/-- Whether a block's words name a completion record. -/
def NamesRecord (ws : List Nat) : Prop := ws.getD 6 0 ≠ 0 ∧ ws.getD 6 0 < 2 ^ 52 ∧ ws.getD 6 0 % 16 = 0

/-- Bytes that a unit can write at once. -/
def Sound (s : State) (as : List Nat) : Prop := as ≠ [] ∧ s.outq = [] ∧ ∀ k ∈ as, poisoned s k = false

/-- How a visit ends with a block that fails: with ERR and ERRC in its completion record, or with an entry of the log where it names none. -/
def BlockFails (s : State) (q asid : Nat) (ws : List Nat) (code : Nat) (t : State) : Prop :=
  (¬ NamesRecord ws → Took s q t ∧ t.mem = s.mem ∧ t.grids = s.grids ∧ s.izsil.logSeq < t.izsil.logSeq) ∧
  ∀ as, NamesRecord ws → Sound s as → uWriteAddrs s ⟨unitWho s asid 0, .launch q, 0#52⟩ (ws.getD 6 0) 16 = .ok as →
    Took s q t ∧ t.mem = s.mem.putAll memDefault (errBytes s as code) ∧ t.grids = s.grids

theorem blockFailed_logs {s : State} {a : Acc} {ws : List Nat} {code : Nat} (h : ¬ NamesRecord ws) :
    blockFailed s a ws code = .ok (logEvent s .launch [code]) := by
  have hc : blkWord ws 0x30 = ws.getD 6 0 := rfl
  unfold blockFailed
  simp only [hc]
  refine if_pos ?_
  simp only [NamesRecord, not_and_or, not_lt, Decidable.not_not] at h
  simp only [Bool.or_eq_true, decide_eq_true_eq, bne_iff_ne]
  tauto

theorem blockFailed_records {s : State} (hw : NoWindows s) {a : Acc} {ws : List Nat} {code : Nat} (h : NamesRecord ws) {as : List Nat} (hs : Sound s as)
    (has : uWriteAddrs s a (ws.getD 6 0) 16 = .ok as) : blockFailed s a ws code = .ok (recordErr s as code) ∧
      WritesOnly (recordErr s as code) s (errBytes s as code) := by
  have hc : blkWord ws 0x30 = ws.getD 6 0 := rfl
  obtain ⟨h0, hlt, hal⟩ := h
  have hlen : 7 ≤ ws.length := by
    by_contra hn
    exact h0 (List.getD_eq_default _ _ (by omega))
  have hofn : (BitVec.ofNat 52 (ws.getD 6 0)).toNat = ws.getD 6 0 := Nat.mod_eq_of_lt hlt
  have hne : BitVec.ofNat 52 (ws.getD 6 0) ≠ 0#52 := fun he => h0 (hofn ▸ congrArg BitVec.toNat he)
  have has6 : 6 ≤ as.length := by rw [uWriteAddrs_length has]; omega
  refine ⟨?_, recordErr_eq hw hs.2.1 has6 hs.2.2 code⟩
  unfold blockFailed withRecord
  simp only [hc]
  rw [if_neg ?_, if_neg hne, hofn, has]
  simp only [Bool.or_eq_true, decide_eq_true_eq, bne_iff_ne]
  omega

section
variable {s : State} (hw : NoWindows s) {z : Izsil} {hs : List Hold} {rd : List (Nat × List Nat)} {q asid : Nat} {ws : List Nat}
include hw

theorem judgeBlock_fails (hz : s.izsil.logSeq ≤ z.logSeq)
    (hh : ∀ d, (hs.find? fun d => d.holder == .launch q) = some d → (s.holds.find? fun d => d.holder == .launch q) = some d)
    {unread : Bool} {code : Nat} (hc : (if unread then some 5 else blockError s ws) = some code) :
    BlockFails s q asid ws code (judgeBlock (s.beside z hs rd) q asid ws unread) := by
  have hcode : (if unread then some 5 else blockError (s.beside z hs rd) ws) = some code := hc
  refine ⟨fun hn => ?_, fun as hr hsound has => ?_⟩
  · simp only [judgeBlock, hcode, blockFailed_logs hn]
    refine ⟨tookEntry_took (by rfl) (by rfl) q, by rw [tookEntry_mem]; rfl, by rw [tookEntry_grids]; rfl, ?_⟩
    rw [tookEntry_izsil, logEvent_logSeq]
    exact Nat.lt_succ_of_le hz
  · have has' := uWriteAddrs_beside (z := z) (hs := hs) (rd := rd) rfl hsound.2.1 hh has
    obtain ⟨hf, hrec⟩ := blockFailed_records (s := s.beside z hs rd) hw (code := code) hr hsound has'
    have hf' : blockFailed (s.beside z hs rd) ⟨unitWho (s.beside z hs rd) asid 0, .launch q, 0#52⟩ ws code =
        .ok (recordErr (s.beside z hs rd) as code) := hf
    simp only [judgeBlock, hcode, hf']
    refine ⟨tookEntry_took (by rw [hrec]; rfl) (by rw [hrec]; rfl) q, by rw [tookEntry_mem, hrec]; rfl, by rw [tookEntry_grids, hrec]; rfl⟩

end

/-! ### A block that passes (R148, R150) -/

theorem mem_firstChunks {c ngang die : Nat} : c ∈ firstChunks ngang die ↔ 64 * c < ngang ∧ c % 8 = die := by
  simp only [firstChunks, List.mem_filter, List.mem_range, cdiv, beq_iff_eq]
  omega

/-- A grid as a block begins it, with its chunks by die. -/
def Begins (s : State) (asid : Nat) (b : Block) (g : Grid) : Prop := g.n = s.fresh ∧ g.asid = asid ∧ g.blk = b ∧ g.next = 0 ∧ g.ended = false ∧
  ∀ d, d < 8 → ∀ c, c ∈ g.chunks.getD d [] ↔ g.blk.spread = true ∧ 64 * c < g.blk.ngang ∧ c % 8 = d

/-- What a visit leaves that has read the last word of a block which passes: a grid, or an entry of the log where the context is dead. -/
def BlockPasses (s : State) (q asid : Nat) (b : Block) (t : State) : Prop := Took s q t ∧ t.mem = s.mem ∧
  (asid ∈ s.deadCtx → t.grids = s.grids ∧ t.izsil.logSeq = s.izsil.logSeq + 1) ∧
  (asid ∉ s.deadCtx → ∃ g, t.grids = s.grids ++ [g] ∧ Begins s asid b g)

theorem newGrid_grids (s : State) (asid : Nat) (b : Block) : ∃ g, (newGrid s asid b).grids = s.grids ++ [g] ∧ Begins s asid b g := by
  refine ⟨_, rfl, rfl, rfl, rfl, rfl, rfl, fun d hd c => ?_⟩
  cases hs : b.spread with
  | false => simp
  | true =>
    have hget : ((List.range 8).map (firstChunks b.ngang)).getD d [] = firstChunks b.ngang d := by
      simp [List.getD_eq_getElem?_getD, List.getElem?_range hd]
    simp only [if_true, hget, mem_firstChunks, true_and]

theorem judgeBlock_passes {s : State} {rd : List (Nat × List Nat)} {q asid : Nat} {ws : List Nat} (h : blockError s ws = none) :
    BlockPasses s q asid (blockOf ws) (judgeBlock (s.beside s.izsil s.holds rd) q asid ws false) := by
  have hcode : (if false = true then some 5 else blockError (s.beside s.izsil s.holds rd) ws) = none := h
  simp only [judgeBlock, hcode]
  split
  · next hdead =>
    refine ⟨tookEntry_took (by rfl) (by rfl) q, by rw [tookEntry_mem]; rfl, fun _ => ⟨by rw [tookEntry_grids]; rfl, ?_⟩, fun hl => ?_⟩
    · rw [tookEntry_izsil, logEvent_logSeq]
      rfl
    · exact absurd (List.contains_iff_mem.1 hdead) hl
  · next hlive =>
    refine ⟨tookEntry_took (by rfl) (by rfl) q, by rw [tookEntry_mem]; rfl, fun hd => absurd (List.contains_iff_mem.2 hd) hlive, fun _ => ?_⟩
    rw [tookEntry_grids]
    exact newGrid_grids _ asid _

/-! ### One word of a block (R132, R148) -/

section
variable {s : State} {q asid va : Nat} {ws : List Nat} (hl : ws.length < 32)
include hl

theorem takeBlock_wait {t : State} (h : uReadNat s ⟨unitWho s asid 0, .launch q, 0#52⟩ (va + 8 * ws.length) 8 = .error (.wait t)) :
    takeBlock s q asid va ws = { t with reading := [(q, va :: ws)] } := by
  simp only [takeBlock, if_neg (Nat.not_le.2 hl), h]

theorem takeBlock_fail (hw : NoWindows s) {t : State} {c : Nat}
    (h : uReadNat s ⟨unitWho s asid 0, .launch q, 0#52⟩ (va + 8 * ws.length) 8 = .error (.fail t c)) :
    BlockFails s q asid ws 5 (takeBlock s q asid va ws) := by
  obtain ⟨data, rfl⟩ := uReadNat_fail rfl h
  simp only [takeBlock, if_neg (Nat.not_le.2 hl), h]
  refine judgeBlock_fails hw (z := s.izsil.append .engine data) (Nat.le_succ _) (hs := (dropHold s (.launch q)).holds) ?_ (code := 5) rfl
  intro d hd
  have hmem := (List.mem_filter.1 (List.mem_of_find?_eq_some hd)).2
  have hheld := List.find?_some hd
  simp_all

theorem takeBlock_more {w : Nat} (h31 : ws.length < 31)
    (h : uReadNat s ⟨unitWho s asid 0, .launch q, 0#52⟩ (va + 8 * ws.length) 8 = .ok (s, w)) :
    takeBlock s q asid va ws = { s with reading := [(q, va :: (ws ++ [w]))] } := by
  simp only [takeBlock, if_neg (Nat.not_le.2 hl), h, if_pos h31]

theorem takeBlock_last {w : Nat} (h31 : ws.length = 31)
    (h : uReadNat s ⟨unitWho s asid 0, .launch q, 0#52⟩ (va + 8 * ws.length) 8 = .ok (s, w)) :
    takeBlock s q asid va ws = judgeBlock (s.beside s.izsil s.holds [(q, va :: (ws ++ [w]))]) q asid (ws ++ [w]) false := by
  simp only [takeBlock, if_neg (Nat.not_le.2 hl), h, if_neg (h31 ▸ Nat.lt_irrefl 31 : ¬ ws.length < 31), State.beside]

end

/-- A visit of the launch unit makes a state of which P holds. -/
def Visits (s : State) (P : State → Prop) : Prop := ∃ t, exec .launchUnitVisit s = .next t ∧ P t

/-- What a visit leaves where a block fails. -/
def FailsBlock (s : State) (q asid : Nat) (ws : List Nat) (code : Nat) : Prop :=
  (¬ NamesRecord ws → Visits s fun t => Took s q t ∧ t.mem = s.mem ∧ t.grids = s.grids ∧ s.izsil.logSeq < t.izsil.logSeq) ∧
  ∀ as, NamesRecord ws → Sound s as → uWriteAddrs s ⟨unitWho s asid 0, .launch q, 0#52⟩ (ws.getD 6 0) 16 = .ok as →
    Visits s fun t => Took s q t ∧ t.mem = s.mem.putAll memDefault (errBytes s as code) ∧ t.grids = s.grids

/-- The visit reads the next word of the block at an address, and judges the block with the last one. -/
def ReadsBlock (s : State) (q asid va : Nat) (ws : List Nat) : Prop :=
  let read := uReadNat s ⟨unitWho s asid 0, .launch q, 0#52⟩ (va + 8 * ws.length) 8
  ws.length < 32 → (∀ t, read = .error (.wait t) → exec .launchUnitVisit s = .next { t with reading := [(q, va :: ws)] }) ∧
    (∀ t c, read = .error (.fail t c) → FailsBlock s q asid ws 5) ∧
    ∀ w, read = .ok (s, w) → (ws.length < 31 → exec .launchUnitVisit s = .next { s with reading := [(q, va :: (ws ++ [w]))] }) ∧
      (ws.length = 31 → (∀ code, blockError s (ws ++ [w]) = some code → FailsBlock s q asid (ws ++ [w]) code) ∧
        (blockError s (ws ++ [w]) = none → Visits s (BlockPasses s q asid (blockOf (ws ++ [w])))))

theorem BlockFails.visits {s t : State} (he : exec .launchUnitVisit s = .next t) {q asid : Nat} {ws : List Nat} {code : Nat}
    (h : BlockFails s q asid ws code t) : FailsBlock s q asid ws code :=
  ⟨fun hn => ⟨t, he, h.1 hn⟩, fun as hr hs ha => ⟨t, he, h.2 as hr hs ha⟩⟩

theorem readsBlock {s : State} (hw : NoWindows s) {q asid va : Nat} {ws : List Nat} (he : exec .launchUnitVisit s = .next (takeBlock s q asid va ws)) :
    ReadsBlock s q asid va ws := by
  intro hl
  refine ⟨fun t h => by rw [he, takeBlock_wait hl h], fun t c h => (takeBlock_fail hl hw h).visits he, fun w h => ⟨fun h31 => by
    rw [he, takeBlock_more hl h31 h], fun h31 => ?_⟩⟩
  rw [takeBlock_last hl h31 h] at he
  exact ⟨fun code hc => (judgeBlock_fails hw (Nat.le_refl _) (fun _ h => h) (unread := false) hc).visits he, fun hb => ⟨_, he, judgeBlock_passes hb⟩⟩

/-! ### The entry of a host queue (R379) -/

section
variable {s : State} {q : Nat}

/-- Where the next entry of a host queue stands. -/
def entryAt (s : State) (q : Nat) : Nat :=
  ((lqOf s q).base.toNat + 8 * ((lqOf s q).head.toNat % 2 ^ (lqOf s q).lsz.toNat)) % 2 ^ 52

/-- A unit's identity for the launch queue. -/
def launchAcc (s : State) (q : Nat) : Acc := ⟨unitWho s (lqOf s q).asid.toNat 0, .launch q, 0#52⟩

/-- An entry that is taken and logged. -/
def Skips (s : State) (q : Nat) (t : State) : Prop :=
  Took s q t ∧ t.izsil.logSeq = s.izsil.logSeq + 1 ∧ t.grids = s.grids ∧ t.mem = s.mem

theorem tookEntry_skips (data : List Nat) : Skips s q (tookEntry (logEvent s .launch data) q) :=
  ⟨tookEntry_took (logEvent_bar0 ..) (logEvent_dlq ..) q, by rw [tookEntry_izsil, logEvent_logSeq], by rw [tookEntry_grids, logEvent_grids],
    by rw [tookEntry_mem, logEvent_mem]⟩

theorem takeEntry_invalid (h : ctxValid s (lqOf s q).asid.toNat = false) : Skips s q (takeEntry s q) := by
  simp only [takeEntry, h, Bool.not_false, if_true]
  exact tookEntry_skips _

theorem stopQueue_lqOf (hn : q < s.bar0.lq.length) : lqOf (stopQueue s q) q = { lqOf s q with en := false, err := true } := by
  show (s.bar0.lq.set q _).getD q LaunchQ.reset = _
  simp [List.getD_eq_getElem?_getD, hn]

theorem takeEntry_fail (hn : q < s.bar0.lq.length) (hv : ctxValid s (lqOf s q).asid.toNat = true) {t : State} {c : Nat}
    (h : uReadNat s (launchAcc s q) (entryAt s q) 8 = .error (.fail t c)) : (lqOf (takeEntry s q) q).en = false ∧
      (lqOf (takeEntry s q) q).err = true ∧ (lqOf (takeEntry s q) q).head = (lqOf s q).head ∧ (takeEntry s q).grids = s.grids ∧
      (takeEntry s q).mem = s.mem := by
  obtain ⟨data, rfl⟩ := uReadNat_fail rfl h
  unfold launchAcc entryAt at h
  simp only [takeEntry, hv, Bool.not_true, Bool.false_eq_true, if_false, h]
  refine ⟨?_, ?_, ?_, rfl, rfl⟩ <;> rw [stopQueue_lqOf (by exact hn)]
  rfl

theorem takeEntry_bad (hv : ctxValid s (lqOf s q).asid.toNat = true) {v : Nat} (h : uReadNat s (launchAcc s q) (entryAt s q) 8 = .ok (s, v))
    (hb : 2 ^ 52 ≤ v ∨ v % 256 ≠ 0) : Skips s q (takeEntry s q) := by
  unfold launchAcc entryAt at h
  simp only [takeEntry, hv, Bool.not_true, Bool.false_eq_true, if_false, h]
  split
  · exact tookEntry_skips _
  · next hlt =>
    rw [if_pos (by simpa using hb.resolve_left hlt)]
    exact tookEntry_skips _

theorem takeEntry_good (hv : ctxValid s (lqOf s q).asid.toNat = true) {v : Nat} (h : uReadNat s (launchAcc s q) (entryAt s q) 8 = .ok (s, v))
    (hlt : v < 2 ^ 52) (hal : v % 256 = 0) : takeEntry s q = takeBlock s q (lqOf s q).asid.toNat v [] := by
  unfold launchAcc entryAt at h
  simp only [takeEntry, hv, Bool.not_true, Bool.false_eq_true, if_false, h, if_neg (Nat.not_le.2 hlt), hal, bne_self_eq_false]

end

end Sys2Proof.Machine
end
section
/-! LAW. The distributors (section 08 (R149-R152)): the gangs that are handed out, the chunks that are stolen, and the order in which gangs wait. -/

namespace Sys2Proof.Machine

/-! ### The die with the most free slots (R149) -/

/-- The lowest of the first numbers at which a function is greatest. -/
theorem foldl_range_best (f : Nat → Nat) (n : Nat) : let b := (List.range (n + 1)).foldl (fun b d => if f b < f d then d else b) 0
    b ≤ n ∧ ∀ k ≤ n, f k < f b ∨ f k = f b ∧ b ≤ k := by
  induction n with
  | zero => simp
  | succ n ih =>
    obtain ⟨hle, hbest⟩ := ih
    rw [List.range_succ, List.foldl_append]
    generalize (List.range (n + 1)).foldl _ 0 = b at hle hbest
    simp only [List.foldl_cons, List.foldl_nil]
    split
    · next hlt =>
      refine ⟨Nat.le_refl _, fun k hk => ?_⟩
      obtain rfl | hk : k = n + 1 ∨ k ≤ n := by omega
      · exact .inr ⟨rfl, Nat.le_refl _⟩
      · have := hbest k hk
        omega
    · next hge =>
      refine ⟨by omega, fun k hk => ?_⟩
      obtain rfl | hk : k = n + 1 ∨ k ≤ n := by omega
      · omega
      · exact hbest k hk

/-- A die of most free slots, the lowest on ties. -/
def Freest (s : State) (d : Nat) : Prop := d < 8 ∧ ∀ k, k < 8 → dieFree s k < dieFree s d ∨ dieFree s k = dieFree s d ∧ d ≤ k

theorem freestDie_freest (s : State) : Freest s (freestDie s) := by
  obtain ⟨hle, hbest⟩ := foldl_range_best (dieFree s) 7
  exact ⟨Nat.lt_succ_of_le hle, fun k hk => hbest k (Nat.le_of_lt_succ hk)⟩

/-! ### The next gang is handed out (R149) -/

section
variable {s : State} {n : Nat} {g : Grid}

theorem find?_grid_eq (h : s.grid? n = some g) : g.n = n := by simpa using List.find?_some h

/-- How the map's byte of the next gang is read. -/
def mapAcc (s : State) (n : Nat) (g : Grid) : Acc := ⟨unitWho s g.asid 0, .map n, 0#52⟩
def mapByte (s : State) (n : Nat) (g : Grid) : U (State × Nat) := uReadNat s (mapAcc s n g) ((g.blk.map.toNat + g.next) % 2 ^ 52) 1

/-- The grid's next gang waits at a die. -/
def Handed (s : State) (n : Nat) (g : Grid) (t : State) (d : Nat) : Prop :=
  t.waitGangs = s.waitGangs ++ [⟨d, n, g.next, none, g.blk.prio, s.fresh, 0⟩] ∧
    t.grids = updWhere (fun h => h.n == n) (fun h => { h with next := h.next + 1 }) s.grids ∧ t.gangs = s.gangs

variable (hg : s.grid? n = some g) (hs : g.blk.spread = false) (hp : g.pending = true)
include hg hs hp

theorem handout_named {b : Nat} (h : mapByte s n g = .ok (s, b)) (hb : b < 8) :
    ∃ t, exec (.gangHandout n) s = .next t ∧ Handed s n g t b ∧ t.mem = s.mem := by
  unfold mapByte mapAcc at h
  rw [show exec (.gangHandout n) s = execGangHandout n s from rfl]
  simp only [execGangHandout, hg, hs, hp, h, hb, Bool.not_true, Bool.or_self, Bool.false_eq_true, if_false, decide_true,
    Bool.true_or, if_true]
  exact ⟨_, rfl, ⟨rfl, rfl, rfl⟩, rfl⟩

theorem handout_free (h : mapByte s n g = .ok (s, 255)) :
    ∃ t d, exec (.gangHandout n) s = .next t ∧ Freest s d ∧ Handed s n g t d ∧ t.mem = s.mem := by
  unfold mapByte mapAcc at h
  rw [show exec (.gangHandout n) s = execGangHandout n s from rfl]
  simp only [execGangHandout, hg, hs, hp, h, Bool.not_true, Bool.or_self, Bool.false_eq_true, if_false]
  exact ⟨_, _, rfl, freestDie_freest s, ⟨rfl, rfl, rfl⟩, rfl⟩

variable (hw : NoWindows s) (hc : g.blk.cmpla ≠ 0#52)
include hw hc

theorem handout_other {b : Nat} (h : mapByte s n g = .ok (s, b)) (hlo : 8 ≤ b) (hhi : b < 255) {as : List Nat} (hsound : Sound s as)
    (has : uWriteAddrs s (mapAcc s n g) g.blk.cmpla.toNat 16 = .ok as) : ∃ t d, exec (.gangHandout n) s = .next t ∧ Freest s d ∧
      Handed s n g t d ∧ t.mem = s.mem.putAll memDefault (errBytes s as 1) := by
  have hrec : WritesOnly (recordErr s as 1) s (errBytes s as 1) := recordErr_eq hw hsound.2.1 (by rw [uWriteAddrs_length has]; omega) hsound.2.2 1
  unfold mapByte at h
  unfold mapAcc at h has
  have h8 : ¬ b < 8 := by omega
  have h255 : b ≠ 255 := by omega
  rw [show exec (.gangHandout n) s = execGangHandout n s from rfl]
  simp only [execGangHandout, hg, hs, hp, h, h8, h255, Bool.not_true, Bool.or_self, Bool.false_eq_true, if_false, decide_false, withRecord, hc, has]
  refine ⟨_, freestDie (recordErr s as 1), rfl, ?_, ?_⟩
  · rw [hrec]
    exact freestDie_freest s
  · generalize freestDie (recordErr s as 1) = d
    rw [hrec]
    exact ⟨⟨rfl, rfl, rfl⟩, rfl⟩

theorem handout_unreadable {t : State} {c : Nat} (h : mapByte s n g = .error (.fail t c)) {as : List Nat} (hsound : Sound s as)
    (has : uWriteAddrs t (mapAcc s n g) g.blk.cmpla.toNat 16 = .ok as) : ∃ u, exec (.gangHandout n) s = .next u ∧
      u.mem = s.mem.putAll memDefault (errBytes s as 5) ∧ u.waitGangs = s.waitGangs ∧ u.gangs = s.gangs ∧
      ∀ h ∈ u.grids, h.n = n → h.ended = true := by
  obtain ⟨data, rfl⟩ := uReadNat_fail rfl h
  have hrec : WritesOnly (recordErr (logEvent (dropHold s (.map n)) .engine data) as 5) (logEvent (dropHold s (.map n)) .engine data) (errBytes s as 5) :=
    recordErr_eq (s := logEvent (dropHold s (.map n)) .engine data) hw hsound.2.1 (by rw [uWriteAddrs_length has]; omega) hsound.2.2 5
  unfold mapByte at h
  unfold mapAcc at h has
  rw [show exec (.gangHandout n) s = execGangHandout n s from rfl]
  simp only [execGangHandout, hg, hs, hp, h, Bool.not_true, Bool.or_self, Bool.false_eq_true, if_false, withRecord, hc, has]
  rw [hrec]
  refine ⟨_, rfl, rfl, rfl, rfl, fun k hk hkn => ?_⟩
  obtain ⟨k', -, rfl⟩ := List.mem_map.1 (List.mem_filter.1 hk).1
  split at hkn <;> simp_all

end

/-! ### A rising list (R150) -/

theorem insNat_eq_concat {m : Nat} {l : List Nat} (h : ∀ a ∈ l, a < m) : insNat m l = l ++ [m] := by
  induction l with
  | nil => rfl
  | cons a l ih =>
    have ha : a < m := h a (by simp)
    rw [insNat, if_neg (by omega), if_neg (by omega), ih fun b hb => h b (by simp [hb]), List.cons_append]

theorem sortNat_eq_self {l : List Nat} (h : l.Pairwise (· < ·)) : sortNat l = l := by
  induction l using List.reverseRecOn with
  | nil => rfl
  | append_singleton l a ih =>
    obtain ⟨hl, -, ha⟩ := List.pairwise_append.1 h
    have hlast : ∀ b ∈ l, b < a := fun b hb => ha b hb a (by simp)
    have := ih hl
    unfold sortNat at this ⊢
    rw [List.foldl_append, this]
    exact insNat_eq_concat hlast

/-! ### A dry distributor steals (R151) -/

/-- What a steal makes of a grid. -/
def Grid.steal (g : Grid) (fresh die : Nat) (theirs : List Nat) : Grid :=
  let vic := g.victim.getD die 0
  let keep := theirs.length - (theirs.length + 1) / 2
  let mine := theirs.drop keep
  { g with
    came := g.came.filter (fun p => !mine.contains p.1) ++ mine.map fun c => (c, fresh)
    chunks := (g.chunks.set vic (theirs.take keep)).set die mine
    victim := g.victim.set die (if (vic + 1) % 8 = die then (vic + 2) % 8 else (vic + 1) % 8)
    dry := g.dry.set die (if theirs.isEmpty then g.dry.getD die 0 + 1 else 0) }

theorem getD_set_same {α : Type} {l : List α} {n : Nat} (h : n < l.length) (v d : α) : (l.set n v).getD n d = v := by
  simp [List.getD_eq_getElem?_getD, h]

theorem getD_set_other {α : Type} {l : List α} {n m : Nat} (h : n ≠ m) (v d : α) : (l.set n v).getD m d = l.getD m d := by
  simp [List.getD_eq_getElem?_getD, List.getElem?_set_ne h]

theorem find?_map_pair {c n : Nat} {l : List Nat} (h : c ∈ l) : (l.map fun c => (c, n)).find? (fun p => p.1 == c) = some (c, n) := by
  induction l with
  | nil => cases h
  | cons a r ih =>
    by_cases ha : a = c
    · simp [ha]
    · rw [List.map_cons, List.find?_cons_of_neg (by simpa using ha), ih ((List.mem_cons.1 h).resolve_left (Ne.symm ha))]

theorem order_of_came {g : Grid} {c n : Nat} {l : List (Nat × Nat)} {mine : List Nat}
    (h : g.came = l.filter (fun p => !mine.contains p.1) ++ mine.map fun c => (c, n)) (hc : c ∈ mine) : g.order c = n := by
  have hold : (l.filter fun p => !mine.contains p.1).find? (fun p => p.1 == c) = none := by
    refine List.find?_eq_none.2 fun p hp => ?_
    have hnot := (List.mem_filter.1 hp).2
    rintro heq
    rw [beq_iff_eq.1 heq] at hnot
    simp [hc] at hnot
  simp only [Grid.order, h, List.find?_append, hold, find?_map_pair hc, Option.none_or, Option.map_some, Option.getD_some]

theorem grid?_updGrid {s : State} {n : Nat} {f : Grid → Grid} (hf : ∀ g, (f g).n = g.n) : (s.updGrid n f).grid? n = (s.grid? n).map f :=
  find?_updWhere _ _ _ fun g hg => by rw [hf]; exact hg

theorem steal_kept {s : State} {n die : Nat} {g : Grid} (hg : s.grid? n = some g) (h : g.ownFirst s (g.victim.getD die 0) = true) :
    exec (.stealMessage n die) s = .next s := by
  rw [show exec (.stealMessage n die) s = execStealMessage n die s from rfl]
  simp only [execStealMessage, hg, h, Bool.or_true, if_true]

section
variable {s : State} {n die : Nat} {g : Grid} (hg : s.grid? n = some g) (hs : g.blk.spread = true) (hempty : g.chunks.getD die [] = [])
  (hwait : gridWaits s n (some die) = false) (hdry : g.dry.getD die 0 < 7) (hfit : (coreFor s die g.blk).isSome = true)
include hg hs hempty hwait hdry hfit

theorem steal_eq (h : g.ownFirst s (g.victim.getD die 0) = false) : ∃ t, exec (.stealMessage n die) s = .next t ∧
    t.grid? n = some (g.steal s.fresh die (sortNat (g.chunks.getD (g.victim.getD die 0) []))) ∧ t.gangs = s.gangs ∧ t.mem = s.mem := by
  rw [show exec (.stealMessage n die) s = execStealMessage n die s from rfl]
  have hnone : (coreFor s die g.blk).isNone = false := by simpa using hfit
  simp only [execStealMessage, hg, hs, hempty, hwait, hnone, h, Nat.not_le.2 hdry]
  refine ⟨_, rfl, ?_, rfl, rfl⟩
  refine (grid?_updGrid fun _ => ?_).trans ?_
  · rfl
  · show (s.grid? n).map _ = _
    rw [hg]
    rfl

end

/-- The upper half of the victim's chunks is the thief's. -/
theorem steal_takes {s : State} {n die : Nat} {g : Grid} (hg : s.grid? n = some g) (hs : g.blk.spread = true) (hempty : g.chunks.getD die [] = [])
    (hwait : gridWaits s n (some die) = false) (hdry : g.dry.getD die 0 < 7) (hfit : (coreFor s die g.blk).isSome = true)
    (hown : g.ownFirst s (g.victim.getD die 0) = false) (hdie : die < 8) (hc : g.chunks.length = 8) (hv : g.victim.length = 8)
    (hd : g.dry.length = 8) {vic : Nat} (hvic : g.victim.getD die 0 = vic) (hlt : vic < 8) (hne : vic ≠ die) {theirs : List Nat}
    (htheirs : g.chunks.getD vic [] = theirs) (hrise : theirs.Pairwise (· < ·)) :
    ∃ (t : State) (h : Grid), exec (.stealMessage n die) s = .next t ∧ t.grid? n = some h ∧ h.chunks.getD die [] = theirs.drop (theirs.length / 2) ∧
      h.chunks.getD vic [] = theirs.take (theirs.length / 2) ∧ (∀ d, d ≠ die → d ≠ vic → h.chunks.getD d [] = g.chunks.getD d []) ∧
      h.victim.getD die 0 = (if (vic + 1) % 8 = die then (vic + 2) % 8 else (vic + 1) % 8) ∧
      h.dry.getD die 0 = (if theirs = [] then g.dry.getD die 0 + 1 else 0) ∧ (∀ c ∈ theirs.drop (theirs.length / 2), h.order c = s.fresh) ∧
      t.gangs = s.gangs ∧ t.mem = s.mem := by
  obtain ⟨t, he, ht, hgangs, hmem⟩ := steal_eq hg hs hempty hwait hdry hfit hown
  have hhalf : theirs.length - (theirs.length + 1) / 2 = theirs.length / 2 := by omega
  rw [hvic, htheirs, sortNat_eq_self hrise] at ht
  refine ⟨t, _, he, ht, ?_, ?_, fun d h1 h2 => ?_, ?_, ?_, fun c hmine => ?_, hgangs, hmem⟩ <;>
    simp only [Grid.steal, hvic, hhalf]
  · rw [getD_set_same (by simpa [hc] using hdie)]
  · rw [getD_set_other (Ne.symm hne), getD_set_same (by omega)]
  · rw [getD_set_other (Ne.symm h1), getD_set_other (Ne.symm h2)]
  · rw [getD_set_same (by omega)]
  · rw [getD_set_same (by omega)]
    simp only [List.isEmpty_iff]
  · exact order_of_came rfl hmine

/-! ### The order in which gangs wait (R152) -/

/-- A gang comes before another: by priority, a returning one first, then by what reached the distributor first. -/
def WaitsBefore (a b : WaitGang) : Prop := b.prio < a.prio ∨ b.prio = a.prio ∧ (a.frame.isSome = true ∧ b.frame = none ∨
  a.frame.isSome = b.frame.isSome ∧ (a.order < b.order ∨ a.order = b.order ∧ a.idx ≤ b.idx))

theorem before_iff {a b : WaitGang} : a.before b = true ↔ WaitsBefore a b := by
  simp only [WaitGang.before, WaitsBefore, Bool.or_eq_true, Bool.and_eq_true, decide_eq_true_eq, beq_iff_eq, Option.isNone_iff_eq_none]
  tauto

theorem waitsBefore_total (a b : WaitGang) : WaitsBefore a b ∨ WaitsBefore b a := by
  unfold WaitsBefore
  cases a.frame <;> cases b.frame <;> simp <;> omega

theorem WaitsBefore.trans {a b c : WaitGang} (h : WaitsBefore a b) (h' : WaitsBefore b c) : WaitsBefore a c := by
  unfold WaitsBefore at *
  generalize a.frame = fa, b.frame = fb, c.frame = fc at *
  cases fa <;> cases fb <;> cases fc <;> simp at h h' ⊢ <;> omega

theorem mem_insWait {u w : WaitGang} {l : List WaitGang} (h : u ∈ insWait w l) : u = w ∨ u ∈ l := by
  induction l with
  | nil => exact .inl (List.mem_singleton.1 h)
  | cons v r ih =>
    unfold insWait at h
    split at h
    · exact List.mem_cons.1 h
    · obtain rfl | h := List.mem_cons.1 h
      · exact .inr (by simp)
      · exact (ih h).imp_right (List.mem_cons_of_mem v)

theorem insWait_pairwise {w : WaitGang} {l : List WaitGang} (h : l.Pairwise WaitsBefore) : (insWait w l).Pairwise WaitsBefore := by
  induction l with
  | nil => simp [insWait]
  | cons v r ih =>
    obtain ⟨hv, hr⟩ := List.pairwise_cons.1 h
    unfold insWait
    split
    · next hb =>
      have hwv := before_iff.1 hb
      exact List.pairwise_cons.2 ⟨fun u hu => (List.mem_cons.1 hu).elim (fun he => he ▸ hwv) fun hu => hwv.trans (hv u hu), h⟩
    · next hb =>
      have hvw := (waitsBefore_total v w).resolve_right fun h => hb (before_iff.2 h)
      exact List.pairwise_cons.2 ⟨fun u hu => (mem_insWait hu).elim (fun he => he ▸ hvw) (hv u), ih hr⟩

theorem waiting_pairwise (s : State) (die : Nat) : (waiting s die).Pairwise WaitsBefore :=
  foldl_keeps (List.Pairwise WaitsBefore) _ _ _ (fun _ _ _ h => insWait_pairwise h) .nil

end Sys2Proof.Machine
end
section
/-! LAW. The placement of a new gang (section 08 (R128, R152, R153), section 04 (R46), section 08 (R133)): which gang a distributor places, on which
core, what it is granted there, and its agents as they start. -/

namespace Sys2Proof.Machine

/-! ### The gang that is placed, and its core (R152, R153) -/

theorem placeNext_some {s : State} {die core : Nat} {w : WaitGang} {f : Fit} (h : placeNext s die = some (w, core, f)) :
    (∃ p r, waiting s die = p ++ w :: r ∧ ∀ w' ∈ p, waitBlock s w' = none ∨ heldBack (waiting s die) w' = true ∨
      ∃ b, waitBlock s w' = some b ∧ coreFor s die b = none) ∧ ∃ b, waitBlock s w = some b ∧ coreFor s die b = some (core, f) := by
  obtain ⟨p, v, r, hws, hv, hp⟩ := List.findSome?_eq_some_iff.1 h
  cases hb : waitBlock s v with
  | none => simp [hb] at hv
  | some b =>
    simp only [hb] at hv
    split at hv
    · cases hv
    · obtain ⟨⟨c, f'⟩, hc, hv⟩ := Option.map_eq_some_iff.1 hv
      cases hv
      refine ⟨⟨p, r, hws, fun w' hw' => ?_⟩, b, hb, hc⟩
      have hnone := hp w' hw'
      cases hb' : waitBlock s w' with
      | none => exact .inl rfl
      | some b' =>
        simp only [hb'] at hnone
        split at hnone
        · next hh => exact .inr (.inl hh)
        · exact .inr (.inr ⟨b', rfl, Option.map_eq_none_iff.1 hnone⟩)

section
variable {α : Type} (key value : α → Nat)

/-- An element takes the place of another one only with a greater value. -/
def better (best : Option α) (p : α) : Option α := match best with
  | none => some p
  | some q => if value q < value p then some p else some q

/-- The first element of greatest value. -/
def firstBest (l : List α) : Option α := l.foldl (better value) none

theorem firstBest_concat (l : List α) (a : α) : firstBest value (l ++ [a]) = better value (firstBest value l) a := by
  simp only [firstBest, List.foldl_append, List.foldl_cons, List.foldl_nil]

theorem firstBest_eq_none {l : List α} : firstBest value l = none ↔ l = [] := by
  induction l using List.reverseRecOn with
  | nil => simp [firstBest]
  | append_singleton l a ih =>
    rw [firstBest_concat]
    cases firstBest value l with
    | none => simp [better]
    | some q => simp only [better]; split <;> simp

theorem firstBest_some {l : List α} (hl : l.Pairwise fun a b => key a < key b) {p : α} (h : firstBest value l = some p) :
    p ∈ l ∧ ∀ q ∈ l, value q < value p ∨ value q = value p ∧ key p ≤ key q := by
  induction l using List.reverseRecOn generalizing p with
  | nil => cases h
  | append_singleton l a ih =>
    obtain ⟨hl, -, ha⟩ := List.pairwise_append.1 hl
    rw [firstBest_concat] at h
    cases hb : firstBest value l with
    | none =>
      rw [hb] at h
      cases h
      simp [(firstBest_eq_none value).1 hb]
    | some q =>
      obtain ⟨hq, hbest⟩ := ih hl hb
      have hqa : key q < key a := ha q hq a (by simp)
      simp only [hb, better] at h
      split at h
      · next hlt =>
        cases h
        refine ⟨by simp, fun b hb => ?_⟩
        obtain hb | hb := List.mem_append.1 hb
        · have := hbest b hb
          omega
        · rw [List.mem_singleton.1 hb]
          omega
      · next hge =>
        cases h
        refine ⟨List.mem_append_left _ hq, fun b hb => ?_⟩
        obtain hb | hb := List.mem_append.1 hb
        · exact hbest b hb
        · rw [List.mem_singleton.1 hb]
          omega

end

/-- The cores of a die that a block's gang fits, with what it would be granted. -/
def coreFits (s : State) (die : Nat) (b : Block) : List (Nat × Fit) :=
  ((List.range Config.coresPerDie).filter fun c => !s.fenced.contains (32 * die + c)).filterMap fun c =>
    (fitWith (coreGangs s die c) b).map fun f => (c, f)

theorem coreFor_eq_firstBest (s : State) (die : Nat) (b : Block) :
    coreFor s die b = firstBest (fun p => freeSlots s die p.1) (coreFits s die b) := by
  unfold coreFor firstBest coreFits
  dsimp only
  congr 1
  funext best p
  cases best <;> rfl


theorem mem_coreFits {s : State} {die c : Nat} {b : Block} {f : Fit} :
    (c, f) ∈ coreFits s die b ↔ c < 32 ∧ 32 * die + c ∉ s.fenced ∧ fitWith (coreGangs s die c) b = some f := by
  simp only [coreFits, List.mem_filterMap, List.mem_filter, List.mem_range, Option.map_eq_some_iff, Prod.mk.injEq, Config.coresPerDie]
  simp [and_assoc]

theorem coreFits_rising (s : State) (die : Nat) (b : Block) : (coreFits s die b).Pairwise fun p q => p.1 < q.1 := by
  refine List.Pairwise.filterMap _ (fun c c' hlt p hp q hq => ?_) (List.pairwise_lt_range.filter _)
  obtain ⟨f, -, rfl⟩ := Option.map_eq_some_iff.1 hp
  obtain ⟨f', -, rfl⟩ := Option.map_eq_some_iff.1 hq
  exact hlt

theorem coreFor_some {s : State} {die core : Nat} {b : Block} {f : Fit} (h : coreFor s die b = some (core, f)) :
    core < 32 ∧ 32 * die + core ∉ s.fenced ∧ fitWith (coreGangs s die core) b = some f ∧
      ∀ c, c < 32 → 32 * die + c ∉ s.fenced → fitWith (coreGangs s die c) b ≠ none →
        freeSlots s die c < freeSlots s die core ∨ freeSlots s die c = freeSlots s die core ∧ core ≤ c := by
  obtain ⟨hmem, hbest⟩ := firstBest_some (fun p => p.1) _ (coreFits_rising s die b) (coreFor_eq_firstBest s die b ▸ h)
  obtain ⟨hlt, hserved, hfit⟩ := mem_coreFits.1 hmem
  refine ⟨hlt, hserved, hfit, fun c hc hsc hfc => ?_⟩
  obtain ⟨f', hf'⟩ := Option.ne_none_iff_exists'.1 hfc
  exact hbest (c, f') (mem_coreFits.2 ⟨hc, hsc, hf'⟩)

/-! ### What a placement grants (R128) -/

theorem osRun_free {gs : List Gang} {n o : Nat} (h : osRun gs n = some o) (hn : n ≠ 0) :
    o + n ≤ 8192 ∧ ∀ g ∈ gs, g.osLines = 0 ∨ g.osFirst + g.osLines ≤ o ∨ o + n ≤ g.osFirst := by
  simp only [osRun, if_neg hn] at h
  have hfree := List.find?_some h
  simp only [Bool.and_eq_true, decide_eq_true_eq, Bool.not_eq_true', List.any_eq_false, bne_iff_ne] at hfree
  obtain ⟨hin, hapart⟩ := hfree
  refine ⟨hin, fun g hg => ?_⟩
  have := hapart g hg
  omega

/-- Numbers below a bound that no gang of a core holds. -/
def Unheld (gs : List Gang) (nos : Gang → List Nat) (bound : Nat) (l : List Nat) : Prop := ∀ k ∈ l, k < bound ∧ ∀ g ∈ gs, k ∉ nos g

theorem unheld_take (gs : List Gang) (nos : Gang → List Nat) (bound n : Nat) :
    Unheld gs nos bound (((List.range bound).filter fun k => !gs.any fun g => (nos g).contains k).take n) := by
  intro k hk
  have := List.mem_filter.1 (List.mem_of_mem_take hk)
  simpa using this

theorem fitWith_some {gs : List Gang} {b : Block} {f : Fit} (h : fitWith gs b = some f) :
    (b.osl ≠ 0 → f.osFirst + b.osl ≤ 8192 ∧ ∀ g ∈ gs, g.osLines = 0 ∨ g.osFirst + g.osLines ≤ f.osFirst ∨ f.osFirst + b.osl ≤ g.osFirst) ∧
      f.accs.length = b.nacc ∧ f.tiles.length = b.ntile ∧ Unheld gs Gang.accNos 16 f.accs ∧ Unheld gs Gang.tileNos 64 f.tiles := by
  unfold fitWith at h
  dsimp only at h
  split at h
  · cases h
  · next hroom =>
    simp only [Bool.or_eq_true, decide_eq_true_eq, not_or, Nat.not_lt] at hroom
    obtain ⟨⟨⟨-, haccs⟩, htiles⟩, -⟩ := hroom
    split at h
    · next o q ho hq =>
      cases h
      exact ⟨osRun_free ho, List.length_take_of_le haccs, List.length_take_of_le htiles, unheld_take _ _ _ _, unheld_take _ _ _ _⟩
    · cases h

/-! ### The agents and hands of a new gang (R46, R133) -/

theorem getLsbD_foldl_or (l : List Nat) (h : Hand) {r : Nat} (hr : r < 1024) :
    (l.foldl (fun h r => h ||| (1#1024 <<< r)) h).getLsbD r = (h.getLsbD r || decide (r ∈ l)) := by
  induction l generalizing h with
  | nil => simp
  | cons a l ih =>
    have hbit : (1#1024 <<< a).getLsbD r = decide (r = a) := by
      simp only [BitVec.getLsbD_shiftLeft, BitVec.getLsbD_one, hr, decide_true, Bool.true_and]
      by_cases h : r < a
      · simp [h]; omega
      · simp [h]; omega
    rw [List.foldl_cons, ih, BitVec.getLsbD_or, hbit]
    simp [Bool.or_assoc]

theorem getLsbD_handOf (l : List Nat) {r : Nat} (hr : r < 1024) : (handOf l).getLsbD r = decide (r ∈ l) := by
  rw [handOf, getLsbD_foldl_or l _ hr]
  simp

theorem newWg_ranks (e : RoleEnt) {r : Nat} (hr : r < 1024) :
    ((newWg e).hands.getD 0 0#1024).getLsbD r = decide (r < (newWg e).warps * (newWg e).g) := by
  rw [newWg, List.getD_cons_zero, getLsbD_handOf _ hr]
  simp

theorem newWarps_length (b : Block) (idx : Nat) (l : List (Nat × RoleEnt)) (id : Nat) :
    (newWarps b idx l id).length = (l.map fun p => p.2.warps).sum := by
  induction l generalizing id with
  | nil => rfl
  | cons p l ih => simp [newWarps, ih]

theorem mem_newWarps {b : Block} {idx : Nat} {l : List (Nat × RoleEnt)} {id : Nat} {a : Agent} (h : a ∈ newWarps b idx l id) :
    ∃ p ∈ l, ∃ id' place, place < p.2.warps ∧ a = newWarp b idx p.1 p.2 id' place := by
  induction l generalizing id with
  | nil => cases h
  | cons p l ih =>
    obtain h | h := List.mem_append.1 h
    · obtain ⟨place, hplace, rfl⟩ := List.mem_map.1 h
      exact ⟨p, by simp, _, place, List.mem_range.1 hplace, rfl⟩
    · obtain ⟨q, hq, hrest⟩ := ih h
      exact ⟨q, List.mem_cons_of_mem _ hq, hrest⟩

theorem mem_wgRoles {b : Block} {r : RoleEnt} (h : r ∈ wgRoles b) : r ∈ b.roles := by
  obtain ⟨r', hr', h⟩ := List.mem_flatMap.1 h
  rw [(List.mem_replicate.1 h).2]
  exact hr'

theorem enumFrom_snd {α : Type} (n : Nat) (l : List α) : (enumFrom n l).map (fun p => p.2) = l := by
  induction l generalizing n with
  | nil => rfl
  | cons a l ih => simp [enumFrom, ih]

theorem wgRoles_warps (b : Block) : ((wgRoles b).map fun r => r.warps).sum = (b.roles.map fun r => (r.grp + 1) * r.warps).sum := by
  simp only [wgRoles, List.map_flatMap, List.map_replicate]
  induction b.roles with
  | nil => rfl
  | cons r l ih => simp [ih]

end Sys2Proof.Machine
end
section
/-! LAW. GANG_PLACE for a new gang (section 08 (R133, R152, R153)): the gang that joins the core's, and those that wait on. -/

namespace Sys2Proof.Machine

/-! ### A warp as it starts (R46, R133) -/

/-- A warp at its entry, with the registers that a start gives it. -/
def Starts (b : Block) (idx : Nat) (a : Agent) (r : RoleEnt) : Prop :=
  a.pc = b.code + BitVec.ofNat 52 r.entry ∧ a.place < r.warps ∧ a.pk = r.g ∧ a.depth = 0 ∧
    a.isPack = false ∧ a.st = .runnable ∧ a.v = [] ∧ a.rs 1 = b.argp.setWidth 64 ∧ (∀ k, k ≠ 1 → a.rs k = 0#64) ∧ a.k = 1#8 ∧
    a.i = 0#32 ∧ a.fflags = 0#5 ∧ a.trap = 0#64 ∧ a.rcnt = 0 ∧ a.outs = [] ∧ (∀ k, k < 14 → a.b.look 0#256 k = 0#256) ∧
    a.b.look 0#256 14 = argRecord b ∧ a.b.look 0#256 15 = tlRecord b idx a.wg

theorem newWarp_starts (b : Block) (idx wg : Nat) (r : RoleEnt) (id : Nat) {place : Nat} (h : place < r.warps) :
    Starts b idx (newWarp b idx wg r id place) r := by
  have hs : (newWarp b idx wg r id place).s = Table.put 0#64 [] 1 (b.argp.setWidth 64) := by simp only [newWarp]
  have hb : (newWarp b idx wg r id place).b = Table.put 0#256 (Table.put 0#256 [] 14 (argRecord b)) 15 (tlRecord b idx wg) := by simp only [newWarp]
  have hwf : Table.wf 0#256 (Table.put 0#256 [] 14 (argRecord b)) = true := Table.wf_put [] 14 _ rfl
  refine ⟨rfl, h, rfl, rfl, rfl, rfl, rfl, ?_, fun k hk => ?_, rfl, rfl, rfl, rfl, rfl, rfl, fun k hk => ?_, ?_, ?_⟩
  · rw [Agent.rs, if_neg (by omega), hs, Table.look_put _ _ _ rfl]
  · rw [Agent.rs, hs, Table.look_put_ne _ _ _ _ hk]
    exact ite_self _
  · rw [hb, Table.look_put_ne _ _ _ _ (by omega), Table.look_put_ne _ _ _ _ (by omega)]
    rfl
  · rw [hb, Table.look_put_ne _ _ _ _ (by omega), Table.look_put _ _ _ rfl]
  · rw [hb, Table.look_put _ _ _ hwf]
    rfl

/-! ### A new gang (R133) -/

section
variable (s : State) (grid idx asid : Nat) (b : Block) (die core : Nat) (f : Fit)

theorem newGang_agents_length : (newGang s grid idx asid b die core f).agents.length = (b.roles.map fun r => (r.grp + 1) * r.warps).sum := by
  show (newWarps b idx _ _).length = _
  rw [newWarps_length, ← wgRoles_warps]
  conv_rhs => rw [← enumFrom_snd 0 (wgRoles b)]
  rw [List.map_map]
  rfl

theorem newGang_agents_start : ∀ a ∈ (newGang s grid idx asid b die core f).agents, ∃ r ∈ b.roles, Starts b idx a r := by
  intro a ha
  obtain ⟨p, hp, id, place, hplace, rfl⟩ := mem_newWarps ha
  refine ⟨p.2, mem_wgRoles ?_, newWarp_starts b idx p.1 p.2 id hplace⟩
  rw [← enumFrom_snd 0 (wgRoles b)]
  exact List.mem_map_of_mem hp

theorem newGang_hands : ∀ h ∈ (newGang s grid idx asid b die core f).wgs, ∀ r, r < 1024 →
    (h.hands.getD 0 0#1024).getLsbD r = decide (r < h.warps * h.g) := by
  intro h hh r hr
  obtain ⟨e, -, rfl⟩ := List.mem_map.1 hh
  exact newWg_ranks e hr

end

/-! ### Those that wait on (R152) -/

@[simp] theorem passOver_gangs (s : State) (w : WaitGang) : (passOver s w).gangs = s.gangs := rfl
@[simp] theorem passOver_saved (s : State) (w : WaitGang) : (passOver s w).saved = s.saved := rfl

@[simp] theorem leaveWait_gangs (s : State) (w : WaitGang) (b : Block) : (leaveWait s w b).gangs = s.gangs := by
  unfold leaveWait
  split <;> rfl

@[simp] theorem leaveWait_saved (s : State) (w : WaitGang) (b : Block) : (leaveWait s w b).saved = s.saved := by
  unfold leaveWait
  split <;> rfl

/-- The placed gang waits no more: no gang that it passes over becomes the same. -/
theorem notMem_waitGangs_placed {s : State} {w : WaitGang} (h : w ∈ s.waitGangs) (b : Block) : w ∉ (passOver (leaveWait s w b) w).waitGangs := by
  have hleft : (leaveWait s w b).waitGangs = s.waitGangs.filter fun v => v != w := by
    rw [leaveWait, if_pos (List.contains_iff_mem.2 h)]
  simp only [passOver, updWhere, hleft, List.mem_map, List.mem_filter, not_exists, not_and, bne_iff_ne]
  rintro v ⟨-, hne⟩ hv
  split at hv
  · next hover =>
    have hless : v.order < w.order := by
      simp only [Bool.and_eq_true, decide_eq_true_eq] at hover
      exact hover.1.2
    rw [← hv] at hless
    exact Nat.lt_irrefl _ hless
  · exact hne hv

/-! ### GANG_PLACE -/

theorem place_none {s : State} {die : Nat} (h : placeNext s die = none) : exec (.gangPlace die) s = .next s := by
  rw [show exec (.gangPlace die) s = execGangPlace die s from rfl]
  simp only [execGangPlace, h]

/-- A new gang on a core, with what it is granted and its agents at their entries. -/
def Placed (s : State) (die core : Nat) (w : WaitGang) (g : Grid) (n : Gang) : Prop :=
  let others := coreGangs s die core
  n.die = die ∧ n.core = core ∧ n.grid = w.grid ∧ n.idx = w.idx ∧ n.asid = g.asid ∧ n.blk = g.blk ∧ n.raf = ctxRaf s g.asid ∧
    n.osLines = (g.blk.roles.map fun r => r.osl).sum ∧ n.accNos.length = g.blk.nacc ∧ n.tileNos.length = g.blk.ntile ∧
    (n.osLines ≠ 0 → n.osFirst + n.osLines ≤ 8192 ∧ ∀ h ∈ others, h.osLines = 0 ∨ h.osFirst + h.osLines ≤ n.osFirst ∨
      n.osFirst + n.osLines ≤ h.osFirst) ∧
    (∀ k ∈ n.accNos, k < 16 ∧ ∀ h ∈ others, k ∉ h.accNos) ∧ (∀ k ∈ n.tileNos, k < 64 ∧ ∀ h ∈ others, k ∉ h.tileNos) ∧
    n.os = [] ∧ n.full = [] ∧ n.tiles = [] ∧ n.accs = [] ∧ n.stop = none ∧ n.dbg = 0#64 ∧
    n.agents.length = (g.blk.roles.map fun r => (r.grp + 1) * r.warps).sum ∧
    (∀ h ∈ n.wgs, ∀ r, r < 1024 → (h.hands.getD 0 0#1024).getLsbD r = decide (r < h.warps * h.g)) ∧
    ∀ a ∈ n.agents, ∃ r ∈ g.blk.roles, Starts g.blk w.idx a r

theorem newGang_placed {s : State} {die core : Nat} {w : WaitGang} {g : Grid} {f : Fit} (hgrid : g.n = w.grid)
    (hfit : fitWith (coreGangs s die core) g.blk = some f) : Placed s die core w g (newGang s g.n w.idx g.asid g.blk die core f) := by
  obtain ⟨hos, hnacc, hntile, haccs, htiles⟩ := fitWith_some hfit
  exact ⟨rfl, rfl, hgrid, rfl, rfl, rfl, rfl, rfl, hnacc, hntile, hos, haccs, htiles, rfl, rfl, rfl, rfl, rfl, rfl, newGang_agents_length ..,
    newGang_hands _ _ _ _ _ _ _ _, newGang_agents_start _ _ _ _ _ _ _ _⟩

theorem place_new {s : State} {die core : Nat} {w : WaitGang} {f : Fit} {g : Grid} (h : placeNext s die = some (w, core, f)) (hs : savedFor s w = none)
    (hb : waitBlock s w = some g.blk) (hg : s.grid? w.grid = some g) :
    core < 32 ∧ 32 * die + core ∉ s.fenced ∧ (∀ c, c < 32 → 32 * die + c ∉ s.fenced → fitWith (coreGangs s die c) g.blk ≠ none →
      freeSlots s die c < freeSlots s die core ∨ freeSlots s die c = freeSlots s die core ∧ core ≤ c) ∧
      ∃ (t : State) (n : Gang), exec (.gangPlace die) s = .next t ∧ t.mem = s.mem ∧ t.gangs = s.gangs ++ [n] ∧
        (w ∈ s.waitGangs → w ∉ t.waitGangs) ∧ Placed s die core w g n := by
  obtain ⟨-, b, hb', hcore⟩ := placeNext_some h
  obtain rfl : g.blk = b := Option.some.inj (hb.symm.trans hb')
  obtain ⟨hlt, hserved, hfit, hbest⟩ := coreFor_some hcore
  refine ⟨hlt, hserved, hbest, dropGrids (passOver (leaveWait (addGang s (newGang s g.n w.idx g.asid g.blk die core f)) w g.blk) w),
    newGang s g.n w.idx g.asid g.blk die core f, ?_, ?_, ?_, fun hw => ?_, newGang_placed (find?_grid_eq hg) hfit⟩
  · rw [show exec (.gangPlace die) s = execGangPlace die s from rfl]
    simp only [execGangPlace, h, hs, hg]
  · simp [addGang]
  · show (passOver (leaveWait _ w _) w).gangs = _
    rw [passOver_gangs, leaveWait_gangs]
    rfl
  · exact notMem_waitGangs_placed (by exact hw) g.blk

end Sys2Proof.Machine
end
section
/-! LAW. GANG_PLACE for a returning gang (section 04 (R46), section 24 (R355)): the gang comes back with what it held, and its agents with the PCs
and scalar registers of its frame. -/

namespace Sys2Proof.Machine

/-! ### What a frame gives its agents (R355) -/

theorem look_foldl_put {t : Table DWord} (ht : Table.wf 0#64 t = true) (f : Nat → DWord) {m j : Nat} (hj : 0 < j) (hm : j ≤ m) :
    ((List.range m).foldl (fun (t : Table DWord) n => t.put 0#64 (n + 1) (f (n + 1))) t).look 0#64 j = f j := by
  induction m with
  | zero => omega
  | succ m ih =>
    rw [List.range_succ, List.foldl_append, List.foldl_cons, List.foldl_nil]
    obtain rfl | hlt : j = m + 1 ∨ j ≤ m := by omega
    · exact Table.look_put _ _ _ (Table.wf_foldl_put _ _ _ ht)
    · rw [Table.look_put_ne _ _ _ _ (by omega), ih hlt]

/-- An agent with the PC and the scalar registers of a record, and everything else of its own. -/
def TakesRecord (s : State) (rec' : Nat) (a0 a : Agent) : Prop := a.id = a0.id ∧ a.v = a0.v ∧ a.b = a0.b ∧ a.k = a0.k ∧
  a.pc = BitVec.ofNat 52 (homeNat s rec' 8) ∧ ∀ j, 0 < j → j < 64 → a.rs j = BitVec.ofNat 64 (homeNat s (rec' + 0xC0 + 8 * j) 8)

theorem editAgent_takesRecord (s : State) (rec' : Nat) {a : Agent} (h : a.canon) : TakesRecord s rec' a (editAgent s rec' a) := by
  obtain ⟨-, hs, -⟩ := h
  unfold editAgent
  extract_lets pc sregs
  have hregs (j : Nat) (h0 : 0 < j) (h64 : j < 64) :
      (if j = 0 then 0#64 else sregs.look 0#64 j) = BitVec.ofNat 64 (homeNat s (rec' + 0xC0 + 8 * j) 8) := by
    rw [if_neg (by omega)]
    exact look_foldl_put hs (fun j => BitVec.ofNat 64 (homeNat s (rec' + 0xC0 + 8 * j) 8)) h0 (by omega)
  clear_value sregs
  split
  · next hpc => exact ⟨rfl, rfl, rfl, rfl, hpc.symm, hregs⟩
  · exact ⟨rfl, rfl, rfl, rfl, rfl, hregs⟩

theorem TakesRecord.awake {s : State} {rec' : Nat} {a0 a : Agent} (h : TakesRecord s rec' a0 a) : TakesRecord s rec' a0 (wakeAgent a) := h

theorem editAgents_length (s : State) (rec' : Nat) (as : List Agent) : (editAgents s rec' as).length = as.length := by
  induction as generalizing rec' with
  | nil => rfl
  | cons a r ih => simp [editAgents, ih]

theorem editAgents_getElem? (s : State) (rec' : Nat) (as : List Agent) (k : Nat) :
    (editAgents s rec' as)[k]? = as[k]?.map (editAgent s (rec' + 1280 * k)) := by
  induction as generalizing rec' k with
  | nil => rfl
  | cons a r ih =>
    cases k with
    | zero => rfl
    | succ k => rw [editAgents, List.getElem?_cons_succ, ih, List.getElem?_cons_succ, Nat.mul_add, Nat.add_assoc, Nat.add_comm 1280]

/-! ### The gang on its new core (R46, R153) -/

/-- A saved gang as it comes back to a core. -/
def backOn (s : State) (v : Saved) (core : Nat) (f : Fit) : Gang :=
  let g := editGang s v.frame v.gang
  let gs := coreGangs s g.die core
  { g with
    rdvs := g.rdvs.map fun r => { r with due := r.due + (s.die g.die).clk }
    core := core, slot := freeIndex gs, slots := slotsFor s gs g.blk f, osFirst := f.osFirst, accNos := f.accs, tileNos := f.tiles,
    raf := ctxRaf s g.asid, rafOwn := [], agents := g.agents.map wakeAgent }

/-- The state with the gang on its core. -/
def joined (s : State) (v : Saved) (core : Nat) (f : Fit) : State := { s with
  gangs := s.gangs ++ [backOn s v core f], saved := s.saved.filter fun w => w.frame != v.frame
  waiters := s.waiters.filter fun w => w.gang != (backOn s v core f).uid }

theorem requeueWalks_gangs_saved (s : State) (uid : Nat) : (requeueWalks s uid).gangs = s.gangs ∧ (requeueWalks s uid).saved = s.saved :=
  foldl_keeps (fun t : State => t.gangs = s.gangs ∧ t.saved = s.saved) _ _ _ (fun _ _ _ h => h) ⟨rfl, rfl⟩

theorem moveCmds_gangs_saved (s : State) (uid die core : Nat) : (moveCmds s uid die core).gangs = s.gangs ∧ (moveCmds s uid die core).saved = s.saved := by
  unfold moveCmds
  exact requeueWalks_gangs_saved _ uid

theorem clearMark_gangs_saved {s : State} (hw : NoWindows s) (frame : Nat) :
    (clearMark s frame).gangs = s.gangs ∧ (clearMark s frame).saved = s.saved := by
  have hc := hw.applyHome_eq ((bytesAt (frame + 0x78) 3976).zip (privateBytes s 100000 3976))
  unfold clearMark
  exact ⟨by rw [hc], by rw [hc]⟩

theorem restoreGang_gangs_saved {s : State} (hw : NoWindows s) {v : Saved} (hv : v ∈ s.saved) (hpool : v.pool = none) (core : Nat) (f : Fit) :
    (restoreGang s v core f).gangs = s.gangs ++ [backOn s v core f] ∧ (restoreGang s v core f).saved = s.saved.filter fun w => w.frame != v.frame := by
  have hr : restoreGang s v core f = moveCmds (clearMark (joined s v core f) v.frame) (backOn s v core f).uid (backOn s v core f).die core := by
    unfold restoreGang
    simp only [hpool]
    rfl
  have hj : NoWindows (joined s v core f) := by
    refine ⟨fun g hg => ?_, fun u hu => hw.2 u (List.mem_filter.1 hu).1⟩
    obtain hg | hg := List.mem_append.1 hg
    · exact hw.1 g hg
    · rw [List.mem_singleton.1 hg]
      exact hw.2 v hv
  obtain ⟨hg, hs⟩ := moveCmds_gangs_saved (clearMark (joined s v core f) v.frame) (backOn s v core f).uid (backOn s v core f).die core
  obtain ⟨hg', hs'⟩ := clearMark_gangs_saved hj v.frame
  rw [hr]
  exact ⟨hg.trans hg', hs.trans hs'⟩

/-- An agent of the gang on its core: awake, as its record gives it. -/
theorem backOn_agent (s : State) {v : Saved} (hv : v.gang.canon) (core : Nat) (f : Fit) {k : Nat} {a0 : Agent} (h : v.gang.agents[k]? = some a0) :
    ∃ a, (backOn s v core f).agents[k]? = some a ∧ TakesRecord s (v.frame + 0x1000 + 1280 * k) a0 a ∧ a.stopped = false := by
  have ha : a0.canon := hv.2.2.2 a0 (List.mem_of_getElem? h)
  refine ⟨wakeAgent (editAgent s (v.frame + 0x1000 + 1280 * k) a0), ?_, (editAgent_takesRecord s _ ha).awake, rfl⟩
  show ((editAgents s (v.frame + 0x1000) v.gang.agents).map wakeAgent)[k]? = _
  rw [List.getElem?_map, editAgents_getElem?, h]
  rfl

theorem savedFor_mem {s : State} {w : WaitGang} {v : Saved} (h : savedFor s w = some v) : v ∈ s.saved := by
  obtain ⟨f, -, hf⟩ := Option.bind_eq_some_iff.1 h
  exact List.mem_of_find?_eq_some hf

theorem place_back {s : State} (hw : NoWindows s) {die core : Nat} {w : WaitGang} {f : Fit} {v : Saved} (h : placeNext s die = some (w, core, f))
    (hs : savedFor s w = some v) (hflips : s.flips = []) (hpool : v.pool = none) :
    ∃ t, exec (.gangPlace die) s = .next t ∧ t.gangs = s.gangs ++ [backOn s v core f] ∧ ∀ u ∈ t.saved, u.frame ≠ v.frame := by
  obtain ⟨hg, hsv⟩ := restoreGang_gangs_saved hw (savedFor_mem hs) hpool core f
  have hfree (a n : Nat) : rangeFrozen s a n = false := by simp [rangeFrozen, hflips]
  refine ⟨passOver (leaveWait (restoreGang s v core f) w v.gang.blk) w, ?_, ?_, fun u hu => ?_⟩
  · rw [show exec (.gangPlace die) s = execGangPlace die s from rfl]
    simp only [execGangPlace, h, hs, hfree, Bool.or_self, Bool.false_eq_true, if_false]
  · rw [passOver_gangs, leaveWait_gangs, hg]
  · rw [passOver_saved, leaveWait_saved, hsv] at hu
    simpa using (List.mem_filter.1 hu).2

/-! ### The obligation -/

/-- Settles O6: each clause is a lemma about its event, from the launch unit's visit to the restore. -/
theorem gridsAreLaunchedAndPlaced : Obligations.GridsAreLaunchedAndPlaced := by
  intro s _ hcanon hw hlq rd logged errAt sound turn took visit failed reads
  refine ⟨visit_none, fun q va ws rest h => readsBlock hw (visit_reading h), fun asid va rest ht hd => readsBlock hw (visit_device ht hd),
    fun q hq ht => ?host, fun n g hg hs hp => ?handout, fun n g die hg hs hdie hc hv hd hempty hwait hdry hfit => ?steal, waiting_pairwise s,
    fun die h => place_none h, fun die w core f g h hs hb hg => ?new, fun die w core f v h hs hflips hpool => ?back⟩
  case host =>
    have he := visit_host hq ht
    exact ⟨fun hv => ⟨_, he, takeEntry_invalid hv⟩, fun s' c hv h => ⟨_, he, takeEntry_fail (by omega) hv h⟩,
      fun v hv h hb => ⟨_, he, takeEntry_bad hv h hb⟩, fun v hv h hlt hal => readsBlock hw (takeEntry_good hv h hlt hal ▸ he)⟩
  case handout =>
    exact ⟨fun b h hb => handout_named hg hs hp h hb, handout_free hg hs hp, fun b as h hlo hhi hc hso has => handout_other hg hs hp hw hc h hlo hhi hso has,
      fun s' c as h hc hso has => handout_unreadable hg hs hp hw hc h hso has⟩
  case steal =>
    exact ⟨steal_kept hg, fun hown hlt hne hrise => steal_takes hg hs hempty hwait hdry hfit hown hdie hc hv hd rfl hlt hne rfl hrise⟩
  case new => exact ⟨(placeNext_some h).1, place_new h hs hb hg⟩
  case back =>
    obtain ⟨t, he, hg, hsv⟩ := place_back hw h hs hflips hpool
    refine ⟨t, backOn s v core f, he, hg, hsv, rfl, rfl, rfl, rfl, rfl, rfl, rfl, rfl, rfl, rfl, ?_, fun k a0 ha0 => ?_⟩
    · show ((editAgents s (v.frame + 0x1000) v.gang.agents).map wakeAgent).length = _
      rw [List.length_map, editAgents_length]
    · obtain ⟨a, ha, ⟨hid, hav, hab, hak, hpc, hrs⟩, hst⟩ := backOn_agent s (hcanon.2 v (savedFor_mem hs)) core f ha0
      exact ⟨a, ha, hid, hav, hab, hak, hst, hpc, hrs⟩

end Sys2Proof.Machine
end
section
/-! LAW. The finite encodings of a format as an ordered list of exact magnitudes (R163, R164). -/

namespace Sys2Proof.Machine

/-- What the proofs use of the widths of the six formats. -/
def Fmt.Regular (f : Fmt) : Prop := 1 ≤ f.fb ∧ 2 ≤ f.eb

theorem regular_of_mem {f : Fmt} (h : f ∈ [Fmt.f64, .f32, .f16, .bf16, .e4m3, .e5m2]) : f.Regular := by
  simp only [List.mem_cons, List.not_mem_nil, or_false] at h
  rcases h with rfl | rfl | rfl | rfl | rfl | rfl <;> exact ⟨by decide, by decide⟩

/-- The integer significand of the finite encoding with magnitude bits k. -/
def Fmt.significand (f : Fmt) (k : Nat) : Nat := if k < 2 ^ f.fb then k else 2 ^ f.fb + k % 2 ^ f.fb

/-- The exponent of the last place of that encoding; subnormals share that of the smallest normals. -/
def Fmt.lastPlace (f : Fmt) (k : Nat) : Int := f.qmin + (k / 2 ^ f.fb - 1 : Nat)

/-- The exact magnitude of that encoding. -/
def Fmt.magnitude (f : Fmt) (k : Nat) : ℚ := f.significand k * 2 ^ f.lastPlace k

theorem qmin_le_lastPlace (f : Fmt) (k : Nat) : f.qmin ≤ f.lastPlace k := Int.le_add_of_nonneg_right (Int.natCast_nonneg _)

theorem significand_lt (f : Fmt) (k : Nat) : f.significand k < 2 ^ (f.fb + 1) := by
  have := Nat.mod_lt k (Nat.two_pow_pos f.fb)
  unfold Fmt.significand
  split <;> omega

theorem le_significand {f : Fmt} {k : Nat} (h : 2 ^ f.fb ≤ k) : 2 ^ f.fb ≤ f.significand k := by
  rw [Fmt.significand, if_neg (by omega)]
  omega

theorem lastPlace_eq_qmin {f : Fmt} {k : Nat} (h : k < 2 ^ f.fb) : f.lastPlace k = f.qmin := by
  simp [Fmt.lastPlace, Nat.div_eq_of_lt h]

theorem magnitude_nonneg (f : Fmt) (k : Nat) : 0 ≤ f.magnitude k := by
  unfold Fmt.magnitude
  positivity

/-! ### Reading an encoding -/

theorem two_pow_width (f : Fmt) : 2 ^ f.width = 2 ^ (f.eb + f.fb) + 2 ^ (f.eb + f.fb) := by
  rw [Fmt.width, Nat.add_assoc, Nat.add_comm, Nat.pow_succ, Nat.mul_two]

theorem signed_mod (f : Fmt) (n : Bool) {k : Nat} (hk : k < 2 ^ (f.eb + f.fb)) : f.signed n k % 2 ^ f.width = f.signed n k := by
  refine Nat.mod_eq_of_lt ?_
  have := two_pow_width f
  unfold Fmt.signed
  split <;> omega

theorem bitN_signed (f : Fmt) (n : Bool) {k : Nat} (hk : k < 2 ^ (f.eb + f.fb)) : bitN (f.signed n k) (f.eb + f.fb) = n := by
  cases n <;> simp [bitN, Fmt.signed, Nat.div_eq_of_lt hk]

theorem fld_exponent_signed (f : Fmt) (n : Bool) {k : Nat} (hk : k < 2 ^ (f.eb + f.fb)) : fld (f.signed n k) f.fb f.eb = k / 2 ^ f.fb := by
  have hlt : k / 2 ^ f.fb < 2 ^ f.eb := Nat.div_lt_of_lt_mul (by rwa [← Nat.pow_add, Nat.add_comm])
  cases n
  · exact Nat.mod_eq_of_lt hlt
  · rw [fld, Fmt.signed, if_pos rfl, Nat.pow_add, Nat.mul_comm, Nat.mul_add_div (Nat.two_pow_pos _), Nat.add_mod_left, Nat.mod_eq_of_lt hlt]

theorem fld_fraction_signed (f : Fmt) (n : Bool) (k : Nat) : fld (f.signed n k) 0 f.fb = k % 2 ^ f.fb := by
  cases n
  · simp [fld, Fmt.signed]
  · simp [fld, Fmt.signed, Nat.pow_add]

theorem eq_signed (f : Fmt) (b : Nat) : ∃ n, ∃ k < 2 ^ (f.eb + f.fb), b % 2 ^ f.width = f.signed n k := by
  have hlt := Nat.mod_lt b (Nat.two_pow_pos f.width)
  rw [two_pow_width] at hlt ⊢
  obtain h | h := Nat.lt_or_ge (b % (2 ^ (f.eb + f.fb) + 2 ^ (f.eb + f.fb))) (2 ^ (f.eb + f.fb))
  · exact ⟨false, _, h, rfl⟩
  · exact ⟨true, _ - 2 ^ (f.eb + f.fb), by omega, (Nat.add_sub_cancel' h).symm⟩

/-- The encodings that are finite: of E4M3 all but the last, otherwise those below the last exponent (R164). -/
theorem le_maxMag_iff {f : Fmt} (h : f.Regular) {k : Nat} (hk : k < 2 ^ (f.eb + f.fb)) : k ≤ f.maxMag ↔
    (f.noInf = true → k / 2 ^ f.fb = 2 ^ f.eb - 1 → k % 2 ^ f.fb ≠ 2 ^ f.fb - 1) ∧ (f.noInf = false → k / 2 ^ f.fb ≠ 2 ^ f.eb - 1) := by
  obtain ⟨hfb, heb⟩ := h
  have hP : 2 ≤ 2 ^ f.fb := Nat.pow_le_pow_right (n := 2) (by decide) hfb
  have hc : k / 2 ^ f.fb < 2 ^ f.eb := Nat.div_lt_of_lt_mul (by rwa [← Nat.pow_add, Nat.add_comm])
  have hr := Nat.mod_lt k (Nat.two_pow_pos f.fb)
  have hk' := Nat.div_add_mod k (2 ^ f.fb)
  have hsplit : 2 ^ f.fb * (2 ^ f.eb - 1) + 2 ^ f.fb = 2 ^ (f.eb + f.fb) := by
    rw [← Nat.mul_succ, Nat.succ_eq_add_one, Nat.sub_add_cancel Nat.one_le_two_pow, Nat.mul_comm, Nat.pow_add]
  have hlast : 2 ^ f.fb ≤ 2 ^ f.fb * (2 ^ f.eb - 1) := Nat.le_mul_of_pos_right _ (Nat.sub_pos_of_lt (Nat.one_lt_two_pow (by omega)))
  rw [Fmt.maxMag, Nat.mul_comm (2 ^ f.eb - 1)]
  obtain he | he : k / 2 ^ f.fb = 2 ^ f.eb - 1 ∨ k / 2 ^ f.fb + 1 ≤ 2 ^ f.eb - 1 := by omega
  · rw [he] at hk'
    cases f.noInf <;> simp [he] <;> omega
  · have hbelow := Nat.mul_le_mul_left (2 ^ f.fb) he
    rw [Nat.mul_succ] at hbelow
    have hne : k / 2 ^ f.fb ≠ 2 ^ f.eb - 1 := by omega
    cases f.noInf <;> simp [hne] <;> omega

/-- The rows of R164's table for subnormals and normals. -/
theorem finite_of_fields (f : Fmt) (n : Bool) (k : Nat) :
    (if (k / 2 ^ f.fb == 0) = true then FVal.fin n (k % 2 ^ f.fb) f.qmin
      else FVal.fin n (2 ^ f.fb + k % 2 ^ f.fb) (f.qmin + (k / 2 ^ f.fb : Nat) - 1)) = .fin n (f.significand k) (f.lastPlace k) := by
  obtain hk | hk := Nat.lt_or_ge k (2 ^ f.fb)
  · simp [Fmt.significand, lastPlace_eq_qmin, hk, Nat.div_eq_of_lt, Nat.mod_eq_of_lt]
  · have hdiv : 0 < k / 2 ^ f.fb := Nat.div_pos hk (Nat.two_pow_pos _)
    have hexp : f.lastPlace k = f.qmin + (k / 2 ^ f.fb : Nat) - 1 := by
      unfold Fmt.lastPlace
      omega
    rw [if_neg (by simpa using hk), Fmt.significand, if_neg (by omega), hexp]

theorem read_signed_eq_fin_iff {f : Fmt} (h : f.Regular) (n : Bool) {k : Nat} (hk : k < 2 ^ (f.eb + f.fb)) {n' : Bool} {m : Nat} {e : Int} :
    f.read (f.signed n k) = .fin n' m e ↔ k ≤ f.maxMag ∧ n = n' ∧ f.significand k = m ∧ f.lastPlace k = e := by
  rw [le_maxMag_iff h hk]
  simp only [Fmt.read, signed_mod f n hk, bitN_signed f n hk, fld_exponent_signed f n hk, fld_fraction_signed]
  rw [finite_of_fields]
  cases f.noInf
  · by_cases he : k / 2 ^ f.fb = 2 ^ f.eb - 1
    · by_cases hr : k % 2 ^ f.fb = 0 <;> simp [he, hr]
    · simp [he]
  · by_cases he : k / 2 ^ f.fb = 2 ^ f.eb - 1
    · by_cases hr : k % 2 ^ f.fb = 2 ^ f.fb - 1 <;> simp [he, hr]
    · simp [he]

theorem maxMag_lt (f : Fmt) : f.maxMag < 2 ^ (f.eb + f.fb) := by
  have hpos := Nat.two_pow_pos (f.eb + f.fb)
  have hle : (2 ^ f.eb - 1) * 2 ^ f.fb ≤ 2 ^ (f.eb + f.fb) := by
    rw [Nat.pow_add]
    exact Nat.mul_le_mul_right _ (Nat.sub_le _ _)
  unfold Fmt.maxMag
  split <;> omega

/-- The largest finite value is normal. -/
theorem le_maxMag {f : Fmt} (h : f.Regular) : 2 ^ f.fb ≤ f.maxMag := by
  obtain ⟨hfb, heb⟩ := h
  have hP : 2 ≤ 2 ^ f.fb := Nat.pow_le_pow_right (n := 2) (by decide) hfb
  have hE : 4 ≤ 2 ^ f.eb := Nat.pow_le_pow_right (n := 2) (by decide) heb
  have hall : 4 * 2 ^ f.fb ≤ 2 ^ (f.eb + f.fb) := by
    rw [Nat.pow_add]
    exact Nat.mul_le_mul_right _ hE
  have hinf : 3 * 2 ^ f.fb ≤ (2 ^ f.eb - 1) * 2 ^ f.fb := Nat.mul_le_mul_right _ (by omega)
  unfold Fmt.maxMag
  split <;> omega

theorem read_signed {f : Fmt} (h : f.Regular) (n : Bool) {k : Nat} (hk : k ≤ f.maxMag) :
    f.read (f.signed n k) = .fin n (f.significand k) (f.lastPlace k) :=
  (read_signed_eq_fin_iff h n (hk.trans_lt (maxMag_lt f))).2 ⟨hk, rfl, rfl, rfl⟩

theorem read_mod (f : Fmt) (b : Nat) : f.read (b % 2 ^ f.width) = f.read b := by
  simp [Fmt.read]

theorem eq_signed_of_read_eq_fin {f : Fmt} (hf : f.Regular) {b : Nat} {n : Bool} {m : Nat} {e : Int} (h : f.read b = .fin n m e) :
    ∃ k ≤ f.maxMag, b % 2 ^ f.width = f.signed n k ∧ f.significand k = m ∧ f.lastPlace k = e := by
  obtain ⟨n', k, hk, hb⟩ := eq_signed f b
  rw [← read_mod, hb] at h
  obtain ⟨hle, rfl, hm, he⟩ := (read_signed_eq_fin_iff hf n' hk).1 h
  exact ⟨k, hle, hb, hm, he⟩

/-! ### Packing a significand -/

/-- Encodings are numbered in steps of the last place, across the exponents. -/
theorem pack_significand_add (f : Fmt) (k j : Nat) : f.pack (f.significand k + j) (f.lastPlace k) = k + j := by
  obtain hk | hk := Nat.lt_or_ge k (2 ^ f.fb)
  · rw [lastPlace_eq_qmin hk, Fmt.significand, if_pos hk, Fmt.pack]
    split
    · rfl
    · simp
      omega
  · have hdiv : 0 < k / 2 ^ f.fb := Nat.div_pos hk (Nat.two_pow_pos _)
    have hexp : (f.lastPlace k - f.qmin + 1).toNat = k / 2 ^ f.fb := by
      unfold Fmt.lastPlace
      omega
    have hk' := Nat.div_add_mod' k (2 ^ f.fb)
    rw [Fmt.significand, if_neg (by omega), Fmt.pack, if_neg (by omega), hexp]
    omega

theorem pack_significand (f : Fmt) (k : Nat) : f.pack (f.significand k) (f.lastPlace k) = k := pack_significand_add f k 0

theorem magnitude_pack (f : Fmt) {m : Nat} {q : Int} (hq : f.qmin ≤ q) (hm : m ≤ 2 ^ (f.fb + 1)) (hn : q = f.qmin ∨ 2 ^ f.fb ≤ m) :
    f.magnitude (f.pack m q) = m * 2 ^ q := by
  obtain ⟨d, rfl⟩ : ∃ d : Nat, q = f.qmin + d := ⟨(q - f.qmin).toNat, by omega⟩
  have hP := Nat.two_pow_pos f.fb
  obtain hlt | hge := Nat.lt_or_ge m (2 ^ f.fb)
  · -- a subnormal
    obtain rfl : d = 0 := by omega
    simp [Fmt.pack, hlt, Fmt.magnitude, Fmt.significand, lastPlace_eq_qmin hlt]
  obtain ⟨r, rfl⟩ := Nat.exists_eq_add_of_le hge
  have hpack : f.pack (2 ^ f.fb + r) (f.qmin + d) = (d + 1) * 2 ^ f.fb + r := by
    rw [Fmt.pack, if_neg (by omega), show (f.qmin + d - f.qmin + 1).toNat = d + 1 by omega, Nat.add_sub_cancel_left]
  rw [hpack]
  obtain hr | rfl : r < 2 ^ f.fb ∨ r = 2 ^ f.fb := by omega
  · have hdiv : ((d + 1) * 2 ^ f.fb + r) / 2 ^ f.fb = d + 1 := by
      rw [Nat.mul_comm, Nat.mul_add_div hP, Nat.div_eq_of_lt hr, Nat.add_zero]
    have hge' : ¬(d + 1) * 2 ^ f.fb + r < 2 ^ f.fb := by
      rw [← Nat.div_eq_zero_iff_lt hP, hdiv]
      omega
    rw [Fmt.magnitude, Fmt.significand, if_neg hge', Nat.mul_comm, Nat.mul_add_mod, Nat.mod_eq_of_lt hr, Nat.mul_comm, Fmt.lastPlace, hdiv, Nat.add_sub_cancel]
  · have hnext : (d + 1) * 2 ^ f.fb + 2 ^ f.fb = 2 ^ f.fb * (d + 2) := by ring
    rw [hnext, Fmt.magnitude, Fmt.significand, if_neg (by nlinarith), Nat.mul_mod_right, Fmt.lastPlace, Nat.mul_div_cancel_left _ hP,
      show f.qmin + ((d + 2 - 1 : Nat) : Int) = f.qmin + d + 1 by omega, zpow_add_one₀ two_ne_zero]
    push_cast
    ring

theorem magnitude_succ (f : Fmt) (k : Nat) : f.magnitude (k + 1) = f.magnitude k + 2 ^ f.lastPlace k := by
  have hn : f.lastPlace k = f.qmin ∨ 2 ^ f.fb ≤ f.significand k + 1 := by
    obtain hk | hk := Nat.lt_or_ge k (2 ^ f.fb)
    · exact .inl (lastPlace_eq_qmin hk)
    · exact .inr ((le_significand hk).trans (Nat.le_succ _))
  rw [← pack_significand_add, magnitude_pack f (qmin_le_lastPlace f k) (significand_lt f k) hn, Fmt.magnitude]
  push_cast
  ring

theorem magnitude_strictMono (f : Fmt) : StrictMono f.magnitude :=
  strictMono_nat_of_lt_succ fun k => by
    rw [magnitude_succ]
    exact lt_add_of_pos_right _ (by positivity)

theorem pack_even {f : Fmt} (h : f.Regular) {m : Nat} (q : Int) (hm : m % 2 = 0) : f.pack m q % 2 = 0 := by
  have heven : 2 ∣ 2 ^ f.fb := dvd_pow_self 2 (by have := h.1; omega)
  unfold Fmt.pack
  split
  · exact hm
  · exact Nat.mod_eq_zero_of_dvd (((heven.mul_left _).add (Nat.dvd_sub (Nat.dvd_of_mod_eq_zero hm) heven)))

end Sys2Proof.Machine
end
section
/-! LAW. What rounding to a multiple of a power of two gives in each mode (R169). -/

namespace Sys2Proof.Machine

/-- The modes that round a magnitude of that sign down, and those that round it up. -/
def Inward (mode : Nat) (neg : Bool) : Prop := mode = 1 ∨ (mode = 2 ∧ neg = true) ∨ (mode = 3 ∧ neg = false)
def Outward (mode : Nat) (neg : Bool) : Prop := (mode = 2 ∧ neg = false) ∨ (mode = 3 ∧ neg = true)

theorem nearest_or_inward_or_outward {mode : Nat} (h : mode < 4) (neg : Bool) : mode = 0 ∨ Inward mode neg ∨ Outward mode neg := by
  unfold Inward Outward
  cases neg <;> simp <;> omega

/-- R169 for a magnitude u: t is the integer that the mode rounds it to. -/
structure RoundsTo (mode : Nat) (neg : Bool) (u : ℚ) (t : Nat) : Prop where
  nearest : mode = 0 → |u - t| ≤ 1 / 2 ∧ (|u - t| = 1 / 2 → t % 2 = 0)
  inward : Inward mode neg → t ≤ u ∧ u < t + 1
  outward : Outward mode neg → u ≤ t ∧ t < u + 1

theorem roundsTo_self (mode : Nat) (neg : Bool) (t : Nat) : RoundsTo mode neg t t where
  nearest _ := by norm_num
  inward _ := by simp
  outward _ := by simp

theorem RoundsTo.lower {mode : Nat} {neg : Bool} {a : Nat} {x : ℚ} (h0 : 0 ≤ x) (h1 : x < 1)
    (hn : mode = 0 → x ≤ 1 / 2 ∧ (x = 1 / 2 → a % 2 = 0)) (ho : Outward mode neg → x = 0) : RoundsTo mode neg (a + x) a where
  nearest h := by
    rw [add_sub_cancel_left, abs_of_nonneg h0]
    exact hn h
  inward _ := ⟨by linarith, by linarith⟩
  outward h := by
    rw [ho h]
    simp

theorem RoundsTo.upper {mode : Nat} {neg : Bool} {a : Nat} {x : ℚ} (h0 : 0 < x) (h1 : x < 1)
    (hn : mode = 0 → 1 / 2 ≤ x ∧ (x = 1 / 2 → a % 2 = 1)) (hi : ¬ Inward mode neg) : RoundsTo mode neg (a + x) (a + 1 : Nat) where
  nearest h := by
    have habs : |(a : ℚ) + x - (a + 1 : Nat)| = 1 - x := by
      rw [abs_sub_comm, abs_of_nonneg] <;> push_cast <;> linarith
    obtain ⟨hle, htie⟩ := hn h
    rw [habs]
    exact ⟨by linarith, fun heq => by have := htie (by linarith); omega⟩
  inward h := absurd h hi
  outward _ := by
    push_cast
    exact ⟨by linarith, by linarith⟩

theorem roundUp_iff {mode : Nat} (h : mode < 4) (neg odd : Bool) (half : Ordering) (exact : Bool) : roundUp mode neg odd half exact = true ↔
    (mode = 0 ∧ (half = .gt ∨ half = .eq ∧ odd = true)) ∨ (Outward mode neg ∧ exact = false) := by
  obtain rfl | rfl | rfl | rfl : mode = 0 ∨ mode = 1 ∨ mode = 2 ∨ mode = 3 := by omega
  · cases half <;> simp [roundUp, Outward]
  all_goals cases neg <;> simp [roundUp, Outward]

/-- A magnitude between two integers goes to the lower or the upper one as `roundUp` says. -/
theorem roundsTo_roundUp {mode : Nat} (hmode : mode < 4) (neg : Bool) (a : Nat) {r d : Nat} (hr : r < d) :
    RoundsTo mode neg (a + r / d) (if roundUp mode neg (a % 2 == 1) (compare (2 * r) d) (r == 0) then a + 1 else a : Nat) := by
  have hd : (0 : ℚ) < d := by exact_mod_cast r.zero_le.trans_lt hr
  have h1 : (r : ℚ) / d < 1 := (div_lt_one hd).2 (by exact_mod_cast hr)
  have hle : (r : ℚ) / d ≤ 1 / 2 ↔ 2 * r ≤ d := by
    rw [div_le_div_iff₀ hd two_pos, one_mul, mul_comm]
    exact_mod_cast Iff.rfl
  have hge : (1 : ℚ) / 2 ≤ r / d ↔ d ≤ 2 * r := by
    rw [div_le_div_iff₀ two_pos hd, one_mul, mul_comm]
    exact_mod_cast Iff.rfl
  have htie (h : (r : ℚ) / d = 1 / 2) : 2 * r = d := le_antisymm (hle.1 h.le) (hge.1 h.ge)
  have hup := roundUp_iff hmode neg (a % 2 == 1) (compare (2 * r) d) (r == 0)
  simp only [compare_gt_iff_gt, compare_eq_iff_eq, beq_iff_eq, beq_eq_false_iff_ne] at hup
  split
  next h =>
    have h := hup.1 h
    have h0 : r ≠ 0 := by
      obtain ⟨-, h⟩ | ⟨-, h⟩ := h <;> omega
    refine .upper (div_pos (by exact_mod_cast Nat.pos_of_ne_zero h0) hd) h1 (fun hm => ?_) (fun hi => ?_)
    · simp only [hm, Outward, true_and, OfNat.zero_ne_ofNat, false_and, or_self, or_false] at h
      exact ⟨hge.2 (by omega), fun heq => by have := htie heq; omega⟩
    · unfold Inward at hi
      unfold Outward at h
      cases neg <;> simp at hi h <;> omega
  next h =>
    rw [hup, not_or] at h
    obtain ⟨hn, ho⟩ := h
    refine .lower (by positivity) h1 (fun hm => ?_) (fun hout => ?_)
    · simp only [hm, true_and, not_or, not_and] at hn
      exact ⟨hle.2 (by omega), fun heq => by have := hn.2 (htie heq); omega⟩
    · rw [show r = 0 by simpa [hout] using ho]
      simp

/-- A remainder is lost whatever the direction. -/
theorem eq_roundUp_iff {mode : Nat} (hmode : mode < 4) (neg : Bool) (a : Nat) {r d : Nat} (hr : r < d) :
    r = 0 ↔ (a : ℚ) + r / d = (if roundUp mode neg (a % 2 == 1) (compare (2 * r) d) (r == 0) then a + 1 else a : Nat) := by
  have hd : (0 : ℚ) < d := by exact_mod_cast r.zero_le.trans_lt hr
  constructor
  · rintro rfl
    have : ¬ roundUp mode neg (a % 2 == 1) (compare (2 * 0) d) (0 == 0) = true := by
      rw [roundUp_iff hmode, compare_gt_iff_gt, compare_eq_iff_eq]
      simp
      omega
    rw [if_neg this]
    simp
  · intro h
    split at h
    · have h1 : (r : ℚ) / d < 1 := (div_lt_one hd).2 (by exact_mod_cast hr)
      push_cast at h
      linarith
    · simpa [hd.ne'] using h

/-- The value of m * 2^e in units of 2^q. -/
def scaled (m : Nat) (e q : Int) : ℚ := m * 2 ^ (e - q)

theorem scaled_mul (m : Nat) (e q : Int) : scaled m e q * 2 ^ q = m * 2 ^ e := by
  rw [scaled, mul_assoc, ← zpow_add₀ two_ne_zero, sub_add_cancel]

theorem scaled_of_le (m : Nat) {e q : Int} (h : q ≤ e) : scaled m e q = (m * 2 ^ (e - q).toNat : Nat) := by
  have : e - q = ((e - q).toNat : Int) := by omega
  rw [scaled, this, zpow_natCast]
  push_cast
  rfl

theorem scaled_of_lt (m : Nat) {e q : Int} (h : e < q) :
    scaled m e q = (m / 2 ^ (q - e).toNat : Nat) + (m % 2 ^ (q - e).toNat : Nat) / (2 ^ (q - e).toNat : Nat) := by
  have hexp : e - q = -((q - e).toNat : Int) := by omega
  have hpos : ((2 ^ (q - e).toNat : Nat) : ℚ) ≠ 0 := by positivity
  rw [scaled, hexp, zpow_neg, zpow_natCast, ← div_eq_mul_inv, ← Nat.cast_ofNat, ← Nat.cast_pow, div_eq_iff hpos, add_mul, div_mul_cancel₀ _ hpos]
  exact_mod_cast (Nat.div_add_mod' m _).symm

theorem roundTo_of_le (mode : Nat) (neg : Bool) (m : Nat) {e q : Int} (h : q ≤ e) :
    roundTo mode neg m e q = (m * 2 ^ (e - q).toNat, true) := if_pos h

theorem roundTo_of_lt (mode : Nat) (neg : Bool) (m : Nat) {e q : Int} (h : e < q) :
    roundTo mode neg m e q = (if roundUp mode neg (m / 2 ^ (q - e).toNat % 2 == 1) (compare (2 * (m % 2 ^ (q - e).toNat)) (2 ^ (q - e).toNat))
      (m % 2 ^ (q - e).toNat == 0) then m / 2 ^ (q - e).toNat + 1 else m / 2 ^ (q - e).toNat, m % 2 ^ (q - e).toNat == 0) := if_neg h.not_ge

theorem roundTo_roundsTo {mode : Nat} (hmode : mode < 4) (neg : Bool) (m : Nat) (e q : Int) :
    RoundsTo mode neg (scaled m e q) (roundTo mode neg m e q).1 := by
  obtain h | h := le_or_gt q e
  · rw [scaled_of_le m h, roundTo_of_le mode neg m h]
    exact roundsTo_self mode neg _
  · rw [scaled_of_lt m h, roundTo_of_lt mode neg m h]
    exact roundsTo_roundUp hmode neg _ (Nat.mod_lt _ (Nat.two_pow_pos _))

theorem roundTo_exact_iff {mode : Nat} (hmode : mode < 4) (neg : Bool) (m : Nat) (e q : Int) :
    (roundTo mode neg m e q).2 = true ↔ scaled m e q = (roundTo mode neg m e q).1 := by
  obtain h | h := le_or_gt q e
  · simp [roundTo_of_le mode neg m h, scaled_of_le m h]
  · rw [scaled_of_lt m h, roundTo_of_lt mode neg m h, beq_iff_eq]
    exact eq_roundUp_iff hmode neg _ (Nat.mod_lt _ (Nat.two_pow_pos _))

namespace RoundsTo
section
variable {mode : Nat} {neg : Bool} {u : ℚ} {t : Nat} (h : RoundsTo mode neg u t)
include h

theorem abs_sub_lt_one (hmode : mode < 4) : |u - t| < 1 := by
  rw [abs_lt]
  obtain h0 | hi | ho := nearest_or_inward_or_outward hmode neg
  · have := abs_le.1 (h.nearest h0).1
    constructor <;> linarith
  · have := h.inward hi
    constructor <;> linarith
  · have := h.outward ho
    constructor <;> linarith

/-- Rounding does not cross an integer. -/
theorem int_le (hmode : mode < 4) {j : ℤ} (hj : j ≤ u) : j ≤ t := by
  have := (abs_lt.1 (h.abs_sub_lt_one hmode)).2
  have : (j : ℚ) < (t : ℤ) + 1 := by push_cast; linarith
  exact_mod_cast Int.lt_add_one_iff.1 (by exact_mod_cast this)

theorem le_int (hmode : mode < 4) {j : ℤ} (hj : u ≤ j) : t ≤ j := by
  have := (abs_lt.1 (h.abs_sub_lt_one hmode)).1
  have : ((t : ℤ) : ℚ) < j + 1 := by push_cast; linarith
  exact_mod_cast Int.lt_add_one_iff.1 (by exact_mod_cast this)

/-- R170: when the result reaches the integer above a. -/
theorem succ_le_iff (hmode : mode < 4) (a : Nat) : a + 1 ≤ t ↔
    (a : ℚ) + 1 ≤ u ∨ (Outward mode neg ∧ (a : ℚ) < u) ∨ (mode = 0 ∧ ((a : ℚ) + 1 / 2 < u ∨ (a : ℚ) + 1 / 2 = u ∧ a % 2 = 1)) := by
  have hup (hj : (a : ℚ) + 1 ≤ u) : a + 1 ≤ t := by exact_mod_cast h.int_le hmode (j := a + 1) (by exact_mod_cast hj)
  have hcast : a + 1 ≤ t ↔ (a : ℚ) + 1 ≤ t := by exact_mod_cast Iff.rfl
  have hcast' : t ≤ a ↔ (t : ℚ) ≤ a := by exact_mod_cast Iff.rfl
  constructor
  · intro ht
    obtain h0 | hi | ho := nearest_or_inward_or_outward hmode neg
    · obtain ⟨hle, htie⟩ := h.nearest h0
      have hu := (abs_le.1 hle).1
      refine .inr (.inr ⟨h0, (lt_or_eq_of_le (by linarith [hcast.1 ht] : (a : ℚ) + 1 / 2 ≤ u)).imp_right fun heq => ⟨heq, ?_⟩⟩)
      have hta : (t : ℚ) = a + 1 := le_antisymm (by linarith) (hcast.1 ht)
      have heven := htie (by rw [← heq, hta]; norm_num)
      have : t = a + 1 := by exact_mod_cast hta
      omega
    · exact .inl ((hcast.1 ht).trans (h.inward hi).1)
    · exact .inr (.inl ⟨ho, by linarith [hcast.1 ht, h.outward ho]⟩)
  · rintro (hu | ⟨ho, hu⟩ | ⟨h0, hu⟩)
    · exact hup hu
    · have : (a : ℚ) < t := hu.trans_le (h.outward ho).1
      exact_mod_cast this
    · obtain ⟨hle, htie⟩ := h.nearest h0
      by_contra hlt
      have hta := hcast'.1 (by omega)
      have hu' := (abs_le.1 hle).2
      obtain hu | ⟨hu, hodd⟩ := hu
      · linarith
      · have hat : (t : ℚ) = a := le_antisymm hta (by linarith)
        have heven := htie (by rw [← hu, hat]; norm_num)
        have : t = a := by exact_mod_cast hat
        omega

end
end RoundsTo

end Sys2Proof.Machine
end
section
/-! LAW. Rounding into a format (R169, R170): the result stands in the format's list of magnitudes where the mode puts it, and which exact
values overflow. -/

namespace Sys2Proof.Machine

/-! ### The last place of the result -/

/-- The exponent of the last place in which m * 2^e is rounded. -/
def Fmt.quantum (f : Fmt) (m : Nat) (e : Int) : Int := max ((Nat.log2 m : Int) + e - f.fb) f.qmin

theorem scaled_quantum_lt (f : Fmt) (m : Nat) (e : Int) : scaled m e (f.quantum m e) < (2 ^ (f.fb + 1) : Nat) := by
  have hexp : e - f.quantum m e ≤ f.fb - Nat.log2 m := by
    unfold Fmt.quantum
    omega
  have hm : (m : ℚ) < 2 ^ ((Nat.log2 m : Int) + 1) := by exact_mod_cast Nat.lt_log2_self
  calc scaled m e (f.quantum m e)
      ≤ m * 2 ^ ((f.fb : Int) - Nat.log2 m) := mul_le_mul_of_nonneg_left (zpow_le_zpow_right₀ one_le_two hexp) (Nat.cast_nonneg _)
    _ < 2 ^ ((Nat.log2 m : Int) + 1) * 2 ^ ((f.fb : Int) - Nat.log2 m) := mul_lt_mul_of_pos_right hm (by positivity)
    _ = (2 ^ (f.fb + 1) : Nat) := by
      rw [← zpow_add₀ two_ne_zero, show (Nat.log2 m : Int) + 1 + (f.fb - Nat.log2 m) = (f.fb + 1 : Nat) by omega, zpow_natCast]
      norm_cast

/-- A result above the subnormals has the full precision of the format. -/
theorem le_scaled_quantum (f : Fmt) {m : Nat} (hm : 0 < m) {e : Int} (h : f.qmin < f.quantum m e) :
    ((2 ^ f.fb : Nat) : ℚ) ≤ scaled m e (f.quantum m e) := by
  have hexp : e - f.quantum m e = f.fb - Nat.log2 m := by
    unfold Fmt.quantum at h ⊢
    omega
  have hm : (2 : ℚ) ^ (Nat.log2 m : Int) ≤ m := by exact_mod_cast Nat.log2_self_le hm.ne'
  calc ((2 ^ f.fb : Nat) : ℚ)
      = 2 ^ (Nat.log2 m : Int) * 2 ^ ((f.fb : Int) - Nat.log2 m) := by
        rw [← zpow_add₀ two_ne_zero, add_sub_cancel, zpow_natCast]
        norm_cast
    _ ≤ scaled m e (f.quantum m e) := by
        rw [scaled, hexp]
        exact mul_le_mul_of_nonneg_right hm (by positivity)

theorem qmin_le_quantum (f : Fmt) (m : Nat) (e : Int) : f.qmin ≤ f.quantum m e := le_max_right _ _

/-- The rounded multiple of the last place, and whether it is exact. -/
def Fmt.multiple (f : Fmt) (mode : Nat) (n : Bool) (m : Nat) (e : Int) : Nat × Bool := roundTo mode n m e (f.quantum m e)

theorem multiple_roundsTo (f : Fmt) {mode : Nat} (hmode : mode < 4) (n : Bool) (m : Nat) (e : Int) :
    RoundsTo mode n (scaled m e (f.quantum m e)) (f.multiple mode n m e).1 := roundTo_roundsTo hmode n m e _

theorem multiple_le (f : Fmt) {mode : Nat} (hmode : mode < 4) (n : Bool) (m : Nat) (e : Int) : (f.multiple mode n m e).1 ≤ 2 ^ (f.fb + 1) := by
  have := (multiple_roundsTo f hmode n m e).le_int hmode (j := (2 ^ (f.fb + 1) : Nat)) (by exact_mod_cast (scaled_quantum_lt f m e).le)
  exact_mod_cast this

theorem le_multiple (f : Fmt) {mode : Nat} (hmode : mode < 4) (n : Bool) {m : Nat} (hm : 0 < m) {e : Int} (h : f.qmin < f.quantum m e) :
    2 ^ f.fb ≤ (f.multiple mode n m e).1 := by
  have := (multiple_roundsTo f hmode n m e).int_le hmode (j := (2 ^ f.fb : Nat)) (by exact_mod_cast le_scaled_quantum f hm h)
  exact_mod_cast this

/-- The magnitude bits before the check for overflow. -/
def Fmt.roundedBits (f : Fmt) (mode : Nat) (n : Bool) (m : Nat) (e : Int) : Nat := f.pack (f.multiple mode n m e).1 (f.quantum m e)

theorem magnitude_roundedBits (f : Fmt) {mode : Nat} (hmode : mode < 4) (n : Bool) {m : Nat} (hm : 0 < m) (e : Int) :
    f.magnitude (f.roundedBits mode n m e) = (f.multiple mode n m e).1 * 2 ^ f.quantum m e :=
  magnitude_pack f (qmin_le_quantum f m e) (multiple_le f hmode n m e)
    ((qmin_le_quantum f m e).eq_or_lt.imp Eq.symm fun h => le_multiple f hmode n hm h)

/-- R170: a nonzero value overflows, or gives the rounded bits with flags that say whether it is exact. -/
theorem round_cases (f : Fmt) (mode : Nat) (sat n : Bool) {m : Nat} (hm : 0 < m) (e : Int) :
    (f.maxMag < f.roundedBits mode n m e ∧ f.round mode sat n m e = (f.overflow mode sat n, OF ||| NX)) ∨
      (f.roundedBits mode n m e ≤ f.maxMag ∧ ∃ fl, f.round mode sat n m e = (f.signed n (f.roundedBits mode n m e), fl) ∧ fl &&& OF = 0#5 ∧
        if (f.multiple mode n m e).2 then fl = 0#5 else fl &&& NX ≠ 0#5) := by
  have hround : f.round mode sat n m e = if f.roundedBits mode n m e > f.maxMag then (f.overflow mode sat n, OF ||| NX)
      else (f.signed n (f.roundedBits mode n m e), if (f.multiple mode n m e).2 then noFlag else
        if decide ((Nat.log2 (roundTo mode n m e ((Nat.log2 m : Int) + e - f.fb)).1 : Int) + ((Nat.log2 m : Int) + e - f.fb) < f.qmin + f.fb)
          then UF ||| NX else NX) := if_neg hm.ne'
  rw [hround]
  obtain h | h := lt_or_ge f.maxMag (f.roundedBits mode n m e)
  · exact .inl ⟨h, if_pos h⟩
  · refine .inr ⟨h, _, if_neg h.not_gt, ?_⟩
    split
    · exact ⟨rfl, rfl⟩
    · split <;> exact ⟨by decide, by decide⟩

/-! ### The values of the format near the result -/

/-- A value w in units of the result's last place: a multiple of it, or less than the least value of full precision, which u is not below. -/
def NearGrid (f : Fmt) (u w : ℚ) : Prop := (∃ j : ℤ, w = j) ∨ (|w| < (2 ^ f.fb : Nat) ∧ ((2 ^ f.fb : Nat) : ℚ) ≤ u)

theorem NearGrid.neg {f : Fmt} {u w : ℚ} (h : NearGrid f u w) : NearGrid f u (-w) := by
  obtain ⟨j, rfl⟩ | ⟨hw, hu⟩ := h
  · exact .inl ⟨-j, by push_cast; rfl⟩
  · exact .inr ⟨by rwa [abs_neg], hu⟩

theorem NearGrid.abs {f : Fmt} {u w : ℚ} (h : NearGrid f u w) : NearGrid f u |w| := by
  obtain habs | habs := abs_choice w <;> rw [habs]
  exacts [h, h.neg]

theorem nearGrid_significand (f : Fmt) {m : Nat} (hm : 0 < m) (e : Int) (k : Nat) :
    NearGrid f (scaled m e (f.quantum m e)) (scaled (f.significand k) (f.lastPlace k) (f.quantum m e)) := by
  obtain h | h := le_or_gt (f.quantum m e) (f.lastPlace k)
  · exact .inl ⟨_, (scaled_of_le _ h).trans (Int.cast_natCast _).symm⟩
  · refine .inr ⟨?_, le_scaled_quantum f hm ((qmin_le_lastPlace f k).trans_lt h)⟩
    have hnn : 0 ≤ scaled (f.significand k) (f.lastPlace k) (f.quantum m e) := by
      unfold scaled
      positivity
    rw [abs_of_nonneg hnn]
    calc scaled (f.significand k) (f.lastPlace k) (f.quantum m e)
        ≤ f.significand k * 2 ^ (-1 : Int) := mul_le_mul_of_nonneg_left (zpow_le_zpow_right₀ one_le_two (by omega)) (Nat.cast_nonneg _)
      _ < (2 ^ (f.fb + 1) : Nat) * 2 ^ (-1 : Int) := mul_lt_mul_of_pos_right (by exact_mod_cast significand_lt f k) (by positivity)
      _ = (2 ^ f.fb : Nat) := by
        rw [pow_succ]
        push_cast
        ring

theorem RoundsTo.nearest_int {mode : Nat} {n : Bool} {u : ℚ} {t : Nat} (h : RoundsTo mode n u t) (hmode : mode = 0) (j : ℤ) :
    |u - t| ≤ |u - j| ∧ (|u - t| = |u - j| → (j : ℚ) ≠ t → t % 2 = 0) := by
  obtain ⟨hle, htie⟩ := h.nearest hmode
  obtain hj | hj := eq_or_ne j t
  · simp [hj]
  · -- another integer is at least 1 away from t
    have hone : (1 : ℚ) ≤ |(j : ℚ) - t| := by exact_mod_cast Int.one_le_abs (sub_ne_zero.2 hj)
    have htri : |(j : ℚ) - t| ≤ |u - j| + |u - t| := by
      rw [abs_sub_comm u j]
      exact abs_sub_le _ _ _
    exact ⟨by linarith, fun heq _ => htie (by linarith)⟩

section
variable {f : Fmt} {mode : Nat} {n : Bool} {u w : ℚ} {t : Nat} (h : RoundsTo mode n u t) (hw : NearGrid f u w)
include h hw

theorem RoundsTo.nearest_of_nearGrid (hmode : mode = 0) : |u - t| ≤ |u - w| ∧ (|u - t| = |u - w| → w ≠ t → t % 2 = 0) := by
  obtain ⟨j, rfl⟩ | ⟨hlt, hu⟩ := hw
  · exact h.nearest_int hmode j
  · -- the least value of full precision lies between w and u
    have hbelow : w < (2 ^ f.fb : Nat) := (le_abs_self w).trans_lt hlt
    have hnext := (h.nearest_int hmode (2 ^ f.fb : Nat)).1
    rw [Int.cast_natCast] at hnext
    have : |u - (2 ^ f.fb : Nat)| < |u - w| := by
      rw [abs_of_nonneg (by linarith), abs_of_nonneg (by linarith)]
      linarith
    exact ⟨by linarith, fun heq => by linarith⟩

theorem RoundsTo.inward_of_nearGrid (hi : Inward mode n) (hmode : mode < 4) : t ≤ u ∧ (w ≤ u → w ≤ t) := by
  refine ⟨(h.inward hi).1, fun hwu => ?_⟩
  obtain ⟨j, rfl⟩ | ⟨hlt, hu⟩ := hw
  · exact_mod_cast h.int_le hmode hwu
  · have := h.int_le hmode (j := (2 ^ f.fb : Nat)) (by exact_mod_cast hu)
    have hle : ((2 ^ f.fb : Nat) : ℚ) ≤ t := by exact_mod_cast this
    exact ((le_abs_self w).trans_lt hlt).le.trans hle

theorem RoundsTo.outward_of_nearGrid (ho : Outward mode n) (hmode : mode < 4) : u ≤ t ∧ (u ≤ w → t ≤ w) := by
  refine ⟨(h.outward ho).1, fun huw => ?_⟩
  obtain ⟨j, rfl⟩ | ⟨hlt, hu⟩ := hw
  · exact_mod_cast h.le_int hmode huw
  · exact absurd (hu.trans huw) ((le_abs_self w).trans_lt hlt).not_ge

end

end Sys2Proof.Machine
end
section
/-! LAW. The number formats: rounding is correct, and the exceptional results (R165, R169, R170, R237, R238). -/

namespace Sys2Proof.Machine

/-! ### Signed values -/

/-- The exact value of a sign, a significand and an exponent (R164). -/
def exactValue (n : Bool) (m : Nat) (e : Int) : ℚ := (if n then -1 else 1) * (m : ℚ) * 2 ^ e

/-- A magnitude a with the sign n. -/
def withSign (n : Bool) (a : ℚ) : ℚ := if n then -a else a

theorem exactValue_eq (n : Bool) (m : Nat) (e q : Int) : exactValue n m e = withSign n (scaled m e q) * 2 ^ q := by
  cases n <;> simp [exactValue, withSign, ← scaled_mul m e q]

@[simp] theorem withSign_inj (n : Bool) {a b : ℚ} : withSign n a = withSign n b ↔ a = b := by
  cases n <;> simp [withSign]

@[simp] theorem abs_withSign (n : Bool) (a : ℚ) : |withSign n a| = |a| := by
  cases n <;> simp [withSign]

theorem withSign_sub (n : Bool) (a b : ℚ) : withSign n a - withSign n b = withSign n (a - b) := by
  cases n <;> simp [withSign]; ring

/-- Every value has a magnitude, perhaps negative, against any sign. -/
theorem withSign_withSign (n n' : Bool) (a : ℚ) : withSign n a = withSign n' (withSign (n != n') a) := by
  cases n <;> cases n' <;> simp [withSign]

theorem NearGrid.withSign {f : Fmt} {u w : ℚ} (h : NearGrid f u w) (n : Bool) : NearGrid f u (withSign n w) := by
  cases n
  exacts [h, h.neg]

/-- R169: how a result y stands to the exact value x and any value z, of the format: nearest, or nearest on the mode's side. -/
def RightlyPlaced (mode : Nat) (even : Prop) (x y z : ℚ) : Prop :=
  (mode = 0 → |x - y| ≤ |x - z| ∧ (|x - y| = |x - z| → z ≠ y → even)) ∧
    (mode = 2 → x ≤ y ∧ (x ≤ z → y ≤ z)) ∧ (mode = 3 → y ≤ x ∧ (z ≤ x → z ≤ y)) ∧ (mode = 1 → |y| ≤ |x| ∧ (|z| ≤ |x| → |z| ≤ |y|))

theorem RightlyPlaced.imp {mode : Nat} {p p' : Prop} {x y z : ℚ} (h : RightlyPlaced mode p x y z) (hp : p → p') : RightlyPlaced mode p' x y z :=
  ⟨fun h0 => (h.1 h0).imp_right fun ht heq hne => hp (ht heq hne), h.2⟩

/-- The unit of the last place does not matter. -/
theorem RightlyPlaced.mul_right {mode : Nat} {even : Prop} {x y z c : ℚ} (hc : 0 < c) (h : RightlyPlaced mode even x y z) :
    RightlyPlaced mode even (x * c) (y * c) (z * c) := by
  unfold RightlyPlaced at h ⊢
  simpa only [← sub_mul, abs_mul, abs_of_pos hc, mul_le_mul_iff_left₀ hc, mul_left_inj' hc.ne', ne_eq] using h

theorem RoundsTo.rightlyPlaced {f : Fmt} {mode : Nat} {n : Bool} {u w : ℚ} {t : Nat} (h : RoundsTo mode n u t) (hmode : mode < 4) (hu : 0 ≤ u)
    (hw : NearGrid f u w) : RightlyPlaced mode (t % 2 = 0) (withSign n u) (withSign n t) (withSign n w) := by
  refine ⟨fun h0 => ?_, fun h2 => ?_, fun h3 => ?_, fun h1 => ?_⟩
  · simpa [withSign_sub] using h.nearest_of_nearGrid hw h0
  · cases n
    · exact h.outward_of_nearGrid hw (.inl ⟨h2, rfl⟩) hmode
    · simpa [withSign] using h.inward_of_nearGrid hw (.inr (.inl ⟨h2, rfl⟩)) hmode
  · cases n
    · exact h.inward_of_nearGrid hw (.inr (.inr ⟨h3, rfl⟩)) hmode
    · simpa [withSign] using h.outward_of_nearGrid hw (.inr ⟨h3, rfl⟩) hmode
  · simpa [abs_of_nonneg hu] using h.inward_of_nearGrid hw.abs (.inl h1) hmode

/-! ### Rounding is correct (R169) -/

theorem signed_even {f : Fmt} (h : f.Regular) (n : Bool) {k : Nat} (hk : k % 2 = 0) : f.signed n k % 2 = 0 := by
  have : 2 ∣ 2 ^ (f.eb + f.fb) := dvd_pow_self 2 (by have := h.1; omega)
  unfold Fmt.signed
  split <;> omega

theorem round_inexact_iff {f : Fmt} {mode : Nat} (hmode : mode < 4) (n : Bool) (m : Nat) (e : Int) {fl : FFlags}
    (h : if (f.multiple mode n m e).2 then fl = 0#5 else fl &&& NX ≠ 0#5) :
    fl &&& NX ≠ 0#5 ↔ scaled m e (f.quantum m e) ≠ (f.multiple mode n m e).1 := by
  rw [Fmt.multiple, ne_eq (scaled _ _ _), ← roundTo_exact_iff hmode]
  change _ ↔ ¬ (f.multiple mode n m e).2 = true
  split at h
  next hx => simp [hx, h]
  next hx => simp [hx, h]

/-- The value of the rounded bits, in the last place of the exact value. -/
theorem exactValue_roundedBits (f : Fmt) {mode : Nat} (hmode : mode < 4) (n : Bool) {m : Nat} (hm : 0 < m) (e : Int) :
    exactValue n (f.significand (f.roundedBits mode n m e)) (f.lastPlace (f.roundedBits mode n m e)) =
      withSign n (f.multiple mode n m e).1 * 2 ^ f.quantum m e := by
  have := magnitude_roundedBits f hmode n hm e
  unfold Fmt.magnitude at this
  cases n <;> simp [exactValue, withSign, this]

theorem round_correct {f : Fmt} (hf : f.Regular) {mode : Nat} (hmode : mode < 4) (sat n : Bool) {m : Nat} (hm : 0 < m) (e : Int)
    (hOF : (f.round mode sat n m e).2 &&& OF = 0#5) : ∃ n' m' e', f.read (f.round mode sat n m e).1 = .fin n' m' e' ∧
      ((f.round mode sat n m e).2 &&& NX ≠ 0#5 ↔ exactValue n' m' e' ≠ exactValue n m e) ∧
      ∀ b n'' m'' e'', f.read b = .fin n'' m'' e'' →
        RightlyPlaced mode ((f.round mode sat n m e).1 % 2 = 0) (exactValue n m e) (exactValue n' m' e') (exactValue n'' m'' e'') := by
  obtain ⟨-, hr⟩ | ⟨hle, fl, hr, -, hfl⟩ := round_cases f mode sat n hm e
  · rw [hr] at hOF
    exact absurd (show (OF ||| NX) &&& OF = 0#5 from hOF) (by decide)
  have hpos : (0 : ℚ) < 2 ^ f.quantum m e := by positivity
  rw [hr]
  refine ⟨n, _, _, read_signed hf n hle, ?_, fun b n'' m'' e'' hb => ?_⟩
  · rw [round_inexact_iff hmode n m e hfl, exactValue_roundedBits f hmode n hm, exactValue_eq n m e (f.quantum m e), ne_eq, ne_eq,
      mul_left_inj' hpos.ne', withSign_inj, eq_comm]
  · obtain ⟨k, -, -, rfl, rfl⟩ := eq_signed_of_read_eq_fin hf hb
    have hu : 0 ≤ scaled m e (f.quantum m e) := by
      unfold scaled
      positivity
    rw [exactValue_roundedBits f hmode n hm, exactValue_eq n m e (f.quantum m e), exactValue_eq n'' _ _ (f.quantum m e), withSign_withSign n'' n]
    exact (((multiple_roundsTo f hmode n m e).rightlyPlaced hmode hu ((nearGrid_significand f hm e k).withSign _)).mul_right hpos).imp
      fun ht => signed_even hf n (pack_even hf _ ht)

/-- A value of the format is rounded in its own last place. -/
theorem quantum_significand (f : Fmt) {k : Nat} (hk : 0 < f.significand k) : f.quantum (f.significand k) (f.lastPlace k) = f.lastPlace k := by
  have htop : Nat.log2 (f.significand k) < f.fb + 1 := (Nat.log2_lt hk.ne').2 (significand_lt f k)
  have hmin := qmin_le_lastPlace f k
  unfold Fmt.quantum
  obtain h | h := Nat.lt_or_ge k (2 ^ f.fb)
  · rw [lastPlace_eq_qmin h]
    omega
  · have := (Nat.le_log2 hk.ne').2 (le_significand h)
    omega

/-- A value of the format is its own rounding. -/
theorem round_significand (f : Fmt) (mode : Nat) (sat n : Bool) {k : Nat} (hk : k ≤ f.maxMag) :
    f.round mode sat n (f.significand k) (f.lastPlace k) = (f.signed n k, 0#5) := by
  obtain h0 | hpos := (f.significand k).eq_zero_or_pos
  · obtain rfl : k = 0 := by
      obtain h | h := Nat.lt_or_ge k (2 ^ f.fb)
      · rwa [Fmt.significand, if_pos h] at h0
      · exact absurd h0 ((Nat.two_pow_pos _).trans_le (le_significand h)).ne'
    exact if_pos h0
  have hmul : f.multiple mode n (f.significand k) (f.lastPlace k) = (f.significand k, true) := by
    rw [Fmt.multiple, quantum_significand f hpos, roundTo_of_le mode n _ le_rfl]
    simp
  have hbits : f.roundedBits mode n (f.significand k) (f.lastPlace k) = k := by
    rw [Fmt.roundedBits, hmul, quantum_significand f hpos, pack_significand]
  obtain ⟨hlt, -⟩ | ⟨-, fl, hr, -, hfl⟩ := round_cases f mode sat n hpos (f.lastPlace k)
  · exact absurd hk (hbits ▸ hlt).not_ge
  · rw [hmul, if_pos rfl] at hfl
    rw [hr, hbits, hfl]

theorem round_read {f : Fmt} (hf : f.Regular) {b : Nat} (hb : b < 2 ^ f.width) {n : Bool} {m : Nat} {e : Int} (h : f.read b = .fin n m e)
    (mode : Nat) (sat : Bool) : f.round mode sat n m e = (b, 0#5) := by
  obtain ⟨k, hk, hbk, rfl, rfl⟩ := eq_signed_of_read_eq_fin hf h
  rw [round_significand f mode sat n hk, ← hbk, Nat.mod_eq_of_lt hb]

/-- Settles O37: a value of the format is a multiple of the last place in which the exact value is rounded, or lies below the least value
with full precision, which the exact value does not. -/
theorem roundingIsCorrect : Obligations.RoundingIsCorrect := by
  intro f hf
  have hreg := regular_of_mem hf
  exact ⟨fun n m e mode sat hm hmode hOF => round_correct hreg hmode sat n hm e hOF,
    fun b n m e mode sat hb h => round_read hreg hb h mode sat⟩

/-! ### Overflow (R170) -/

/-- The magnitudes whose rounding is beyond the largest finite value mm * 2^ee. -/
def Beyond (mode : Nat) (n : Bool) (mm : Nat) (ee : Int) (x : ℚ) : Prop :=
  (mm : ℚ) * 2 ^ ee + 2 ^ ee ≤ x ∨ (Outward mode n ∧ (mm : ℚ) * 2 ^ ee < x) ∨
    (mode = 0 ∧ ((mm : ℚ) * 2 ^ ee + 2 ^ ee / 2 < x ∨ (mm : ℚ) * 2 ^ ee + 2 ^ ee / 2 = x ∧ mm % 2 = 1))

theorem Beyond.lt {mode : Nat} {n : Bool} {mm : Nat} {ee : Int} {x : ℚ} (h : Beyond mode n mm ee x) : (mm : ℚ) * 2 ^ ee < x := by
  have : (0 : ℚ) < 2 ^ ee := by positivity
  obtain h | ⟨-, h⟩ | ⟨-, h | ⟨h, -⟩⟩ := h <;> linarith

/-- In units of its last place, the bound is the one for rounding to an integer above mm. -/
theorem beyond_mul_iff {mode : Nat} {n : Bool} {u : ℚ} {t : Nat} (h : RoundsTo mode n u t) (hmode : mode < 4) (mm : Nat) (ee : Int) :
    Beyond mode n mm ee (u * 2 ^ ee) ↔ mm + 1 ≤ t := by
  have hc : (0 : ℚ) < 2 ^ ee := by positivity
  have h1 : (mm : ℚ) * 2 ^ ee + 2 ^ ee = (mm + 1) * 2 ^ ee := by ring
  have h2 : (mm : ℚ) * 2 ^ ee + 2 ^ ee / 2 = (mm + 1 / 2) * 2 ^ ee := by ring
  rw [h.succ_le_iff hmode, Beyond, h1, h2, mul_le_mul_iff_left₀ hc, mul_lt_mul_iff_left₀ hc, mul_lt_mul_iff_left₀ hc, mul_left_inj' hc.ne']

/-- The step from one exponent to a greater one covers the significand's whole range. -/
theorem two_pow_succ_mul_le (b : Nat) {p q : Int} (h : p < q) : ((2 ^ (b + 1) : Nat) : ℚ) * 2 ^ p ≤ (2 ^ b : Nat) * 2 ^ q := by
  rw [pow_succ, Nat.cast_mul, mul_assoc, Nat.cast_two, ← zpow_one_add₀ two_ne_zero]
  exact mul_le_mul_of_nonneg_left (zpow_le_zpow_right₀ one_le_two (by omega)) (Nat.cast_nonneg _)

theorem maxMag_lt_roundedBits_iff {f : Fmt} (hf : f.Regular) {mode : Nat} (hmode : mode < 4) (n : Bool) {m : Nat} (hm : 0 < m) (e : Int) :
    f.maxMag < f.roundedBits mode n m e ↔ Beyond mode n (f.significand f.maxMag) (f.lastPlace f.maxMag) (m * 2 ^ e) := by
  have hmag : f.maxMag < f.roundedBits mode n m e ↔ (f.significand f.maxMag : ℚ) * 2 ^ f.lastPlace f.maxMag + 2 ^ f.lastPlace f.maxMag ≤
      (f.multiple mode n m e).1 * 2 ^ f.quantum m e := by
    rw [← magnitude_roundedBits f hmode n hm e, ← Fmt.magnitude, ← magnitude_succ, (magnitude_strictMono f).le_iff_le, Nat.succ_le_iff]
  have hlow : ((2 ^ f.fb : Nat) : ℚ) ≤ f.significand f.maxMag := by exact_mod_cast le_significand (le_maxMag hf)
  have hhigh : (f.significand f.maxMag : ℚ) + 1 ≤ (2 ^ (f.fb + 1) : Nat) := by exact_mod_cast significand_lt f f.maxMag
  have hE : (0 : ℚ) < 2 ^ f.lastPlace f.maxMag := by positivity
  have hq : (0 : ℚ) < 2 ^ f.quantum m e := by positivity
  have hlow' := mul_le_mul_of_nonneg_right hlow hE.le
  have hhigh' := mul_le_mul_of_nonneg_right hhigh hE.le
  rw [hmag, ← scaled_mul m e (f.quantum m e)]
  obtain h | h | h := lt_trichotomy (f.quantum m e) (f.lastPlace f.maxMag)
  · -- the exact value lies below the largest binade
    have hstep := two_pow_succ_mul_le f.fb h
    have hx := mul_lt_mul_of_pos_right (scaled_quantum_lt f m e) hq
    have ht : ((f.multiple mode n m e).1 : ℚ) * 2 ^ f.quantum m e ≤ (2 ^ (f.fb + 1) : Nat) * 2 ^ f.quantum m e :=
      mul_le_mul_of_nonneg_right (by exact_mod_cast multiple_le f hmode n m e) hq.le
    exact ⟨fun hle => by linarith, fun hb => absurd hb.lt (by linarith)⟩
  · rw [h, ← h, beyond_mul_iff (multiple_roundsTo f hmode n m e) hmode, h, ← add_one_mul, mul_le_mul_iff_left₀ hE]
    exact_mod_cast Iff.rfl
  · -- it lies above that binade
    have hfull := (qmin_le_lastPlace f f.maxMag).trans_lt h
    have hstep := two_pow_succ_mul_le f.fb h
    have hx := mul_le_mul_of_nonneg_right (le_scaled_quantum f hm hfull) hq.le
    have ht : ((2 ^ f.fb : Nat) : ℚ) * 2 ^ f.quantum m e ≤ (f.multiple mode n m e).1 * 2 ^ f.quantum m e :=
      mul_le_mul_of_nonneg_right (by exact_mod_cast le_multiple f hmode n hm hfull) hq.le
    exact ⟨fun _ => .inl (by linarith), fun _ => by linarith⟩

theorem overflow_eq (f : Fmt) {mode : Nat} (hmode : mode < 4) (sat n : Bool) : f.overflow mode sat n =
    if sat = true ∨ mode = 1 ∨ (mode = 2 ∧ n = true) ∨ (mode = 3 ∧ n = false) then f.signed n f.maxMag
    else if f.noInf then f.nan else f.signed n f.infMag := by
  obtain rfl | rfl | rfl | rfl : mode = 0 ∨ mode = 1 ∨ mode = 2 ∨ mode = 3 := by omega
  all_goals cases sat <;> cases n <;> rfl

theorem round_of_beyond {f : Fmt} (hf : f.Regular) {mode : Nat} (hmode : mode < 4) (sat n : Bool) {m : Nat} {e : Int}
    (h : Beyond mode n (f.significand f.maxMag) (f.lastPlace f.maxMag) (m * 2 ^ e)) : f.round mode sat n m e = (f.overflow mode sat n, OF ||| NX) := by
  have hm : 0 < m := by
    have hpos := (magnitude_nonneg f f.maxMag).trans_lt h.lt
    by_contra h0
    simp [Nat.eq_zero_of_not_pos h0] at hpos
  obtain ⟨-, hr⟩ | ⟨hle, -⟩ := round_cases f mode sat n hm e
  · exact hr
  · exact absurd ((maxMag_lt_roundedBits_iff hf hmode n hm e).2 h) hle.not_gt

theorem round_of_not_beyond {f : Fmt} (hf : f.Regular) {mode : Nat} (hmode : mode < 4) (sat n : Bool) {m : Nat} {e : Int}
    (h : ¬ Beyond mode n (f.significand f.maxMag) (f.lastPlace f.maxMag) (m * 2 ^ e)) : (f.round mode sat n m e).2 &&& OF = 0#5 := by
  obtain rfl | hm := m.eq_zero_or_pos
  · simp [Fmt.round, noFlag]
  obtain ⟨hlt, -⟩ | ⟨-, fl, hr, hOF, -⟩ := round_cases f mode sat n hm e
  · exact absurd ((maxMag_lt_roundedBits_iff hf hmode n hm e).1 hlt) h
  · rw [hr]
    exact hOF

/-! ### Invalid operations and division by zero (R165, R170, R237, R238) -/

theorem isNaN_iff {a : FVal} : isNaN a = true ↔ ∃ s, a = .nan s := by
  cases a <;> simp [isNaN]

theorem nan_operand {f : Fmt} (mode : Nat) {a b : FVal} (h : isNaN a = true ∨ isNaN b = true) :
    faddV f mode a b = nanRes f (isSig a || isSig b) ∧ fmulV f mode a b = nanRes f (isSig a || isSig b) ∧
      fdivV f mode a b = nanRes f (isSig a || isSig b) := by
  simp only [isNaN_iff] at h
  obtain ⟨s, rfl⟩ | ⟨s, rfl⟩ := h
  · exact ⟨rfl, rfl, rfl⟩
  · cases a <;> simp [faddV, fmulV, fdivV, isSig]

theorem ffmaV_nan {f : Fmt} (mode : Nat) {a b : FVal} (h : isNaN a = true ∨ isNaN b = true) (c : FVal) (hz : zeroTimesInf a b = false) :
    ffmaV f mode a b c = nanRes f (isSig a || isSig b || isSig c) := by
  have : (isNaN a || isNaN b || isNaN c) = true := by simp [h]
  simp [ffmaV, hz, this]

theorem nanRes_isSig (f : Fmt) (a b : FVal) : nanRes f (isSig a || isSig b) = (f.nan, if isSig a = true ∨ isSig b = true then NV else 0#5) := by
  simp [nanRes, noFlag]

theorem infBits_xor (f : Fmt) (n n' : Bool) : f.infBits (n != n') = if f.noInf then f.nan else f.signed (xor n n') f.infMag := rfl

/-- The invalid operations of R170 without a NaN, and division by zero. -/
theorem invalid_operands (f : Fmt) (mode : Nat) (n k : Bool) (m : Nat) (q : Int) :
    faddV f mode (.inf n) (.inf (!n)) = (f.nan, NV) ∧ fmulV f mode (.inf n) (.fin k 0 q) = (f.nan, NV) ∧
      fmulV f mode (.fin k 0 q) (.inf n) = (f.nan, NV) ∧ fdivV f mode (.inf n) (.inf k) = (f.nan, NV) ∧
      (∀ k' q', fdivV f mode (.fin k 0 q) (.fin k' 0 q') = (f.nan, NV)) ∧ (0 < m → fsqrtV f mode (.fin true m q) = (f.nan, NV)) ∧
      (0 < m → ∀ k' q', fdivV f mode (.fin k m q) (.fin k' 0 q') = (if f.noInf then f.nan else f.signed (xor k k') f.infMag, DZ)) ∧
      ∀ c, ffmaV f mode (.inf n) (.fin k 0 q) c = (f.nan, NV) ∧ ffmaV f mode (.fin k 0 q) (.inf n) c = (f.nan, NV) := by
  refine ⟨?_, rfl, rfl, rfl, fun _ _ => rfl, fun hm => ?_, fun hm k' q' => ?_, fun _ => ⟨rfl, rfl⟩⟩
  · cases n <;> rfl
  · simp [fsqrtV, hm.ne', nanRes]
  · rw [← infBits_xor]
    simp [fdivV, hm.ne']

/-- Settles O38: the operations' tables give the exceptional results; a magnitude overflows as the unit above the largest significand says. -/
theorem invalidOperandsAndOverflow : Obligations.InvalidOperandsAndOverflow := by
  intro f hf mode hmode
  have hreg := regular_of_mem hf
  refine ⟨fun a b h => ?nan, fun a h => ?root, invalid_operands f mode, fun sat n m e mm ee hmax => ?overflow⟩
  case nan =>
    obtain ⟨hadd, hmul, hdiv⟩ := nan_operand (f := f) mode h
    rw [nanRes_isSig] at hadd hmul hdiv
    exact ⟨hadd, hmul, hdiv, fun c hz => by rw [ffmaV_nan mode h c hz]; rfl⟩
  case root =>
    obtain ⟨s, rfl⟩ := isNaN_iff.1 h
    rfl
  case overflow =>
    have hread := read_signed hreg false le_rfl
    rw [show f.signed false f.maxMag = f.maxMag from rfl, hmax] at hread
    injection hread with _ hmm hee
    subst hmm hee
    exact ⟨fun h => by rw [← overflow_eq f hmode]; exact round_of_beyond hreg hmode sat n h, round_of_not_beyond hreg hmode sat n⟩

end Sys2Proof.Machine
end
section
/-! LAW. The decoder and the encoder (section 10 (R180-R199), section 20 (R331, R332)): O15, through the fields of an encoded word, the words that the
bytes hold, and the name that the words of an instruction have. -/

namespace Sys2Proof

/-! ### Fields of concatenated bits -/

section
variable {n m k : Nat}

theorem extract_mid (x : BitVec n) (y : BitVec m) (z : BitVec k) : (x ++ y ++ z).extractLsb' k m = y := by
  rw [BitVec.extractLsb'_append_eq_of_le (Nat.le_refl k), Nat.sub_self]
  exact BitVec.extractLsb'_append_eq_right

theorem extract_above {start len : Nat} (x : BitVec n) (y : BitVec k) (h : k ≤ start) :
    (x ++ y).extractLsb' start len = x.extractLsb' (start - k) len := BitVec.extractLsb'_append_eq_of_le h

theorem extract_low (x : BitVec n) (y : BitVec m) (z : BitVec k) : (x ++ (y ++ z)).extractLsb' 0 k = z := by
  rw [BitVec.extractLsb'_append_eq_of_add_le (by omega)]
  exact BitVec.extractLsb'_append_eq_right

end

/-! ### Word 0 of an instruction (R181-R183) -/

/-- Word 0: bits [31:11], MAJ, SP, SW and L. -/
def word0 (hi : BitVec 21) (maj : BitVec 7) (m : Marks) (l : BitVec 2) : Word :=
  hi ++ maj ++ BitVec.ofBool m.sp ++ BitVec.ofBool m.sw ++ l

section
variable (hi : BitVec 21) (maj : BitVec 7) (m : Marks) (l : BitVec 2)

@[simp] theorem word0_high (k n : Nat) (h : 11 ≤ k) : (word0 hi maj m l).extractLsb' k n = hi.extractLsb' (k - 11) n := by
  unfold word0
  rw [extract_above _ _ (by omega), extract_above _ _ (by omega), extract_above _ _ (by omega), extract_above _ _ (by omega)]
  congr 1

@[simp] theorem word0_maj : (word0 hi maj m l).extractLsb' 4 7 = maj := by
  unfold word0
  rw [extract_above _ _ (by omega), extract_above _ _ (by omega), extract_above _ _ (by omega)]
  exact BitVec.extractLsb'_append_eq_right

@[simp] theorem word0_sp : (word0 hi maj m l)[3] = m.sp := by
  unfold word0
  rw [← BitVec.getLsbD_eq_getElem, BitVec.getLsbD_append, BitVec.getLsbD_append, BitVec.getLsbD_append]
  simp

@[simp] theorem word0_sw : (word0 hi maj m l)[2] = m.sw := by
  unfold word0
  rw [← BitVec.getLsbD_eq_getElem, BitVec.getLsbD_append, BitVec.getLsbD_append]
  simp

@[simp] theorem word0_l : (word0 hi maj m l).toNat % 4 = l.toNat := by
  unfold word0
  rw [BitVec.toNat_append, ← Nat.shiftLeft_add_eq_or_of_lt l.isLt, Nat.shiftLeft_eq]
  omega

end

/-! ### The fields of bits [31:11] and of a literal (R181, R182) -/

section
variable (off : BitVec 17) (inv : Bool) (k : BitVec 3) (h : BitVec 4) (maj : BitVec 7) (m : Marks) (l : BitVec 2)

/-- `BRC`: offset, sense and predicate. -/
def branchFields : BitVec 21 := off ++ BitVec.ofBool inv ++ k
/-- `BHE`, `BHN` and `APPLY`: offset and hand. -/
def handBranchFields : BitVec 21 := off ++ h

@[simp] theorem branchFields_offset : (branchFields off inv k).extractLsb' 4 17 = off :=
  (extract_above _ k (by decide)).trans BitVec.extractLsb'_append_eq_left
@[simp] theorem branchFields_inv : (word0 (branchFields off inv k) maj m l)[14] = inv := by
  unfold word0 branchFields
  simp only [← BitVec.getLsbD_eq_getElem, BitVec.getLsbD_append]
  simp
@[simp] theorem branchFields_k : (branchFields off inv k).extractLsb' 0 3 = k := BitVec.extractLsb'_append_eq_right
@[simp] theorem handBranchFields_offset : (handBranchFields off h).extractLsb' 4 17 = off := BitVec.extractLsb'_append_eq_left
@[simp] theorem handBranchFields_h : (handBranchFields off h).extractLsb' 0 4 = h := BitVec.extractLsb'_append_eq_right

end

section
variable (off : BitVec 15) (n : BitVec 6)

/-- `LOOP`: offset and scalar register. -/
def loopFields : BitVec 21 := off ++ n

@[simp] theorem loopFields_offset : (loopFields off n).extractLsb' 6 15 = off := BitVec.extractLsb'_append_eq_left
@[simp] theorem loopFields_s : (loopFields off n).extractLsb' 0 6 = n := BitVec.extractLsb'_append_eq_right

end

section
variable (n : BitVec 3) (b a d : BitVec 4)

/-- The base forms of the hand logic: sub-opcode and three hands. -/
def logicFields : BitVec 21 := 0#6 ++ n ++ b ++ a ++ d

@[simp] theorem logicFields_d : (logicFields n b a d).extractLsb' 0 4 = d := BitVec.extractLsb'_append_eq_right
@[simp] theorem logicFields_a : (logicFields n b a d).extractLsb' 4 4 = a := extract_mid _ a d
@[simp] theorem logicFields_b : (logicFields n b a d).extractLsb' 8 4 = b := (extract_above _ d (by decide)).trans (extract_mid _ b a)
@[simp] theorem logicFields_n : (logicFields n b a d).extractLsb' 12 3 = n :=
  (extract_above _ d (by decide)).trans ((extract_above _ a (by decide)).trans (extract_mid _ n b))

end

/-- A scalar register, and a count of a shift, in a field of seven bits. -/
def sField (a : BitVec 6) : BitVec 7 := 0#1 ++ a
def shiftField (n : BitVec 5) : BitVec 7 := 0#2 ++ n

section
variable (n : BitVec 2) (b : BitVec 7) (b6 : BitVec 6) (a : BitVec 4) (d : BitVec 6)

/-- The base forms of the hand queries: sub-opcode, operand B, hand and scalar register. -/
def queryFields : BitVec 21 := 0#2 ++ n ++ b ++ a ++ d

@[simp] theorem queryFields_d : (queryFields n b a d).extractLsb' 0 6 = d := BitVec.extractLsb'_append_eq_right
@[simp] theorem queryFields_a : (queryFields n b a d).extractLsb' 6 4 = a := extract_mid _ a d
@[simp] theorem queryFields_b : (queryFields n (sField b6) a d).extractLsb' 10 6 = b6 :=
  (extract_above _ d (by decide)).trans ((extract_above _ a (by decide)).trans (extract_low _ 0#1 b6))
@[simp] theorem queryFields_n : (queryFields n b a d).extractLsb' 17 2 = n :=
  (extract_above _ d (by decide)).trans ((extract_above _ a (by decide)).trans (extract_mid _ n b))

end

section
variable (b a d : BitVec 7) (a6 d6 : BitVec 6) (n : BitVec 5)

/-- The base forms with three operand fields of seven bits. -/
def threeFields : BitVec 21 := b ++ a ++ d

@[simp] theorem threeFields_d : (threeFields b a d).extractLsb' 0 7 = d := BitVec.extractLsb'_append_eq_right
@[simp] theorem threeFields_a : (threeFields b a d).extractLsb' 7 7 = a := extract_mid b a d
@[simp] theorem threeFields_b : (threeFields b a d).extractLsb' 14 7 = b :=
  (extract_above (b ++ a) d (by decide)).trans BitVec.extractLsb'_append_eq_left
@[simp] theorem threeFields_d6 : (threeFields b a (sField d6)).extractLsb' 0 6 = d6 := extract_low _ 0#1 d6
@[simp] theorem threeFields_a6 : (threeFields b (sField a6) d).extractLsb' 7 6 = a6 :=
  (extract_above _ d (by decide)).trans (extract_low b 0#1 a6)
@[simp] theorem threeFields_b6 : (threeFields (sField a6) a d).extractLsb' 14 6 = a6 :=
  (extract_above _ d (by decide)).trans ((extract_above _ a (by decide)).trans BitVec.extractLsb'_append_eq_right)
@[simp] theorem threeFields_n : (threeFields (shiftField n) a d).extractLsb' 14 5 = n :=
  (extract_above _ d (by decide)).trans ((extract_above _ a (by decide)).trans BitVec.extractLsb'_append_eq_right)

end

section
variable (va : BitVec 8) (nc : BitVec 4) (vb : BitVec 8) (nw : BitVec 4)

@[simp] theorem applyLit_va : (applyLit va nc vb nw).extractLsb' 0 8 = va := BitVec.extractLsb'_append_eq_right
@[simp] theorem applyLit_nc : (applyLit va nc vb nw).extractLsb' 8 4 = nc := extract_mid _ nc va
@[simp] theorem applyLit_vb : (applyLit va nc vb nw).extractLsb' 12 8 = vb :=
  (extract_above _ va (by decide)).trans (extract_mid _ vb nc)
@[simp] theorem applyLit_nw : (applyLit va nc vb nw).extractLsb' 20 4 = nw :=
  (extract_above _ va (by decide)).trans ((extract_above _ nc (by decide)).trans (extract_mid _ nw vb))

end

/-- The two words of a literal. -/
@[simp] theorem literal_words (v : DWord) : (v.extractLsb' 32 32 ++ v.extractLsb' 0 32 : DWord) = v := by
  rw [BitVec.extractLsb'_append_extractLsb'_eq_extractLsb' (by rfl)]
  exact BitVec.extractLsb'_eq_self

/-! ### The words of an extended form (R183) -/

section
variable (x : Ext) (maj : BitVec 7) (sub : BitVec 8)

/-- Bits [31:11] of word 0 of an extended form. -/
def Ext.high : BitVec 21 := 0#5 ++ x.hint ++ x.ty ++ sub
/-- Word 1: four operand fields. -/
def Ext.word1 : Word := x.c ++ x.b ++ x.a ++ x.d
/-- Word 2: immediate, modifiers, guards and field E. -/
def Ext.word2 : Word := x.imm ++ x.mod ++ BitVec.ofBool x.sat ++ x.rnd ++ x.g2 ++ x.g1 ++ x.e

@[simp] theorem Ext.high_sub : (x.high sub).extractLsb' 0 8 = sub := BitVec.extractLsb'_append_eq_right
@[simp] theorem Ext.high_ty : (x.high sub).extractLsb' 8 5 = x.ty := extract_mid _ x.ty sub
@[simp] theorem Ext.high_hint : (x.high sub).extractLsb' 13 3 = x.hint :=
  (extract_above _ sub (by decide)).trans (extract_mid _ x.hint x.ty)

@[simp] theorem Ext.word1_d : x.word1.extractLsb' 0 8 = x.d := BitVec.extractLsb'_append_eq_right
@[simp] theorem Ext.word1_a : x.word1.extractLsb' 8 8 = x.a := extract_mid _ x.a x.d
@[simp] theorem Ext.word1_b : x.word1.extractLsb' 16 8 = x.b := (extract_above _ x.d (by decide)).trans (extract_mid _ x.b x.a)
@[simp] theorem Ext.word1_c : x.word1.extractLsb' 24 8 = x.c :=
  (extract_above _ x.d (by decide)).trans ((extract_above _ x.a (by decide)).trans BitVec.extractLsb'_append_eq_left)

@[simp] theorem Ext.word2_e : x.word2.extractLsb' 0 8 = x.e := BitVec.extractLsb'_append_eq_right
@[simp] theorem Ext.word2_g1 : x.word2.extractLsb' 8 4 = x.g1 := extract_mid _ x.g1 x.e
@[simp] theorem Ext.word2_g2 : x.word2.extractLsb' 12 4 = x.g2 := (extract_above _ x.e (by decide)).trans (extract_mid _ x.g2 x.g1)
@[simp] theorem Ext.word2_rnd : x.word2.extractLsb' 16 3 = x.rnd :=
  (extract_above _ x.e (by decide)).trans ((extract_above _ x.g1 (by decide)).trans (extract_mid _ x.rnd x.g2))
@[simp] theorem Ext.word2_sat : x.word2[19] = x.sat := by
  unfold Ext.word2
  simp only [← BitVec.getLsbD_eq_getElem, BitVec.getLsbD_append]
  simp
@[simp] theorem Ext.word2_mod : x.word2.extractLsb' 20 4 = x.mod := by
  unfold Ext.word2
  rw [extract_above _ _ (by decide), extract_above _ _ (by decide), extract_above _ _ (by decide), extract_above _ _ (by decide)]
  exact extract_mid x.imm x.mod (BitVec.ofBool x.sat)
@[simp] theorem Ext.word2_imm : x.word2.extractLsb' 24 8 = x.imm := by
  unfold Ext.word2
  rw [extract_above _ _ (by decide), extract_above _ _ (by decide), extract_above _ _ (by decide), extract_above _ _ (by decide),
    extract_above _ _ (by decide)]
  exact BitVec.extractLsb'_append_eq_left

/-- The container is read back field by field. -/
theorem extOf_words (l : BitVec 2) : extOf (word0 (x.high sub) maj x.m l) x.word1 x.word2 x.lit = x := by
  simp [extOf]

theorem encodeExt_eq : encodeExt maj sub x = match x.lit with
    | none => [word0 (x.high sub) maj x.m 1#2, x.word1, x.word2]
    | some v => [word0 (x.high sub) maj x.m 3#2, x.word1, x.word2, v.extractLsb' 0 32, v.extractLsb' 32 32] := by
  unfold encodeExt
  cases x.lit <;> rfl

/-- L, MAJ and SUB of an extended form name its row of the opcode map. -/
theorem nameWords_encodeExt (hm : isControl maj.toNat = false) :
    nameWords (encodeExt maj sub x) = Instr.ofExt maj.toNat sub.toNat x := by
  have hx := extOf_words x maj sub
  rw [encodeExt_eq]
  cases hl : x.lit with
  | none =>
    rw [hl] at hx
    simp [nameWords, hm, hx]
  | some v =>
    rw [hl] at hx
    simp [nameWords, hm, hx]

end

/-! ### MAJ and SUB name the instruction (R195-R198) -/

@[simp] theorem Cond.ofCode_code (c : Cond) : Cond.ofCode c.code.toNat = some c := by cases c <;> rfl
@[simp] theorem KOp.ofCode_code (o : KOp) : KOp.ofCode o.code.toNat = some o := by cases o <;> rfl
@[simp] theorem ShflMode.ofCode_code (o : ShflMode) : ShflMode.ofCode o.code.toNat = some o := by cases o <;> rfl
@[simp] theorem RedOp.ofCode_code (o : RedOp) : RedOp.ofCode o.code.toNat = some o := by cases o <;> rfl
@[simp] theorem AtomOp.ofCode_code (o : AtomOp) : AtomOp.ofCode o.code.toNat = some o := by cases o <;> rfl

/-- The majors of the extended forms are no control majors. -/
theorem key_not_control {i : Instr} {x : Ext} (h : i.ext? = some x) : isControl i.key.1.toNat = false := by
  cases i <;> cases h <;> rfl

/-- A sub-opcode whose top bit is a flag. -/
theorem flagged_toNat (f : Bool) (c : BitVec 7) : (BitVec.ofBool f ++ c : BitVec 8).toNat = 128 * f.toNat + c.toNat := by
  rw [BitVec.toNat_append, ← Nat.shiftLeft_add_eq_or_of_lt c.isLt, Nat.shiftLeft_eq, BitVec.toNat_ofBool]
  omega

@[simp] theorem flagged_low (f : Bool) (c : BitVec 7) : (BitVec.ofBool f ++ c : BitVec 8).toNat % 128 = c.toNat := by
  have := c.isLt
  rw [flagged_toNat]
  omega

@[simp] theorem flagged_high (f : Bool) (c : BitVec 7) : decide (128 ≤ (BitVec.ofBool f ++ c : BitVec 8).toNat) = f := by
  have := c.isLt
  rw [flagged_toNat]
  cases f
  · simp
    omega
  · simp

section
variable (sub : Nat) (x : Ext)

/-! Majors whose sub-opcode carries a condition, an operation, a type or a scope. -/

theorem ofExt_htest : Instr.ofExt 0x10 sub x = (Cond.ofCode (sub % 128)).map fun c => .htest c (decide (128 ≤ sub)) x := rfl
theorem ofExt_htesti : Instr.ofExt 0x11 sub x = (Cond.ofCode (sub % 128)).map fun c => .htesti c (decide (128 ≤ sub)) x := rfl
theorem ofExt_hbit : Instr.ofExt 0x12 sub x = if sub % 128 == 0 then some (.hbit (decide (128 ≤ sub)) x) else none := rfl
theorem ofExt_lscan : Instr.ofExt 0x52 sub x = (RedOp.ofCode (sub % 128)).map fun o => .lscan (decide (128 ≤ sub)) o x := rfl
theorem ofExt_topki : Instr.ofExt 0x55 sub x = if sub < 4 then some (.topki (BitVec.ofNat 2 sub) x) else none := rfl
theorem ofExt_cvt : Instr.ofExt 0x4C sub x = if sub < 32 then some (.cvt (BitVec.ofNat 5 sub) x) else none := rfl
theorem ofExt_sred : Instr.ofExt 0x5D sub x = (AtomOp.ofCode sub).bind fun o => if o.reduces then some (.sred o x) else none := rfl
theorem ofExt_fence : Instr.ofExt 0x66 sub x =
    if sub < 32 then some (.fence (BitVec.ofNat 2 (sub / 8)) (BitVec.ofNat 3 (sub % 8)) x) else none := rfl

end

/-- `SRED` takes the operations that reduce (R254). -/
theorem reduces_of_wellFormed {o : AtomOp} {x : Ext} (h : (Instr.sred o x).wellFormed = true) : o.reduces = true := by
  simp only [Instr.wellFormed, Instr.fields, Instr.ext?, checkExt, Bool.and_eq_true] at h
  exact h.2

theorem zeroPadded_toNat {n k : Nat} (y : BitVec k) : (0#n ++ y).toNat = y.toNat := by simp [BitVec.toNat_append]

/-- The sub-opcode of `FENCE` holds its order and its scope. -/
theorem fenceCode_toNat (order : BitVec 2) (scope : BitVec 3) : (0#3 ++ order ++ scope : BitVec 8).toNat = 8 * order.toNat + scope.toNat := by
  rw [BitVec.toNat_append, ← Nat.shiftLeft_add_eq_or_of_lt scope.isLt, Nat.shiftLeft_eq, BitVec.toNat_append]
  simp
  omega

theorem fenceCode_fields (order : BitVec 2) (scope : BitVec 3) (x : Ext) :
    Instr.ofExt 0x66 (0#3 ++ order ++ scope : BitVec 8).toNat x = some (.fence order scope x) := by
  have ho := order.isLt
  have hs := scope.isLt
  have hord : (8 * order.toNat + scope.toNat) / 8 = order.toNat := by omega
  have hsc : (8 * order.toNat + scope.toNat) % 8 = scope.toNat := by omega
  rw [fenceCode_toNat, ofExt_fence, if_pos (by omega), hord, hsc, BitVec.ofNat_toNat, BitVec.ofNat_toNat, BitVec.setWidth_eq, BitVec.setWidth_eq]

/-- MAJ and SUB name the extended instruction, where its fields are ones that its encoding admits. -/
theorem ofExt_key {i : Instr} {x : Ext} (hx : i.ext? = some x) (hw : i.wellFormed = true) :
    Instr.ofExt i.key.1.toNat i.key.2.toNat x = some i := by
  cases i <;> cases hx
  case htest c f => exact (ofExt_htest (BitVec.ofBool f ++ c.code : BitVec 8).toNat x).trans (by simp)
  case htesti c f => exact (ofExt_htesti (BitVec.ofBool f ++ c.code : BitVec 8).toNat x).trans (by simp)
  case hbit f => exact (ofExt_hbit (BitVec.ofBool f ++ 0#7 : BitVec 8).toNat x).trans (by simp)
  case lscan f o =>
    have hsub : (Instr.lscan f o x).key.2 = (BitVec.ofBool f ++ (0#3 ++ o.code : BitVec 7) : BitVec 8) := by cases o <;> cases f <;> rfl
    have hop : RedOp.ofCode (0#3 ++ o.code : BitVec 7).toNat = some o := by cases o <;> rfl
    rw [hsub]
    refine (ofExt_lscan _ x).trans ?_
    rw [flagged_low, flagged_high, hop, Option.map_some]
  case topki k => exact (ofExt_topki (0#6 ++ k : BitVec 8).toNat x).trans (by
      rw [zeroPadded_toNat, if_pos k.isLt, BitVec.ofNat_toNat, BitVec.setWidth_eq])
  case cvt src => exact (ofExt_cvt (0#3 ++ src : BitVec 8).toNat x).trans (by
      rw [zeroPadded_toNat, if_pos src.isLt, BitVec.ofNat_toNat, BitVec.setWidth_eq])
  case sred o => exact (ofExt_sred o.code.toNat x).trans (by simp [reduces_of_wellFormed hw])
  case fence order scope => exact fenceCode_fields order scope x
  case iset c => cases c <;> rfl
  case scmp c => cases c <;> rfl
  case fset c => cases c <;> rfl
  case kop o => cases o <;> rfl
  case shfl o => cases o <;> rfl
  case lred o => cases o <;> rfl
  case atom o => cases o <;> rfl
  all_goals rfl

/-- What MAJ and SUB name has the container as its fields. -/
theorem ext_of_ofExt {maj sub : Nat} {x : Ext} {i : Instr} (h : Instr.ofExt maj sub x = some i) : i.ext? = some x := by
  unfold Instr.ofExt at h
  split at h
  all_goals first
    | (split at h <;> cases h <;> rfl)
    | (obtain ⟨_, -, rfl⟩ := Option.map_eq_some_iff.1 h; rfl)
    | (obtain ⟨_, -, ho⟩ := Option.bind_eq_some_iff.1 h; split at ho <;> cases ho <;> rfl)
    | cases h

/-- An extended form's words have its name. -/
theorem encode_of_ext {i : Instr} {x : Ext} (hx : i.ext? = some x) : i.encode = encodeExt i.key.1 i.key.2 x := by
  cases i <;> cases hx <;> rfl

theorem nameWords_encode_ext {i : Instr} {x : Ext} (hx : i.ext? = some x) (hw : i.wellFormed = true) : nameWords i.encode = some i := by
  rw [encode_of_ext hx, nameWords_encodeExt _ _ _ (key_not_control hx), ofExt_key hx hw]

/-! ### Base forms (R181, R182) -/

theorem encodeBase_eq (m : Marks) (maj : BitVec 7) (hi : BitVec 21) (lit : Option DWord) : encodeBase m maj hi lit = match lit with
    | none => [word0 hi maj m 0#2]
    | some v => [word0 hi maj m 2#2, v.extractLsb' 0 32, v.extractLsb' 32 32] := by
  cases lit <;> rfl

/-- L of a base form. -/
def baseL (lit : Option DWord) : BitVec 2 := if lit.isSome then 2#2 else 0#2

theorem nameWords_encodeBase (m : Marks) (maj : BitVec 7) (hi : BitVec 21) (lit : Option DWord) :
    nameWords (encodeBase m maj hi lit) = Instr.ofBase (word0 hi maj m (baseL lit)) lit := by
  rw [encodeBase_eq]
  cases lit with
  | none => simp [nameWords, baseL]
  | some v => simp [nameWords, baseL]

theorem sField_eq_zero {a : BitVec 6} : sField a = 0#7 ↔ a = 0#6 := by
  simp only [sField, ← BitVec.toNat_inj, zeroPadded_toNat, BitVec.toNat_ofNat, Nat.zero_mod]

/-- L and MAJ of a base form, with a sub-opcode in bits [31:11], name it. -/
theorem nameWords_encode_base {i : Instr} (hx : i.ext? = none) (hc : i.core = true) (hw : i.wellFormed = true) :
    nameWords i.encode = some i := by
  cases i
  case nop m => exact (nameWords_encodeBase m 0#7 0#21 none).trans (by simp [Instr.ofBase])
  case bra m off => exact (nameWords_encodeBase m 1#7 off none).trans (by simp [Instr.ofBase])
  case brc m off inv k => exact (nameWords_encodeBase m 2#7 (branchFields off inv k) none).trans (by simp [Instr.ofBase])
  case bhe m off h => exact (nameWords_encodeBase m 3#7 (handBranchFields off h) none).trans (by simp [Instr.ofBase])
  case bhn m off h => exact (nameWords_encodeBase m 4#7 (handBranchFields off h) none).trans (by simp [Instr.ofBase])
  case loop m off s => exact (nameWords_encodeBase m 5#7 (loopFields off s) none).trans (by simp [Instr.ofBase])
  case call m off => exact (nameWords_encodeBase m 6#7 off none).trans (by simp [Instr.ofBase])
  case calls m a => exact (nameWords_encodeBase m 7#7 (threeFields 0#7 (sField a) 0#7) none).trans (by simp [Instr.ofBase])
  case ret m => exact (nameWords_encodeBase m 8#7 0#21 none).trans (by simp [Instr.ofBase])
  case apply m off h va nc vb nw =>
    exact (nameWords_encodeBase m 9#7 (handBranchFields off h) (some (applyLit va nc vb nw))).trans (by simp [Instr.ofBase])
  case done m => exact (nameWords_encodeBase m 10#7 0#21 none).trans (by simp [Instr.ofBase])
  case yield m => exact (nameWords_encodeBase m 11#7 0#21 none).trans (by simp [Instr.ofBase])
  case exit m => exact (nameWords_encodeBase m 12#7 0#21 none).trans (by simp [Instr.ofBase])
  case horBase m d a b => exact (nameWords_encodeBase m 0x13#7 (logicFields 0#3 b a d) none).trans (by simp [Instr.ofBase])
  case handBase m d a b => exact (nameWords_encodeBase m 0x13#7 (logicFields 1#3 b a d) none).trans (by simp [Instr.ofBase])
  case handnBase m d a b => exact (nameWords_encodeBase m 0x13#7 (logicFields 2#3 b a d) none).trans (by simp [Instr.ofBase])
  case hxorBase m d a b => exact (nameWords_encodeBase m 0x13#7 (logicFields 3#3 b a d) none).trans (by simp [Instr.ofBase])
  case hnotBase m d a => exact (nameWords_encodeBase m 0x13#7 (logicFields 4#3 0#4 a d) none).trans (by simp [Instr.ofBase])
  case hmovBase m d a => exact (nameWords_encodeBase m 0x13#7 (logicFields 5#3 0#4 a d) none).trans (by simp [Instr.ofBase])
  case hcntBase m d a => exact (nameWords_encodeBase m 0x14#7 (queryFields 0#2 0#7 a d) none).trans (by simp [Instr.ofBase])
  case hfirstBase m d a => exact (nameWords_encodeBase m 0x14#7 (queryFields 1#2 0#7 a d) none).trans (by simp [Instr.ofBase])
  case hmembBase m d a b lit => exact (nameWords_encodeBase m 0x14#7 (queryFields 2#2 (sField b) a d) lit).trans (by simp [Instr.ofBase])
  case hposBase m d a b lit => exact (nameWords_encodeBase m 0x14#7 (queryFields 3#2 (sField b) a d) lit).trans (by simp [Instr.ofBase])
  case iaddBase m d a b lit => exact (nameWords_encodeBase m 0x20#7 (threeFields b a d) lit).trans (by simp [Instr.ofBase])
  case isubBase m d a b lit => exact (nameWords_encodeBase m 0x21#7 (threeFields b a d) lit).trans (by simp [Instr.ofBase])
  case andBase m d a b lit => exact (nameWords_encodeBase m 0x2A#7 (threeFields b a d) lit).trans (by simp [Instr.ofBase])
  case orBase m d a b lit => exact (nameWords_encodeBase m 0x2B#7 (threeFields b a d) lit).trans (by simp [Instr.ofBase])
  case xorBase m d a b lit => exact (nameWords_encodeBase m 0x2C#7 (threeFields b a d) lit).trans (by simp [Instr.ofBase])
  case shlBase m d a n lit => exact (nameWords_encodeBase m 0x2E#7 (threeFields (shiftField n) a d) lit).trans (by simp [Instr.ofBase])
  case shrBase m d a n lit => exact (nameWords_encodeBase m 0x2F#7 (threeFields (shiftField n) a d) lit).trans (by simp [Instr.ofBase])
  case movBase m d a => exact (nameWords_encodeBase m 0x36#7 (threeFields 0#7 a d) none).trans (by simp [Instr.ofBase])
  case saddBase m d a b lit => exact (nameWords_encodeBase m 0x38#7 (threeFields (sField b) (sField a) (sField d)) lit).trans (by
    simp only [Instr.wellFormed, Bool.and_eq_true, Bool.or_eq_true, bne_iff_ne] at hw
    have hb : lit = none → ¬ sField b = 0#7 := by
      rintro rfl hb
      exact (hw.2.resolve_left (by simp)) (sField_eq_zero.1 hb)
    simpa [Instr.ofBase] using hb)
  case smovBase m d a => exact (nameWords_encodeBase m 0x38#7 (threeFields 0#7 (sField a) (sField d)) none).trans (by simp [Instr.ofBase])
  case faddBase m d a b lit => exact (nameWords_encodeBase m 0x40#7 (threeFields b a d) lit).trans (by simp [Instr.ofBase])
  case fmulBase m d a b lit => exact (nameWords_encodeBase m 0x42#7 (threeFields b a d) lit).trans (by simp [Instr.ofBase])
  all_goals first | cases hc | cases hx

/-- The words of an instruction of an agent have its name. -/
theorem nameWords_encode {i : Instr} (hc : i.core = true) (hw : i.wellFormed = true) : nameWords i.encode = some i := by
  cases hx : i.ext? with
  | some x => exact nameWords_encode_ext hx hw
  | none => exact nameWords_encode_base hx hc hw

/-! ### What the words of an agent name is no word of the walker -/

theorem walks_of_ext {i : Instr} {x : Ext} (hx : i.ext? = some x) : i.walks = false := by
  cases i <;> cases hx <;> rfl

theorem walks_of_ofBase {w : Word} {lit : Option DWord} {i : Instr} (h : Instr.ofBase w lit = some i) : i.walks = false := by
  unfold Instr.ofBase at h
  dsimp only at h
  split at h
  all_goals first
    | (split at h <;> cases h <;> rfl)
    | (obtain ⟨_, -, rfl⟩ := Option.map_eq_some_iff.1 h; rfl)
    | (cases h <;> rfl)

theorem walks_of_nameWords {ws : List Word} {i : Instr} (h : nameWords ws = some i) : i.walks = false := by
  unfold nameWords at h
  split at h
  · split at h
    · exact walks_of_ofBase h
    · cases h
  · split at h
    · exact walks_of_ofBase h
    · split at h
      · cases h
      · exact walks_of_ext (ext_of_ofExt h)
  · split at h
    · cases h
    · exact walks_of_ext (ext_of_ofExt h)
  · cases h

/-! ### The decoder on words -/

/-- A named instruction is accepted where a test of it holds. -/
theorem tested_eq_ok {α ε : Type} (p : α → Prop) [DecidablePred p] (j i : α) (e : ε) :
    (if p j then Except.ok j else .error e) = .ok i ↔ some j = some i ∧ p i := by
  by_cases h : p j
  · rw [if_pos h, Except.ok.injEq, Option.some.injEq]
    exact ⟨fun e => ⟨e, e ▸ h⟩, And.left⟩
  · rw [if_neg h, Option.some.injEq]
    exact ⟨nofun, fun ⟨e, hi⟩ => absurd (e ▸ hi) h⟩

theorem decodeWords_eq_ok {ws : List Word} {i : Instr} :
    decodeWords ws = .ok i ↔ nameWords ws = some i ∧ i.encode = ws ∧ i.wellFormed = true := by
  unfold decodeWords
  cases nameWords ws with
  | none => simp
  | some j => simpa using tested_eq_ok (fun j : Instr => j.encode = ws ∧ j.wellFormed = true) j i _

/-! ### Words and their bytes (R5, R180) -/

@[simp] theorem wordBytes_wordOf (b0 b1 b2 b3 : Byte) : wordBytes (wordOf b0 b1 b2 b3) = [b0, b1, b2, b3] := by
  have h1 : (wordOf b0 b1 b2 b3).extractLsb' 8 8 = b1 := extract_mid (b3 ++ b2) b1 b0
  have h2 : (wordOf b0 b1 b2 b3).extractLsb' 16 8 = b2 := (extract_above (b3 ++ b2 ++ b1) b0 (by decide)).trans (extract_mid b3 b2 b1)
  have h3 : (wordOf b0 b1 b2 b3).extractLsb' 24 8 = b3 := (extract_above (b3 ++ b2 ++ b1) b0 (by decide)).trans
    ((extract_above (b3 ++ b2) b1 (by decide)).trans BitVec.extractLsb'_append_eq_left)
  have h0 : (wordOf b0 b1 b2 b3).extractLsb' 0 8 = b0 := BitVec.extractLsb'_append_eq_right
  rw [wordBytes, h0, h1, h2, h3]

theorem wordOf_wordBytes (w : Word) : wordOf (w.extractLsb' 0 8) (w.extractLsb' 8 8) (w.extractLsb' 16 8) (w.extractLsb' 24 8) = w := by
  unfold wordOf
  rw [BitVec.extractLsb'_append_extractLsb'_eq_extractLsb' (by rfl), BitVec.extractLsb'_append_extractLsb'_eq_extractLsb' (by rfl),
    BitVec.extractLsb'_append_extractLsb'_eq_extractLsb' (by rfl)]
  exact BitVec.extractLsb'_eq_self

theorem bytesOf_cons (w : Word) (ws : List Word) : bytesOf (w :: ws) = wordBytes w ++ bytesOf ws := List.flatMap_cons

/-- Words are read back from their bytes. -/
theorem takeWords_bytesOf (ws : List Word) (rest : List Byte) : takeWords ws.length (bytesOf ws ++ rest) = some (ws, rest) := by
  induction ws with
  | nil => rfl
  | cons w ws ih =>
    rw [bytesOf_cons, List.append_assoc]
    show (match takeWords ws.length (bytesOf ws ++ rest) with
      | some (vs, r) => some (wordOf (w.extractLsb' 0 8) (w.extractLsb' 8 8) (w.extractLsb' 16 8) (w.extractLsb' 24 8) :: vs, r)
      | none => none) = _
    rw [ih, wordOf_wordBytes]

/-- What is read as words is their bytes. -/
theorem eq_bytesOf_of_takeWords (n : Nat) :
    ∀ {bs rest : List Byte} {ws : List Word}, takeWords n bs = some (ws, rest) → bs = bytesOf ws ++ rest := by
  induction n with
  | zero =>
    intro bs rest ws h
    obtain ⟨rfl, rfl⟩ : [] = ws ∧ bs = rest := by simpa [takeWords] using h
    rfl
  | succ n ih =>
    intro bs rest ws h
    match bs with
    | b0 :: b1 :: b2 :: b3 :: tl =>
      rw [takeWords] at h
      split at h
      · next vs r htl =>
        obtain ⟨rfl, rfl⟩ : wordOf b0 b1 b2 b3 :: vs = ws ∧ r = rest := by simpa using h
        simp [bytesOf_cons, ih htl]
      · cases h
    | [] => cases h
    | [_] => cases h
    | [_, _] => cases h
    | [_, _, _] => cases h

/-! ### Lengths (R180) -/

theorem lengthOf_encodeExt (maj : BitVec 7) (sub : BitVec 8) (x : Ext) :
    ∃ w ws, encodeExt maj sub x = w :: ws ∧ (w :: ws).length = lengthOf w := by
  rw [encodeExt_eq]
  cases x.lit <;> exact ⟨_, _, rfl, by simp [lengthOf]⟩

theorem lengthOf_encodeBase (m : Marks) (maj : BitVec 7) (hi : BitVec 21) (lit : Option DWord) :
    ∃ w ws, encodeBase m maj hi lit = w :: ws ∧ (w :: ws).length = lengthOf w := by
  rw [encodeBase_eq]
  cases lit <;> exact ⟨_, _, rfl, by simp [lengthOf]⟩

/-- Words that name an instruction, and are its encoding, are as many as the first one says. -/
theorem lengthOf_of_nameWords {ws : List Word} {i : Instr} (h : nameWords ws = some i) (he : i.encode = ws) :
    ∃ w r, ws = w :: r ∧ ws.length = lengthOf w := by
  have hext {x : Ext} (hx : i.ext? = some x) : ∃ w r, ws = w :: r ∧ ws.length = lengthOf w := by
    obtain ⟨w, r, hw, hl⟩ := lengthOf_encodeExt i.key.1 i.key.2 x
    rw [← he, encode_of_ext hx, hw]
    exact ⟨w, r, rfl, hl⟩
  unfold nameWords at h
  split at h
  · split at h
    · next hl => exact ⟨_, _, rfl, by simp [lengthOf, eq_of_beq hl]⟩
    · cases h
  · split at h
    · next hl => exact ⟨_, _, rfl, by simp [lengthOf, eq_of_beq hl]⟩
    · split at h
      · cases h
      · exact hext (ext_of_ofExt h)
  · split at h
    · cases h
    · exact hext (ext_of_ofExt h)
  · cases h

/-! ### The decoder on bytes -/

/-- The decoder on the bytes of words that are as many as the first one says. -/
theorem decode_bytesOf {w : Word} {r : List Word} (hl : (w :: r).length = lengthOf w) (rest : List Byte) :
    decode (bytesOf (w :: r) ++ rest) = (decodeWords (w :: r)).map fun i => (i, rest) := by
  have ht := takeWords_bytesOf (w :: r) rest
  rw [hl] at ht
  rw [bytesOf_cons] at ht ⊢
  simp only [wordBytes, List.cons_append, List.nil_append] at ht ⊢
  rw [decode]
  simp only [wordOf_wordBytes, ht]
  cases decodeWords (w :: r) <;> rfl

/-- The decoder accepts the bytes of an encoding, and what follows stays. -/
theorem decode_encode {i : Instr} (hc : i.core = true) (hw : i.wellFormed = true) (rest : List Byte) :
    decode (bytesOf i.encode ++ rest) = .ok (i, rest) := by
  have hn := nameWords_encode hc hw
  obtain ⟨w, r, hws, hl⟩ := lengthOf_of_nameWords hn rfl
  rw [hws] at hl hn
  rw [hws, decode_bytesOf hl, decodeWords_eq_ok.2 ⟨hn, hws, hw⟩]
  rfl

/-- What the decoder accepts is a well-formed instruction of an agent, in its own encoding. -/
theorem encode_of_decode {bs rest : List Byte} {i : Instr} (h : decode bs = .ok (i, rest)) :
    i.core = true ∧ i.wellFormed = true ∧ bs = bytesOf i.encode ++ rest := by
  unfold decode at h
  split at h
  · dsimp only at h
    split at h
    · cases h
    · next ws r hws =>
      split at h
      · next j hj =>
        obtain ⟨rfl, rfl⟩ : j = i ∧ r = rest := by simpa using h
        obtain ⟨hn, he, hw⟩ := decodeWords_eq_ok.1 hj
        obtain ⟨w, vs, hne, -⟩ := lengthOf_of_nameWords hn he
        refine ⟨?_, hw, he ▸ eq_bytesOf_of_takeWords _ hws⟩
        simp [Instr.core, he, hne, walks_of_nameWords hn]
      · cases h
  · cases h

/-! ### The walker's words (R331, R332) -/

/-- A walker word. -/
def walkWord (imm : BitVec 14) (yb ya yd : BitVec 4) (op : BitVec 6) : Word := imm ++ yb ++ ya ++ yd ++ op

section
variable (imm : BitVec 14) (yb ya yd : BitVec 4) (op : BitVec 6)

@[simp] theorem walkWord_op : (walkWord imm yb ya yd op).extractLsb' 0 6 = op := BitVec.extractLsb'_append_eq_right
@[simp] theorem walkWord_yd : (walkWord imm yb ya yd op).extractLsb' 6 4 = yd := extract_mid _ yd op
@[simp] theorem walkWord_ya : (walkWord imm yb ya yd op).extractLsb' 10 4 = ya := (extract_above _ op (by decide)).trans (extract_mid _ ya yd)
@[simp] theorem walkWord_yb : (walkWord imm yb ya yd op).extractLsb' 14 4 = yb :=
  (extract_above _ op (by decide)).trans ((extract_above _ yd (by decide)).trans (extract_mid _ yb ya))
/-- The immediate, and a shorter field at its foot. -/
@[simp] theorem walkWord_imm (k : Nat) : (walkWord imm yb ya yd op).extractLsb' 18 k = imm.extractLsb' 0 k :=
  (extract_above _ op (by decide)).trans ((extract_above _ yd (by decide)).trans
    ((extract_above _ ya (by decide)).trans (extract_above imm yb (by decide))))

/-- The immediate field of a word that uses its low bits only. -/
def lowBits {k : Nat} (n : Nat) (x : BitVec k) : BitVec (n + k) := 0#n ++ x

@[simp] theorem lowBits_low {k : Nat} (n : Nat) (x : BitVec k) : (lowBits n x).extractLsb' 0 k = x := BitVec.extractLsb'_append_eq_right

end

/-- A word of the walker is one word, and its opcode names it. -/
theorem ofWalk_encode {i : Instr} (hk : i.walks = true) : ∃ w, i.encode = [w] ∧ Instr.ofWalk w = some i := by
  cases i
  case wend => exact ⟨walkWord 0#14 0#4 0#4 0#4 0x00#6, rfl, by simp [Instr.ofWalk]⟩
  case wldi yd imm => exact ⟨walkWord imm 0#4 0#4 yd 0x01#6, rfl, by simp [Instr.ofWalk]⟩
  case wadd yd ya yb imm => exact ⟨walkWord imm yb ya yd 0x02#6, rfl, by simp [Instr.ofWalk]⟩
  case wsub yd ya yb => exact ⟨walkWord 0#14 yb ya yd 0x03#6, rfl, by simp [Instr.ofWalk]⟩
  case wand yd ya yb => exact ⟨walkWord 0#14 yb ya yd 0x04#6, rfl, by simp [Instr.ofWalk]⟩
  case wshr yd ya n => exact ⟨walkWord (lowBits 9 n) 0#4 ya yd 0x05#6, rfl, by simp [Instr.ofWalk]⟩
  case wcmp ya yb => exact ⟨walkWord 0#14 yb ya 0#4 0x06#6, rfl, by simp [Instr.ofWalk]⟩
  case wbr t => exact ⟨walkWord (lowBits 6 t) 0#4 0#4 0#4 0x07#6, rfl, by simp [Instr.ofWalk]⟩
  case wbz ya t => exact ⟨walkWord (lowBits 6 t) 0#4 ya 0#4 0x08#6, rfl, by simp [Instr.ofWalk]⟩
  case wblt t => exact ⟨walkWord (lowBits 6 t) 0#4 0#4 0#4 0x09#6, rfl, by simp [Instr.ofWalk]⟩
  case wld yd ya src => exact ⟨walkWord (lowBits 10 src) 0#4 ya yd 0x0A#6, rfl, by simp [Instr.ofWalk]⟩
  case wbmn yd ya yb src => exact ⟨walkWord (lowBits 11 src) yb ya yd 0x0B#6, rfl, by simp [Instr.ofWalk]⟩
  case wrun yd yb ya src => exact ⟨walkWord (lowBits 11 src) yb ya yd 0x0C#6, rfl, by simp [Instr.ofWalk]⟩
  case wemit ya yb => exact ⟨walkWord 0#14 yb ya 0#4 0x0D#6, rfl, by simp [Instr.ofWalk]⟩
  case wrow ya => exact ⟨walkWord 0#14 0#4 ya 0#4 0x0E#6, rfl, by simp [Instr.ofWalk]⟩
  case wpush ya => exact ⟨walkWord 0#14 0#4 ya 0#4 0x0F#6, rfl, by simp [Instr.ofWalk]⟩
  case wpop yd => exact ⟨walkWord 0#14 0#4 0#4 yd 0x10#6, rfl, by simp [Instr.ofWalk]⟩
  case wsync => exact ⟨walkWord 0#14 0#4 0#4 0#4 0x11#6, rfl, by simp [Instr.ofWalk]⟩
  all_goals cases hk

theorem walks_of_ofWalk {w : Word} {i : Instr} (h : Instr.ofWalk w = some i) : i.walks = true := by
  unfold Instr.ofWalk at h
  dsimp only at h
  split at h <;> cases h <;> rfl

theorem decodeWalk_eq_ok {w : Word} {i : Instr} : decodeWalk w = .ok i ↔ Instr.ofWalk w = some i ∧ i.encode = [w] ∧ i.wellFormed = true := by
  unfold decodeWalk
  cases Instr.ofWalk w with
  | none => simp
  | some j => simpa using tested_eq_ok (fun j : Instr => j.encode = [w] ∧ j.wellFormed = true) j i _

/-- Settles O15: the fields of an encoded word are read back one by one, L, MAJ and SUB name the instruction, and the decoder accepts only
what encodes to the words it has read. -/
theorem decodeAndEncodeAgree : Obligations.DecodeAndEncodeAgree := by
  unfold Obligations.DecodeAndEncodeAgree
  refine ⟨fun i rest hc hw => decode_encode hc hw rest, fun i hk hw => ?_, fun bs rest i h => encode_of_decode h, fun w i h => ?_⟩
  · obtain ⟨w, he, hn⟩ := ofWalk_encode hk
    exact ⟨w, he, decodeWalk_eq_ok.2 ⟨hn, he, hw⟩⟩
  · obtain ⟨hn, he, hw⟩ := decodeWalk_eq_ok.1 h
    exact ⟨walks_of_ofWalk hn, hw, he⟩

end Sys2Proof
end
section
/-! LAW. The checks of R199 in their order (section 10 (R199), section 08 (R154, R192, R193)): O16, through the
header with which an instruction is issued. -/

namespace Sys2Proof.Machine

/-! ### The header of an instruction (R199) -/

/-- `APPLY` numbers its own checks (R206). -/
def Instr.numbersChecks (i : Instr) : Bool := match i with
  | .apply .. => true
  | _ => false

/-- What a header says of an instruction is what the predicates of R199 say of it. -/
structure HeaderOf (i : Instr) (s : State) (e : Env) (h : Hdr) : Prop where
  marks : h.m = i.marks
  words : h.words = i.len
  full : h.full = !counterOk i s e
  always : h.always = i.waitsAlways
  privileged : (h.illop || (h.priv && !e.g.ident)) = !privOk i e
  form : h.ok = formOk i e
  guards : h.guards = guardsOk i e
  role : roleOk h.role e.wg.role = rolesOk i e
  regs : h.regs = boundsOk i e
  own : h.own = Instr.numbersChecks i

/-- An outcome is that of an issue with the header of an instruction. -/
inductive Headed (i : Instr) (s : State) (e : Env) : Outcome → Prop
  | mk (h : Hdr) (body : State → Env → Res) : HeaderOf i s e h → Headed i s e (.next (issue h s e body))

section
variable {i : Instr} {x : Ext} (hx : i.ext? = some x)
include hx

theorem marks_of_ext : i.marks = x.m := by cases i <;> cases hx <;> rfl
theorem len_of_ext : i.len = x.words := by cases i <;> cases hx <;> rfl
theorem waitsAlways_of_ext : i.waitsAlways = Instr.waits i := by cases i <;> cases hx <;> rfl
theorem vecRegs_of_ext : i.vecRegs = none := by cases i <;> cases hx <;> rfl
theorem numbersChecks_of_ext : Instr.numbersChecks i = false := by cases i <;> cases hx <;> rfl
theorem boundsOk_of_ext (e : Env) : boundsOk i e = e.regsOk (i.fields.getD {}) x (e.opsOf i x) := by cases i <;> cases hx <;> rfl

theorem headerOf_ext (s : State) (e : Env) : HeaderOf i s e (extHdr i x s e) where
  marks := (marks_of_ext hx).symm
  words := (len_of_ext hx).symm
  full := by
    unfold counterOk extHdr
    cases Instr.cmdClass i <;> simp
  always := (waitsAlways_of_ext hx).symm
  privileged := by simp [extHdr, privOk]
  form := by simp [extHdr, formOk, hx, Env.opsOf]
  guards := by simp [extHdr, guardsOk, hx]
  role := by simp [extHdr, rolesOk, vecRegs_of_ext hx]
  regs := (boundsOk_of_ext hx e).symm
  own := (numbersChecks_of_ext hx).symm

/-- An extended form is issued with its own header. -/
theorem headed_runExt {s : State} {e : Env} (he : s.env? = some e) (body) : Headed i s e (runExt i x s body) := by
  rw [runExt_eq i x s e body he]
  exact .mk _ _ (headerOf_ext hx s e)

theorem headed_laneOp {s : State} {e : Env} (he : s.env? = some e) (wide f) : Headed i s e (laneOp i x wide s f) := headed_runExt hx he _
theorem headed_salu {s : State} {e : Env} (he : s.env? = some e) (f) : Headed i s e (salu i x s f) := headed_runExt hx he _
theorem headed_laneF {s : State} {e : Env} (he : s.env? = some e) (wide f) : Headed i s e (laneF i x wide s f) := headed_runExt hx he _
theorem headed_float1 {s : State} {e : Env} (he : s.env? = some e) (wide f) : Headed i s e (float1 i x wide s f) := headed_laneF hx he _ _
theorem headed_float2 {s : State} {e : Env} (he : s.env? = some e) (wide f) : Headed i s e (float2 i x wide s f) := headed_laneF hx he _ _

theorem headed_exec_ext {s : State} {e : Env} (he : s.env? = some e) : Headed i s e (exec i s) := by
  have hr := headed_runExt hx he
  have hl := headed_laneOp hx he
  have hu := headed_salu hx he
  have hf := headed_laneF hx he
  have hf1 := headed_float1 hx he
  have hf2 := headed_float2 hx he
  cases i with
  | htest _ _ _ | htesti _ _ _ | hbit _ _ | horExt _ | handExt _ | handnExt _ | hxorExt _ | hnotExt _ | hmovExt _ | hcntExt _ | hfirstExt _
  | hmembExt _ | hposExt _ | hpick _ | hrange _ | hfence _ | smovExt _ | smovi _ | scmp _ _ | kop _ _ | lred _ _ | lscan _ _ _ | vlane _
  | topki _ _ | bfpq _ | ld _ | st _ | lds _ | sts _ | atom _ _ | sred _ _ | pref _ | ldo _ | sto _ | ldc _ | stp _ | smap _ | sflush _
  | sinv _ | bld _ | bset _ | hld _ | hst _ | fence _ _ _ | waitc _ | sbinit _ | sbexp _ | sbarv _ | sbwait _ | barHand _ | barGang _
  | tdef _ | trel _ | tstat _ | mma _ | mzero _ | mload _ | mdrain _ | cpy _ | cpo _ | gath _ | qpost _ | qpop _ | launch _ | cmpl _
  | rtsend _ | rtflush _ | rtrecv _ | rtrel _ | spill _ | fill _ | tokw _ | vdec _ | vdstat _ | auct _ | aust _ | fork _ | grwd _ | gbar _
  | gcancel _ | gstat _ | walk _ | mfs _ | mts _ | trap _ | bkpt _ | dmbx _ | eret _ | fpop _ | fres _ | tlbi _ | biasf _ | ctxs _ | ctxl _ =>
    cases hx
    dsimp only [exec]
    exact hr _
  | iaddExt _ | isubExt _ | imul _ | imulh _ | imad _ | imin _ | imax _ | iabs _ | iset _ _ | sel _ | andExt _ | orExt _ | xorExt _ | lut3 _
  | shlExt _ | shrExt _ | sar _ | fshl _ | fshr _ | popc _ | clz _ | brev _ | bfe _ | bfi _ | movExt _ | movi _ | shfl _ _ | vbcast _
  | fmtw _ =>
    cases hx
    dsimp only [exec]
    exact hl _ _
  | saddExt _ | ssub _ | smul _ | sand _ | sor _ | sxor _ | sshl _ | sshr _ | smin _ | smax _ =>
    cases hx
    dsimp only [exec]
    exact hu _
  | ffma _ | fdiv _ | cvt _ _ | bfpx _ =>
    cases hx
    dsimp only [exec]
    exact hf _ _
  | fclass _ | frnd _ | fsqrt _ | frcp _ | frsq _ | fexp2 _ | flog2 _ | fsin _ | fcos _ | ftanh _ =>
    cases hx
    dsimp only [exec]
    exact hf1 _ _
  | faddExt _ | fsub _ | fmulExt _ | fmin _ | fmax _ | fset _ _ =>
    cases hx
    dsimp only [exec]
    exact hf2 _ _
  | _ => cases hx

end

/-! ### Base forms (R181, R182) -/

section
variable {i : Instr} (hx : i.ext? = none)
include hx

theorem cmdClass_of_noExt : Instr.cmdClass i = none := by cases i <;> first | rfl | cases hx
theorem privileged_of_noExt : i.privileged = false := by cases i <;> first | rfl | cases hx
theorem fields_of_noExt : i.fields = none := by cases i <;> first | rfl | cases hx

/-- The header of a base form. -/
def baseHdr (i : Instr) (e : Env) : Hdr :=
  { m := i.marks, words := i.len, always := i.waitsAlways, ok := i.wellFormed, role := if i.vecRegs.isSome then .vec else .any,
    regs := boundsOk i e, own := Instr.numbersChecks i }

theorem headerOf_base (s : State) (e : Env) : HeaderOf i s e (baseHdr i e) where
  marks := rfl
  words := rfl
  full := by simp [counterOk, cmdClass_of_noExt hx, baseHdr]
  always := rfl
  privileged := by simp [privOk, privileged_of_noExt hx, baseHdr]
  form := by simp [formOk, hx, baseHdr]
  guards := by simp [guardsOk, hx, baseHdr]
  role := by
    unfold rolesOk baseHdr
    cases i.vecRegs <;> simp [fields_of_noExt hx]
  regs := rfl
  own := rfl

/-- So is a base form. -/
theorem headed_run {s : State} {e : Env} (he : s.env? = some e) (body : State → Env → Res) : Headed i s e (run (baseHdr i) s body) := by
  unfold run
  rw [he]
  exact .mk _ _ (headerOf_base hx s e)

theorem headed_exec_base {s : State} {e : Env} (he : s.env? = some e) (hc : i.core = true) : Headed i s e (exec i s) := by
  have h := headed_run hx he
  cases i with
  | nop _ | bra _ _ | brc _ _ _ _ | bhe _ _ _ | bhn _ _ _ | loop _ _ _ | horBase _ _ _ _ | handBase _ _ _ _ | handnBase _ _ _ _
  | hxorBase _ _ _ _ | hnotBase _ _ _ | hmovBase _ _ _ | hcntBase _ _ _ | hfirstBase _ _ _ | hmembBase _ _ _ _ _ | hposBase _ _ _ _ _
  | saddBase _ _ _ _ _ | smovBase _ _ _ | call _ _ | calls _ _ | ret _ | done _ | yield _ | exit _ | apply _ _ _ _ _ _ _ =>
    dsimp only [exec]
    exact h _
  | iaddBase _ _ _ _ _ | isubBase _ _ _ _ _ | andBase _ _ _ _ _ | orBase _ _ _ _ _ | xorBase _ _ _ _ _ | faddBase _ _ _ _ _
  | fmulBase _ _ _ _ _ =>
    rename_i lit
    cases lit <;> exact h _
  | shlBase _ _ _ _ _ | shrBase _ _ _ _ _ | movBase _ _ _ =>
    dsimp only [exec]
    exact h _
  | _ => first | cases hc | cases hx

end

/-! ### The checks in their order (R199) -/

section
variable {i : Instr} {s : State} {e : Env} {h : Hdr} (H : HeaderOf i s e h) (body : State → Env → Res)
include H

theorem issue_stops (hs : i.marks.sp = true ∧ e.a.prog = 0 ∧ e.g.stop.isSome = true) :
    issue h s e body = e.set s fun a => { a.hold with stopped := true } := by
  obtain ⟨hsp, hprog, hstop⟩ := hs
  simp [issue, H.marks, hsp, hprog, hstop]

theorem issue_holds (hs : ¬ (i.marks.sp = true ∧ e.a.prog = 0 ∧ e.g.stop.isSome = true))
    (hw : resultsIn i e = false ∨ counterOk i s e = false) : issue h s e body = e.hold s := by
  have hs' : (h.m.sp && e.a.prog == 0 && e.g.stop.isSome) = false := by
    rw [H.marks]
    exact Bool.eq_false_iff.2 fun hc => hs (by simpa [and_assoc] using hc)
  have hw' : (h.full || ((h.m.sw || h.always) && e.a.owed)) = true := by
    rw [H.full, H.marks, H.always]
    unfold resultsIn at hw
    rcases hw with hr | hc
    · have : ((i.marks.sw || i.waitsAlways) && e.a.owed) = true := by
        revert hr
        cases (i.marks.sw || i.waitsAlways) <;> simp
      simp [this]
    · simp [hc]
  simp [issue, hs', hw']

theorem issue_of_issues (hi : Issues i s e) : issue h s e body =
    if privOk i e = false then takeTrap s e (e.trapAt i.len 1 ⟨cILLOP, 0, if Instr.numbersChecks i then some 1 else none⟩ 0)
    else if formOk i e = false then takeTrap s e (e.trapAt i.len 2 ⟨cILLENC, 0, if Instr.numbersChecks i then some 2 else none⟩ 0)
    else if guardsOk i e = false then e.goOn s (e.pcAfter i)
    else if rolesOk i e = false then takeTrap s e (e.trapAt i.len 3 ⟨cROLE, 0, none⟩ 0)
    else if boundsOk i e = false then takeTrap s e (e.trapAt i.len 4 ⟨cREGBOUND, 0, if Instr.numbersChecks i then some 3 else none⟩ 0)
    else finish s e h (body s e) := by
  have h0 : h.full = false := by rw [H.full, hi.room]; rfl
  have h1 : ((h.m.sw || h.always) && e.a.owed) = false := by
    rw [H.marks, H.always]
    have hr := hi.results
    unfold resultsIn at hr
    revert hr
    cases (i.marks.sw || i.waitsAlways) <;> simp
  have hsafe := hi.safe
  simp only [passesSafePoint] at hsafe
  have h2 : (h.m.sp && e.a.prog == 0 && e.g.stop.isSome) = false := by
    rw [H.marks]
    revert hsafe
    cases (i.marks.sp && e.a.prog == 0) <;> cases e.g.stop <;> simp
  have h3 : (h.m.sp && e.a.prog == 0 && e.a.notice && e.a.depth == 0 && !e.a.isPack) = false := by
    rw [H.marks]
    revert hsafe
    cases (i.marks.sp && e.a.prog == 0) <;> cases e.a.notice <;> cases (e.a.depth == 0) <;> cases e.a.isPack <;> simp
  rw [issue_checks h s e body h0 h1 h2 h3 hi.debug]
  simp [H.privileged, H.form, H.guards, H.role, H.regs, H.own, H.words, Env.nextPc, Env.pcAfter]

end

/-- Every instruction of an agent is issued with its own header. -/
theorem headed_exec {i : Instr} (hc : i.core = true) {s : State} {e : Env} (he : s.env? = some e) : Headed i s e (exec i s) := by
  cases hx : i.ext? with
  | some x => exact headed_exec_ext hx he
  | none => exact headed_exec_base hx he hc

/-- Settles O16: every instruction of an agent is issued with the header that says of it what the checks ask. -/
theorem checksComeInOrder : Obligations.ChecksComeInOrder := by
  unfold Obligations.ChecksComeInOrder
  intro i s e hc own detail trap stops
  have hown : own = Instr.numbersChecks i := by cases i <;> rfl
  have hheaded (he : s.env? = some e) : ∃ h body, HeaderOf i s e h ∧ exec i s = .next (issue h s e body) := by
    have H := headed_exec hc he
    generalize exec i s = o at H
    obtain ⟨h, body, H⟩ := H
    exact ⟨h, body, H, rfl⟩
  have hwaits (he : s.env? = some e) (hs : ¬ stops) (hw : resultsIn i e = false ∨ counterOk i s e = false) : exec i s = .next (e.hold s) := by
    obtain ⟨h, body, H, hx⟩ := hheaded he
    rw [hx, issue_holds H body hs hw]
  refine ⟨fun he hs => ?_, fun he hs hr => hwaits he hs (.inl hr), fun he hs hr => hwaits he hs (.inr hr), fun hi => ?_⟩
  · obtain ⟨h, body, H, hx⟩ := hheaded he
    rw [hx, issue_stops H body hs]
  · obtain ⟨h, body, H, hx⟩ := hheaded hi.env
    rw [issue_of_issues H body hi] at hx
    simp only [trap, detail, hown, hx]
    refine ⟨fun hp => ?_, fun hp hf => ?_, fun hp hf hg => ?_, fun hp hf hg hr => ?_, fun hp hf hg hr hb => ?_⟩
    · simp [hp, Env.trapAt, cILLOP]
    · simp [hp, hf, Env.trapAt, cILLENC]
    · simp [hp, hf, hg]
    · simp [hp, hf, hg, hr, Env.trapAt, cROLE]
    · simp [hp, hf, hg, hr, hb, Env.trapAt, cREGBOUND]

end Sys2Proof.Machine
end
section
/-! LAW. The bytes at their homes, and the window lines that own them (section 03 (R55), section 05 (R63), R94): what a line that is handed over
or obtained leaves of every byte, and a waiting write that performs alone. -/

namespace Sys2Proof.Machine

/-! ### The window line that owns a physical line -/

/-- The operand store and the line of it that own a physical line, where a window line is DIRTY (R55). -/
def ownerOf (s : State) (line : Nat) : Option (Table Byte × Nat) := (dirtyAt s line).map fun p => (p.1.os, p.2.line)

/-- A gang's operand store, and the line of it that a window line stands in. -/
def osOf (p : Gang × WLine) : Table Byte × Nat := (p.1.os, p.2.line)

theorem homeByte_eq (s : State) (a : Nat) : homeByte s a = match ownerOf s (lineOf a) with
    | some o => o.1.look 0#8 (o.2 * 128 + a % 128)
    | none => s.mem.look memDefault a := by
  unfold homeByte ownerOf
  cases dirtyAt s (lineOf a) <;> rfl

/-- What a gang's window lines own. -/
def ownedIn (line : Nat) (g : Gang) : Option (Table Byte × Nat) := (dirtyIn line g).map osOf

theorem ownedIn_eq (line : Nat) (g : Gang) :
    ownedIn line g = (g.wlines.find? fun w => w.dirty && w.pa == line).map fun w => (g.os, w.line) := by
  unfold ownedIn dirtyIn
  cases g.wlines.find? fun w => w.dirty && w.pa == line <;> rfl

theorem ownerOf_eq (s : State) (line : Nat) :
    ownerOf s line = (s.gangs.findSome? (ownedIn line)).or (s.saved.findSome? fun v => ownedIn line v.gang) := by
  have hg := List.map_findSome? (f := dirtyIn line) (g := osOf) (l := s.gangs)
  have hv := List.map_findSome? (f := fun v : Saved => dirtyIn line v.gang) (g := osOf) (l := s.saved)
  unfold ownerOf dirtyAt
  change (s.gangs.findSome? (dirtyIn line)).map osOf = s.gangs.findSome? (ownedIn line) at hg
  change (s.saved.findSome? fun v => dirtyIn line v.gang).map osOf = s.saved.findSome? fun v => ownedIn line v.gang at hv
  rw [← hg, ← hv]
  cases s.gangs.findSome? (dirtyIn line) <;> rfl

/-- A state with the same gangs and saved gangs has the same owners. -/
theorem ownerOf_congr {t s : State} (hg : t.gangs = s.gangs) (hv : t.saved = s.saved) (line : Nat) : ownerOf t line = ownerOf s line := by
  rw [ownerOf_eq, ownerOf_eq, hg, hv]

theorem homeByte_of_owner {t s : State} (hm : t.mem = s.mem) (ho : ∀ line, ownerOf t line = ownerOf s line) (a : Nat) :
    homeByte t a = homeByte s a := by
  rw [homeByte_eq, homeByte_eq, ho, hm]

theorem homeByte_congr {t s : State} (hm : t.mem = s.mem) (hg : t.gangs = s.gangs) (hv : t.saved = s.saved) (a : Nat) :
    homeByte t a = homeByte s a := homeByte_of_owner hm (ownerOf_congr hg hv) a

theorem NoWindows.ownerOf_none {s : State} (h : NoWindows s) (line : Nat) : ownerOf s line = none := by
  simp [ownerOf, h.dirtyAt_none]

theorem NoWindows.homeByte_eq {s : State} (h : NoWindows s) (a : Nat) : homeByte s a = s.mem.look memDefault a := by
  rw [Machine.homeByte_eq, h.ownerOf_none]

theorem NoWindows.congr {t s : State} (h : NoWindows s) (hg : t.gangs = s.gangs) (hv : t.saved = s.saved) : NoWindows t := by
  rw [NoWindows, hg, hv]
  exact h

/-! ### Agents as they are -/

/-- Every byte of memory reads as before and every agent is as before. -/
def ReadsAlike (t s : State) : Prop := (∀ a, homeByte t a = homeByte s a) ∧
  ∀ uid id, (envOf t uid id).map (fun e => e.a) = (envOf s uid id).map fun e => e.a

theorem envOf_congr {t s : State} (hg : t.gangs = s.gangs) (uid id : Nat) : envOf t uid id = envOf s uid id := by
  simp only [envOf, State.gang?, hg]

theorem ReadsAlike.of_eq {t s : State} (hm : t.mem = s.mem) (hg : t.gangs = s.gangs) (hv : t.saved = s.saved) : ReadsAlike t s :=
  ⟨homeByte_congr hm hg hv, fun uid id => by rw [envOf_congr hg]⟩

/-- An update of the gangs that keeps the identities and the agents keeps every agent. -/
theorem envOf_mapGangs {t s : State} {f : Gang → Gang} (hg : t.gangs = s.gangs.map f) (hu : ∀ g, (f g).uid = g.uid)
    (ha : ∀ g, (f g).agents = g.agents) (uid id : Nat) : (envOf t uid id).map (fun e => e.a) = (envOf s uid id).map fun e => e.a := by
  have hfind : t.gang? uid = (s.gang? uid).map f := by
    simp only [State.gang?, hg, List.find?_map, Function.comp_def, hu]
  unfold envOf
  rw [hfind]
  cases s.gang? uid with
  | none => rfl
  | some g =>
    simp only [Option.map_some, Gang.agent?, ha]
    cases g.agents.find? fun a => a.id == id <;> rfl

/-! ### Supply, and the windows' copies of a line (R55, R63) -/

theorem supply_eq (s : State) (line : Nat) : supply s line = { s with mem := (supply s line).mem, memPoison := (supply s line).memPoison } := by
  cases h : dirtyAt s line with
  | none => rw [supply_clean s line h]
  | some p => simp only [supply, h]

theorem supply_gangs (s : State) (line : Nat) : (supply s line).gangs = s.gangs := (congrArg (fun t : State => t.gangs) (supply_eq s line)).trans rfl
theorem supply_saved (s : State) (line : Nat) : (supply s line).saved = s.saved := (congrArg (fun t : State => t.saved) (supply_eq s line)).trans rfl

/-- The bytes that a DIRTY window line hands over, or none (R55). -/
def suppliedBytes (s : State) (line : Nat) : List (Nat × Byte) := match ownerOf s line with
  | none => []
  | some o => (List.range 128).map fun j => (line * 128 + j, o.1.look 0#8 (o.2 * 128 + j))

theorem supply_mem (s : State) (line : Nat) : (supply s line).mem = s.mem.putAll memDefault (suppliedBytes s line) := by
  unfold supply suppliedBytes ownerOf
  split
  · next h => simp [h, Table.putAll]
  · next g w h => simp [h]

theorem mem_suppliedBytes {s : State} {line : Nat} {p : Nat × Byte} (h : p ∈ suppliedBytes s line) :
    lineOf p.1 = line ∧ p.2 = homeByte s p.1 := by
  unfold suppliedBytes at h
  split at h
  · cases h
  · next o ho =>
    obtain ⟨j, hj, rfl⟩ := List.mem_map.1 h
    have hj := List.mem_range.1 hj
    have hl : lineOf (line * 128 + j) = line := by unfold lineOf; omega
    refine ⟨hl, ?_⟩
    rw [homeByte_eq, hl, ho]
    have : (line * 128 + j) % 128 = j := by omega
    simp only [this]

/-- Memory holds what the home of each byte of the line does, once its DIRTY window line has handed over its data. -/
theorem supply_mem_look {s : State} (hm : Memory.wf s.mem) {line a : Nat} (ha : lineOf a = line) :
    (supply s line).mem.look memDefault a = homeByte s a := by
  rw [supply_mem]
  cases ho : ownerOf s line with
  | none => simp [suppliedBytes, ho, Table.putAll, homeByte_eq, ha]
  | some o =>
    refine look_putAll_of_unique _ hm ?_ fun p hp hk => by rw [(mem_suppliedBytes hp).2, hk]
    have hj : a % 128 < 128 := Nat.mod_lt _ (by decide)
    have hsum : line * 128 + a % 128 = a := by rw [← ha, lineOf]; omega
    simp only [suppliedBytes, ho, List.mem_map, List.mem_range]
    exact ⟨a % 128, hj, by rw [homeByte_eq, ha, ho, hsum]⟩

theorem supply_mem_off (s : State) {line a : Nat} (ha : lineOf a ≠ line) : (supply s line).mem.look memDefault a = s.mem.look memDefault a := by
  rw [supply_mem]
  exact Table.look_putAll_of_notMem _ _ _ fun p hp hk => ha (by rw [← hk, (mem_suppliedBytes hp).1])

theorem supply_homeByte {s : State} (hm : Memory.wf s.mem) (line a : Nat) : homeByte (supply s line) a = homeByte s a := by
  rw [homeByte_eq, ownerOf_congr (supply_gangs s line) (supply_saved s line)]
  cases ho : ownerOf s (lineOf a) with
  | some o => simp [homeByte_eq, ho]
  | none =>
    by_cases ha : lineOf a = line
    · exact supply_mem_look hm ha
    · simp [supply_mem_off s ha, homeByte_eq, ho]

theorem supply_readsAlike {s : State} (hm : Memory.wf s.mem) (line : Nat) : ReadsAlike (supply s line) s :=
  ⟨supply_homeByte hm line, fun uid id => by rw [envOf_congr (supply_gangs s line)]⟩

/-- A gang without its window lines of a physical line. -/
def Gang.dropLine (line : Nat) (g : Gang) : Gang := { g with wlines := g.wlines.filter fun w => w.pa != line }

theorem dropWin_eq (s : State) (line : Nat) : dropWin s line =
    { s with gangs := s.gangs.map (Gang.dropLine line), saved := s.saved.map fun v => { v with gang := v.gang.dropLine line } } := by
  have hdrop (g : Gang) : (if g.wlines.any fun w => w.pa == line && (none : Option (Nat × Nat)) != some (g.uid, w.line) then
      { g with wlines := g.wlines.filter fun w => !(w.pa == line && (none : Option (Nat × Nat)) != some (g.uid, w.line)) } else g) =
      g.dropLine line := by
    have hn (w : WLine) : ((none : Option (Nat × Nat)) != some (g.uid, w.line)) = true := rfl
    simp only [hn, Bool.and_true, Gang.dropLine]
    split
    · rfl
    · next h =>
      have hk : g.wlines.filter (fun w => w.pa != line) = g.wlines := List.filter_eq_self.2 fun w hw => by
        simp only [List.any_eq_true, not_exists, not_and, Bool.not_eq_true] at h
        simp [bne, h w hw]
      rw [hk]
  unfold dropWin
  simp only [hdrop]

theorem ownedIn_dropLine_ne {line k : Nat} (h : k ≠ line) (g : Gang) : ownedIn k (g.dropLine line) = ownedIn k g := by
  rw [ownedIn_eq, ownedIn_eq]
  simp only [Gang.dropLine, List.find?_filter]
  congr 2
  funext w
  by_cases hk : w.pa = k
  · simp [hk, h]
  · simp [hk]

theorem mem_dropLine {line : Nat} {g : Gang} {w : WLine} (h : w ∈ (g.dropLine line).wlines) : w.pa ≠ line := by
  simpa using (List.mem_filter.1 h).2

theorem ownedIn_dropLine_same (line : Nat) (g : Gang) : ownedIn line (g.dropLine line) = none := by
  rw [ownedIn_eq, Gang.dropLine, List.find?_eq_none.2, Option.map_none]
  intro w hw
  have := mem_dropLine hw
  simp [this]

theorem ownerOf_dropWin_ne {line k : Nat} (h : k ≠ line) (s : State) : ownerOf (dropWin s line) k = ownerOf s k := by
  rw [ownerOf_eq, ownerOf_eq, dropWin_eq]
  simp only [List.findSome?_map, Function.comp_def, ownedIn_dropLine_ne h]

theorem ownerOf_dropWin_same (line : Nat) (s : State) : ownerOf (dropWin s line) line = none := by
  rw [ownerOf_eq, dropWin_eq]
  simp [List.findSome?_map, Function.comp_def, ownedIn_dropLine_same]

theorem ownLine_eq (s : State) (line : Nat) : ownLine s line = { dropWin (supply s line) line with
    l1 := s.l1.filter (fun e => e.2 != line), dir := s.dir.filter fun d => d.line != line } := by
  unfold ownLine
  rw [dropWin_eq, supply_eq]

theorem ownLine_gangs (s : State) (line : Nat) : (ownLine s line).gangs = s.gangs.map (Gang.dropLine line) := by
  rw [ownLine_eq, dropWin_eq]
  simp only [supply_gangs]

theorem ownLine_saved (s : State) (line : Nat) : (ownLine s line).saved = s.saved.map fun v => { v with gang := v.gang.dropLine line } := by
  rw [ownLine_eq, dropWin_eq]
  simp only [supply_saved]

theorem ownLine_homeByte {s : State} (hm : Memory.wf s.mem) (line a : Nat) : homeByte (ownLine s line) a = homeByte s a := by
  have hown (k : Nat) : ownerOf (ownLine s line) k = ownerOf (dropWin (supply s line) line) k := by rw [ownLine_eq]; rfl
  have hmem : (ownLine s line).mem = (supply s line).mem := by rw [ownLine_eq]; rfl
  rw [homeByte_eq, hown, hmem]
  by_cases ha : lineOf a = line
  · rw [ha, ownerOf_dropWin_same]
    exact supply_mem_look hm ha
  · rw [ownerOf_dropWin_ne ha, ownerOf_congr (supply_gangs s line) (supply_saved s line), supply_mem_off s ha, ← homeByte_eq]

theorem ownLine_readsAlike {s : State} (hm : Memory.wf s.mem) (line : Nat) : ReadsAlike (ownLine s line) s :=
  ⟨ownLine_homeByte hm line, envOf_mapGangs (ownLine_gangs s line) (fun _ => rfl) fun _ => rfl⟩

theorem evictLine_gangs_free (s : State) (line : Nat) : ∀ g ∈ (evictLine s line).gangs, ∀ w ∈ g.wlines, w.pa ≠ line := by
  intro g hg w hw
  rw [evictLine, ownLine_gangs] at hg
  obtain ⟨g, -, rfl⟩ := List.mem_map.1 hg
  exact mem_dropLine hw

theorem evictLine_saved_free (s : State) (line : Nat) : ∀ v ∈ (evictLine s line).saved, ∀ w ∈ v.gang.wlines, w.pa ≠ line := by
  intro v hv w hw
  rw [evictLine, ownLine_saved] at hv
  obtain ⟨v, -, rfl⟩ := List.mem_map.1 hv
  exact mem_dropLine hw

theorem evictLine_l1_free (s : State) (line : Nat) : ∀ c ∈ (evictLine s line).l1, c.2 ≠ line := by
  intro c hc
  rw [evictLine, ownLine_eq] at hc
  simpa using (List.mem_filter.1 hc).2

theorem evictLine_dir_free (s : State) (line : Nat) : ∀ d ∈ (evictLine s line).dir, d.line ≠ line := by
  intro c hc
  rw [evictLine, ownLine_eq] at hc
  simpa using (List.mem_filter.1 hc).2

/-! ### Evictions and requests of window lines -/

theorem directoryEvict_same {s : State} (hm : Memory.wf s.mem) (line : Nat) :
    ∃ t, exec (.directoryEvict line) s = .next t ∧ ReadsAlike t s ∧ (∀ d ∈ t.dir, d.line ≠ line) ∧ (∀ c ∈ t.l1, c.2 ≠ line) ∧
      (∀ g ∈ t.gangs, ∀ w ∈ g.wlines, w.pa ≠ line) ∧ ∀ v ∈ t.saved, ∀ w ∈ v.gang.wlines, w.pa ≠ line :=
  ⟨_, rfl, ownLine_readsAlike hm line, evictLine_dir_free s line, evictLine_l1_free s line, evictLine_gangs_free s line,
    evictLine_saved_free s line⟩

theorem exec_stashRemoteRequest {s : State} {uid line : Nat} {g : Gang} {w : WLine} (hg : s.gang? uid = some g) (hw : g.wline? line = some w)
    (write : Bool) : exec (.stashRemoteRequest uid line write) s = .next (if write then evictLine s w.pa else supply s w.pa) := by
  show execStashRemoteRequest uid line write s = _
  simp [execStashRemoteRequest, hg, hw]

theorem stashRemoteRequest_same {s : State} (hm : Memory.wf s.mem) {uid line : Nat} {g : Gang} {w : WLine} (hg : s.gang? uid = some g)
    (hw : g.wline? line = some w) :
    (∃ t, exec (.stashRemoteRequest uid line false) s = .next t ∧ ReadsAlike t s ∧ t.gangs = s.gangs) ∧
    ∃ t, exec (.stashRemoteRequest uid line true) s = .next t ∧ ReadsAlike t s ∧ ∀ g' ∈ t.gangs, ∀ w' ∈ g'.wlines, w'.pa ≠ w.pa :=
  ⟨⟨_, exec_stashRemoteRequest hg hw false, supply_readsAlike hm w.pa, supply_gangs s w.pa⟩,
    ⟨_, exec_stashRemoteRequest hg hw true, ownLine_readsAlike hm w.pa, evictLine_gangs_free s w.pa⟩⟩

/-! ### Waiting writes that perform, with no window line (R94) -/

/-- Nothing but the caches, the directory, poison, the releases behind bytes and the waiting writes differs, and memory by some
bytes (R94). -/
def PerformsOnly (t s : State) (bytes : List (Nat × Byte)) : Prop :=
  t = { s with mem := s.mem.putAll memDefault bytes, memPoison := t.memPoison, outq := t.outq, l1 := t.l1, l2 := t.l2, dir := t.dir, tags := t.tags }

theorem PerformsOnly.trans {s t u : State} {bytes : List (Nat × Byte)} (h : PerformsOnly u t []) (h' : PerformsOnly t s bytes) :
    PerformsOnly u s bytes := by
  rw [PerformsOnly, h, h']
  rfl

theorem WritesOnly.performsOnly {s t : State} {bytes : List (Nat × Byte)} (h : WritesOnly t s bytes) : PerformsOnly t s bytes := by
  rw [PerformsOnly, h]

theorem CachesOf.performsOnly {s t : State} (h : CachesOf t s) : PerformsOnly t s [] := by
  rw [PerformsOnly, h]
  rfl

section
variable {s t : State} {bytes : List (Nat × Byte)} (h : PerformsOnly t s bytes)
include h

theorem PerformsOnly.mem : t.mem = s.mem.putAll memDefault bytes := (congrArg (fun u : State => u.mem) h).trans rfl
theorem PerformsOnly.gangs : t.gangs = s.gangs := (congrArg (fun u : State => u.gangs) h).trans rfl
theorem PerformsOnly.saved : t.saved = s.saved := (congrArg (fun u : State => u.saved) h).trans rfl
theorem PerformsOnly.atoms : t.atoms = s.atoms := (congrArg (fun u : State => u.atoms) h).trans rfl
theorem PerformsOnly.noWindows (hn : NoWindows s) : NoWindows t := hn.congr h.gangs h.saved

end

theorem trackLine_performsOnly (s : State) (cl line : Nat) (own : Bool) : PerformsOnly (trackLine s cl line own) s [] := rfl

theorem holdL1_performsOnly (s : State) (had : Bool) (die core line hint : Nat) : PerformsOnly (holdL1 s had die core line hint) s [] := by
  unfold holdL1
  dsimp only
  generalize (if had then 0 else hint) = k
  split
  · exact (allocL1_cachesOf ..).performsOnly
  · exact (trackLine_performsOnly ..).trans (allocL1_cachesOf ..).performsOnly

theorem setTags_performsOnly (s : State) (as : List Nat) (ms : List Need) : PerformsOnly (setTags s as ms) s [] := by
  rw [PerformsOnly, setTags_eq]
  rfl

theorem NoWindows.clearGroup_performsOnly {s : State} (h : NoWindows s) (p : PendWrite) : PerformsOnly (clearGroup s p) s [] := by
  unfold clearGroup
  dsimp only
  split
  · rfl
  · rw [map_eq_self (l := s.gangs)]
    · rfl
    · intro g hg
      simp [h.1 g hg]

theorem holdL1_outq (s : State) (had : Bool) (die core line hint : Nat) : (holdL1 s had die core line hint).outq = s.outq := by
  unfold holdL1
  dsimp only
  generalize (if had then 0 else hint) = k
  split
  · rw [allocL1_cachesOf]
  · show (allocL1 ..).outq = _
    rw [allocL1_cachesOf]


theorem clearGroup_outq (s : State) (p : PendWrite) : (clearGroup s p).outq = s.outq := by
  unfold clearGroup
  dsimp only
  split <;> rfl

/-- A waiting write with nothing ordered before it performs at its home: its bytes stand there, and it waits no more (R94). -/
theorem NoWindows.performOne_eq {s : State} (h : NoWindows s) {p : PendWrite} (hw : p.win = none) (hn : p.need = []) :
    PerformsOnly (performOne s p) s p.bytes ∧ (performOne s p).outq = s.outq.filter fun q => q.n != p.n := by
  unfold performOne
  simp only [hw, hn, List.filter_nil, List.isEmpty_nil, if_true]
  set drop : Nat × List Need → Option (Nat × List Need) := _
  set s1 : State := { s with outq := s.outq.filter (fun q => q.n != p.n), tags := s.tags.filterMap drop }
  have h1 : NoWindows s1 := h
  set s2 := applyHome s1 p.bytes
  have h2 : WritesOnly s2 s1 p.bytes := h1.applyHome_eq p.bytes
  have h2' : PerformsOnly s2 s p.bytes := by rw [PerformsOnly, h2]
  set s3 := holdL1 (allocL2 s2 p.line p.hint) (inL1 s1 p.die p.core p.line) p.die p.core p.line p.hint
  have h3 : PerformsOnly (setTags s3 (p.bytes.map fun b => b.1) []) s p.bytes :=
    (setTags_performsOnly ..).trans ((holdL1_performsOnly ..).trans ((allocL2_cachesOf s2 p.line p.hint).performsOnly.trans h2'))
  refine ⟨((h3.noWindows h).clearGroup_performsOnly p).trans h3, ?_⟩
  rw [clearGroup_outq, setTags_eq]
  show s3.outq = _
  rw [holdL1_outq, allocL2_cachesOf, h2]

/-! ### The waiting writes that an operation performs first -/

theorem needed_none {sel : PendWrite → Bool} {l : List PendWrite} (h : ∀ p ∈ l, sel p = false) : needed sel l [] = [] := by
  induction l with
  | nil => rfl
  | cons p r ih =>
    simp only [needed, h p (by simp), List.any_nil, Bool.or_self, Bool.false_eq_true, if_false]
    exact ih fun q hq => h q (by simp [hq])

theorem performSel_unselected {s : State} {sel : PendWrite → Bool} (h : ∀ p ∈ s.outq, sel p = false) : performSel s sel = s := by
  simp [performSel, needed_none fun p hp => h p (List.mem_reverse.1 hp)]

theorem stuckSel_unselected {s : State} {sel : PendWrite → Bool} (h : ∀ p ∈ s.outq, sel p = false) : stuckSel s sel = false := by
  simp [stuckSel, needed_none fun p hp => h p (List.mem_reverse.1 hp)]

/-- Where no other write is selected, and none meets the selected one's bytes, only that one is needed. -/
theorem needed_eq_only {sel : PendWrite → Bool} {p : PendWrite} {l acc : List PendWrite} (hsel : ∀ q ∈ l, sel q = true → q = p)
    (hmeet : ∀ q ∈ l, ((p.die == q.die || q.excl) && p.overlaps q) = true → q = p) (hacc : ∀ q ∈ acc, q = p) :
    ∀ q ∈ needed sel l acc, q = p := by
  induction l generalizing acc with
  | nil => exact hacc
  | cons q r ih =>
    have hr := fun k hk => hsel k (List.mem_cons_of_mem q hk)
    have hmr := fun k hk => hmeet k (List.mem_cons_of_mem q hk)
    unfold needed
    split
    · next hc =>
      refine ih hr hmr fun k hk => ?_
      rcases List.mem_cons.1 hk with rfl | hk
      · rcases Bool.or_eq_true_iff.1 hc with hs | hm
        · exact hsel k (by simp) hs
        · obtain ⟨m, hm, ho⟩ := List.any_eq_true.1 hm
          rw [hacc m hm] at ho
          exact hmeet k (by simp) ho
      · exact hacc k hk
    · exact ih hr hmr hacc

theorem mem_needed_of_acc {sel : PendWrite → Bool} {p : PendWrite} {l acc : List PendWrite} (h : p ∈ acc) : p ∈ needed sel l acc := by
  induction l generalizing acc with
  | nil => exact h
  | cons q r ih =>
    unfold needed
    split
    · exact ih (List.mem_cons_of_mem q h)
    · exact ih h

theorem mem_needed {sel : PendWrite → Bool} {p : PendWrite} {l acc : List PendWrite} (hp : p ∈ l) (hs : sel p = true) :
    p ∈ needed sel l acc := by
  induction l generalizing acc with
  | nil => cases hp
  | cons q r ih =>
    rcases List.mem_cons.1 hp with rfl | hp
    · simp only [needed, hs, Bool.true_or, if_true]
      exact mem_needed_of_acc (by simp)
    · unfold needed
      split
      · exact ih hp
      · exact ih hp

/-- One step of `performSel`. -/
def performStep (acc : State × List PendWrite) (p : PendWrite) : State × List PendWrite :=
  match acc.1.outq.find? fun q => q.n == p.n with
  | none => acc
  | some q =>
    if q.stuck acc.1 || acc.2.any (fun r => (r.die == q.die || r.excl) && r.overlaps q) then (acc.1, q :: acc.2)
    else (performOne acc.1 q, acc.2)

theorem performSel_eq_foldl (s : State) (sel : PendWrite → Bool) :
    performSel s sel = ((needed sel s.outq.reverse []).foldl performStep (s, [])).1 := rfl

/-- The write that alone is selected, as a queue holds it. -/
structure Alone (s : State) (sel : PendWrite → Bool) (p : PendWrite) : Prop where
  mem : p ∈ s.outq
  selected : sel p = true
  others : ∀ q ∈ s.outq, sel q = true → q = p
  apart : ∀ q ∈ s.outq, ((p.die == q.die || q.excl) && p.overlaps q) = true → q = p
  unique : ∀ q ∈ s.outq, q.n = p.n → q = p

section
variable {s : State} {sel : PendWrite → Bool} {p : PendWrite} (h : Alone s sel p)
include h

theorem Alone.needed : ∃ l, needed sel s.outq.reverse [] = p :: l ∧ ∀ q ∈ l, q = p := by
  have hall := needed_eq_only (acc := []) (fun q hq => h.others q (List.mem_reverse.1 hq)) (fun q hq => h.apart q (List.mem_reverse.1 hq))
    (by simp)
  have hmem : p ∈ Machine.needed sel s.outq.reverse [] := mem_needed (List.mem_reverse.2 h.mem) h.selected
  cases hl : Machine.needed sel s.outq.reverse [] with
  | nil => simp [hl] at hmem
  | cons q l =>
    rw [hl] at hall
    exact ⟨l, by rw [hall q (by simp)], fun k hk => hall k (by simp [hk])⟩

theorem Alone.find : s.outq.find? (fun q => q.n == p.n) = some p := by
  obtain ⟨q, hq⟩ : ∃ q, s.outq.find? (fun q => q.n == p.n) = some q :=
    Option.isSome_iff_exists.1 (List.find?_isSome.2 ⟨p, h.mem, by simp⟩)
  rw [hq, h.unique q (List.mem_of_find?_eq_some hq) (by simpa using List.find?_some hq)]

/-- A write that cannot perform stays, alone or not. -/
theorem Alone.performSel_stuck (hs : p.stuck s = true) : performSel s sel = s := by
  obtain ⟨l, hl, hlp⟩ := h.needed
  rw [performSel_eq_foldl, hl]
  refine foldl_keeps (fun a : State × List PendWrite => a.1 = s) _ _ _ (fun a q hq ha => ?_) rfl
  obtain rfl : q = p := (List.mem_cons.1 hq).elim id (hlp q)
  rw [performStep, ha, h.find]
  simp [hs]

/-- A write that can performs, once. -/
theorem Alone.performSel_performs (hs : p.stuck s = false) (hone : (performOne s p).outq = s.outq.filter fun q => q.n != p.n) :
    performSel s sel = performOne s p := by
  obtain ⟨l, hl, hlp⟩ := h.needed
  have hfirst : performStep (s, []) p = (performOne s p, []) := by simp [performStep, h.find, hs]
  rw [performSel_eq_foldl, hl, List.foldl_cons, hfirst]
  refine foldl_keeps (fun a : State × List PendWrite => a.1 = performOne s p) _ _ _ (fun a q hq ha => ?_) rfl
  rw [hlp q hq, performStep, ha, hone, List.find?_eq_none.2]
  · exact ha
  · intro k hk
    simpa using (List.mem_filter.1 hk).2

end

/-! ### WRITE_PERFORM_AT_HOME (R94) -/

section
variable {s : State} {p : PendWrite}

theorem alone_write (hp : p ∈ s.outq) (hq : ∀ q ∈ s.outq, q.excl = false ∧ (q.n = p.n → q = p) ∧
    (q.n ≠ p.n → q.die = p.die → ∀ b ∈ q.bytes, ∀ c ∈ p.bytes, b.1 ≠ c.1)) : Alone s (fun q => q.die == p.die && q.n == p.n) p where
  mem := hp
  selected := by simp
  others q hm hs := (hq q hm).2.1 (by simpa using (Bool.and_eq_true_iff.1 hs).2)
  unique q hm := (hq q hm).2.1
  apart q hm ho := by
    obtain ⟨hexcl, hsame, hapart⟩ := hq q hm
    by_contra hne
    simp only [hexcl, Bool.or_false, Bool.and_eq_true, beq_iff_eq, PendWrite.overlaps, PendWrite.covers, List.any_eq_true] at ho
    obtain ⟨hd, c, hc, b, hb, hbc⟩ := ho
    exact hapart (fun hn => hne (hsame hn)) hd.symm b hb c hc hbc

theorem exec_writePerformAtHome (h : Alone s (fun q => q.die == p.die && q.n == p.n) p) :
    (p.stuck s = false → NoWindows s → p.win = none → p.need = [] → ∃ t, exec (.writePerformAtHome p.die p.n) s = .next t ∧
      t.outq = s.outq.filter (fun q => q.n != p.n) ∧ t.mem = s.mem.putAll memDefault p.bytes) ∧
    (p.stuck s = true → exec (.writePerformAtHome p.die p.n) s = .next s) := by
  constructor
  · intro hs hn hw hneed
    obtain ⟨hone, hout⟩ := hn.performOne_eq hw hneed
    refine ⟨performOne s p, ?_, hout, hone.mem⟩
    show Host.Outcome.next (performSel s _) = _
    rw [h.performSel_performs hs hout]
  · intro hs
    show Host.Outcome.next (performSel s _) = _
    rw [h.performSel_stuck hs]

end

end Sys2Proof.Machine
end
section
/-! LAW. Atomics and reductions at the memory side (R69, R70, R101, R252): the only one performs. -/

namespace Sys2Proof.Machine

/-! ### An atomic of wide scope performs at the memory side (R69, R101) -/

theorem homeNat_eq (s : State) (a n : Nat) : homeNat s a n = ofBytes ((bytesAt a n).map (homeByte s)) := by
  simp [homeNat, bytesAt, Function.comp_def]

theorem homeNat_congr {t s : State} (h : ∀ a, homeByte t a = homeByte s a) (a n : Nat) : homeNat t a n = homeNat s a n := by
  simp only [homeNat, h]

theorem canShow_nil (s : State) (who : Who) : canShow s who [] = true := rfl

section
variable {s : State} {p : PendAtom} (hmem : p.memSide = true)
include hmem

theorem PendAtom.inL1_memSide : p.inL1 = false := by simp [PendAtom.inL1, hmem]

theorem PendAtom.stuck_memSide (hd : p.dups = []) (ha : p.after = []) (hq : s.outq = []) (hf : s.flips = []) : p.stuck s = false := by
  have hw (m : Need) : m.write? s = none := by simp [Need.write?, hq]
  simp [PendAtom.stuck, PendAtom.inL1_memSide hmem, hd, ha, frozen_none hf, pulled_none hq, canShow_nil, stuckSel_none s _ hq, hw]

/-- What the atomic makes of the value at its home: the new one, and whether it writes. -/
def PendAtom.newAt (s : State) (p : PendAtom) (l : AtomLane) : Nat × Bool := atomNew p.op p.ty p.w (homeNat s l.pa p.w) l.c l.e

/-- The bytes it writes there. -/
def PendAtom.writesAt (s : State) (p : PendAtom) (l : AtomLane) : List (Nat × Byte) :=
  if (p.newAt s l).2 then (bytesAt l.pa p.w).zip (toBytes p.w (p.newAt s l).1) else []

theorem performLane_memSide (hq : s.outq = []) (hn : NoWindows s) (l : AtomLane) :
    (performLane s p l).2 = homeNat s l.pa p.w ∧
      PerformsOnly (performLane s p l).1 (fixRecords s p.who p.n (bytesAt l.pa p.w)) (p.writesAt s l) := by
  set s1 := fixRecords s p.who p.n (bytesAt l.pa p.w) with hs1
  obtain ⟨cs, hcs⟩ : ∃ cs, s1 = { s with cmds := cs } := fixRecords_eq ..
  have hn1 : NoWindows s1 := hn.congr (by rw [hcs]) (by rw [hcs])
  have hhome (a : Nat) : homeByte s1 a = homeByte s a := homeByte_congr (by rw [hcs]) (by rw [hcs]) (by rw [hcs]) a
  have hold : ofBytes ((bytesAt l.pa p.w).map (foundByte s1 [])) = homeNat s l.pa p.w := by
    rw [← homeNat_congr hhome, homeNat_eq]
    rfl
  have hq1 : s1.outq = [] := by rw [hcs]; exact hq
  have hown : WritesOnly (ownLine s1 (lineOf l.pa)) s1 [] := hn1.ownLine_eq _
  have hnown : NoWindows (ownLine s1 (lineOf l.pa)) := hown.performsOnly.noWindows hn1
  unfold performLane
  simp only [PendAtom.inL1_memSide hmem, Bool.false_eq_true, if_false, performSel_none s _ hq, hq, ← hs1, hq1, List.isEmpty_nil, Bool.and_self,
    if_true, hold, List.append_nil, Bool.not_false, true_and]
  unfold PendAtom.writesAt PendAtom.newAt
  cases hwr : (atomNew p.op p.ty p.w (homeNat s l.pa p.w) l.c l.e).2 with
  | false => simpa using hown.performsOnly
  | true =>
    simp only [Bool.not_true, Bool.false_eq_true, if_false, if_true]
    refine (setTags_performsOnly ..).trans ?_
    rw [PerformsOnly, hnown.applyHome_eq, hown]
    rfl

end

theorem performOneLane_single {s : State} {p : PendAtom} {l : AtomLane} (hl : p.lanes = [l]) : performOneLane s p = performSome s p [l] [] := by
  simp [performOneLane, hl, Nat.mod_one]

theorem envOf_updAgent {s : State} {uid id : Nat} {e : Env} (he : envOf s uid id = some e) (f : Agent → Agent) (hf : ∀ a, (f a).id = a.id) :
    envOf (s.updAgent uid id f) uid id = some (envWith (e.g.updAgent id f) (f e.a)) := by
  obtain ⟨rfl, rfl⟩ := envOf_ids he
  exact envOf_set he f hf

/-- What an agent's result holds once its atomic has performed (R252). -/
def Out.filled (n : Nat) (ws : List RegWrite) (o : Out) : Out :=
  if o.atom = some n then { o with writes := o.writes ++ ws, atom := none } else o

theorem performSome_last (s : State) (p : PendAtom) (l : AtomLane) :
    performSome s p [l] [] = (performLane { s with atoms := s.atoms.filter fun q => q.n != p.n } p l).1.updAgent p.gang p.agent fun a =>
      { a with outs := a.outs.map (Out.filled p.n (p.result l (performLane { s with atoms := s.atoms.filter fun q => q.n != p.n } p l).2)) } := by
  unfold performSome performLanes performLanes Out.filled
  simp only [List.isEmpty_nil, if_true, List.nil_append, beq_iff_eq]

section
variable {s : State} {p : PendAtom} {l : AtomLane} {e : Env} (hatoms : s.atoms = [p]) (hmem : p.memSide = true) (hl : p.lanes = [l])
  (hd : p.dups = []) (ha : p.after = []) (hq : s.outq = []) (hf : s.flips = []) (hn : NoWindows s) (he : envOf s p.gang p.agent = some e)
include hatoms hmem hl hd ha hq hf hn he

theorem exec_memorySideAtomic_atom : ∃ t b, exec (.memorySideAtomic p.n) s = .next t ∧ t.atoms = [] ∧ envOf t p.gang p.agent = some b ∧
    t.mem = s.mem.putAll memDefault (p.writesAt s l) ∧
    b.a = { e.a with outs := e.a.outs.map (Out.filled p.n (p.result l (homeNat s l.pa p.w))) } := by
  set s0 : State := { s with atoms := s.atoms.filter fun q => q.n != p.n } with hs0
  have hat : s.atoms.filter (fun q => q.n != p.n) = [] := by simp [hatoms]
  obtain ⟨hold, hper⟩ := performLane_memSide (s := s0) hmem hq hn l
  obtain ⟨cs, hcs⟩ : ∃ cs, fixRecords s0 p.who p.n (bytesAt l.pa p.w) = { s0 with cmds := cs } := fixRecords_eq ..
  rw [hcs] at hper
  have hexec : exec (.memorySideAtomic p.n) s = .next (performSome s p [l] []) := by
    show execMemorySideAtomic p.n s = _
    simp [execMemorySideAtomic, hatoms, hmem, p.stuck_memSide hmem hd ha hq hf, performOneLane_single hl]
  have henv : envOf (performLane s0 p l).1 p.gang p.agent = some e := (envOf_congr hper.gangs ..).trans he
  rw [performSome_last] at hexec
  exact ⟨_, _, hexec, hper.atoms.trans hat, envOf_updAgent henv _ fun _ => rfl, hper.mem, by rw [hold]; rfl⟩

end

/-! ### The only contribution of a reduction performs (R69, R70) -/

theorem needs_gone {s : State} (hq : s.outq = []) (m : Need) : m.write? s = none := by simp [Need.write?, hq]

theorem cmdClear_none {s : State} (hq : s.outq = []) (w : Who) : cmdClear s w = true := by
  simp [cmdClear, cmdShows, needs_gone hq, pulled_none hq, canShow_nil]

theorem showPairs_nil {s : State} (hq : s.outq = []) : showPairs s [] = s := by
  simp only [showPairs, List.foldl_nil, hq, List.map_nil]
  rw [← hq]

theorem cmdShow_none {s : State} (hq : s.outq = []) (w : Who) : cmdShow s w = s := by
  unfold cmdShow
  split
  · rfl
  · rw [pulled_none hq, showPairs_nil hq]

theorem rmwFirst_none {s : State} (hq : s.outq = []) (hf : s.flips = []) {w : Who} {as : List Nat} (hi : issuerFirst s w as = some s) :
    rmwFirst s w as = some s := by
  simp [rmwFirst, frozen_none hf, stuckSel_none s _ hq, cmdClear_none hq, hi, cmdShow_none hq, performSel_none s _ hq]

theorem NoWindows.poisoned_none {s : State} (h : NoWindows s) (hp : s.memPoison = []) (a : Nat) : poisoned s a = false := by
  simp [poisoned, h.dirtyAt_none, hp]

/-- A reduction with no contribution left. -/
def Cmd.emptied (c : Cmd) : Cmd := { c with body := .sred [], phase := .complete }

theorem redReady_alone {s : State} {c : Cmd} (hc : s.cmds = [c]) (i : RedItem) (ha : c.accepted.isSome = true) (ho : c.open s = true) :
    redReady s c i = true := by
  simp [redReady, hc, ha, ho]

section
variable {s : State} {c : Cmd} {i : RedItem} (hc : s.cmds = [c]) (hb : c.body = .sred [i])
include hc hb

theorem takeItem_last : takeItem s c i = { s with cmds := [c.emptied] } := by
  simp [takeItem, State.updCmd, State.cmd?, updWhere, hc, hb, Cmd.items, completeCmd, Cmd.emptied]

theorem exec_memorySideAtomic_red (ha : c.accepted.isSome = true) (hl : c.alive s = true) (ho : c.open s = true) (hat : s.atoms = [])
    (hq : s.outq = []) (hf : s.flips = []) (hp : s.memPoison = []) (hn : NoWindows s)
    (hi : issuerFirst s (c.acc s).who (bytesAt i.pa i.w) = some s) :
    ∃ t q, exec (.memorySideAtomic c.id) s = .next t ∧ t.cmd? c.id = some q ∧ q.phase = .complete ∧ t.mem = s.mem.putAll memDefault
      ((bytesAt i.pa i.w).zip (toBytes i.w (atomNew i.op i.ty i.w (homeNat s i.pa i.w) i.val 0).1)) := by
  have hitems : c.items = [i] := by simp [Cmd.items, hb]
  set s1 : State := { s with cmds := [c.emptied] } with hs1
  have hn1 : NoWindows s1 := hn
  have hmerge : mergeItems c 1 s1 i = (s1, i) := by simp [mergeItems, s1, Cmd.items, Cmd.emptied]
  have hexec : exec (.memorySideAtomic c.id) s = .next (performRed s1 c i) := by
    have hfind : s.atoms.find? (fun p => p.n == c.id) = none := by simp [hat]
    have hcmd : s.cmd? c.id = some c := by simp [State.cmd?, hc]
    have hlen : s.cmds.length = 1 := by simp [hc]
    show execMemorySideAtomic c.id s = _
    simp [execMemorySideAtomic, hfind, hcmd, hlen, hitems, Nat.mod_one, hl, redReady_alone hc i ha ho, rmwFirst_none hq hf hi,
      takeItem_last hc hb, ← hs1, hmerge]
  have hhome (a : Nat) : homeByte s1 a = homeByte s a := rfl
  have hred : performRed s1 c i = applyHome s1 ((bytesAt i.pa i.w).zip (toBytes i.w (atomNew i.op i.ty i.w (homeNat s i.pa i.w) i.val 0).1)) := by
    simp [performRed, hn1.poisoned_none hp, homeNat_congr hhome]
  rw [hred] at hexec
  have hput := (hn1.applyHome_eq ((bytesAt i.pa i.w).zip (toBytes i.w (atomNew i.op i.ty i.w (homeNat s i.pa i.w) i.val 0).1))).performsOnly
  refine ⟨_, c.emptied, hexec, ?_, rfl, hput.mem⟩
  rw [hput]
  simp [State.cmd?, s1, Cmd.emptied]

end

end Sys2Proof.Machine
end
section
/-! LAW. The host's accesses to memory and the zero engines (R44, R45, R73, R74, R106, R377, R389). -/

namespace Sys2Proof

theorem Table.look_keep {α : Type} {d : α} (t : Table α) (p : Nat → Bool) (k : Nat) :
    Table.look d (Table.keep t p) k = if p k then Table.look d t k else d := by
  induction t with
  | nil => simp [Table.keep, Table.look]
  | cons e r ih =>
    obtain ⟨j, v⟩ := e
    unfold Table.keep at ih ⊢
    rw [List.filter_cons]
    by_cases hk : k = j
    · subst hk
      cases hp : p k <;> simp_all [Table.look]
    · cases hp : p j <;> simp [Table.look, hk, ih]

end Sys2Proof

namespace Sys2Proof.Machine

/-! ### The host's accesses (R73, R74, R106, R377, R389) -/

theorem NoWindows.flushLine_cachesOf {s : State} (h : NoWindows s) (line : Nat) : CachesOf (flushLine s line) s := by
  unfold flushLine evictLine
  simp only [CachesOf, ownLine, supply_clean s line (h.dirtyAt_none line), h.dropWin_eq]

theorem NoWindows.foldl_flushLine {s : State} (h : NoWindows s) (ls : List Nat) : CachesOf (ls.foldl flushLine s) s := by
  refine foldl_keeps (fun t => CachesOf t s) _ _ _ (fun t l _ ht => ?_) rfl
  have hn : NoWindows t := by rw [ht]; exact h
  exact (hn.flushLine_cachesOf l).trans ht

/-- No waiting write is an atomic's in an L1. -/
def NoL1Atomics (s : State) : Prop := ∀ q ∈ s.outq, q.excl = false

theorem NoL1Atomics.unselected {s : State} (h : NoL1Atomics s) (f : PendWrite → Bool) : ∀ q ∈ s.outq, (q.excl && f q) = false :=
  fun q hq => by simp [h q hq]

theorem hostWaits_plain {s : State} (h : NoL1Atomics s) (as : List Nat) : hostWaits s as = false :=
  stuckSel_unselected (h.unselected fun p => p.touches as)

theorem hostPut_performsOnly {s : State} (hn : NoWindows s) (h : NoL1Atomics s) (bytes : List (Nat × Byte)) :
    PerformsOnly (hostPut s bytes) s bytes := by
  set s1 := (sortNat (bytes.map fun b => lineOf b.1)).foldl flushLine s with hs1
  have h1 : CachesOf s1 s := hn.foldl_flushLine _
  have hp1 : NoL1Atomics s1 := by rw [h1]; exact h
  have hn1 : NoWindows s1 := by rw [h1]; exact hn
  unfold hostPut unitPut
  rw [← hs1, performSel_unselected (hp1.unselected fun p => p.touches (bytes.map fun b => b.1))]
  rw [PerformsOnly, hn1.applyHome_eq, h1]

theorem PerformsOnly.flips {s t : State} {bytes : List (Nat × Byte)} (h : PerformsOnly t s bytes) : t.flips = s.flips :=
  (congrArg (fun u : State => u.flips) h).trans rfl

/-- The bytes a host access writes. -/
def hostData (addr : Nat) : Option (List Byte) → List (Nat × Byte)
  | some bs => (bytesAt addr bs.length).zip bs
  | none => []

/-- The frames of a range that a host access cannot reach yet. -/
def hostFrames (s : State) (addr n : Nat) : List Nat :=
  ((List.range ((addr + n - 1) / 4096 - addr / 4096 + 1)).map (addr / 4096 + ·)).filter fun f =>
    !s.hostBias.contains f || s.flips.any fun p => p.frame == f

theorem mem_hostFrames {s : State} {addr n f : Nat} (hn : 0 < n) : f ∈ hostFrames s addr n ↔
    (addr / 4096 ≤ f ∧ f ≤ (addr + n - 1) / 4096) ∧ ¬ (f ∈ s.hostBias ∧ ∀ p ∈ s.flips, p.frame ≠ f) := by
  have hle : addr / 4096 ≤ (addr + n - 1) / 4096 := Nat.div_le_div_right (by omega)
  have hrange : f ∈ (List.range ((addr + n - 1) / 4096 - addr / 4096 + 1)).map (addr / 4096 + ·) ↔
      addr / 4096 ≤ f ∧ f ≤ (addr + n - 1) / 4096 := by
    simp only [List.mem_map, List.mem_range]
    constructor
    · rintro ⟨j, hj, rfl⟩
      omega
    · rintro ⟨hlo, hhi⟩
      exact ⟨f - addr / 4096, by omega, by omega⟩
  rw [hostFrames, List.mem_filter, hrange]
  simp only [Bool.or_eq_true, Bool.not_eq_true', List.contains_eq_mem, decide_eq_false_iff_not, List.any_eq_true, beq_iff_eq, not_and_or, not_forall,
    not_not, exists_prop]

/-- Whether a host access can go on (R74). -/
theorem hostFrames_eq_nil {s : State} {addr n : Nat} (hn : 0 < n) : hostFrames s addr n = [] ↔
    ∀ f, addr / 4096 ≤ f → f ≤ (addr + n - 1) / 4096 → f ∈ s.hostBias ∧ ∀ p ∈ s.flips, p.frame ≠ f := by
  rw [List.eq_nil_iff_forall_not_mem]
  refine forall_congr' fun f => ?_
  rw [mem_hostFrames hn]
  tauto

section
variable {s : State} {addr n : Nat} {bytes : Option (List Byte)} (hready : s.phase = .ready) (hn : 0 < n)
  (hl : ∀ bs, bytes = some bs → bs.length = n) (hlo : paDevice addr = true) (hhi : paDevice (addr + n - 1) = true)
include hready hn hl hlo hhi

/-- An access that finds every frame in host bias and in no flip goes on; any other asks for the flips that are not under way, and waits. -/
theorem exec_hostCxlMemAccess : exec (.hostCxlMemAccess addr n bytes) s = .next (if hostFrames s addr n = [] then
      (if hostWaits s ((hostData addr bytes).map fun d => d.1) then { s with inputs := .cxlMem addr n bytes :: s.inputs }
        else if bytes.isNone then hostAnswer s ((bytesAt addr n).map (homeByte s)) else hostPut s (hostData addr bytes))
    else { s with
      flips := s.flips ++ ((hostFrames s addr n).filter fun f =>
        !s.flips.any fun p => p.frame == f && p.toHost).map fun f => (⟨f, true, none⟩ : Flip)
      inputs := .cxlMem addr n bytes :: s.inputs }) := by
  show execHostCxlMemAccess addr n bytes s = _
  have hcases : bytes = none ∨ ∃ bs, bytes = some bs ∧ bs.length = n := by
    cases bytes with
    | none => exact .inl rfl
    | some bs => exact .inr ⟨bs, rfl, hl bs rfl⟩
  rcases hcases with rfl | ⟨bs, rfl, rfl⟩
  all_goals
    unfold execHostCxlMemAccess hostFrames hostData
    dsimp only
    split
    · simp only [hn.ne', hlo, hhi, decide_false, Bool.not_true, Bool.or_self, Bool.false_eq_true, if_false]
      split
      · next h => rw [if_pos h]
      · next h => rw [if_neg h]
    · next h => rw [h] at hready; cases hready
    · next h _ => exact absurd hready h

theorem hostCxlMemAccess_ready (hw : NoWindows s) (hp : NoL1Atomics s)
    (hr : ∀ f, addr / 4096 ≤ f → f ≤ (addr + n - 1) / 4096 → f ∈ s.hostBias ∧ ∀ p ∈ s.flips, p.frame ≠ f) :
    ∃ t, exec (.hostCxlMemAccess addr n bytes) s = .next t ∧ t.flips = s.flips ∧
      t.mem = s.mem.putAll memDefault (hostData addr bytes) ∧ (bytes = none → t.host.answer = (bytesAt addr n).map (homeByte s)) := by
  refine ⟨_, exec_hostCxlMemAccess hready hn hl hlo hhi, ?_⟩
  rw [if_pos ((hostFrames_eq_nil hn).2 hr), if_neg (by simp [hostWaits_plain hp])]
  cases bytes with
  | none => exact ⟨rfl, rfl, fun _ => rfl⟩
  | some bs =>
    have hput := hostPut_performsOnly hw hp (hostData addr (some bs))
    exact ⟨hput.flips, hput.mem, fun h => by cases h⟩

theorem hostCxlMemAccess_waits
    (hr : ¬ ∀ f, addr / 4096 ≤ f → f ≤ (addr + n - 1) / 4096 → f ∈ s.hostBias ∧ ∀ p ∈ s.flips, p.frame ≠ f) :
    ∃ t, exec (.hostCxlMemAccess addr n bytes) s = .next t ∧ t.mem = s.mem ∧ t.inputs = .cxlMem addr n bytes :: s.inputs ∧
      ∀ f, addr / 4096 ≤ f → f ≤ (addr + n - 1) / 4096 → f ∉ s.hostBias → ∃ p ∈ t.flips, p.frame = f ∧ p.toHost = true := by
  refine ⟨_, exec_hostCxlMemAccess hready hn hl hlo hhi, ?_⟩
  rw [if_neg (fun h => hr ((hostFrames_eq_nil hn).1 h))]
  refine ⟨rfl, rfl, fun f hfl hfh hb => ?_⟩
  have hmem : f ∈ hostFrames s addr n := (mem_hostFrames hn).2 ⟨⟨hfl, hfh⟩, fun h => hb h.1⟩
  cases hflip : s.flips.any fun p => p.frame == f && p.toHost with
  | true =>
    obtain ⟨p, hp, hpf⟩ := List.any_eq_true.1 hflip
    exact ⟨p, List.mem_append_left _ hp, by simpa using hpf⟩
  | false =>
    refine ⟨⟨f, true, none⟩, List.mem_append_right _ (List.mem_map.2 ⟨f, List.mem_filter.2 ⟨hmem, ?_⟩, rfl⟩), rfl, rfl⟩
    rw [hflip]
    rfl

end

theorem hostCxlMemAccess_notReady {s : State} (h : s.phase ≠ .ready) (addr n : Nat) : exec (.hostCxlMemAccess addr n none) s =
    .next { s with host := { s.host with answer := List.replicate n 0#8 } } := by
  show execHostCxlMemAccess addr n none s = _
  unfold execHostCxlMemAccess
  dsimp only
  split
  · next hr => exact absurd hr h
  · split <;> rfl
  · rfl

theorem hostWriteToHostMemory_puts {s : State} (hw : NoWindows s) (hp : NoL1Atomics s) {addr : Nat} {bs : List Byte}
    (hlo : 0x8000000000000 ≤ addr) (hhi : addr + bs.length ≤ 2 ^ 52) :
    ∃ t, exec (.hostWriteToHostMemory addr bs) s = .next t ∧ t.mem = s.mem.putAll memDefault ((bytesAt addr bs.length).zip bs) := by
  refine ⟨hostPut s ((bytesAt addr bs.length).zip bs), ?_, (hostPut_performsOnly hw hp _).mem⟩
  show execHostWriteToHostMemory addr bs s = _
  unfold execHostWriteToHostMemory
  dsimp only
  rw [if_neg (by simp [Config.hostBase, Nat.not_lt.2 hlo]; omega), if_neg (by simp [hostWaits_plain hp])]

theorem hostWriteToHostMemory_below (s : State) {addr : Nat} (h : addr < 0x8000000000000) (bs : List Byte) :
    exec (.hostWriteToHostMemory addr bs) s = .next s := by
  show execHostWriteToHostMemory addr bs s = _
  unfold execHostWriteToHostMemory
  dsimp only
  rw [if_pos (by simp [Config.hostBase, h])]

/-! ### Numbers at their homes, with no window line -/

/-- No window line, and memory in its canonical form. -/
def PlainMemory (s : State) : Prop := NoWindows s ∧ Memory.wf s.mem

theorem homeNat_congr_on {t s : State} {a n : Nat} (h : ∀ k, a ≤ k → k < a + n → homeByte t k = homeByte s k) :
    homeNat t a n = homeNat s a n := by
  rw [homeNat_eq, homeNat_eq]
  congr 1
  refine List.map_congr_left fun k hk => ?_
  obtain ⟨hlo, hhi⟩ := mem_bytesAt.1 hk
  exact h k hlo hhi

section
variable {s : State} (h : PlainMemory s)
include h

theorem PlainMemory.devPut_performsOnly (a n v : Nat) : PerformsOnly (devPut s a n v) s ((bytesAt a n).zip (toBytes n v)) :=
  (h.1.applyHome_eq _).performsOnly

theorem PlainMemory.devPut (a n v : Nat) : PlainMemory (devPut s a n v) :=
  ⟨(h.devPut_performsOnly a n v).noWindows h.1, by rw [(h.devPut_performsOnly a n v).mem]; exact putAll_mem_wf _ _ h.2⟩

theorem PlainMemory.devPut_mem (a n v : Nat) : (Machine.devPut s a n v).mem = s.mem.putAll memDefault ((bytesAt a n).zip (toBytes n v)) :=
  (h.devPut_performsOnly a n v).mem

theorem PlainMemory.devPut_homeByte_off {a n k : Nat} (v : Nat) (hk : k < a ∨ a + n ≤ k) :
    homeByte (Machine.devPut s a n v) k = homeByte s k := by
  rw [(h.devPut a n v).1.homeByte_eq, h.1.homeByte_eq, h.devPut_mem, Table.look_putAll_of_notMem]
  intro p hp
  have hm := mem_bytesAt.1 (List.of_mem_zip hp).1
  omega

theorem PlainMemory.devPut_homeNat_off {a n b m : Nat} (v : Nat) (hb : b + m ≤ a ∨ a + n ≤ b) :
    homeNat (Machine.devPut s a n v) b m = homeNat s b m := by
  exact homeNat_congr_on fun k hlo hhi => h.devPut_homeByte_off v (by omega)

theorem PlainMemory.devPut_homeNat (a n v : Nat) : homeNat (Machine.devPut s a n v) a n = v % 256 ^ n := by
  have hlen : (toBytes n v).length = n := by simp [toBytes]
  have hread := map_look_putAll_bytesAt h.2 a (toBytes n v)
  rw [hlen] at hread
  have hbytes : (bytesAt a n).map (homeByte (Machine.devPut s a n v)) = toBytes n v := by
    refine (List.map_congr_left fun k _ => ?_).trans hread
    rw [(h.devPut a n v).1.homeByte_eq, h.devPut_mem]
    rfl
  rw [homeNat_eq, hbytes, ofBytes_toBytes]

end

/-! ### FRAME_RELEASE (R44, R45) -/

theorem rangeFrozen_none {s : State} (h : s.flips = []) (a n : Nat) : rangeFrozen s a n = false := by simp [rangeFrozen, h]

theorem Gang.filter_windows {g : Gang} (h : g.wlines = []) (f : WLine → Bool) : { g with wlines := g.wlines.filter f } = g := by
  rw [show g.wlines.filter f = g.wlines by rw [h, List.filter_nil]]

/-- A cleared frame: its bytes are 0, the rest of memory is as before. -/
theorem zeroFrame_eq {s : State} (hn : NoWindows s) (hp : NoL1Atomics s) (a n : Nat) :
    zeroFrame s a n = { s with
      mem := Table.keep s.mem fun b => !inRange a n b
      memPoison := (zeroFrame s a n).memPoison
      l1 := (zeroFrame s a n).l1
      l2 := (zeroFrame s a n).l2
      dir := (zeroFrame s a n).dir
      tags := (zeroFrame s a n).tags } := by
  unfold zeroFrame
  dsimp only
  rw [performSel_unselected (hp.unselected fun p => p.bytes.any fun b => inRange a n b.1)]
  rw [map_eq_self (l := s.gangs) fun g hg => Gang.filter_windows (hn.1 g hg) _, map_eq_self (l := s.saved) fun v hv => ?_]
  rw [Gang.filter_windows (hn.2 v hv)]

theorem zeroFrame_mem {s : State} (hp : NoL1Atomics s) (a n : Nat) : (zeroFrame s a n).mem = Table.keep s.mem fun b => !inRange a n b := by
  unfold zeroFrame
  rw [performSel_unselected (hp.unselected fun p => p.bytes.any fun b => inRange a n b.1)]

section
variable {s : State} (h : PlainMemory s) (hp : NoL1Atomics s) (a n : Nat)
include h hp

theorem zeroFrame_plain : PlainMemory (zeroFrame s a n) := by
  have heq := zeroFrame_eq h.1 hp a n
  refine ⟨h.1.congr ?_ ?_, by rw [zeroFrame_mem hp]; exact Table.wf_keep _ _ h.2⟩
  · rw [heq]
  · rw [heq]

theorem zeroFrame_homeByte (k : Nat) : homeByte (zeroFrame s a n) k = if a ≤ k ∧ k < a + n then 0#8 else homeByte s k := by
  rw [(zeroFrame_plain h hp a n).1.homeByte_eq, zeroFrame_mem hp, h.1.homeByte_eq, Table.look_keep]
  by_cases hk : a ≤ k ∧ k < a + n <;> simp [inRange, hk, memDefault]

end

/-- What a release of a frame reads of its list descriptor and its ring (R45). -/
structure ReleasePlan where
  f : Nat
  size : Nat
  link : Nat
  ent : Nat
  ring : Nat
  cons : Nat

def releasePlan (s : State) (desc : Nat) : ReleasePlan :=
  let size := 2 ^ pageBits (homeNat s (desc + 8) 8 % 8)
  let pool := homeNat s (desc + 8) 8 / 4096 % 2 ^ 40 * 4096
  let ring := homeNat s (desc + 24) 8 % 2 ^ 52
  let cons := homeNat s (ring + 8) 8
  let ent := ring + 16 + 8 * (cons % 256)
  let f := homeNat s ent 8 / 4096 % 2 ^ 40 * 4096
  ⟨f, size, homeNat s (desc + 16) 8 % 2 ^ 52 + 8 * ((f - pool) / size), ent, ring, cons⟩

/-- The words that the release writes, once the frame is cleared. -/
def ReleasePlan.puts (r : ReleasePlan) (z : State) (desc old : Nat) : State :=
  devPut (devPut (devPut (devPut z r.link 8 (old / 4096 % 2 ^ 40 * 4096)) desc 8 (r.f + (old + 1) % 4096)) r.ent 8 0)
    (r.ring + 8) 8 ((r.cons + 1) % 2 ^ 64)

/-- The frame, and the words of the release. -/
def ReleasePlan.parts (r : ReleasePlan) (desc : Nat) : List (Nat × Nat) := [(r.f, r.size), (r.link, 8), (desc, 8), (r.ent, 8), (r.ring + 8, 8)]

theorem exec_frameRelease {s : State} (hf : s.flips = []) {desc : Nat} (hv : homeNat s (releasePlan s desc).ent 8 % 2 = 1) :
    exec (.frameRelease desc) s = .next
      (let z := wordFirst (zeroFrame s (releasePlan s desc).f (releasePlan s desc).size) desc
       (releasePlan s desc).puts z desc (homeNat z desc 8)) := by
  show execFrameRelease desc s = _
  unfold execFrameRelease
  dsimp only
  rw [if_neg]
  · simp only [ReleasePlan.puts, releasePlan, fld]
    norm_num
  · simp only [releasePlan] at hv
    simp only [rangeFrozen_none hf, bitN, fld, Nat.pow_zero, Nat.div_one, hv]
    simp

theorem wordFirst_unmet {s : State} {a : Nat} (hq : ∀ q ∈ s.outq, ∀ b ∈ q.bytes, b.1 < a ∨ a + 8 ≤ b.1) : wordFirst s a = s := by
  refine performSel_unselected fun q hm => ?_
  have htouch : q.touches (bytesAt a 8) = false := by
    simp only [PendWrite.touches, PendWrite.covers, List.any_eq_false, List.any_eq_true, beq_iff_eq, not_exists, not_and]
    intro k hk b hb hbk
    have := mem_bytesAt.1 hk
    have := hq q hm b hb
    omega
  simp [beforeRmw, htouch]

section
variable {r : ReleasePlan} {desc : Nat} {z : State} (h : PlainMemory z)
  (hpair : (r.parts desc).Pairwise fun p q => p.1 + p.2 ≤ q.1 ∨ q.1 + q.2 ≤ p.1)
include h

theorem ReleasePlan.puts_homeByte_off (old : Nat) {k : Nat} (hl : k < r.link ∨ r.link + 8 ≤ k) (hd : k < desc ∨ desc + 8 ≤ k)
    (he : k < r.ent ∨ r.ent + 8 ≤ k) (hr : k < r.ring + 8 ∨ r.ring + 8 + 8 ≤ k) : homeByte (r.puts z desc old) k = homeByte z k := by
  have h1 := h.devPut r.link 8 (old / 4096 % 2 ^ 40 * 4096)
  have h2 := h1.devPut desc 8 (r.f + (old + 1) % 4096)
  have h3 := h2.devPut r.ent 8 0
  rw [ReleasePlan.puts, h3.devPut_homeByte_off _ hr, h2.devPut_homeByte_off _ he, h1.devPut_homeByte_off _ hd, h.devPut_homeByte_off _ hl]

include hpair

theorem ReleasePlan.puts_words (old : Nat) (hf : r.f < 2 ^ 52) :
    homeNat (r.puts z desc old) r.ent 8 = 0 ∧ homeNat (r.puts z desc old) (r.ring + 8) 8 = (r.cons + 1) % 2 ^ 64 ∧
      homeNat (r.puts z desc old) r.link 8 = old / 4096 % 2 ^ 40 * 4096 ∧ homeNat (r.puts z desc old) desc 8 = r.f + (old + 1) % 4096 := by
  simp only [ReleasePlan.parts, List.pairwise_cons, List.mem_cons, List.not_mem_nil, or_false, forall_eq_or_imp, forall_eq] at hpair
  obtain ⟨-, ⟨hld, hle, hlr⟩, ⟨hde, hdr⟩, her, -⟩ := hpair
  have h1 := h.devPut r.link 8 (old / 4096 % 2 ^ 40 * 4096)
  have h2 := h1.devPut desc 8 (r.f + (old + 1) % 4096)
  have h3 := h2.devPut r.ent 8 0
  unfold ReleasePlan.puts
  refine ⟨?_, ?_, ?_, ?_⟩
  · rw [h3.devPut_homeNat_off _ her, h2.devPut_homeNat, Nat.zero_mod]
  · rw [h3.devPut_homeNat]
    omega
  · rw [h3.devPut_homeNat_off _ hlr, h2.devPut_homeNat_off _ hle, h1.devPut_homeNat_off _ hld, h.devPut_homeNat]
    omega
  · rw [h3.devPut_homeNat_off _ hdr, h2.devPut_homeNat_off _ hde, h1.devPut_homeNat]
    omega

end

section
variable {desc : Nat} (r : ReleasePlan) (hpair : (r.parts desc).Pairwise fun p q => p.1 + p.2 ≤ q.1 ∨ q.1 + q.2 ≤ p.1) {k : Nat}
include hpair

theorem ReleasePlan.frame_off_words (hlo : r.f ≤ k) (hhi : k < r.f + r.size) :
    (k < r.link ∨ r.link + 8 ≤ k) ∧ (k < desc ∨ desc + 8 ≤ k) ∧ (k < r.ent ∨ r.ent + 8 ≤ k) ∧
      (k < r.ring + 8 ∨ r.ring + 8 + 8 ≤ k) := by
  simp only [ReleasePlan.parts, List.pairwise_cons, List.mem_cons, List.not_mem_nil, or_false, forall_eq_or_imp, forall_eq] at hpair
  omega

theorem ReleasePlan.desc_off_frame (hlo : desc ≤ k) (hhi : k < desc + 8) : ¬ (r.f ≤ k ∧ k < r.f + r.size) := by
  simp only [ReleasePlan.parts, List.pairwise_cons, List.mem_cons, List.not_mem_nil, or_false, forall_eq_or_imp, forall_eq] at hpair
  omega

end

theorem releasePlan_frame_lt (s : State) (desc : Nat) : (releasePlan s desc).f < 2 ^ 52 := by
  simp only [releasePlan]
  omega

/-- The release: the frame is cleared, stands first in the list, and its entry leaves the ring (R44, R45). -/
theorem frameRelease_releases {s : State} (h : PlainMemory s) (hf : s.flips = []) {desc : Nat}
    (hq : ∀ q ∈ s.outq, q.excl = false ∧ ∀ b ∈ q.bytes, b.1 < desc ∨ desc + 8 ≤ b.1) {r : ReleasePlan} (hr : r = releasePlan s desc)
    {old : Nat} (hold : old = homeNat s desc 8) (hv : homeNat s r.ent 8 % 2 = 1)
    (hpair : (r.parts desc).Pairwise fun p q => p.1 + p.2 ≤ q.1 ∨ q.1 + q.2 ≤ p.1) :
    ∃ t, exec (.frameRelease desc) s = .next t ∧ (∀ a, r.f ≤ a → a < r.f + r.size → homeByte t a = 0#8) ∧ homeNat t r.ent 8 = 0 ∧
      homeNat t (r.ring + 8) 8 = (r.cons + 1) % 2 ^ 64 ∧ homeNat t r.link 8 = old / 4096 % 2 ^ 40 * 4096 ∧
      homeNat t desc 8 = r.f + (old + 1) % 4096 ∧ ∀ a, (∀ p ∈ r.parts desc, a < p.1 ∨ p.1 + p.2 ≤ a) → homeByte t a = homeByte s a := by
  have hp : NoL1Atomics s := fun q hm => (hq q hm).1
  obtain ⟨z, hz⟩ : ∃ z, z = zeroFrame s r.f r.size := ⟨_, rfl⟩
  have hzp : PlainMemory z := by rw [hz]; exact zeroFrame_plain h hp r.f r.size
  have hzb (k : Nat) : homeByte z k = if r.f ≤ k ∧ k < r.f + r.size then 0#8 else homeByte s k := by
    rw [hz]
    exact zeroFrame_homeByte h hp r.f r.size k
  have hword : wordFirst z desc = z := wordFirst_unmet fun q hm => (hq q (by rwa [hz, zeroFrame_eq h.1 hp] at hm)).2
  have hzold : homeNat z desc 8 = old := by
    rw [hold]
    exact homeNat_congr_on fun k hlo hhi => by rw [hzb, if_neg (r.desc_off_frame hpair hlo hhi)]
  have hexec := exec_frameRelease hf (desc := desc) (by rw [← hr]; exact hv)
  rw [← hr, ← hz, hword] at hexec
  dsimp only at hexec
  rw [hzold] at hexec
  have hlt : r.f < 2 ^ 52 := by rw [hr]; exact releasePlan_frame_lt s desc
  obtain ⟨hent, hring, hlink, hdesc⟩ := r.puts_words hzp hpair old hlt
  refine ⟨_, hexec, fun a hlo hhi => ?_, hent, hring, hlink, hdesc, fun a ha => ?_⟩
  · obtain ⟨hal, had, hae, har⟩ := r.frame_off_words hpair hlo hhi
    rw [r.puts_homeByte_off hzp old hal had hae har, hzb, if_pos ⟨hlo, hhi⟩]
  · simp only [ReleasePlan.parts, List.mem_cons, List.not_mem_nil, or_false, forall_eq_or_imp, forall_eq] at ha
    obtain ⟨haf, hal, had, hae, har⟩ := ha
    rw [r.puts_homeByte_off hzp old hal had hae har, hzb, if_neg (fun h => haf.elim (Nat.not_lt.2 h.1) (Nat.not_le.2 h.2))]

end Sys2Proof.Machine
end
section
/-! LAW. Walks, starts of collapses, errors, rejected requests, and results that return (R38, R39, R65, R68, R72, R75, R191). -/

namespace Sys2Proof.Machine

/-! ### Walks (R38, R39) -/

theorem noteTlb_one {s : State} {who : Who} {t : Trans} (h : who.flat t.va = false) : ∃ tlb, noteTlb s who [t] = { s with tlb := tlb } ∧
    (⟨who.die, none, who.asid, t.va, t.bits, t.pa, t.w, t.x, t.dup⟩ : TlbEnt) ∈ tlb := by
  simp only [noteTlb, List.foldl_cons, List.foldl_nil, h, Bool.false_eq_true, if_false]
  exact ⟨_, rfl, List.mem_append_right _ (by simp)⟩

theorem pageTableWalk_notes {s : State} {uid : Nat} {va : Addr} {g : Gang} {q : Trans} (hg : s.gang? uid = some g) (hi : g.ident = false)
    (hw : walkVa s (g.raf.getD (va.toNat / 2 ^ 48) 0#64).toNat va.toNat .load = .ok q) :
    ∃ t, exec (.pageTableWalk uid va) s = .next t ∧ ReadsAlike t s ∧
      ∃ en ∈ t.tlb, en.die = g.die ∧ en.core = none ∧ en.asid = g.asid ∧ en.va = q.va ∧ en.bits = q.bits ∧ en.pa = q.pa := by
  have hflat (va : Nat) : Who.flat ⟨g.die, g.core, g.uid, 0, g.asid, g.raf, g.ident, g.rafOwn, 0, none⟩ va = false := by simp [Who.flat, hi]
  obtain ⟨tlb, hnote, hmem⟩ := noteTlb_one (s := s) (hflat q.va)
  refine ⟨{ s with tlb := tlb }, ?_, .of_eq rfl rfl rfl, _, hmem, rfl, rfl, rfl, rfl, rfl, rfl⟩
  show execPageTableWalk uid va s = _
  unfold execPageTableWalk
  simp only [hg, hflat, Bool.false_eq_true, if_false, hw, hnote]

/-! ### Collapses start (R72) -/

theorem startCollapse_eq (s : State) (d : DupPage) :
    ∃ cs, startCollapse s d = { s with collapses := cs } ∧ ∃ c ∈ cs, c.page.base = d.base := by
  unfold startCollapse
  split
  · next h =>
    obtain ⟨c, hc, hb⟩ := List.any_eq_true.1 h
    exact ⟨s.collapses, rfl, c, hc, by simpa using hb⟩
  · exact ⟨_, rfl, ⟨d, []⟩, by simp, rfl⟩

theorem dupCollapse_starts {s : State} {p : PendWrite} {d : DupPage} (hp : p ∈ s.outq) (hd : p.dup = some d)
    (hu : ∀ q ∈ s.outq, q.n = p.n → q = p) :
    ∃ t, exec (.dupCollapse p.die p.n) s = .next t ∧ ReadsAlike t s ∧ ∃ c ∈ t.collapses, c.page.base = d.base := by
  obtain ⟨q, hq⟩ : ∃ q, s.outq.find? (fun q => q.die == p.die && q.n == p.n) = some q :=
    Option.isSome_iff_exists.1 (List.find?_isSome.2 ⟨p, hp, by simp⟩)
  have hqn : q.n = p.n := (show q.die = p.die ∧ q.n = p.n by simpa using List.find?_some hq).2
  obtain rfl := hu q (List.mem_of_find?_eq_some hq) hqn
  obtain ⟨cs, hstart, hc⟩ := startCollapse_eq s d
  refine ⟨{ s with collapses := cs }, ?_, .of_eq rfl rfl rfl, hc⟩
  show execDupCollapse q.die q.n s = _
  unfold execDupCollapse
  simp only [hq, hd, hstart]

/-! ### Errors (R68, R385) -/

theorem ReadsAlike.logEvent {t s : State} (hm : t.mem = s.mem) (hg : t.gangs = s.gangs) (hv : t.saved = s.saved) (ev : Ev) (data : List Nat) :
    ReadsAlike (logEvent t ev data) s :=
  .of_eq ((logEvent_mem ..).trans hm) ((logEvent_gangs ..).trans hg) ((logEvent_saved ..).trans hv)

/-- An entry of the event log changes the log alone: the log's words stay opaque here, so that no hash is unfolded. -/
theorem Izsil.append_eq (z : Izsil) (ev : Ev) (data : List Nat) : ∃ l q h, z.append ev data = { z with log := l, logSeq := q, logHash := h } :=
  ⟨_, _, _, rfl⟩

theorem logEvent_soft (s : State) (ev : Ev) (data : List Nat) : (logEvent s ev data).izsil.soft = s.izsil.soft := by
  obtain ⟨l, q, h, heq⟩ := Izsil.append_eq s.izsil ev data
  rw [logEvent_frame, heq]

theorem exec_eccUncorrectable (loc : EccSite) (s : State) : exec (.eccUncorrectable loc) s = execEccUncorrectable loc s := rfl
theorem exec_eccCorrected (code : Nat) (s : State) : exec (.eccCorrected code) s = execEccCorrected code s := rfl

theorem eccCleanLine_discards (s : State) (line : Nat) : ∃ t, exec (.eccUncorrectable (.cleanLine line)) s = .next t ∧ ReadsAlike t s ∧
    (∀ c ∈ t.l1, c.2 ≠ line) ∧ ∀ c ∈ t.l2, c.1 ≠ line :=
  ⟨{ s with l1 := s.l1.filter (fun e => e.2 != line), l2 := s.l2.filter fun e => e.1 != line }, by
    rw [exec_eccUncorrectable, execEccUncorrectable],
    .of_eq rfl rfl rfl, fun c hc => by simpa using (List.mem_filter.1 hc).2, fun c hc => by simpa using (List.mem_filter.1 hc).2⟩

theorem eccCorrected_counts (s : State) (code : Nat) : ∃ t, exec (.eccCorrected code) s = .next t ∧ ReadsAlike t s ∧
    t.izsil.soft = s.izsil.soft + 1 :=
  ⟨logEvent { s with izsil := { s.izsil with soft := s.izsil.soft + 1 } } .ecc [code, s.izsil.soft + 1], by
    rw [exec_eccCorrected, execEccCorrected],
    .logEvent rfl rfl rfl .., logEvent_soft ..⟩

theorem eccMemLine_poisons (s : State) (line : Nat) : ∃ t, exec (.eccUncorrectable (.memLine line)) s = .next t ∧ ReadsAlike t s ∧
    ∀ k, k ∈ t.memPoison ↔ k = line ∨ k ∈ s.memPoison :=
  ⟨logEvent { s with memPoison := insNat line s.memPoison } .ecc [line], by
    rw [exec_eccUncorrectable, execEccUncorrectable],
    .logEvent rfl rfl rfl .., fun k => by rw [logEvent_memPoison]; exact mem_insNat⟩

theorem eccOsLine_poisons {s : State} {uid line : Nat} {g : Gang} (hg : s.gang? uid = some g) (hl : line < g.osLines) :
    ∃ t g', exec (.eccUncorrectable (.osLine uid line)) s = .next t ∧ t.mem = s.mem ∧ t.gang? uid = some g' ∧ g'.os = g.os ∧
      ∀ k, k ∈ g'.osPoison ↔ k = line ∨ k ∈ g.osPoison := by
  set mark : Gang → Gang := fun g => if line < g.osLines then { g with osPoison := insNat line g.osPoison } else g with hmark
  refine ⟨logEvent (s.updGang uid mark) .ecc [uid, line], { g with osPoison := insNat line g.osPoison },
    by rw [exec_eccUncorrectable, execEccUncorrectable], by rw [logEvent_mem]; rfl, ?_, rfl, fun _ => mem_insNat⟩
  rw [State.gang?, logEvent_gangs]
  show State.gang? (s.updGang uid mark) uid = _
  rw [State.gang?_updGang]
  · simp [hg, hl, hmark]
  · intro g
    simp only [hmark]
    split <;> rfl

/-! ### MISS_RETRY (R65) -/

theorem missRetry_retries {s : State} {uid id n : Nat} {e : Env} {o : Out} (he : envOf s uid id = some e) (ho : e.a.outs[n]? = some o) :
    ∃ t b q, exec (.missRetry uid id n) s = .next t ∧ t.mem = s.mem ∧ envOf t uid id = some b ∧
      b.a = { e.a with outs := e.a.outs.set n { o with rejected := q } } ∧ (q = o.rejected ∨ q = o.rejected - 1) := by
  obtain ⟨hn, hget⟩ := List.getElem?_eq_some_iff.1 ho
  cases hcoin : Config.coin s.tick 0 with
  | true =>
    have hset : e.a.outs.set n o = e.a.outs := by rw [← hget, List.set_getElem_self]
    refine ⟨s, e, o.rejected, ?_, rfl, he, ?_, .inl rfl⟩
    · show execMissRetry uid id n s = _
      simp [execMissRetry, hcoin]
    · show e.a = { e.a with outs := e.a.outs.set n o }
      rw [hset]
  | false =>
    set retry : Agent → Agent := fun a => { a with outs := a.outs.modify n fun o => { o with rejected := o.rejected - 1 } }
    refine ⟨s.updAgent uid id retry, _, o.rejected - 1, ?_, rfl, envOf_updAgent he retry fun _ => rfl, ?_, .inr rfl⟩
    · show execMissRetry uid id n s = _
      rw [execMissRetry, hcoin]
      rfl
    · show ({ e.a with outs := e.a.outs.modify n _ } : Agent) = _
      rw [List.modify_eq_set_get _ hn, List.get_eq_getElem, hget]

/-! ### Results land (R191, R192) -/

theorem land_with (a : Agent) (outs : List Out) (ahead : List Ahead) (w : RegWrite) :
    ({ a with outs := outs, ahead := ahead } : Agent).land w = { a.land w with outs := outs, ahead := ahead } := by
  cases w with
  | v reg lane val => rfl
  | s n val => dsimp only [Agent.land]; split <;> rfl
  | k n val => dsimp only [Agent.land]; split <;> rfl
  | i n val => rfl
  | b n val => rfl

theorem foldl_land_with (ws : List RegWrite) (a : Agent) (outs : List Out) (ahead : List Ahead) :
    ws.foldl Agent.land { a with outs := outs, ahead := ahead } = { ws.foldl Agent.land a with outs := outs, ahead := ahead } := by
  induction ws generalizing a with
  | nil => rfl
  | cons w ws ih => rw [List.foldl_cons, land_with, ih, List.foldl_cons]

theorem land_id (a : Agent) (w : RegWrite) : (a.land w).id = a.id := by
  cases w with
  | v reg lane val => rfl
  | s n val => dsimp only [Agent.land]; split <;> rfl
  | k n val => dsimp only [Agent.land]; split <;> rfl
  | i n val => rfl
  | b n val => rfl

theorem foldl_land_id (ws : List RegWrite) (a : Agent) : (ws.foldl Agent.land a).id = a.id := by
  induction ws generalizing a with
  | nil => rfl
  | cons w ws ih => rw [List.foldl_cons, ih, land_id]

theorem landOut_noHand {s : State} {e b : Env} (hb : envOf s e.g.uid e.a.id = some b) {n : Nat} {o : Out} (ho : b.a.outs[n]? = some o)
    (hh : o.hand = none) : landOut s e n = e.set s fun a => { o.values.foldl Agent.land a with outs := a.outs.eraseIdx n } := by
  unfold landOut
  rw [Env.now_eq hb]
  simp only [ho, hh]

theorem canLand_iff {outs : List Out} {n : Nat} {o : Out} (ho : outs[n]? = some o) : canLand outs n = true ↔
    o.rejected = 0 ∧ o.atom = none ∧ (∀ l ∈ o.reads, l.waits = false) ∧ ∀ q ∈ outs.take n, q.regs.any o.regs.contains = false := by
  unfold canLand
  simp only [ho, Bool.and_eq_true, beq_iff_eq, Option.isNone_iff_eq_none, Bool.not_eq_true', List.any_eq_false, Bool.not_eq_true, and_assoc]

/-- LOAD_DATA_RETURN for an entry with no atomic, once its line requests have entries. -/
theorem exec_loadDataReturn {s : State} {uid id n : Nat} {e : Env} {o : Out} (he : envOf s uid id = some e) (ho : e.a.outs[n]? = some o)
    (ha : o.atom = none) (hr : o.rejected = 0) : exec (.loadDataReturn uid id n) s =
      .next (let t := if o.reads.any LoadReq.waits then takeParts s e o else s
        if canLand (e.now t).a.outs n then landOut t e n else t) := by
  show execLoadDataReturn uid id n s = _
  simp [execLoadDataReturn, he, ho, ha, hr]

theorem loadDataReturn_lands {s : State} {uid id n : Nat} {e : Env} {o : Out} (he : envOf s uid id = some e) (ho : e.a.outs[n]? = some o)
    (hh : o.hand = none) (hc : canLand e.a.outs n = true) :
    exec (.loadDataReturn uid id n) s = .next (e.set s fun a => { o.values.foldl Agent.land a with outs := a.outs.eraseIdx n }) := by
  obtain ⟨hr, ha, hw, -⟩ := (canLand_iff ho).1 hc
  have hwait : o.reads.any LoadReq.waits = false := by simpa using hw
  obtain ⟨rfl, rfl⟩ := envOf_ids he
  rw [exec_loadDataReturn he ho ha hr]
  simp only [hwait, Bool.false_eq_true, if_false, Env.now_eq he, hc, if_true, landOut_noHand he ho hh]

/-! ### Parts of a load take their value (R75) -/

theorem noteParts_cachesOf {s : State} (hq : s.outq = []) {e : Env} {hit : List (LoadReq × LoadPart)} (ho : ∀ h ∈ hit, h.1.os = false) :
    CachesOf (noteParts s e hit) s := by
  have hos : hit.filter (fun h => h.1.os) = [] := List.filter_eq_nil_iff.2 fun h hh => by simp [ho h hh]
  have hrel (g : Gang) : g.osReleases [] = [] := by
    unfold Gang.osReleases
    split <;> simp
  unfold noteParts
  simp only [hos, List.flatMap_nil, hrel, List.isEmpty_nil, if_true, hq, noteSeen_none s _ _ hq]
  refine foldl_keeps (fun t => CachesOf t s) _ _ _ (fun t h _ ht => ?_) rfl
  exact foldl_keeps (fun t => CachesOf t s) _ _ _ (fun t l _ ht => (dirRead_cachesOf ..).trans ht) ht

theorem forget_agent {s : State} {e b : Env} (hb : envOf s e.g.uid e.a.id = some b) (os : Bool) (as : List Nat) :
    ∃ c h, envOf (forget s e os as) e.g.uid e.a.id = some c ∧ c.a = { b.a with ahead := h } := by
  unfold forget
  rw [Env.now_eq hb]
  split
  · exact ⟨b, b.a.ahead, hb, rfl⟩
  · exact ⟨_, _, envOf_set hb _ fun _ => rfl, rfl⟩

/-- A part takes what stands at its bytes' homes, where it waits and passes a test. -/
def LoadPart.takeIf (s : State) (c : Bool) (p : LoadPart) : LoadPart :=
  if p.got.isNone && c then { p with got := some (p.addrs.map (homeByte s)) } else p

/-- The parts of a result that wait and pass a test take what stands at their homes. -/
def Out.takeIf (s : State) (sel : LoadReq → LoadPart → Bool) (o : Out) : Out :=
  { o with reads := o.reads.map fun l => { l with parts := l.parts.map fun p => p.takeIf s (sel l p) } }

/-- With no write waiting and no flip, parts of global memory that pass a test all take their value (R79). -/
theorem settle_global {s : State} {e : Env} (he : envOf s e.g.uid e.a.id = some e) (hq : s.outq = []) (hf : s.flips = [])
    {sel : LoadReq → LoadPart → Bool} (hos : ∀ l p, sel l p = true → l.os = false) (hne : e.a.waitParts sel ≠ []) :
    ∃ u c h, envOf u e.g.uid e.a.id = some c ∧ c.a = { e.a with ahead := h } ∧
      settle s e sel = e.set u fun a => { a with outs := a.outs.map (Out.takeIf s sel) } := by
  have hhit : ∀ h ∈ e.a.waitParts sel, h.1.os = false := by
    intro h hh
    simp only [Agent.waitParts, List.mem_flatMap, List.mem_map, List.mem_filter, Bool.and_eq_true] at hh
    obtain ⟨o, -, l, -, p, ⟨-, -, hs⟩, rfl⟩ := hh
    exact hos l p hs
  have hready (l : LoadReq) (p : LoadPart) (hl : l.os = false) : e.partReady s l p = true := by
    simp [Env.partReady, hl, readable_none hq, frozen_none hf]
  have hosNone : (e.a.waitParts sel).filter (fun h => h.1.os) = [] := List.filter_eq_nil_iff.2 fun h hh => by simp [hhit h hh]
  have hnow : (e.a.waitParts sel).filter (fun h => e.partReady s h.1 h.2) = e.a.waitParts sel :=
    List.filter_eq_self.2 fun h hh => hready _ _ (hhit h hh)
  have hcaches : CachesOf (noteParts s e (e.a.waitParts sel)) s := noteParts_cachesOf hq hhit
  have henv : envOf (noteParts s e (e.a.waitParts sel)) e.g.uid e.a.id = some e := by
    rw [envOf_congr (s := s) (by rw [hcaches])]
    exact he
  have htake : (fun (o : Out) => { o with
      reads := o.reads.map fun l => { l with
        parts := l.parts.map fun p =>
          if p.got.isNone && sel l p && e.partReady s l p then { p with got := some (p.value s e.who l.os) } else p } }) = Out.takeIf s sel := by
    funext o
    unfold Out.takeIf LoadPart.takeIf
    congr 2
    funext l
    congr 2
    funext p
    cases hs : sel l p with
    | false => simp
    | true => simp [hready l p (hos l p hs), LoadPart.value, hos l p hs, viewBytes_none hq]
  obtain ⟨c1, h1, hc1, ha1⟩ := forget_agent henv true []
  obtain ⟨c2, h2, hc2, ha2⟩ := forget_agent hc1 false (((e.a.waitParts sel).filter fun h => !h.1.os).flatMap fun h => h.2.addrs)
  refine ⟨_, c2, h2, hc2, by rw [ha2, ha1], ?_⟩
  unfold settle
  rw [Env.now_eq he]
  split
  · next h => exact absurd h hne
  · simp only [hosNone, List.flatMap_nil, List.isEmpty_nil, if_true, hnow, List.isEmpty_eq_false_iff.2 hne, Bool.false_eq_true, if_false]
    rw [← htake]

/-- Whether an entry can land depends on the entry and on the registers of the earlier ones. -/
theorem canLand_congr {outs outs' : List Out} {n : Nat} (hget : outs[n]? = outs'[n]?)
    (hregs : (outs.take n).map Out.regs = (outs'.take n).map Out.regs) : canLand outs n = canLand outs' n := by
  have hany (l : List Out) (o : Out) : (l.any fun q => q.regs.any o.regs.contains) = (l.map Out.regs).any fun r => r.any o.regs.contains := by
    rw [List.any_map]
    rfl
  unfold canLand
  rw [hget]
  cases outs'[n]? with
  | none => rfl
  | some o => simp only [hany, hregs]

theorem Out.takeIf_regs (s : State) (sel : LoadReq → LoadPart → Bool) (o : Out) : (o.takeIf s sel).regs = o.regs := by
  simp [Out.regs, Out.takeIf, List.flatMap_map]

section
variable {s : State} {e : Env} {n : Nat} {o : Out} (ho : e.a.outs[n]? = some o)

/-- Which waiting parts of an entry take their value now. -/
def takesNow (s : State) (o : Out) (p : LoadPart) : Bool :=
  !((o.reads.flatMap fun l => l.parts).any fun p => p.got.isNone && Config.coin s.tick (2 ^ 20 + p.addrs.headD 0)) ||
    Config.coin s.tick (2 ^ 20 + p.addrs.headD 0)

theorem takeParts_eq_settle (s : State) (e : Env) (o : Out) : takeParts s e o = settle s e fun l p => o.reads.contains l && takesNow s o p := rfl

/-- Some part takes its value. -/
theorem exists_takesNow (s : State) {o : Out} (hw : ∃ l ∈ o.reads, l.waits = true) :
    ∃ l ∈ o.reads, ∃ p ∈ l.parts, p.got = none ∧ takesNow s o p = true := by
  cases hsome : (o.reads.flatMap fun l => l.parts).any fun p => p.got.isNone && Config.coin s.tick (2 ^ 20 + p.addrs.headD 0) with
  | true =>
    obtain ⟨p, hp, hgot⟩ := List.any_eq_true.1 hsome
    obtain ⟨l, hl, hpl⟩ := List.mem_flatMap.1 hp
    obtain ⟨hnone, hcoin⟩ := Bool.and_eq_true_iff.1 hgot
    exact ⟨l, hl, p, hpl, by simpa using hnone, by simp only [takesNow, hcoin, Bool.or_true]⟩
  | false =>
    obtain ⟨l, hl, hlw⟩ := hw
    obtain ⟨p, hp, hnone⟩ := List.any_eq_true.1 hlw
    exact ⟨l, hl, p, hp, by simpa using hnone, by simp only [takesNow, hsome, Bool.not_false, Bool.true_or]⟩

/-- An entry whose waiting parts that pass a test have taken their value. -/
def Out.took (s : State) (take : LoadPart → Bool) (o : Out) : Out :=
  { o with reads := o.reads.map fun l => { l with parts := l.parts.map fun p => p.takeIf s (take p) } }

theorem Out.takeIf_own (s : State) (take : LoadPart → Bool) (o : Out) :
    o.takeIf s (fun l p => o.reads.contains l && take p) = o.took s take := by
  unfold Out.takeIf Out.took
  congr 1
  refine List.map_congr_left fun l hl => ?_
  simp [hl]

include ho

theorem outs_takeIf_get (take : LoadPart → Bool) :
    (e.a.outs.map (Out.takeIf s fun l p => o.reads.contains l && take p))[n]? = some (o.took s take) := by
  rw [List.getElem?_map, ho, Option.map_some, Out.takeIf_own]

theorem canLand_takeIf (take : LoadPart → Bool) :
    canLand (e.a.outs.map (Out.takeIf s fun l p => o.reads.contains l && take p)) n = canLand (e.a.outs.set n (o.took s take)) n := by
  obtain ⟨hn, -⟩ := List.getElem?_eq_some_iff.1 ho
  refine canLand_congr ?_ ?_
  · rw [outs_takeIf_get ho, List.getElem?_set_self hn]
  · rw [List.take_set_of_le (Nat.le_refl n), ← List.map_take, List.map_map]
    exact List.map_congr_left fun q _ => Out.takeIf_regs ..

/-- Parts of a load take what stands at their homes; with the last of them, and nothing earlier to write its registers, it lands (R75, R191). -/
theorem loadDataReturn_takes {uid id : Nat} (he : envOf s uid id = some e) (ha : o.atom = none) (hh : o.hand = none) (hr : o.rejected = 0)
    (hw : ∃ l ∈ o.reads, l.waits = true) (hq : s.outq = []) (hf : s.flips = []) (hos : ∀ l ∈ o.reads, l.os = false) :
    ∃ t b, exec (.loadDataReturn uid id n) s = .next t ∧ t.mem = s.mem ∧ envOf t uid id = some b ∧
      (canLand (e.a.outs.set n (o.took s (takesNow s o))) n = false → b.a = { e.a with outs := b.a.outs, ahead := b.a.ahead } ∧
        b.a.outs[n]? = some (o.took s (takesNow s o)) ∧ b.a.outs.length = e.a.outs.length) ∧
      (canLand (e.a.outs.set n (o.took s (takesNow s o))) n = true →
        b.a = { (o.took s (takesNow s o)).values.foldl Agent.land e.a with outs := b.a.outs, ahead := b.a.ahead } ∧
        b.a.outs.length + 1 = e.a.outs.length) := by
  obtain ⟨rfl, rfl⟩ := envOf_ids he
  obtain ⟨hn, -⟩ := List.getElem?_eq_some_iff.1 ho
  obtain ⟨l, hl, p, hp, hgot, htake⟩ := exists_takesNow s hw
  have hne : e.a.waitParts (fun l p => o.reads.contains l && takesNow s o p) ≠ [] := by
    refine List.ne_nil_of_mem (a := (l, p)) ?_
    simp only [Agent.waitParts, List.mem_flatMap, List.mem_map, List.mem_filter]
    exact ⟨o, List.mem_of_getElem? ho, l, hl, p, ⟨hp, by simp [hgot, htake, hl]⟩, rfl⟩
  obtain ⟨u, c, h, hc, hca, hset⟩ := settle_global he hq hf (sel := fun l p => o.reads.contains l && takesNow s o p)
    (fun l p hs => hos l (by simpa using (Bool.and_eq_true_iff.1 hs).1)) hne
  have hwait : o.reads.any LoadReq.waits = true := List.any_eq_true.2 hw
  have hmem : (takeParts s e o).mem = s.mem := takeParts_mem s e o
  have hexec := exec_loadDataReturn he ho ha hr
  simp only [hwait, if_true] at hexec
  obtain ⟨t, ht⟩ : ∃ t, t = takeParts s e o := ⟨_, rfl⟩
  rw [← ht] at hexec hmem
  obtain ⟨b, hb, hba⟩ : ∃ b, envOf t e.g.uid e.a.id = some b ∧
      b.a = { e.a with outs := e.a.outs.map (Out.takeIf s fun l p => o.reads.contains l && takesNow s o p), ahead := h } := by
    rw [ht, takeParts_eq_settle, hset]
    refine ⟨_, envOf_set hc _ fun _ => rfl, ?_⟩
    simp only [envWith, hca]
  have houts : b.a.outs = e.a.outs.map (Out.takeIf s fun l p => o.reads.contains l && takesNow s o p) := by rw [hba]
  have hget : b.a.outs[n]? = some (o.took s (takesNow s o)) := by rw [houts, outs_takeIf_get ho]
  have hcan : canLand b.a.outs n = canLand (e.a.outs.set n (o.took s (takesNow s o))) n := by rw [houts, canLand_takeIf ho]
  have hlen : b.a.outs.length = e.a.outs.length := by rw [houts, List.length_map]
  rw [Env.now_eq hb, hcan] at hexec
  cases hland : canLand (e.a.outs.set n (o.took s (takesNow s o))) n with
  | false =>
    rw [hland] at hexec
    refine ⟨t, b, hexec, hmem, hb, fun _ => ⟨by rw [hba], hget, hlen⟩, fun h => by cases h⟩
  | true =>
    rw [hland, if_pos rfl, landOut_noHand hb hget hh] at hexec
    refine ⟨_, _, hexec, hmem, envOf_set hb _ fun a => foldl_land_id _ a, fun h => (Bool.noConfusion h), fun _ => ⟨?_, ?_⟩⟩
    · simp only [envWith]
      rw [hba, foldl_land_with]
    · show (b.a.outs.eraseIdx n).length + 1 = _
      rw [List.length_eraseIdx_of_lt (by omega), hlen]
      omega

end

end Sys2Proof.Machine
end
section
/-! LAW. The acknowledgements of a collapse (R72, R104), and O4. -/

namespace Sys2Proof.Machine

/-! ### What a write or an atomic that performs leaves of collapses, translations and held writes (R72, R104) -/

/-- Collapses and translations as they are, and no waiting write of a read-duplicated page that did not wait before. -/
def KeepsDups (t s : State) : Prop := t.collapses = s.collapses ∧ t.tlb = s.tlb ∧
  ∀ p ∈ t.outq, ∀ d, p.dup = some d → ∃ q ∈ s.outq, q.dup = some d

theorem KeepsDups.refl (s : State) : KeepsDups s s := ⟨rfl, rfl, fun p hp _ hd => ⟨p, hp, hd⟩⟩

theorem KeepsDups.trans {s t u : State} (h : KeepsDups u t) (h' : KeepsDups t s) : KeepsDups u s := by
  refine ⟨h.1.trans h'.1, h.2.1.trans h'.2.1, fun p hp d hd => ?_⟩
  obtain ⟨q, hq, hqd⟩ := h.2.2 p hp d hd
  exact h'.2.2 q hq d hqd

theorem KeepsDups.of_eq {t s : State} (hc : t.collapses = s.collapses) (ht : t.tlb = s.tlb) (hq : t.outq = s.outq) : KeepsDups t s :=
  ⟨hc, ht, fun p hp _ hd => ⟨p, by rwa [← hq], hd⟩⟩

/-- An update of the waiting writes that keeps what each holds. -/
theorem KeepsDups.of_map {t s : State} {f : PendWrite → PendWrite} (hc : t.collapses = s.collapses) (ht : t.tlb = s.tlb)
    (hq : t.outq = s.outq.map f) (hf : ∀ p, (f p).dup = p.dup) : KeepsDups t s := by
  refine ⟨hc, ht, fun p hp d hd => ?_⟩
  rw [hq] at hp
  obtain ⟨q, hqm, rfl⟩ := List.mem_map.1 hp
  exact ⟨q, hqm, by rwa [← hf]⟩

theorem KeepsDups.foldl {α : Type} {f : State → α → State} (hf : ∀ s a, KeepsDups (f s a) s) (l : List α) (s : State) :
    KeepsDups (l.foldl f s) s :=
  foldl_keeps (fun t => KeepsDups t s) f l s (fun t a _ ht => (hf t a).trans ht) (.refl s)

theorem KeepsDups.ite {c : Prop} [Decidable c] {t u s : State} (ht : KeepsDups t s) (hu : KeepsDups u s) : KeepsDups (if c then t else u) s := by
  split
  · exact ht
  · exact hu

theorem CachesOf.keepsDups {t s : State} (h : CachesOf t s) : KeepsDups t s := .of_eq (by rw [h]) (by rw [h]) (by rw [h])

theorem supply_keepsDups (s : State) (line : Nat) : KeepsDups (supply s line) s := by
  rw [supply_eq]
  exact .of_eq rfl rfl rfl

theorem dropWin_keepsDups (s : State) (line : Nat) (keep : Option (Nat × Nat)) : KeepsDups (dropWin s line keep) s := .of_eq rfl rfl rfl

theorem setTags_keepsDups (s : State) (as : List Nat) (ms : List Need) : KeepsDups (setTags s as ms) s := by
  rw [setTags_eq]
  exact .of_eq rfl rfl rfl

theorem ownLine_keepsDups (s : State) (line : Nat) : KeepsDups (ownLine s line) s :=
  .trans (t := supply s line) (.of_eq rfl rfl rfl) (supply_keepsDups s line)

theorem applyHome_keepsDups (s : State) (bytes : List (Nat × Byte)) : KeepsDups (applyHome s bytes) s := by
  unfold applyHome
  exact (setTags_keepsDups ..).trans (.trans (.of_eq rfl rfl rfl) (.foldl ownLine_keepsDups _ s))

theorem ownWindow_keepsDups (s : State) (uid : Nat) (w : WLine) : KeepsDups (ownWindow s uid w) s := by
  unfold ownWindow
  extract_lets mine s1 own
  have h1 : KeepsDups s1 s := (dropWin_keepsDups ..).trans (.ite (.refl s) (supply_keepsDups ..))
  exact .trans (t := s1) (.of_eq rfl rfl rfl) h1

theorem ownThrough_keepsDups (s : State) (uid osLine line : Nat) : KeepsDups (ownThrough s uid osLine line) s := by
  unfold ownThrough
  split
  · exact ownWindow_keepsDups ..
  · exact .trans (t := ownLine s line) (.of_eq rfl rfl rfl) (ownLine_keepsDups s line)

theorem winPut_keepsDups (s : State) (w : WinRef) (line : Nat) (bytes : List (Nat × Byte)) : KeepsDups (winPut s w line bytes) s :=
  (setTags_keepsDups ..).trans (.trans (t := ownThrough s w.gang w.line line) (.of_eq rfl rfl rfl) (ownThrough_keepsDups ..))

theorem holdL1_keepsDups (s : State) (had : Bool) (die core line hint : Nat) : KeepsDups (holdL1 s had die core line hint) s := by
  have h := holdL1_performsOnly s had die core line hint
  exact .of_eq (by rw [h]) (by rw [h]) (holdL1_outq ..)

theorem clearGroup_keepsDups (s : State) (p : PendWrite) : KeepsDups (clearGroup s p) s := by
  unfold clearGroup
  dsimp only
  split
  · exact .refl s
  · exact .of_eq rfl rfl rfl

theorem showPairs_keepsDups (s : State) (l : List (Nat × Nat)) : KeepsDups (showPairs s l) s := by
  unfold showPairs
  extract_lets saw
  refine (KeepsDups.foldl (fun t x => ?_) l _).trans (.of_map rfl rfl rfl fun p => rfl)
  split
  · exact .of_eq rfl rfl rfl
  · exact .refl t

theorem performOne_keepsDups (s : State) (p : PendWrite) : KeepsDups (performOne s p) s := by
  unfold performOne
  extract_lets ms s1 drop s2 s3
  have h1 : KeepsDups s1 s := .ite (.refl s) (showPairs_keepsDups ..)
  have h2 : KeepsDups s2 s := .trans (t := s1) ⟨rfl, rfl, fun q hq _ hd => ⟨q, (List.mem_filter.1 hq).1, hd⟩⟩ h1
  have h3 : KeepsDups s3 s := by
    unfold s3
    split
    · refine .ite ?_ ((applyHome_keepsDups ..).trans h2)
      exact .trans (t := winPut s2 _ p.line p.bytes) (.of_eq rfl rfl rfl) ((winPut_keepsDups ..).trans h2)
    · exact (holdL1_keepsDups ..).trans ((allocL2_cachesOf ..).keepsDups.trans ((applyHome_keepsDups ..).trans h2))
  exact (clearGroup_keepsDups ..).trans ((setTags_keepsDups ..).trans h3)

theorem performSel_keepsDups (s : State) (sel : PendWrite → Bool) : KeepsDups (performSel s sel) s := by
  rw [performSel_eq_foldl]
  refine foldl_keeps (fun a : State × List PendWrite => KeepsDups a.1 s) _ _ _ (fun a p _ ha => ?_) (.refl s)
  unfold performStep
  split
  · exact ha
  · split
    · exact ha
    · exact (performOne_keepsDups ..).trans ha

theorem fixRecords_keepsDups (s : State) (who : Who) (upto : Nat) (as : List Nat) : KeepsDups (fixRecords s who upto as) s := by
  obtain ⟨cs, hcs⟩ := fixRecords_eq s who upto as
  rw [hcs]
  exact .of_eq rfl rfl rfl

theorem resolveAfter_keepsDups (s : State) (gang id : Nat) (ws : List Nat) : KeepsDups (resolveAfter s gang id ws) s := by
  unfold resolveAfter
  split
  · exact .refl s
  · refine .of_map rfl rfl rfl fun p => ?_
    split <;> rfl

/-- A write of an atomic in an L1 enters the queue, and holds nothing. -/
theorem insertAfter_keepsDups (s : State) {q : PendWrite} (hq : q.dup = none) (qs : List PendWrite) (n : Nat) :
    KeepsDups { s with outq := insertAfter q qs s.outq, fresh := n } s := by
  refine ⟨rfl, rfl, fun p hp d hd => ?_⟩
  simp only [insertAfter, List.mem_append, List.mem_cons] at hp
  rcases hp with hp | rfl | hp
  · exact ⟨p, List.mem_of_mem_take hp, hd⟩
  · simp [hq] at hd
  · exact ⟨p, List.mem_of_mem_drop hp, hd⟩

theorem performLane_keepsDups (s : State) (p : PendAtom) (l : AtomLane) : KeepsDups (performLane s p l).1 s := by
  unfold performLane
  extract_lets as s1 qs s2 s3 chain s4 old had s5 ms s6
  have h1 : KeepsDups s1 s := .ite (.refl s) (performSel_keepsDups ..)
  have h2 : KeepsDups s2 s := by
    unfold s2
    split
    · exact h1
    · exact (showPairs_keepsDups ..).trans h1
  have h3 : KeepsDups s3 s := (fixRecords_keepsDups ..).trans h2
  have h4 : KeepsDups s4 s := .ite h3 (.trans (t := s3) (.of_eq rfl rfl rfl) h3)
  have h6 : KeepsDups s6 s := .ite ((holdL1_keepsDups ..).trans ((ownLine_keepsDups ..).trans h4)) ((ownLine_keepsDups ..).trans h4)
  split
  refine .ite h6 (.ite ((setTags_keepsDups ..).trans ((applyHome_keepsDups ..).trans h6)) ?_)
  exact (resolveAfter_keepsDups ..).trans ((insertAfter_keepsDups _ rfl _ _).trans h6)

theorem performLanes_keepsDups (p : PendAtom) (ls : List AtomLane) (s : State) (ws : List RegWrite) : KeepsDups (performLanes p ls s ws).1 s := by
  induction ls generalizing s ws with
  | nil => exact .refl s
  | cons l r ih => exact (ih _ _).trans (performLane_keepsDups s p l)

theorem performAtom_keepsDups (s : State) (p : PendAtom) : KeepsDups (performAtom s p) s := by
  unfold performAtom performSome
  extract_lets s1
  have h1 : KeepsDups s1 s := .of_eq rfl rfl rfl
  exact .trans (t := (performLanes p p.lanes s1 []).1) (.of_eq rfl rfl rfl) ((performLanes_keepsDups ..).trans h1)

theorem performHeld_keepsDups (s : State) (n : Nat) : KeepsDups (performHeld s n) s := by
  unfold performHeld
  extract_lets s1
  have h1 : KeepsDups s1 s := performSel_keepsDups ..
  split
  · exact .ite h1 ((performAtom_keepsDups ..).trans h1)
  · exact h1

/-! ### The acknowledgements of a collapse (R72, R104) -/

/-- Whether what may hold a page holds the page of a base. -/
def holdsPage (base : Nat) (dup : Option DupPage) : Bool := (dup.map fun q => q.base == base).getD false

theorem holdsPage_eq_false {base : Nat} {dup : Option DupPage} : holdsPage base dup = false ↔ ∀ d, dup = some d → d.base ≠ base := by
  cases dup <;> simp [holdsPage]

theorem holdsPage_some {base : Nat} {d : DupPage} (h : d.base = base) : holdsPage base (some d) = true := by simp [holdsPage, h]

/-- The byte of a PTE with DUP. -/
def clearedDup (b : Byte) : Byte := BitVec.ofNat 8 (if bitN b.toNat 5 then b.toNat - 32 else b.toNat)

theorem clearedDup_eq (b : Byte) : clearedDup b = b &&& 0xDF#8 := by
  revert b
  decide

/-- The end of a collapse, up to the held writes: DUP is clear in the PTE, and nothing of the page is held. -/
def collapseEnded (s : State) (d : DupPage) : State :=
  let s := applyHome (wordFirst s d.pte) [(d.pte + 7, clearedDup (homeByte (wordFirst s d.pte) (d.pte + 7)))]
  { s with
    collapses := s.collapses.filter fun c => c.page.base != d.base
    tlb := s.tlb.filter fun t => !holdsPage d.base t.dup
    outq := updWhere (fun p => holdsPage d.base p.dup) (fun p => { p with dup := none }) s.outq
    atoms := s.atoms.map fun p => { p with dups := p.dups.filter fun q => q.base != d.base } }

/-- The writes and atomics that a collapse holds when it ends. -/
def heldBy (s : State) (d : DupPage) : List Nat :=
  let s := applyHome (wordFirst s d.pte) [(d.pte + 7, clearedDup (homeByte (wordFirst s d.pte) (d.pte + 7)))]
  ((s.outq.filter fun p => holdsPage d.base p.dup).map fun p => p.n) ++
    (s.atoms.filter fun p => p.dups.any fun q => q.base == d.base).map fun p => p.n

theorem endCollapse_eq (s : State) (d : DupPage) : endCollapse s d = (sortNat (heldBy s d)).foldl performHeld (collapseEnded s d) := rfl

theorem endCollapse_keepsDups (s : State) (d : DupPage) : KeepsDups (endCollapse s d) (collapseEnded s d) := by
  rw [endCollapse_eq]
  exact .foldl performHeld_keepsDups _ _

theorem wordFirst_keepsDups (s : State) (a : Nat) : KeepsDups (wordFirst s a) s := performSel_keepsDups ..

/-- Nothing of the page is left: no collapse but others', no held write, no translation. -/
theorem endCollapse_frees (s : State) (d : DupPage) :
    (endCollapse s d).collapses = s.collapses.filter (fun c => c.page.base != d.base) ∧
    (∀ p ∈ (endCollapse s d).outq, ∀ e, p.dup = some e → e.base ≠ d.base) ∧
    ∀ q ∈ (endCollapse s d).tlb, ∀ e, q.dup = some e → e.base ≠ d.base := by
  obtain ⟨hc, ht, hq⟩ := endCollapse_keepsDups s d
  obtain ⟨hc0, ht0, -⟩ := (applyHome_keepsDups (wordFirst s d.pte) [(d.pte + 7, clearedDup (homeByte (wordFirst s d.pte) (d.pte + 7)))]).trans
    (wordFirst_keepsDups s d.pte)
  refine ⟨?_, fun p hp e he => ?_, fun t htm e he => ?_⟩
  · rw [hc, collapseEnded, ← hc0]
  · obtain ⟨q, hqm, hqe⟩ := hq p hp e he
    obtain ⟨r, -, rfl⟩ := List.mem_map.1 hqm
    cases hr : holdsPage d.base r.dup with
    | true => simp [hr] at hqe
    | false =>
      simp only [hr, Bool.false_eq_true, if_false] at hqe
      exact holdsPage_eq_false.1 hr e hqe
  · rw [ht] at htm
    have := (List.mem_filter.1 htm).2
    exact holdsPage_eq_false.1 (by simpa using this) e he

/-- A state in which a die has acknowledged a collapse. -/
def ackedState (s : State) (c : Collapse) (die : Nat) : State :=
  let page := c.page.base
  let copy := c.page.base - homeDie c.page.base * Config.stackBytes + die * Config.stackBytes
  let far (line : Nat) : Bool := !inRange copy c.page.size (line * 128)
  { s with
    collapses := updWhere (fun k => k.page.base == page) (fun k => { k with acked := insNat die c.acked }) s.collapses
    tlb := s.tlb.filter fun t => !(t.die == die && (t.dup.map fun d => d.base == page).getD false)
    l1 := s.l1.filter fun e => e.1 / 32 != die || far e.2
    l2 := s.l2.filter fun e => homeDie copy == homeDie c.page.base || far e.1
    gangs := s.gangs.map fun g => rehomeReads die copy c.page.size (dropPage die c.page g)
    saved := s.saved.map fun v => { v with gang := dropPage die c.page v.gang } }

theorem dropPage_noWindows {g : Gang} (h : g.wlines = []) (die : Nat) (d : DupPage) : (dropPage die d g).wlines = [] := by
  unfold dropPage
  split
  · exact h
  · simp [h]

theorem rehomeReads_wlines (die copy size : Nat) (g : Gang) : (rehomeReads die copy size g).wlines = g.wlines := by
  unfold rehomeReads
  dsimp only
  split <;> rfl

theorem NoWindows.ackedState {s : State} (h : NoWindows s) (c : Collapse) (die : Nat) : NoWindows (ackedState s c die) := by
  constructor
  · intro g hg
    obtain ⟨k, hk, rfl⟩ := List.mem_map.1 hg
    rw [rehomeReads_wlines]
    exact dropPage_noWindows (h.1 k hk) ..
  · intro v hv
    obtain ⟨k, hk, rfl⟩ := List.mem_map.1 hv
    exact dropPage_noWindows (h.2 k hk) ..

section
variable {s : State} {c : Collapse} {die : Nat} (hc : s.collapses = [c]) (hd : die < 8)
include hc

theorem ackedState_collapses (die : Nat) : (ackedState s c die).collapses = [{ c with acked := insNat die c.acked }] := by
  simp [ackedState, hc, updWhere]

include hd

theorem exec_dupCollapseAck (hf : (insNat die c.acked).length = 8 → frozen s c.page.pte = false) :
    exec (.dupCollapseAck c.page.base die) s =
      .next (if (insNat die c.acked).length = 8 then endCollapse (ackedState s c die) c.page else ackedState s c die) := by
  have hfind : s.collapses.find? (fun k => k.page.base == c.page.base) = some c := by simp [hc]
  show execDupCollapseAck c.page.base die s = _
  unfold execDupCollapseAck
  rw [hfind]
  dsimp only
  rw [if_neg]
  · rfl
  · by_cases hl : (insNat die c.acked).length = 8
    · simp [hf hl, hd]
    · simp [hl, hd]

theorem dupCollapseAck_early (hl : (insNat die c.acked).length ≠ 8) :
    ∃ t, exec (.dupCollapseAck c.page.base die) s = .next t ∧ t.mem = s.mem ∧
    t.collapses = [{ c with acked := insNat die c.acked }] := by
  refine ⟨ackedState s c die, ?_, rfl, ackedState_collapses hc die⟩
  rw [exec_dupCollapseAck hc hd fun h => absurd h hl, if_neg hl]

end

/-! #### What memory holds at the end (R72) -/

/-- What the end of a collapse leaves in memory, for the PTE at an address. -/
def clearedAt (s : State) (pte a : Nat) : Byte := if a = pte + 7 then homeByte s a &&& 0xDF#8 else homeByte s a

theorem look_writes {m : Table Byte} (h : Memory.wf m) (l : List (Nat × Byte)) (a : Nat) :
    (m.putAll memDefault l).look memDefault a = lastByte l a (m.look memDefault a) := look_putAll_eq_lastByte l h a

section
variable {s : State} (h : PlainMemory s) {d : DupPage} (hw : wordFirst s d.pte = s)
include h hw

theorem collapseEnded_plain : PlainMemory (collapseEnded s d) := by
  have hput := (h.1.applyHome_eq [(d.pte + 7, clearedDup (homeByte s (d.pte + 7)))]).performsOnly
  unfold collapseEnded
  rw [hw]
  exact ⟨hput.noWindows h.1, by rw [hput.mem]; exact putAll_mem_wf _ _ h.2⟩

theorem collapseEnded_homeByte (a : Nat) : homeByte (collapseEnded s d) a = clearedAt s d.pte a := by
  have hput := (h.1.applyHome_eq [(d.pte + 7, clearedDup (homeByte s (d.pte + 7)))]).performsOnly
  have hmem : (collapseEnded s d).mem = s.mem.putAll memDefault [(d.pte + 7, clearedDup (homeByte s (d.pte + 7)))] := by
    unfold collapseEnded
    rw [hw]
    exact hput.mem
  rw [(collapseEnded_plain h hw).1.homeByte_eq, hmem, look_writes h.2, lastByte_cons, clearedAt]
  by_cases ha : a = d.pte + 7
  · subst ha
    simp [lastByte, clearedDup_eq]
  · simp [lastByte, ha, Ne.symm ha, h.1.homeByte_eq]

theorem collapseEnded_outq : (collapseEnded s d).outq = updWhere (fun p => holdsPage d.base p.dup) (fun p => { p with dup := none }) s.outq := by
  unfold collapseEnded
  rw [hw, h.1.applyHome_eq]

theorem collapseEnded_atoms : (collapseEnded s d).atoms = s.atoms.map fun p => { p with dups := p.dups.filter fun q => q.base != d.base } := by
  unfold collapseEnded
  rw [hw, h.1.applyHome_eq]

theorem collapseEnded_flips : (collapseEnded s d).flips = s.flips := by
  unfold collapseEnded
  rw [hw, h.1.applyHome_eq]

theorem heldBy_eq : heldBy s d = ((s.outq.filter fun p => holdsPage d.base p.dup).map fun p => p.n) ++
    (s.atoms.filter fun p => p.dups.any fun q => q.base == d.base).map fun p => p.n := by
  unfold heldBy
  rw [hw, h.1.applyHome_eq]

/-- With nothing held, the end of a collapse clears DUP and changes no other byte. -/
theorem endCollapse_unheld (hq : ∀ p ∈ s.outq, ∀ e, p.dup = some e → e.base ≠ d.base)
    (ha : ∀ p ∈ s.atoms, ∀ e ∈ p.dups, e.base ≠ d.base) (a : Nat) : homeByte (endCollapse s d) a = clearedAt s d.pte a := by
  have hheld : heldBy s d = [] := by
    rw [heldBy_eq h hw, List.filter_eq_nil_iff.2, List.filter_eq_nil_iff.2]
    · rfl
    · intro p hp
      simpa using ha p hp
    · intro p hp
      simp [holdsPage_eq_false.2 (hq p hp)]
  rw [endCollapse_eq, hheld]
  exact collapseEnded_homeByte h hw a

end

theorem pulled_nil (s : State) (w : Who) : pulled s w [] = [] := by
  unfold pulled
  split
  · rfl
  · unfold pullRounds
    simp [pullRound]

/-- A write that nothing is ordered before and that no collapse holds can perform, with no flip. -/
theorem PendWrite.not_stuck {s : State} {p : PendWrite} (hd : p.dup = none) (hf : s.flips = []) (ha : p.after = []) (hn : p.need = []) :
    p.stuck s = false := by
  simp [PendWrite.stuck, hd, frozen_none hf, ha, hn, PendWrite.first, needPairs, pulled_nil, canShow_nil]

theorem PendWrite.stuck_of_dup {p : PendWrite} {d : DupPage} (hd : p.dup = some d) (s : State) : p.stuck s = true := by simp [PendWrite.stuck, hd]

theorem alone_single {s : State} {p : PendWrite} (hq : s.outq = [p]) {sel : PendWrite → Bool} (hs : sel p = true) : Alone s sel p where
  mem := by simp [hq]
  selected := hs
  others q hm _ := by simpa [hq] using hm
  apart q hm _ := by simpa [hq] using hm
  unique q hm _ := by simpa [hq] using hm

/-- A write that a collapse holds does not perform before it ends. -/
theorem wordFirst_held {s : State} {p : PendWrite} (hq : s.outq = [p]) {d : DupPage} (hd : p.dup = some d) (a : Nat) : wordFirst s a = s := by
  unfold wordFirst
  by_cases hs : beforeRmw s (unitWho s 0 0) (bytesAt a 8) p = true
  · exact (alone_single hq hs).performSel_stuck (p.stuck_of_dup hd s)
  · exact performSel_unselected (by simpa [hq] using hs)

/-- The only write that a collapse holds performs at its end. -/
theorem endCollapse_held {s : State} (h : PlainMemory s) {p : PendWrite} {d e : DupPage} (hq : s.outq = [p]) (hat : s.atoms = []) (hf : s.flips = [])
    (hd : p.dup = some e) (hb : e.base = d.base) (hwin : p.win = none) (hn : p.need = []) (ha : p.after = []) :
    (endCollapse s d).outq = [] ∧ ∀ a, homeByte (endCollapse s d) a = lastByte p.bytes a (clearedAt s d.pte a) := by
  have hw : wordFirst s d.pte = s := wordFirst_held hq hd d.pte
  have hplain := collapseEnded_plain h hw
  obtain ⟨u, hu⟩ : ∃ u, u = collapseEnded s d := ⟨_, rfl⟩
  have huq : u.outq = [{ p with dup := none }] := by
    rw [hu, collapseEnded_outq h hw, hq]
    simp [updWhere, hd, holdsPage_some hb]
  have hua : u.atoms = [] := by rw [hu, collapseEnded_atoms h hw, hat]; rfl
  have huf : u.flips = [] := by rw [hu, collapseEnded_flips h hw, hf]
  have hheld : heldBy s d = [p.n] := by
    rw [heldBy_eq h hw, hq, hat]
    simp [hd, holdsPage_some hb]
  rw [← hu] at hplain
  set r : PendWrite := { p with dup := none }
  have halone : Alone u (fun q => q.n == p.n) r := alone_single huq (by simp [r])
  obtain ⟨hone, hout⟩ := hplain.1.performOne_eq (p := r) hwin hn
  have hperform : performSel u (fun q => q.n == p.n) = performOne u r :=
    halone.performSel_performs (r.not_stuck rfl huf ha hn) hout
  have hend : endCollapse s d = performOne u r := by
    rw [endCollapse_eq, hheld, ← hu]
    show performHeld u p.n = _
    unfold performHeld
    dsimp only
    rw [hperform, hone.atoms, hua]
    rfl
  rw [hend]
  refine ⟨by rw [hout, huq]; simp [r], fun a => ?_⟩
  rw [(hone.noWindows hplain.1).homeByte_eq, hone.mem, look_writes hplain.2, ← collapseEnded_homeByte h hw, ← hu, hplain.1.homeByte_eq]

section
variable {s : State} (h : PlainMemory s) (c : Collapse) (die : Nat)
include h

theorem PlainMemory.ackedState : PlainMemory (ackedState s c die) := ⟨h.1.ackedState c die, h.2⟩

theorem ackedState_homeByte (a : Nat) : homeByte (Machine.ackedState s c die) a = homeByte s a := by
  rw [(h.ackedState c die).1.homeByte_eq, h.1.homeByte_eq]
  rfl

theorem ackedState_clearedAt (a : Nat) : clearedAt (Machine.ackedState s c die) c.page.pte a = clearedAt s c.page.pte a := by
  simp only [clearedAt, ackedState_homeByte h]

end

/-- The last acknowledgement ends the collapse: nothing of the page is left, DUP is clear, and the write it held performs. -/
theorem dupCollapseAck_last {s : State} (h : PlainMemory s) {c : Collapse} (hc : s.collapses = [c]) {die : Nat} (hd : die < 8)
    (hl : (insNat die c.acked).length = 8) (hf : frozen s c.page.pte = false) :
    ∃ t, exec (.dupCollapseAck c.page.base die) s = .next t ∧ t.collapses = [] ∧
      (∀ p ∈ t.outq, ∀ d, p.dup = some d → d.base ≠ c.page.base) ∧ (∀ q ∈ t.tlb, ∀ d, q.dup = some d → d.base ≠ c.page.base) ∧
      ((∀ p ∈ s.outq, (∀ d, p.dup = some d → d.base ≠ c.page.base) ∧ ∀ b ∈ p.bytes, b.1 < c.page.pte ∨ c.page.pte + 8 ≤ b.1) →
        (∀ p ∈ s.atoms, ∀ d ∈ p.dups, d.base ≠ c.page.base) → ∀ a, homeByte t a = clearedAt s c.page.pte a) ∧
      ∀ p d, s.outq = [p] → s.atoms = [] → s.flips = [] → p.dup = some d → d.base = c.page.base → p.win = none → p.need = [] →
        p.after = [] → t.outq = [] ∧ ∀ a, homeByte t a = lastByte p.bytes a (clearedAt s c.page.pte a) := by
  have hplain := h.ackedState c die
  obtain ⟨hcol, hout, htlb⟩ := endCollapse_frees (ackedState s c die) c.page
  refine ⟨endCollapse (ackedState s c die) c.page, ?_, ?_, hout, htlb, fun hq hat a => ?_, fun p d hq hat hfl hdup hb hwin hn ha => ?_⟩
  · rw [exec_dupCollapseAck hc hd fun _ => hf, if_pos hl]
  · rw [hcol, ackedState_collapses hc]
    simp
  · have hw : wordFirst (ackedState s c die) c.page.pte = ackedState s c die := wordFirst_unmet fun q hm => (hq q hm).2
    rw [endCollapse_unheld hplain hw (fun p hp => (hq p hp).1) hat, ackedState_clearedAt h]
  · obtain ⟨hempty, hbytes⟩ := endCollapse_held hplain (d := c.page) hq hat hfl hdup hb hwin hn ha
    exact ⟨hempty, fun a => by rw [hbytes, ackedState_clearedAt h]⟩

theorem LoadPart.takeIf_eq (s : State) (take : LoadPart → Bool) : (fun p : LoadPart => p.takeIf s (take p)) = fun p =>
    if p.got = none ∧ take p = true then { p with got := some (p.addrs.map (homeByte s)) } else p := by
  funext p
  simp [LoadPart.takeIf]

theorem Out.took_eq (s : State) (take : LoadPart → Bool) (o : Out) : o.took s take = { o with
    reads := o.reads.map fun l => { l with
      parts := l.parts.map fun p => if p.got = none ∧ take p = true then { p with got := some (p.addrs.map (homeByte s)) } else p } } := by
  simp only [Out.took, LoadPart.takeIf_eq]

/-- Settles O4, clause by clause: each event by the lemma that says what it leaves of the bytes at their homes and of the agents. -/
theorem resultsWritesAndCoherence : Obligations.ResultsWritesAndCoherence := by
  unfold Obligations.ResultsWritesAndCoherence
  intro s hinv same plain
  refine ⟨?loads, ?retries, ?writes, ?atomics, ?reductions, ?evictions, ?windows, ?walks, ?collapses, ?acks, ?errors, ?host, ?early, ?hostMemory,
    ?release⟩
  case loads =>
    intro uid id n e o he ho ha hh
    refine ⟨loadDataReturn_lands he ho hh, fun hr hw hq hf hos => ?_⟩
    obtain ⟨t, b, h⟩ := loadDataReturn_takes ho he ha hh hr hw hq hf hos
    refine ⟨takesNow s o, t, b, exists_takesNow s hw, ?_⟩
    dsimp only
    rw [← Out.took_eq]
    exact h
  case retries =>
    intro uid id n e o he ho
    exact missRetry_retries he ho
  case writes =>
    intro p hp hq
    exact exec_writePerformAtHome (alone_write hp hq)
  case atomics =>
    intro p l e hat hmem hl hd ha hq hf hn he old new ws
    obtain ⟨t, b, hexec, hatoms, henv, hput, hagent⟩ := exec_memorySideAtomic_atom hat hmem hl hd ha hq hf hn he
    refine ⟨t, b, hexec, hatoms, henv, ?_, hagent⟩
    rw [hput, PendAtom.writesAt]
    split
    · next h => exact (if_pos h).symm
    · next h => exact (if_neg h).symm
  case reductions =>
    intro c i hc hb ha hl ho hat hq hf hp hn hi
    exact exec_memorySideAtomic_red hc hb ha hl ho hat hq hf hp hn hi
  case evictions => exact directoryEvict_same hinv
  case windows =>
    intro uid line g w hg hw
    exact stashRemoteRequest_same hinv hg hw
  case walks =>
    intro uid va g q hg hi hw
    exact pageTableWalk_notes hg hi hw
  case collapses =>
    intro p d hp hd hu
    exact dupCollapse_starts hp hd hu
  case acks =>
    intro c die hc hd hn
    exact ⟨dupCollapseAck_early hc hd, dupCollapseAck_last ⟨hn, hinv⟩ hc hd⟩
  case errors =>
    intro line code uid g
    exact ⟨eccCleanLine_discards s line, eccCorrected_counts s code, eccMemLine_poisons s line, eccOsLine_poisons⟩
  case host =>
    intro addr n bytes hready hn hl hlo hhi hw hp
    refine ⟨fun hr => ?_, hostCxlMemAccess_waits hready hn hl hlo hhi⟩
    obtain ⟨t, hexec, hflips, hmem, hanswer⟩ := hostCxlMemAccess_ready hready hn hl hlo hhi hw hp hr
    refine ⟨t, hexec, hflips, hmem.trans ?_, hanswer⟩
    cases bytes <;> rfl
  case early =>
    intro addr n h
    exact hostCxlMemAccess_notReady h addr n
  case hostMemory =>
    intro addr bs hw hp
    exact ⟨fun h => hostWriteToHostMemory_puts hw hp h.1 h.2, fun h => hostWriteToHostMemory_below s h bs⟩
  case release =>
    intro desc hn hf hq size pool ring cons ent f link old parts hv hpair
    exact frameRelease_releases ⟨hn, hinv⟩ hf hq (r := releasePlan s desc) rfl rfl hv hpair

end Sys2Proof.Machine
end
